-- ==== Sys2Proof/Word.lean ====
section
/-!
DEFINITION. Words, lane masks and sparse maps: the plain types every other file uses.
-/
namespace Sys2Proof

/-- A 32-bit register word (R24). -/
abbrev Word := BitVec 32
/-- A 64-bit value: a register pair, an address or an instruction word (R24, R51). -/
abbrev DWord := BitVec 64
/-- A byte of memory. -/
abbrev Byte := BitVec 8
/-- A lane mask: bit `l` is lane `l` (R125). -/
abbrev Mask := BitVec 64

/-- The lanes of a mask below `w`, in ascending order. -/
def Mask.lanes (m : Mask) (w : Nat) : List Nat :=
  (List.range w).filter fun l => m.getLsbD l

/-- The mask of one lane. -/
def Mask.bit (l : Nat) : Mask := BitVec.ofNat 64 (2 ^ l)

/-- The mask of a list of lanes. -/
def Mask.ofLanes : List Nat → Mask
  | [] => 0
  | l :: ls => Mask.bit l ||| Mask.ofLanes ls

/-- Whether lane `l` is in the mask. -/
def Mask.has (m : Mask) (l : Nat) : Bool := m.getLsbD l

/-- The low `w` lanes. -/
def Mask.below (w : Nat) : Mask := BitVec.ofNat 64 (2 ^ w - 1)

/-- Lanes of `a` that are not in `b`. -/
def Mask.diff (a b : Mask) : Mask := a &&& ~~~b

/-- Whether every lane of `a` is in `b`. -/
def Mask.sub (a b : Mask) : Bool := a &&& ~~~b == 0

/-- The low word of a 64-bit value. -/
def loWord (x : DWord) : Word := x.setWidth 32
/-- The high word of a 64-bit value. -/
def hiWord (x : DWord) : Word := (x >>> 32).setWidth 32
/-- A 64-bit value from its high and low words (R24: the low word is in the even register). -/
def pairWord (hi lo : Word) : DWord := hi ++ lo

/-- A map from numbers, as pairs with strictly rising keys; a key that is not listed has a default value,
and no listed entry equals it. -/
abbrev Sparse (α : Type) := List (Nat × α)

namespace Sparse

/-- The value at a key. -/
def get {α : Type} (dflt : α) : Sparse α → Nat → α
  | [], _ => dflt
  | (k, v) :: rest, n => if n = k then v else get dflt rest n

/-- Remove a key. -/
def erase {α : Type} : Sparse α → Nat → Sparse α
  | [], _ => []
  | (k, v) :: rest, n => if n = k then erase rest n else (k, v) :: erase rest n

/-- Insert or replace an entry, keys rising. -/
def insert {α : Type} : Sparse α → Nat → α → Sparse α
  | [], n, x => [(n, x)]
  | (k, v) :: rest, n, x =>
    if n = k then (n, x) :: rest else if n < k then (n, x) :: (k, v) :: rest else (k, v) :: insert rest n x

/-- Write a value, keeping the canonical form: writing the default removes the entry. -/
def set {α : Type} [DecidableEq α] (dflt : α) (m : Sparse α) (n : Nat) (x : α) : Sparse α :=
  if x = dflt then erase m n else insert m n x

/-- The canonical form: keys strictly rising from `lo`, no entry equal to the default. -/
def wfFrom {α : Type} [DecidableEq α] (dflt : α) : Nat → Sparse α → Bool
  | _, [] => true
  | lo, (k, v) :: rest => decide (lo ≤ k) && decide (v ≠ dflt) && wfFrom dflt (k + 1) rest

/-- The canonical form of a whole map. -/
def wf {α : Type} [DecidableEq α] (dflt : α) (m : Sparse α) : Bool := wfFrom dflt 0 m

end Sparse

/-- Byte memory: addresses strictly rising, an unlisted address reads 0 (assumption 1), no listed byte is 0. -/
abbrev Memory := Sparse Byte

/-- The canonical form of a byte memory. -/
def Memory.wf (m : Memory) : Bool := Sparse.wf (0 : Byte) m

/-- Replace the element at an index. -/
def listSet {α : Type} : List α → Nat → α → List α
  | [], _, _ => []
  | _ :: xs, 0, y => y :: xs
  | x :: xs, n + 1, y => x :: listSet xs n y

/-- Replace the first element that satisfies a test. -/
def listPut {α : Type} (p : α → Bool) (y : α) : List α → List α
  | [] => []
  | x :: xs => if p x then y :: xs else x :: listPut p y xs

/-- Change the elements that satisfy a test. -/
def mapIf {α : Type} (p : α → Bool) (f : α → α) : List α → List α
  | [] => []
  | x :: xs => (if p x then f x else x) :: mapIf p f xs

end Sys2Proof
end

