-- ==== Sys2Proof/Syntax.lean ====
section
/-!
DEFINITION. The steps of the HX512 as syntax: one constructor of `Instr` per row of the opcode table. The first
179 are the instructions of groups 0 to 5 and the paired operations (R63, R72); the others are the steps that are
not instruction words, each with the choices the manual leaves open as arguments (assumption 3).
-/
namespace Sys2Proof

/-- The fields every full-form word has (Table 3-9). -/
structure Hdr where
  stall : BitVec 3
  y : Bool
  gn : Bool
  gp : BitVec 3
  deriving DecidableEq, Repr

/-- An operand `b(s)`: a vector register, or a scalar register under M[5] (R98). -/
inductive BSrc where
  | v (r : BitVec 10)
  | s (r : BitVec 7)
  deriving DecidableEq, Repr

/-- The sign group `.s`, `.u` (R97). -/
inductive Sign where
  | s | u
  deriving DecidableEq, Repr

/-- The compare group (Table 3-13). -/
inductive Cmp where
  | eq | ne | lt | le | gt | ge
  deriving DecidableEq, Repr

/-- The combine group (Table 3-13). -/
inductive Comb where
  | none | and | or | andn
  deriving DecidableEq, Repr

/-- Rounding modes (Table 3-2, R82). -/
inductive Rnd where
  | rn | rz | ru | rd
  deriving DecidableEq, Repr

/-- Where a host read goes (R330): to the registers in BAR0 of a function, or to BAR2 of it. -/
inductive HostBar where
  | regs (vf : Nat)
  | window (vf : Nat)
  deriving DecidableEq, Repr

/-- Scopes (Table 3-11). -/
inductive Scope where
  | core | die | pkg | sys
  deriving DecidableEq, Repr

/-- Orders of atomics (Table 3-12). -/
inductive Order where
  | rlx | acq | rel | ar
  deriving DecidableEq, Repr

/-- Access sizes (Table 3-11). -/
inductive Size where
  | b1 | b2 | b4 | b8 | b16
  deriving DecidableEq, Repr

/-- Formats that FCLASS reads (Table 7-5). -/
inductive ClassFmt where
  | f32 | f64 | f16 | bf16
  deriving DecidableEq, Repr

/-- Conversion formats (Table 7-8). -/
inductive CvtFmt where
  | f64 | f32 | bf16 | f16 | e4m3 | e5m2 | e2m1
  | i32 | n32 | i64 | n64 | i8 | n8 | i16 | n16
  deriving DecidableEq, Repr

/-- Special functions (Table 7-9). -/
inductive SfuFn where
  | rcp | rsq | sqrt | ex2 | lg2 | sin | cos | tanh | erf
  deriving DecidableEq, Repr

/-- SHFL modes (Table 7-10). -/
inductive ShflMode where
  | idx | up | down | xor
  deriving DecidableEq, Repr

/-- QEX directions (R127). -/
inductive QexDir where
  | h | v | d
  deriving DecidableEq, Repr

/-- VOTE kinds (R128). -/
inductive VoteKind where
  | all | any | uni
  deriving DecidableEq, Repr

/-- Reduction operations (Table 7-11). -/
inductive RedOp where
  | add | mins | maxs | minun | maxun | and | or | xor | fadd | fmin | fmax
  deriving DecidableEq, Repr

/-- RTT modes (Table 11-3). -/
inductive RttMode where
  | auto | retry | skip
  deriving DecidableEq, Repr

/-- JTEST kinds (Table 11-4). -/
inductive JtestKind where
  | mem | live | empty
  deriving DecidableEq, Repr

/-- JMASK parts (Table 11-4). -/
inductive JmaskPart where
  | mem | arr | dep
  deriving DecidableEq, Repr

/-- Atomic operations (Table 3-12). -/
inductive AtomOp where
  | add32 | add64 | mins | minun | maxs | maxun | and | or | xor
  | exch32 | exch64 | cas32 | cas64 | fadd32 | inc | dec
  deriving DecidableEq, Repr

/-- FENCE kinds (R146). -/
inductive FenceKind where
  | full | acq | rel
  deriving DecidableEq, Repr

/-- Rod spaces (R150). -/
inductive RodSpace where
  | sp | sh | mm | th
  deriving DecidableEq, Repr

/-- Transfer spaces (R240). -/
inductive XSpace where
  | mm | sp | sh
  deriving DecidableEq, Repr

/-- An F-M address: a base register, vector or scalar, and a signed offset (Table 3-11). -/
structure MAddr where
  scalar : Bool
  reg : BitVec 10
  imm : BitVec 18
  deriving DecidableEq, Repr

/-- A barrier name: class and number (R188). -/
structure Bar where
  clu : Bool
  num : BitVec 4
  deriving DecidableEq, Repr

/-- Paired opcodes (Table 3-16). -/
inductive PairOp where
  | iadd | isub | imin | imax | and | or | xor | andn | ishl | ishr | ishra | mov | ineg | iabs | popc | clz
  | fadd | fsub | fmul | fmin | fmax | fneg | fabs | hadd2 | hmul2 | hmin2 | hmax2 | brev | movs | imul
  deriving DecidableEq, Repr

/-- The fields of one slot (Table 3-15); the rounding and flush of its M field (R64). -/
structure Slot where
  d : BitVec 8
  s : BitVec 8
  n : Bool
  g : BitVec 3
  rnd : Rnd
  ftz : Bool
  deriving DecidableEq, Repr

/-- A paired word whose first slot's operation is named by the constructor that carries it (assumption 10). -/
structure Pair where
  stall : BitVec 3
  slot0 : Slot
  op1 : PairOp
  slot1 : Slot
  deriving DecidableEq, Repr

/-- A warp: the number of its block and its number in the block. -/
structure WarpRef where
  blk : Nat
  num : Nat
  deriving DecidableEq, Repr

/-- What an uncorrectable error strikes (R323). -/
inductive ErrTarget where
  | scratch (addr : Nat)
  | main (addr : Nat)
  | shared (blk addr : Nat)
  | stack (w : WarpRef) (lane addr : Nat)
  | vreg (w : WarpRef) (lane reg : Nat)
  | sreg (w : WarpRef) (reg : Nat)
  | unowned
  deriving DecidableEq, Repr

/-- A peer's answer to a row (R321, R351); `bad`: the numbers of its poisoned words. -/
inductive FabAnswer where
  | ack (data : List Byte) (bad : List Nat)
  | later
  | refused
  deriving DecidableEq, Repr

/-- A request from a peer's interface toward an interface of this device (R350, R351). -/
inductive FabRequest where
  | read (addr : BitVec 64) (main : Bool) (len : Nat)
  | write (addr : BitVec 64) (main : Bool) (bytes : List Byte) (bad : List Nat)
  deriving DecidableEq, Repr

/-- Where the leaf puts a block: core, first quadrant, and the base of its staging region in the cluster's slice
(R9, R283, R284: the leaf's choice). -/
structure Place where
  core : Nat
  q0 : Nat
  region : Nat
  deriving DecidableEq, Repr

/-- The steps of the machine. -/
inductive Instr where
  -- integer (Table 7-1)
  | iadd (h : Hdr) (d a : BitVec 10) (b : BSrc)
  | isub (h : Hdr) (d a : BitVec 10) (b : BSrc)
  | iadd3 (h : Hdr) (d a : BitVec 10) (b : BSrc) (c : BitVec 10)
  | imul (h : Hdr) (d a : BitVec 10) (b : BSrc)
  | imulh (h : Hdr) (sg : Sign) (d a : BitVec 10) (b : BSrc)
  | imad (h : Hdr) (d a : BitVec 10) (b : BSrc) (c : BitVec 10)
  | imadw (h : Hdr) (sg : Sign) (d a : BitVec 10) (b : BSrc) (c : BitVec 10)
  | imin (h : Hdr) (sg : Sign) (d a : BitVec 10) (b : BSrc)
  | imax (h : Hdr) (sg : Sign) (d a : BitVec 10) (b : BSrc)
  | iabs (h : Hdr) (d a : BitVec 10)
  | ineg (h : Hdr) (d a : BitVec 10)
  | ishl (h : Hdr) (d a : BitVec 10) (b : BSrc)
  | ishr (h : Hdr) (d a : BitVec 10) (b : BSrc)
  | ishra (h : Hdr) (d a : BitVec 10) (b : BSrc)
  | irot (h : Hdr) (d a : BitVec 10) (b : BSrc)
  | idot4 (h : Hdr) (sa sb : Sign) (sat : Bool) (d a : BitVec 10) (b : BSrc) (c : BitVec 10)
  | iaddi (h : Hdr) (d a : BitVec 10) (imm : BitVec 26)
  | imuli (h : Hdr) (d a : BitVec 10) (imm : BitVec 26)
  -- logic, bit fields, bytes (Table 7-2)
  | lop3 (h : Hdr) (d a b : BitVec 10) (c : BitVec 8) (tt : BitVec 8)
  | bfx (h : Hdr) (sg : Sign) (d a : BitVec 10) (b : BSrc)
  | bfi (h : Hdr) (d a : BitVec 10) (b : BSrc) (c : BitVec 10)
  | brev (h : Hdr) (d a : BitVec 10)
  | popc (h : Hdr) (d a : BitVec 10)
  | clz (h : Hdr) (d a : BitVec 10)
  | ctz (h : Hdr) (d a : BitVec 10)
  | prmt (h : Hdr) (d a : BitVec 10) (b : BSrc) (c : BitVec 10)
  -- compare, select, address (R105, R106)
  | isetp (h : Hdr) (cmp : Cmp) (sg : Sign) (comb : Comb) (pd : BitVec 3) (a : BitVec 10) (b : BSrc) (pc : BitVec 3)
  | isetpi (h : Hdr) (cmp : Cmp) (sg : Sign) (pd : BitVec 3) (a : BitVec 10) (imm : BitVec 26)
  | isel (h : Hdr) (d a : BitVec 10) (b : BSrc) (pc : BitVec 3)
  | lea (h : Hdr) (w64 : Bool) (sh : BitVec 3) (d a : BitVec 10) (b : BSrc)
  -- moves (Table 7-3)
  | mov (h : Hdr) (d a : BitVec 10)
  | movi (h : Hdr) (d : BitVec 10) (imm : BitVec 26)
  | movh (h : Hdr) (d : BitVec 10) (imm : BitVec 16)
  | movs (h : Hdr) (d : BitVec 10) (sr : BitVec 7)
  | vrd (h : Hdr) (d : BitVec 10) (idx : BitVec 6)
  | srd (h : Hdr) (d : BitVec 7) (idx : BitVec 6)
  | vtos (h : Hdr) (d : BitVec 7) (a : BitVec 10)
  -- scalar (Table 7-4)
  | sadd (h : Hdr) (d a b : BitVec 7)
  | ssub (h : Hdr) (d a b : BitVec 7)
  | smul (h : Hdr) (d a b : BitVec 7)
  | slop3 (h : Hdr) (d a b c : BitVec 7) (tt : BitVec 8)
  | sshl (h : Hdr) (d a b : BitVec 7)
  | sshr (h : Hdr) (sg : Sign) (d a b : BitVec 7)
  | ssetp (h : Hdr) (cmp : Cmp) (sg : Sign) (comb : Comb) (pd : BitVec 3) (a b : BitVec 7) (pc : BitVec 3)
  | smovi (h : Hdr) (d : BitVec 7) (imm : BitVec 26)
  | smovh (h : Hdr) (d : BitVec 7) (imm : BitVec 16)
  -- FP32 and FP64 (Table 7-5)
  | fadd (h : Hdr) (r : Rnd) (ftz : Bool) (d a : BitVec 10) (b : BSrc)
  | fsub (h : Hdr) (r : Rnd) (ftz : Bool) (d a : BitVec 10) (b : BSrc)
  | fmul (h : Hdr) (r : Rnd) (ftz : Bool) (d a : BitVec 10) (b : BSrc)
  | ffma (h : Hdr) (r : Rnd) (ftz : Bool) (d a : BitVec 10) (b : BSrc) (c : BitVec 10)
  | fmin (h : Hdr) (ftz : Bool) (d a : BitVec 10) (b : BSrc)
  | fmax (h : Hdr) (ftz : Bool) (d a : BitVec 10) (b : BSrc)
  | fsetp (h : Hdr) (cmp : Cmp) (un : Bool) (comb : Comb) (ftz : Bool) (pd : BitVec 3) (a : BitVec 10) (b : BSrc) (pc : BitVec 3)
  | frnd (h : Hdr) (r : Rnd) (ftz : Bool) (d a : BitVec 10)
  | fclass (h : Hdr) (f : ClassFmt) (d a : BitVec 10)
  | fscale (h : Hdr) (r : Rnd) (ftz : Bool) (d a : BitVec 10) (b : BSrc)
  | dadd (h : Hdr) (r : Rnd) (ftz : Bool) (d a : BitVec 10) (b : BSrc)
  | dsub (h : Hdr) (r : Rnd) (ftz : Bool) (d a : BitVec 10) (b : BSrc)
  | dmul (h : Hdr) (r : Rnd) (ftz : Bool) (d a : BitVec 10) (b : BSrc)
  | dfma (h : Hdr) (r : Rnd) (ftz : Bool) (d a : BitVec 10) (b : BSrc) (c : BitVec 10)
  | dmin (h : Hdr) (ftz : Bool) (d a : BitVec 10) (b : BSrc)
  | dmax (h : Hdr) (ftz : Bool) (d a : BitVec 10) (b : BSrc)
  | dsetp (h : Hdr) (cmp : Cmp) (un : Bool) (comb : Comb) (ftz : Bool) (pd : BitVec 3) (a : BitVec 10) (b : BSrc) (pc : BitVec 3)
  | drnd (h : Hdr) (r : Rnd) (ftz : Bool) (d a : BitVec 10)
  -- packed 16-bit (Table 7-7); `bf`: BF16 in place of FP16
  | hadd2 (h : Hdr) (r : Rnd) (ftz bf : Bool) (d a : BitVec 10) (b : BSrc)
  | hmul2 (h : Hdr) (r : Rnd) (ftz bf : Bool) (d a : BitVec 10) (b : BSrc)
  | hfma2 (h : Hdr) (r : Rnd) (ftz bf : Bool) (d a : BitVec 10) (b : BSrc) (c : BitVec 10)
  | hmin2 (h : Hdr) (ftz bf : Bool) (d a : BitVec 10) (b : BSrc)
  | hmax2 (h : Hdr) (ftz bf : Bool) (d a : BitVec 10) (b : BSrc)
  | hsetp2 (h : Hdr) (cmp : Cmp) (un : Bool) (comb : Comb) (ftz bf : Bool) (pd : BitVec 2) (a : BitVec 10) (b : BSrc) (pc : BitVec 3)
  -- conversion and quantisation (R117 to R120)
  | cvt (h : Hdr) (dst src : CvtFmt) (r : Rnd) (sat : Bool) (d a : BitVec 10)
  | cvti (h : Hdr) (dst src : CvtFmt) (r : Rnd) (sat : Bool) (d a : BitVec 10)
  | qscl (h : Hdr) (band sat : Bool) (d a : BitVec 10) (b : BSrc)
  | qpk4 (h : Hdr) (d a : BitVec 10) (b : BSrc)
  | qxp4 (h : Hdr) (r : Rnd) (d a : BitVec 10) (b : BSrc)
  -- special-function queues (R121, R122); `q`: qf1 in place of qf0
  | sfq (h : Hdr) (fn : SfuFn) (ftz : Bool) (q : Bool) (a : BitVec 10)
  | qpop (h : Hdr) (d : BitVec 10) (q : Bool)
  | qlen (h : Hdr) (d : BitVec 10) (q : Bool)
  -- lanes (Table 7-10)
  | shfl (h : Hdr) (mode : ShflMode) (w64 : Bool) (d a : BitVec 10) (b : BSrc) (pl : BitVec 3)
  | qex (h : Hdr) (dir : QexDir) (w64 : Bool) (d a : BitVec 10)
  | vote (h : Hdr) (k : VoteKind) (pd pa : BitVec 3)
  | ballot (h : Hdr) (d : BitVec 10) (pa : BitVec 3)
  | matchv (h : Hdr) (w64 : Bool) (d a : BitVec 10)
  | redux (h : Hdr) (op : RedOp) (d a : BitVec 10)
  | scan (h : Hdr) (op : RedOp) (exc : Bool) (d a : BitVec 10)
  | topk (h : Hdr) (k : BitVec 4) (d a : BitVec 10)
  | regrp (h : Hdr) (desc : Bool) (d a : BitVec 10) (n : BitVec 7) (j : BitVec 4)
  | elect (h : Hdr) (pd : BitVec 3)
  | actm (h : Hdr) (d : BitVec 10)
  -- control (Table 11-1)
  | bra (h : Hdr) (imm : BitVec 26)
  | brx (h : Hdr) (a : BitVec 10)
  | call (h : Hdr) (imm : BitVec 26)
  | callx (h : Hdr) (a : BitVec 10) (frame : BitVec 10)
  | ret (h : Hdr)
  | exit (h : Hdr)
  | yield (h : Hdr)
  | nap (h : Hdr) (n : BitVec 16)
  | trap (h : Hdr) (n : BitVec 16)
  | bkpt (h : Hdr) (n : BitVec 16)
  | rtt (h : Hdr) (mode : RttMode)
  | nop (h : Hdr)
  -- sets (Table 11-4)
  | jenter (h : Hdr) (j : BitVec 4)
  | jquit (h : Hdr) (j : BitVec 4)
  | jquitm (h : Hdr) (mask : BitVec 16)
  | jwait (h : Hdr) (j : BitVec 4)
  | jtest (h : Hdr) (k : JtestKind) (pd : BitVec 3) (j : BitVec 4)
  | jmask (h : Hdr) (part : JmaskPart) (d : BitVec 10) (j : BitVec 4)
  -- barriers (Table 11-7)
  | bari (h : Hdr) (bar : Bar) (warps : BitVec 7) (b : BSrc)
  | barx (h : Hdr) (bar : Bar) (b : BSrc)
  | bara (h : Hdr) (d : BitVec 10) (bar : Bar)
  | barw (h : Hdr) (bar : Bar) (b : BSrc)
  | bar (h : Hdr) (bar : Bar)
  | barq (h : Hdr) (pd : BitVec 3) (bar : Bar) (b : BSrc)
  -- loads and stores (Table 9-3); `ord`: acquire on a load, release on a store
  | lds (h : Hdr) (sz : Size) (ord : Bool) (d : BitVec 10) (ad : MAddr)
  | sts (h : Hdr) (sz : Size) (ord : Bool) (d : BitVec 10) (ad : MAddr)
  | ldx (h : Hdr) (sz : Size) (ord : Bool) (sc : Scope) (d : BitVec 10) (ad : MAddr)
  | stx (h : Hdr) (sz : Size) (ord : Bool) (sc : Scope) (d : BitVec 10) (ad : MAddr)
  | ldk (h : Hdr) (sz : Size) (d : BitVec 10) (ad : MAddr)
  | stk (h : Hdr) (sz : Size) (d : BitVec 10) (ad : MAddr)
  | ldw (h : Hdr) (wide : Bool) (ord : Bool) (sc : Scope) (d : BitVec 10) (ad : MAddr)
  -- atomics (R143)
  | atoms (h : Hdr) (op : AtomOp) (o : Order) (d a : BitVec 10) (b : BitVec 8) (c : BitVec 10)
  | atomx (h : Hdr) (op : AtomOp) (o : Order) (sc : Scope) (d a : BitVec 10) (b : BitVec 8) (c : BitVec 10)
  | redx (h : Hdr) (op : AtomOp) (o : Order) (sc : Scope) (a : BitVec 10) (b : BitVec 8)
  -- fences and rods (R146 to R150)
  | fence (h : Hdr) (k : FenceKind) (sc : Scope)
  | fencer (h : Hdr) (rel : Bool) (all : Bool) (sc : Scope) (dyn : Bool) (mask : BitVec 16) (sA : BitVec 7)
  | roddef (h : Hdr) (rs : RodSpace) (k : BitVec 4) (a b : BitVec 7)
  -- futures (R153)
  | ldf (h : Hdr) (wide : Bool) (d : BitVec 10) (ad : MAddr)
  | fres (h : Hdr) (d : BitVec 10) (ad : MAddr)
  | fflt (h : Hdr) (d : BitVec 10) (ad : MAddr)
  | freg (h : Hdr) (d : BitVec 10) (ad : MAddr)
  | fpoll (h : Hdr) (wide : Bool) (d : BitVec 10) (ad : MAddr)
  -- spawns and launches (R161)
  | spawn (h : Hdr) (noargs : Bool) (pd : BitVec 3) (a b c : BitVec 7)
  | lnch (h : Hdr) (pd : BitVec 3) (a b c : BitVec 7)
  -- matrix (Table 13-2)
  | mma (h : Hdr) (st : BitVec 2) (j : BitVec 4) (d a b c : BitVec 10)
  | mmas (h : Hdr) (st : BitVec 2) (j : BitVec 4) (d a b c : BitVec 10)
  | mmat (h : Hdr) (st : BitVec 2) (j : BitVec 4) (d a b c : BitVec 10)
  | msync (h : Hdr) (st : BitVec 2)
  | mchg (h : Hdr) (st : BitVec 2) (d : BitVec 10)
  -- transfers (Table 13-11)
  | bcp (h : Hdr) (dst src : XSpace) (bar : BitVec 4) (a : BitVec 7)
  | bcpp (h : Hdr) (pull : Bool) (scr : Bool) (bar : BitVec 4) (a p g : BitVec 7)
  | bmc (h : Hdr) (src : XSpace) (bar : BitVec 4) (a : BitVec 7) (mask : BitVec 4)
  | bga (h : Hdr) (dst src : XSpace) (bar : BitVec 4) (a ix : BitVec 7)
  | bsc (h : Hdr) (dst src : XSpace) (bar : BitVec 4) (a ix : BitVec 7)
  | bfill (h : Hdr) (dst : XSpace) (bar : BitVec 4) (a : BitVec 7)
  | bpfx (h : Hdr) (bar : BitVec 4) (a : BitVec 7)
  -- views (Table 15-6)
  | vmark (h : Hdr) (pd : BitVec 3) (a b : BitVec 7)
  | vstamp (h : Hdr) (gen : Bool) (d : BitVec 10) (a b : BitVec 7)
  | vwait (h : Hdr) (all : Bool) (pd : BitVec 3) (a b : BitVec 7)
  | vrefr (h : Hdr) (all : Bool) (pd : BitVec 3) (a b : BitVec 7)
  -- paired words, by the operation of slot 0 (Table 3-16)
  | iaddPaired (p : Pair)
  | isubPaired (p : Pair)
  | iminPaired (p : Pair)
  | imaxPaired (p : Pair)
  | andPaired (p : Pair)
  | orPaired (p : Pair)
  | xorPaired (p : Pair)
  | andnPaired (p : Pair)
  | ishlPaired (p : Pair)
  | ishrPaired (p : Pair)
  | ishraPaired (p : Pair)
  | movPaired (p : Pair)
  | inegPaired (p : Pair)
  | iabsPaired (p : Pair)
  | popcPaired (p : Pair)
  | clzPaired (p : Pair)
  | brevPaired (p : Pair)
  | movsPaired (p : Pair)
  | imulPaired (p : Pair)
  | faddPaired (p : Pair)
  | fsubPaired (p : Pair)
  | fmulPaired (p : Pair)
  | fminPaired (p : Pair)
  | fmaxPaired (p : Pair)
  | fnegPaired (p : Pair)
  | fabsPaired (p : Pair)
  | hadd2Paired (p : Pair)
  | hmul2Paired (p : Pair)
  | hmin2Paired (p : Pair)
  | hmax2Paired (p : Pair)
  -- steps that are not instruction words: issue, landings, memory
  | issueOpportunity (quad : Nat)
  | yieldWindowEnd (w : WarpRef)
  | napWake (w : WarpRef)
  | stallExpiry (w : WarpRef)
  | fixedLatencyLanding (w : WarpRef)
  | resultLanding (w : WarpRef) (id : Nat)
  | storeDrain (w : WarpRef) (sc : Scope) (n : Nat)
  | sfqFill (w : WarpRef) (lane : Nat) (q : Bool)
  | waitTableWake (addr : Nat)
  | waitTableReread (w : WarpRef) (lane : Nat)
  | blockEnd (blk : Nat)
  -- engines
  | matrixOpStart (core : Nat)
  | matrixOpComplete (op : Nat)
  | transferChunk (job chunk : Nat)
  | remoteSignal (vf dev peerVf : Nat) (addr : Nat) (val : BitVec 16)
  | peerRowResend (job row : Nat)
  | taskStart (vf n : Nat) (pl : Place)
  | continuationStart (vf n : Nat) (pl : Place)
  | viewRefresh (vf handle : Nat)
  -- launch
  | walkStart (vf num : Nat)
  | walkTile (vf num : Nat)
  | tileHandoff (vf num : Nat)
  | leafAccept (leaf : Nat)
  | blockCreate (leaf n : Nat) (pl : Place)
  | gangPlace (leaf n : Nat) (pls : List Place)
  | gangAgeExpiry (leaf : Nat)
  | completionPost (vf q : Nat)
  | rampInterval (die : Nat)
  | commandHoldRelease (vf q : Nat)
  | quantumExpiry (vf q : Nat)
  | engineGroupIdle (vf g : Nat)
  -- pre-emption and errors
  | preemptRequest (blk : Nat)
  | preemptSave (blk : Nat)
  | blockResume (blk : Nat) (pls : List Place)
  | softError
  | uncorrectableError (t : ErrTarget)
  | storeQueueLoss (w : WarpRef) (n : Nat)
  | dispatchCoreError
  | queueTableError (vf q : Nat)
  -- host commands, from the head of a queue
  | qwrWrite (vf q : Nat) (val : BitVec 32)
  | launch (vf q : Nat)
  | bundle (vf q : Nat)
  | wrdesc (vf q : Nat)
  | wrrec (vf q : Nat)
  | migrate (vf q : Nat)
  | migrationComplete (vf handle tile : Nat)
  | viewreg (vf q handle : Nat) (addrs : List Nat)
  | viewdereg (vf q : Nat)
  | inval (vf q : Nat)
  | suspend (vf q : Nat)
  | resume (vf q : Nat)
  | abort (vf q : Nat)
  | status (vf q : Nat)
  | fresp (vf q : Nat)
  -- host port
  | hostBar2Write (vf : Nat) (off : Nat) (bytes : List Byte)
  | hostBar2Read (bar : HostBar) (off len : Nat)
  | hostBar4Access (vf : Nat) (off : Nat) (write : Option (List Byte)) (len : Nat)
  | unsupportedRequest (posted : Bool)
  | qcrdWrite (vf q : Nat) (val : BitVec 32)
  | firmwareLoad (len : BitVec 26)
  | attest
  | timesetWrite (ns : BitVec 64)
  | ppsPulse
  | vfcluWrite (vf : Nat) (mask : BitVec 128)
  | vfctlEnWrite (vf : Nat) (en : Bool)
  | functionLevelReset (vf : Nat)
  | zeroingComplete (vf : Nat)
  | registerWrite (vf : Option Nat) (off : Nat) (val : BitVec 128)
  | deviceReset
  | selfTestComplete (failure : BitVec 4)
  | fullServiceEntry
  | powerWindow (watts : Nat)
  | fabricRequest (vf dev peerVf : Nat) (r : FabRequest)
  | fabricPortFailure (port : Nat)
  | flushingReadComplete (vf : Nat)
  | fabricResponse (job row : Nat) (a : FabAnswer)
  | fabricPortTrained (port : Nat)
  deriving DecidableEq, Repr

end Sys2Proof
end

