-- ==== Sys2Proof/WellFormed.lean ====
section
/-!
DEFINITION. The static checks of R73 on an instruction as syntax: what a word may express, whatever the kernel that
runs it declares. Register counts, declared barriers and values read at run time are checked by the machine.
-/
namespace Sys2Proof

/-- A register number is a multiple of `n`. -/
def alignedTo (n : Nat) (r : Nat) : Bool := r % n == 0

/-- A 64-bit `b(s)` names an even register (R98). -/
def BSrc.even : BSrc → Bool
  | .v r => alignedTo 2 r.toNat
  | .s r => alignedTo 2 r.toNat

/-- A scalar instruction carries guard p7, not negated (R53). -/
def Hdr.scalarOk (h : Hdr) : Bool := h.gp == 7 && !h.gn

/-- The combining predicate is written only when combine is not `none` (R105). -/
def combOk (c : Comb) (pc : BitVec 3) : Bool := c != .none || pc == 0

/-- An F-M address names a scalar register below 128 (Table 3-10). -/
def MAddr.ok (a : MAddr) : Bool := !a.scalar || decide (a.reg.toNat < 128)

/-- A scratchpad address is held in an even pair (R134). -/
def MAddr.pairOk (a : MAddr) : Bool := a.ok && alignedTo 2 a.reg.toNat

/-- The data register of an access is aligned to its registers (R57). -/
def Size.dataOk (sz : Size) (d : BitVec 10) : Bool :=
  match sz with
  | .b8 => alignedTo 2 d.toNat
  | .b16 => alignedTo 4 d.toNat
  | _ => true

/-- SCOPE is 0 when ORDER is 0 (R139). -/
def scopeOk (ord : Bool) (sc : Scope) : Bool := ord || sc == .core

/-- A cluster barrier is cb0 to cb3 (R188). -/
def Bar.ok (b : Bar) : Bool := !b.clu || decide (b.num.toNat < 4)

/-- Float codes of Table 7-8. -/
def CvtFmt.isFloat : CvtFmt → Bool
  | .f64 | .f32 | .bf16 | .f16 | .e4m3 | .e5m2 | .e2m1 => true
  | _ => false

/-- 64-bit formats of Table 7-8. -/
def CvtFmt.wide : CvtFmt → Bool
  | .f64 | .i64 | .n64 => true
  | _ => false

/-- Register alignment of a conversion (R118). -/
def cvtRegsOk (dst src : CvtFmt) (d a : BitVec 10) : Bool :=
  (!dst.wide || alignedTo 2 d.toNat) && (!src.wide || alignedTo 2 a.toNat)

/-- Rounding is written only where the conversion takes one (R118). -/
def cvtRndOk (dst src : CvtFmt) (r : Rnd) : Bool :=
  (dst != .e2m1 && (dst.isFloat || src.isFloat)) || r == .rn

/-- 64-bit atomics (Table 9-4). -/
def AtomOp.wide : AtomOp → Bool
  | .add64 | .exch64 | .cas64 => true
  | _ => false

/-- The compare-and-swaps. -/
def AtomOp.isCas : AtomOp → Bool
  | .cas32 | .cas64 => true
  | _ => false

/-- The exchanges. -/
def AtomOp.isExch : AtomOp → Bool
  | .exch32 | .exch64 => true
  | _ => false

/-- Registers of an atomic (R61, R143): even where 64-bit, C zero unless CAS. -/
def atomRegsOk (op : AtomOp) (d : BitVec 10) (b : BitVec 8) (c : BitVec 10) : Bool :=
  (!op.wide || (alignedTo 2 d.toNat && alignedTo 2 b.toNat && alignedTo 2 c.toNat)) && (op.isCas || c == 0)

/-- A special-register index of Table 1-4 (R28). -/
def specialOk (i : BitVec 6) : Bool :=
  let n := i.toNat
  decide (n ≤ 5) || (decide (8 ≤ n) && decide (n ≤ 0x0D)) || (decide (0x10 ≤ n) && decide (n ≤ 0x14)) || n == 0x18 || n == 0x19
    || (decide (0x20 ≤ n) && decide (n ≤ 0x29)) || n == 0x30 || n == 0x31 || n == 0x38 || (decide (0x3B ≤ n) && decide (n ≤ 0x3F))

/-- 64-bit special registers (Table 1-4). -/
def specialWide (i : BitVec 6) : Bool :=
  let n := i.toNat
  n == 0x18 || n == 0x19 || (decide (0x20 ≤ n) && decide (n ≤ 0x29)) || n == 0x3D || n == 0x3E

/-- Special registers of lane scope (Table 1-4): %lane, %quad, %sp. -/
def specialLane (i : BitVec 6) : Bool := i == 0 || i == 1 || i == 0x30

/-- Class F operations (Table 3-16). -/
def PairOp.isF : PairOp → Bool
  | .fadd | .fsub | .fmul | .fmin | .fmax | .fneg | .fabs | .hadd2 | .hmul2 | .hmin2 | .hmax2 => true
  | _ => false

/-- Paired operations that take a rounding (R64). -/
def PairOp.rounds : PairOp → Bool
  | .fadd | .fsub | .fmul | .hadd2 | .hmul2 => true
  | _ => false

/-- Unary paired operations (R64). -/
def PairOp.unary : PairOp → Bool
  | .mov | .movs | .ineg | .iabs | .popc | .clz | .brev | .fneg | .fabs => true
  | _ => false

/-- Unused bits of a slot's M field are zero, and MOVS names a scalar register (R63, R64). -/
def slotOk (op : PairOp) (s : Slot) : Bool :=
  (op.rounds || s.rnd == .rn) && (op.isF || !s.ftz) && (op != .movs || decide (s.s.toNat < 128))

/-- The operation of slot 0 that a constructor names; none for a full-form instruction or a step. -/
def Instr.pair? : Instr → Option (PairOp × Pair)
  | .iaddPaired p => some (.iadd, p) | .isubPaired p => some (.isub, p) | .iminPaired p => some (.imin, p)
  | .imaxPaired p => some (.imax, p) | .andPaired p => some (.and, p) | .orPaired p => some (.or, p)
  | .xorPaired p => some (.xor, p) | .andnPaired p => some (.andn, p) | .ishlPaired p => some (.ishl, p)
  | .ishrPaired p => some (.ishr, p) | .ishraPaired p => some (.ishra, p) | .movPaired p => some (.mov, p)
  | .inegPaired p => some (.ineg, p) | .iabsPaired p => some (.iabs, p) | .popcPaired p => some (.popc, p)
  | .clzPaired p => some (.clz, p) | .brevPaired p => some (.brev, p) | .movsPaired p => some (.movs, p)
  | .imulPaired p => some (.imul, p) | .faddPaired p => some (.fadd, p) | .fsubPaired p => some (.fsub, p)
  | .fmulPaired p => some (.fmul, p) | .fminPaired p => some (.fmin, p) | .fmaxPaired p => some (.fmax, p)
  | .fnegPaired p => some (.fneg, p) | .fabsPaired p => some (.fabs, p) | .hadd2Paired p => some (.hadd2, p)
  | .hmul2Paired p => some (.hmul2, p) | .hmin2Paired p => some (.hmin2, p) | .hmax2Paired p => some (.hmax2, p)
  | _ => none

/-- The static well-formedness of an instruction; steps that are not instruction words have no encoding. -/
def Instr.wf : Instr → Bool
  | .imadw _ _ d _ _ c => alignedTo 2 d.toNat && alignedTo 2 c.toNat
  | .isetp _ _ _ cb _ _ _ pc => combOk cb pc
  | .lea _ w64 _ d a _ => !w64 || (alignedTo 2 d.toNat && alignedTo 2 a.toNat)
  | .vrd _ d i => specialOk i && (!specialWide i || alignedTo 2 d.toNat)
  | .srd _ d i => specialOk i && !specialLane i && (!specialWide i || alignedTo 2 d.toNat)
  | .sadd h _ _ _ | .ssub h _ _ _ | .smul h _ _ _ | .slop3 h _ _ _ _ _ | .sshl h _ _ _ | .sshr h _ _ _ _
  | .smovi h _ _ | .smovh h _ _ => h.scalarOk
  | .ssetp h _ _ cb _ _ _ pc => h.scalarOk && combOk cb pc
  | .fsetp _ _ _ cb _ _ _ _ pc => combOk cb pc
  | .fclass _ f _ a => f != .f64 || alignedTo 2 a.toNat
  | .dadd _ _ _ d a b | .dsub _ _ _ d a b | .dmul _ _ _ d a b | .dmin _ _ d a b | .dmax _ _ d a b =>
    alignedTo 2 d.toNat && alignedTo 2 a.toNat && b.even
  | .dfma _ _ _ d a b c => alignedTo 2 d.toNat && alignedTo 2 a.toNat && b.even && alignedTo 2 c.toNat
  | .dsetp _ _ _ cb _ _ a b pc => combOk cb pc && alignedTo 2 a.toNat && b.even
  | .drnd _ _ _ d a => alignedTo 2 d.toNat && alignedTo 2 a.toNat
  | .hsetp2 _ _ _ cb _ _ _ _ _ pc => combOk cb pc
  | .cvt _ dst src r _ d a => dst.isFloat && src.isFloat && cvtRndOk dst src r && cvtRegsOk dst src d a
  | .cvti _ dst src r _ d a => (!dst.isFloat || !src.isFloat) && cvtRndOk dst src r && cvtRegsOk dst src d a
  | .qscl _ band sat _ _ b => !band || (!sat && b == .v 0)
  | .qpk4 _ _ a _ => alignedTo 8 a.toNat
  | .qxp4 _ _ d _ _ => alignedTo 8 d.toNat
  | .shfl _ _ w64 d a _ _ => !w64 || (alignedTo 2 d.toNat && alignedTo 2 a.toNat)
  | .qex _ _ w64 d a => !w64 || (alignedTo 2 d.toNat && alignedTo 2 a.toNat)
  | .matchv _ w64 _ a => !w64 || alignedTo 2 a.toNat
  | .topk _ k d _ => decide (1 ≤ k.toNat) && decide (k.toNat ≤ 8) && alignedTo 2 d.toNat
  | .regrp _ _ _ _ n _ => decide (1 ≤ n.toNat) && decide (n.toNat ≤ 64)
  | .brx _ a | .callx _ a _ => alignedTo 2 a.toNat
  | .bari _ b w _ => b.ok && decide (w.toNat ≤ 64)
  | .barx _ b _ => !b.clu
  | .bara _ _ b | .barw _ b _ | .bar _ b | .barq _ _ b _ => b.ok
  | .lds _ sz _ d ad | .sts _ sz _ d ad | .ldk _ sz d ad | .stk _ sz d ad => sz.dataOk d && ad.ok
  | .ldx _ sz o sc d ad | .stx _ sz o sc d ad => sz.dataOk d && ad.pairOk && scopeOk o sc
  | .ldw _ wide o sc d ad => (!wide || alignedTo 2 d.toNat) && ad.pairOk && scopeOk o sc
  | .atoms _ op _ d _ b c => atomRegsOk op d b c
  | .atomx _ op _ _ d a b c => atomRegsOk op d b c && alignedTo 2 a.toNat
  | .redx _ op o _ a b => atomRegsOk op 0 b 0 && alignedTo 2 a.toNat && !op.isCas && !op.isExch && o != .acq && o != .ar
  | .fencer _ _ _ _ dyn _ sA => dyn || sA == 0
  | .roddef _ _ _ a _ => alignedTo 2 a.toNat
  | .ldf _ wide d ad | .fpoll _ wide d ad => alignedTo (if wide then 4 else 2) d.toNat && ad.pairOk
  | .fres _ d ad | .fflt _ d ad | .freg _ d ad => alignedTo 2 d.toNat && ad.pairOk
  | .spawn _ noargs _ _ b _ => alignedTo 2 b.toNat && (!noargs || b == 0)
  | .lnch _ _ _ b _ => alignedTo 2 b.toNat
  | .bcp _ _ _ _ a | .bmc _ _ _ a _ | .bfill _ _ _ a | .bpfx _ _ a => alignedTo 8 a.toNat
  | .bcpp _ pull _ _ a _ g => alignedTo 8 a.toNat && alignedTo 2 g.toNat && (!pull || g == 0)
  | .bga _ _ _ _ a i | .bsc _ _ _ _ a i => alignedTo 8 a.toNat && alignedTo 2 i.toNat
  | .vstamp _ _ d _ _ => alignedTo 2 d.toNat
  | .vwait _ all _ _ b | .vrefr _ all _ _ b => !all || b == 0
  | i =>
    match i.pair? with
    | some (op, p) => slotOk op p.slot0 && slotOk p.op1 p.slot1
    | none => true

/-- The row is an instruction word; the other rows are steps with no encoding. -/
def Instr.isWord : Instr → Bool
  | .issueOpportunity _ | .yieldWindowEnd _ | .napWake _ | .stallExpiry _ | .fixedLatencyLanding _ | .resultLanding _ _
  | .storeDrain _ _ _ | .sfqFill _ _ _ | .waitTableWake _ | .waitTableReread _ _ | .blockEnd _ | .matrixOpStart _
  | .matrixOpComplete _ | .transferChunk _ _ | .remoteSignal _ _ _ _ _ | .peerRowResend _ _ | .taskStart _ _ _
  | .continuationStart _ _ _ | .viewRefresh _ _ | .walkStart _ _ | .walkTile _ _ | .tileHandoff _ _ | .leafAccept _
  | .blockCreate _ _ _ | .gangPlace _ _ _ | .gangAgeExpiry _ | .completionPost _ _ | .rampInterval _ | .commandHoldRelease _ _
  | .quantumExpiry _ _ | .engineGroupIdle _ _ | .preemptRequest _ | .preemptSave _ | .blockResume _ _ | .softError
  | .uncorrectableError _ | .storeQueueLoss _ _ | .dispatchCoreError | .queueTableError _ _ | .qwrWrite _ _ _ | .launch _ _
  | .bundle _ _ | .wrdesc _ _ | .wrrec _ _ | .migrate _ _ | .migrationComplete _ _ _ | .viewreg _ _ _ _ | .viewdereg _ _
  | .inval _ _ | .suspend _ _ | .resume _ _ | .abort _ _ | .status _ _ | .fresp _ _ | .hostBar2Write _ _ _ | .hostBar2Read _ _ _
  | .hostBar4Access _ _ _ _ | .unsupportedRequest _ | .qcrdWrite _ _ _ | .firmwareLoad _ | .attest | .timesetWrite _ | .ppsPulse
  | .vfcluWrite _ _ | .vfctlEnWrite _ _ | .functionLevelReset _ | .zeroingComplete _ | .registerWrite _ _ _ | .deviceReset
  | .selfTestComplete _ | .fullServiceEntry | .powerWindow _ | .fabricRequest _ _ _ _ | .fabricPortFailure _
  | .flushingReadComplete _ | .fabricResponse _ _ _ | .fabricPortTrained _ => false
  | _ => true

end Sys2Proof
end

