-- ==== Sys2Proof/Decode.lean ====
section
/-!
DEFINITION. The decoder of instruction words (R51 to R66, R72, R73), total on any word and on any bytes, and the
encoder written from the same tables.
-/
namespace Sys2Proof

/-- Why a word is not an instruction (Table 3-22): WHY 1 to 3, where, and the detail. -/
structure Reject where
  why : Nat
  loc : Nat
  detail : Nat
  deriving DecidableEq, Repr

/-- Bits [lo+len-1 : lo] of a word. -/
def bits (w : BitVec 64) (lo len : Nat) : BitVec len := w.extractLsb' lo len

/-- One bit of a word. -/
def bit (w : BitVec 64) (i : Nat) : Bool := w.getLsbD i

def rndOf (x : BitVec 2) : Rnd := if x == 0 then .rn else if x == 1 then .rz else if x == 2 then .ru else .rd
def rndCode : Rnd → BitVec 2
  | .rn => 0 | .rz => 1 | .ru => 2 | .rd => 3
def signOf (b : Bool) : Sign := if b then .u else .s
def signCode : Sign → Bool
  | .s => false | .u => true
def scopeOf (x : BitVec 2) : Scope := if x == 0 then .core else if x == 1 then .die else if x == 2 then .pkg else .sys
def scopeCode : Scope → BitVec 2
  | .core => 0 | .die => 1 | .pkg => 2 | .sys => 3
def orderOf (x : BitVec 2) : Order := if x == 0 then .rlx else if x == 1 then .acq else if x == 2 then .rel else .ar
def orderCode : Order → BitVec 2
  | .rlx => 0 | .acq => 1 | .rel => 2 | .ar => 3
def cmpOf (x : BitVec 3) : Option Cmp :=
  if x == 0 then some .eq else if x == 1 then some .ne else if x == 2 then some .lt else if x == 3 then some .le
  else if x == 4 then some .gt else if x == 5 then some .ge else none
def cmpCode : Cmp → BitVec 3
  | .eq => 0 | .ne => 1 | .lt => 2 | .le => 3 | .gt => 4 | .ge => 5
def combOf (x : BitVec 2) : Comb := if x == 0 then .none else if x == 1 then .and else if x == 2 then .or else .andn
def combCode : Comb → BitVec 2
  | .none => 0 | .and => 1 | .or => 2 | .andn => 3
def sizeOf? (x : BitVec 3) : Option Size :=
  if x == 0 then some .b1 else if x == 1 then some .b2 else if x == 2 then some .b4 else if x == 3 then some .b8
  else if x == 4 then some .b16 else none
def sizeCode : Size → BitVec 3
  | .b1 => 0 | .b2 => 1 | .b4 => 2 | .b8 => 3 | .b16 => 4
def classFmtOf (x : BitVec 2) : ClassFmt := if x == 0 then .f32 else if x == 1 then .f64 else if x == 2 then .f16 else .bf16
def classFmtCode : ClassFmt → BitVec 2
  | .f32 => 0 | .f64 => 1 | .f16 => 2 | .bf16 => 3
def cvtFmtOf (x : BitVec 4) : Option CvtFmt :=
  if x == 0 then some .f64 else if x == 1 then some .f32 else if x == 2 then some .bf16 else if x == 3 then some .f16
  else if x == 4 then some .e4m3 else if x == 5 then some .e5m2 else if x == 6 then some .e2m1 else if x == 7 then none
  else if x == 8 then some .i32 else if x == 9 then some .n32 else if x == 10 then some .i64 else if x == 11 then some .n64
  else if x == 12 then some .i8 else if x == 13 then some .n8 else if x == 14 then some .i16 else some .n16
def cvtFmtCode : CvtFmt → BitVec 4
  | .f64 => 0 | .f32 => 1 | .bf16 => 2 | .f16 => 3 | .e4m3 => 4 | .e5m2 => 5 | .e2m1 => 6 | .i32 => 8 | .n32 => 9 | .i64 => 10
  | .n64 => 11 | .i8 => 12 | .n8 => 13 | .i16 => 14 | .n16 => 15
def sfuFnOf (x : BitVec 4) : Option SfuFn :=
  if x == 0 then some .rcp else if x == 1 then some .rsq else if x == 2 then some .sqrt else if x == 3 then some .ex2
  else if x == 4 then some .lg2 else if x == 5 then some .sin else if x == 6 then some .cos else if x == 7 then some .tanh
  else if x == 8 then some .erf else none
def sfuFnCode : SfuFn → BitVec 4
  | .rcp => 0 | .rsq => 1 | .sqrt => 2 | .ex2 => 3 | .lg2 => 4 | .sin => 5 | .cos => 6 | .tanh => 7 | .erf => 8
def shflOf (x : BitVec 2) : ShflMode := if x == 0 then .idx else if x == 1 then .up else if x == 2 then .down else .xor
def shflCode : ShflMode → BitVec 2
  | .idx => 0 | .up => 1 | .down => 2 | .xor => 3
def qexOf (x : BitVec 2) : Option QexDir :=
  if x == 0 then some .h else if x == 1 then some .v else if x == 2 then some .d else none
def qexCode : QexDir → BitVec 2
  | .h => 0 | .v => 1 | .d => 2
def voteOf (x : BitVec 2) : Option VoteKind :=
  if x == 0 then some .all else if x == 1 then some .any else if x == 2 then some .uni else none
def voteCode : VoteKind → BitVec 2
  | .all => 0 | .any => 1 | .uni => 2
def redOf (x : BitVec 4) : Option RedOp :=
  if x == 0 then some .add else if x == 1 then some .mins else if x == 2 then some .maxs else if x == 3 then some .minun
  else if x == 4 then some .maxun else if x == 5 then some .and else if x == 6 then some .or else if x == 7 then some .xor
  else if x == 8 then some .fadd else if x == 9 then some .fmin else if x == 10 then some .fmax else none
def redCode : RedOp → BitVec 4
  | .add => 0 | .mins => 1 | .maxs => 2 | .minun => 3 | .maxun => 4 | .and => 5 | .or => 6 | .xor => 7 | .fadd => 8
  | .fmin => 9 | .fmax => 10
def rttOf (x : BitVec 2) : Option RttMode :=
  if x == 0 then some .auto else if x == 1 then some .retry else if x == 2 then some .skip else none
def rttCode : RttMode → BitVec 2
  | .auto => 0 | .retry => 1 | .skip => 2
def jtestOf (x : BitVec 2) : Option JtestKind :=
  if x == 0 then some .mem else if x == 1 then some .live else if x == 2 then some .empty else none
def jtestCode : JtestKind → BitVec 2
  | .mem => 0 | .live => 1 | .empty => 2
def jmaskOf (x : BitVec 2) : Option JmaskPart :=
  if x == 0 then some .mem else if x == 1 then some .arr else if x == 2 then some .dep else none
def jmaskCode : JmaskPart → BitVec 2
  | .mem => 0 | .arr => 1 | .dep => 2
def atomOf (x : BitVec 4) : AtomOp :=
  if x == 0 then .add32 else if x == 1 then .add64 else if x == 2 then .mins else if x == 3 then .minun
  else if x == 4 then .maxs else if x == 5 then .maxun else if x == 6 then .and else if x == 7 then .or
  else if x == 8 then .xor else if x == 9 then .exch32 else if x == 10 then .exch64 else if x == 11 then .cas32
  else if x == 12 then .cas64 else if x == 13 then .fadd32 else if x == 14 then .inc else .dec
def atomCode : AtomOp → BitVec 4
  | .add32 => 0 | .add64 => 1 | .mins => 2 | .minun => 3 | .maxs => 4 | .maxun => 5 | .and => 6 | .or => 7 | .xor => 8
  | .exch32 => 9 | .exch64 => 10 | .cas32 => 11 | .cas64 => 12 | .fadd32 => 13 | .inc => 14 | .dec => 15
def fenceOf (x : BitVec 2) : Option FenceKind :=
  if x == 0 then some .full else if x == 1 then some .acq else if x == 2 then some .rel else none
def fenceCode : FenceKind → BitVec 2
  | .full => 0 | .acq => 1 | .rel => 2
def rodSpaceOf (x : BitVec 2) : RodSpace := if x == 0 then .sp else if x == 1 then .sh else if x == 2 then .mm else .th
def rodSpaceCode : RodSpace → BitVec 2
  | .sp => 0 | .sh => 1 | .mm => 2 | .th => 3
def xspaceOf (x : BitVec 2) : Option XSpace :=
  if x == 0 then some .mm else if x == 1 then some .sp else if x == 2 then some .sh else none
def xspaceCode : XSpace → BitVec 2
  | .mm => 0 | .sp => 1 | .sh => 2
def pairOpOf (x : BitVec 6) : Option PairOp :=
  if x == 0x00 then some .iadd else if x == 0x01 then some .isub else if x == 0x02 then some .imin
  else if x == 0x03 then some .imax else if x == 0x04 then some .and else if x == 0x05 then some .or
  else if x == 0x06 then some .xor else if x == 0x07 then some .andn else if x == 0x08 then some .ishl
  else if x == 0x09 then some .ishr else if x == 0x0A then some .ishra else if x == 0x0B then some .mov
  else if x == 0x0C then some .ineg else if x == 0x0D then some .iabs else if x == 0x0E then some .popc
  else if x == 0x0F then some .clz else if x == 0x10 then some .fadd else if x == 0x11 then some .fsub
  else if x == 0x12 then some .fmul else if x == 0x13 then some .fmin else if x == 0x14 then some .fmax
  else if x == 0x15 then some .fneg else if x == 0x16 then some .fabs else if x == 0x17 then some .hadd2
  else if x == 0x18 then some .hmul2 else if x == 0x19 then some .hmin2 else if x == 0x1A then some .hmax2
  else if x == 0x1B then some .brev else if x == 0x1C then some .movs else if x == 0x1D then some .imul else none
def pairOpCode : PairOp → BitVec 6
  | .iadd => 0x00 | .isub => 0x01 | .imin => 0x02 | .imax => 0x03 | .and => 0x04 | .or => 0x05 | .xor => 0x06 | .andn => 0x07
  | .ishl => 0x08 | .ishr => 0x09 | .ishra => 0x0A | .mov => 0x0B | .ineg => 0x0C | .iabs => 0x0D | .popc => 0x0E | .clz => 0x0F
  | .fadd => 0x10 | .fsub => 0x11 | .fmul => 0x12 | .fmin => 0x13 | .fmax => 0x14 | .fneg => 0x15 | .fabs => 0x16
  | .hadd2 => 0x17 | .hmul2 => 0x18 | .hmin2 => 0x19 | .hmax2 => 0x1A | .brev => 0x1B | .movs => 0x1C | .imul => 0x1D

/-- The constructor that a slot 0 operation names. -/
def pairInstr (op : PairOp) (p : Pair) : Instr :=
  match op with
  | .iadd => .iaddPaired p | .isub => .isubPaired p | .imin => .iminPaired p | .imax => .imaxPaired p
  | .and => .andPaired p | .or => .orPaired p | .xor => .xorPaired p | .andn => .andnPaired p | .ishl => .ishlPaired p
  | .ishr => .ishrPaired p | .ishra => .ishraPaired p | .mov => .movPaired p | .ineg => .inegPaired p
  | .iabs => .iabsPaired p | .popc => .popcPaired p | .clz => .clzPaired p | .fadd => .faddPaired p
  | .fsub => .fsubPaired p | .fmul => .fmulPaired p | .fmin => .fminPaired p | .fmax => .fmaxPaired p
  | .fneg => .fnegPaired p | .fabs => .fabsPaired p | .hadd2 => .hadd2Paired p | .hmul2 => .hmul2Paired p
  | .hmin2 => .hmin2Paired p | .hmax2 => .hmax2Paired p | .brev => .brevPaired p | .movs => .movsPaired p
  | .imul => .imulPaired p

/-! ### Fields of a full-form word (Table 3-9) -/

def fStall (w : BitVec 64) : BitVec 3 := bits w 60 3
def fOp (w : BitVec 64) : BitVec 9 := bits w 46 9
def fD (w : BitVec 64) : BitVec 10 := bits w 36 10
def fA (w : BitVec 64) : BitVec 10 := bits w 26 10
def fB (w : BitVec 64) : BitVec 10 := bits w 16 10
def fC (w : BitVec 64) : BitVec 10 := bits w 6 10
def fM (w : BitVec 64) : BitVec 6 := bits w 0 6
def fHdr (w : BitVec 64) : Hdr := { stall := bits w 60 3, y := bit w 59, gn := bit w 58, gp := bits w 55 3 }
def fImm26 (w : BitVec 64) : BitVec 26 := bits w 0 26
/-- `b(s)`: M[5] makes B name a scalar register (R55). -/
def fBS (w : BitVec 64) : BSrc := if bit w 5 then .s (bits w 16 7) else .v (fB w)
def fAddr (w : BitVec 64) : MAddr := { scalar := bit w 5, reg := fA w, imm := bits w 6 18 }
def fBar (w : BitVec 64) : Bar := { clu := bit w 4, num := bits w 26 4 }

/-- A full-form word from its fields. -/
def word (op : BitVec 9) (h : Hdr) (d a b c : BitVec 10) (m : BitVec 6) : BitVec 64 :=
  (0 : BitVec 1) ++ h.stall ++ BitVec.ofBool h.y ++ BitVec.ofBool h.gn ++ h.gp ++ op ++ d ++ a ++ b ++ c ++ m

/-- A full-form word whose bits [25:0] are an immediate (R56, R58). -/
def wordI (op : BitVec 9) (h : Hdr) (d a : BitVec 10) (imm : BitVec 26) : BitVec 64 :=
  (0 : BitVec 1) ++ h.stall ++ BitVec.ofBool h.y ++ BitVec.ofBool h.gn ++ h.gp ++ op ++ d ++ a ++ imm

/-- A full-form memory word (Table 3-11). -/
def wordM (op : BitVec 9) (h : Hdr) (d : BitVec 10) (ad : MAddr) (sc : BitVec 2) (o : BitVec 2) (sz : BitVec 3) : BitVec 64 :=
  (0 : BitVec 1) ++ h.stall ++ BitVec.ofBool h.y ++ BitVec.ofBool h.gn ++ h.gp ++ op ++ d ++ ad.reg ++ sc ++ ad.imm
    ++ BitVec.ofBool ad.scalar ++ o ++ sz

/-- The B field of a `b(s)`. -/
def BSrc.field : BSrc → BitVec 10
  | .v r => r
  | .s r => r.setWidth 10
/-- The M[5] bit of a `b(s)`. -/
def BSrc.bit : BSrc → BitVec 1
  | .v _ => 0
  | .s _ => 1

def b1 (b : Bool) : BitVec 1 := BitVec.ofBool b

/-- The compare packing of D (Table 3-13). -/
def cmpField (c : Cmp) (uns : Bool) (cb : Comb) (pd : BitVec 3) : BitVec 10 :=
  (0 : BitVec 1) ++ combCode cb ++ b1 uns ++ cmpCode c ++ pd

/-- A slot's 30 bits (Table 3-15, R64). -/
def slotWord (op : PairOp) (s : Slot) : BitVec 30 :=
  pairOpCode op ++ s.d ++ s.s ++ b1 s.n ++ s.g ++ (0 : BitVec 1) ++ b1 s.ftz ++ rndCode s.rnd

/-- A paired word (Table 3-14). -/
def pairWordOf (op : PairOp) (p : Pair) : BitVec 64 :=
  (1 : BitVec 1) ++ p.stall ++ slotWord op p.slot0 ++ slotWord p.op1 p.slot1

/-- The barrier fields A and M of group 3 (R188). -/
def Bar.a (b : Bar) : BitVec 10 := b.num.setWidth 10
def Bar.m (b : Bar) (b5 : BitVec 1) : BitVec 6 := b5 ++ b1 b.clu ++ (0 : BitVec 4)

/-! ### The encoder -/

/-- The word of groups 0 and 1. -/
def encodeCompute (i : Instr) : Option (BitVec 64) :=
  let rb (op : BitVec 9) (h : Hdr) (d a : BitVec 10) (b : BSrc) (c : BitVec 10) (m : BitVec 5) := some (word op h d a b.field c (b.bit ++ m))
  let ra (op : BitVec 9) (h : Hdr) (d a : BitVec 10) (m : BitVec 5) := some (word op h d a 0 0 ((0 : BitVec 1) ++ m))
  let sg (x : Sign) : BitVec 5 := (0 : BitVec 4) ++ b1 (signCode x)
  let fl (r : Rnd) (z : Bool) : BitVec 5 := (0 : BitVec 2) ++ b1 z ++ rndCode r
  let fh (r : Rnd) (z bf : Bool) : BitVec 5 := (0 : BitVec 1) ++ b1 bf ++ b1 z ++ rndCode r
  let p3 (p : BitVec 3) : BitVec 10 := p.setWidth 10
  let s7 (p : BitVec 7) : BitVec 10 := p.setWidth 10
  let rs (op : BitVec 9) (h : Hdr) (d a b : BitVec 7) (m : BitVec 6) := some (word op h (s7 d) (s7 a) (s7 b) 0 m)
  match i with
  | .iadd h d a b => rb 0x000 h d a b 0 0
  | .isub h d a b => rb 0x001 h d a b 0 0
  | .iadd3 h d a b c => rb 0x002 h d a b c 0
  | .imul h d a b => rb 0x003 h d a b 0 0
  | .imulh h x d a b => rb 0x004 h d a b 0 (sg x)
  | .imad h d a b c => rb 0x005 h d a b c 0
  | .imadw h x d a b c => rb 0x006 h d a b c (sg x)
  | .imin h x d a b => rb 0x007 h d a b 0 (sg x)
  | .imax h x d a b => rb 0x008 h d a b 0 (sg x)
  | .iabs h d a => ra 0x009 h d a 0
  | .ineg h d a => ra 0x00A h d a 0
  | .ishl h d a b => rb 0x00B h d a b 0 0
  | .ishr h d a b => rb 0x00C h d a b 0 0
  | .ishra h d a b => rb 0x00D h d a b 0 0
  | .irot h d a b => rb 0x00E h d a b 0 0
  | .lop3 h d a b c tt => some (word 0x00F h d a b (c ++ (bits (tt.setWidth 64) 6 2)) (bits (tt.setWidth 64) 0 6))
  | .bfx h x d a b => rb 0x010 h d a b 0 (sg x)
  | .bfi h d a b c => rb 0x011 h d a b c 0
  | .brev h d a => ra 0x012 h d a 0
  | .popc h d a => ra 0x013 h d a 0
  | .clz h d a => ra 0x014 h d a 0
  | .ctz h d a => ra 0x015 h d a 0
  | .prmt h d a b c => rb 0x016 h d a b c 0
  | .isetp h c x cb pd a b pc => rb 0x017 h (cmpField c (signCode x) cb pd) a b (p3 pc) 0
  | .isel h d a b pc => rb 0x018 h d a b (p3 pc) 0
  | .lea h w64 sh d a b => rb 0x019 h d a b 0 ((0 : BitVec 1) ++ b1 w64 ++ sh)
  | .idot4 h sa sb sat d a b c => rb 0x01A h d a b c ((0 : BitVec 2) ++ b1 sat ++ b1 (signCode sb) ++ b1 (signCode sa))
  | .iaddi h d a imm => some (wordI 0x01B h d a imm)
  | .imuli h d a imm => some (wordI 0x01C h d a imm)
  | .isetpi h c x pd a imm => some (wordI 0x01D h (cmpField c (signCode x) .none pd) a imm)
  | .mov h d a => ra 0x020 h d a 0
  | .movi h d imm => some (wordI 0x021 h d 0 imm)
  | .movh h d imm => some (wordI 0x022 h d 0 (imm.setWidth 26))
  | .movs h d x => ra 0x023 h d (s7 x) 0
  | .vrd h d x => ra 0x024 h d (x.setWidth 10) 0
  | .srd h d x => ra 0x025 h (s7 d) (x.setWidth 10) 0
  | .vtos h d a => ra 0x026 h (s7 d) a 0
  | .sadd h d a b => rs 0x028 h d a b 0
  | .ssub h d a b => rs 0x029 h d a b 0
  | .smul h d a b => rs 0x02A h d a b 0
  | .slop3 h d a b c tt =>
    some (word 0x02B h (s7 d) (s7 a) (s7 b) ((0 : BitVec 1) ++ c ++ (bits (tt.setWidth 64) 6 2)) (bits (tt.setWidth 64) 0 6))
  | .sshl h d a b => rs 0x02C h d a b 0
  | .sshr h x d a b => rs 0x02D h d a b ((0 : BitVec 5) ++ b1 (signCode x))
  | .ssetp h c x cb pd a b pc => some (word 0x02E h (cmpField c (signCode x) cb pd) (s7 a) (s7 b) (p3 pc) 0)
  | .smovi h d imm => some (wordI 0x02F h (s7 d) 0 imm)
  | .smovh h d imm => some (wordI 0x030 h (s7 d) 0 (imm.setWidth 26))
  | .fadd h r z d a b => rb 0x040 h d a b 0 (fl r z)
  | .fsub h r z d a b => rb 0x041 h d a b 0 (fl r z)
  | .fmul h r z d a b => rb 0x042 h d a b 0 (fl r z)
  | .ffma h r z d a b c => rb 0x043 h d a b c (fl r z)
  | .fmin h z d a b => rb 0x044 h d a b 0 (fl .rn z)
  | .fmax h z d a b => rb 0x045 h d a b 0 (fl .rn z)
  | .fsetp h c u cb z pd a b pc => rb 0x046 h (cmpField c u cb pd) a b (p3 pc) (fl .rn z)
  | .frnd h r z d a => ra 0x047 h d a (fl r z)
  | .fclass h f d a => ra 0x048 h d a ((0 : BitVec 3) ++ classFmtCode f)
  | .fscale h r z d a b => rb 0x049 h d a b 0 (fl r z)
  | .dadd h r z d a b => rb 0x050 h d a b 0 (fl r z)
  | .dsub h r z d a b => rb 0x051 h d a b 0 (fl r z)
  | .dmul h r z d a b => rb 0x052 h d a b 0 (fl r z)
  | .dfma h r z d a b c => rb 0x053 h d a b c (fl r z)
  | .dmin h z d a b => rb 0x054 h d a b 0 (fl .rn z)
  | .dmax h z d a b => rb 0x055 h d a b 0 (fl .rn z)
  | .dsetp h c u cb z pd a b pc => rb 0x056 h (cmpField c u cb pd) a b (p3 pc) (fl .rn z)
  | .drnd h r z d a => ra 0x057 h d a (fl r z)
  | .hadd2 h r z bf d a b => rb 0x060 h d a b 0 (fh r z bf)
  | .hmul2 h r z bf d a b => rb 0x061 h d a b 0 (fh r z bf)
  | .hfma2 h r z bf d a b c => rb 0x062 h d a b c (fh r z bf)
  | .hmin2 h z bf d a b => rb 0x063 h d a b 0 (fh .rn z bf)
  | .hmax2 h z bf d a b => rb 0x064 h d a b 0 (fh .rn z bf)
  | .hsetp2 h c u cb z bf pd a b pc => rb 0x065 h (cmpField c u cb (pd ++ (0 : BitVec 1))) a b (p3 pc) (fh .rn z bf)
  | .cvt h dst src r sat d a => some (word 0x070 h d a ((0 : BitVec 2) ++ cvtFmtCode src ++ cvtFmtCode dst) 0 ((0 : BitVec 1) ++ fl r sat))
  | .cvti h dst src r sat d a => some (word 0x071 h d a ((0 : BitVec 2) ++ cvtFmtCode src ++ cvtFmtCode dst) 0 ((0 : BitVec 1) ++ fl r sat))
  | .qscl h band sat d a b => rb 0x072 h d a b 0 ((0 : BitVec 2) ++ b1 sat ++ (0 : BitVec 1) ++ b1 band)
  | .qpk4 h d a b => rb 0x073 h d a b 0 0
  | .qxp4 h r d a b => rb 0x074 h d a b 0 (fl r false)
  | .sfq h fn z q a => some (word 0x080 h ((0 : BitVec 9) ++ b1 q) a 0 0 ((0 : BitVec 1) ++ b1 z ++ sfuFnCode fn))
  | .qpop h d q => ra 0x081 h d ((0 : BitVec 9) ++ b1 q) 0
  | .qlen h d q => ra 0x082 h d ((0 : BitVec 9) ++ b1 q) 0
  | .shfl h mode w64 d a b pl => rb 0x090 h d a b (p3 pl) ((0 : BitVec 2) ++ b1 w64 ++ shflCode mode)
  | .qex h dir w64 d a => ra 0x091 h d a ((0 : BitVec 2) ++ b1 w64 ++ qexCode dir)
  | .vote h k pd pa => ra 0x092 h (p3 pd) (p3 pa) ((0 : BitVec 3) ++ voteCode k)
  | .ballot h d pa => ra 0x093 h d (p3 pa) 0
  | .matchv h w64 d a => ra 0x094 h d a ((0 : BitVec 2) ++ b1 w64 ++ (0 : BitVec 2))
  | .redux h op d a => ra 0x095 h d a ((0 : BitVec 1) ++ redCode op)
  | .scan h op exc d a => ra 0x096 h d a (b1 exc ++ redCode op)
  | .topk h k d a => ra 0x097 h d a ((0 : BitVec 1) ++ k)
  | .regrp h desc d a n j => some (word 0x098 h d a 0 (n.setWidth 10) ((0 : BitVec 1) ++ b1 desc ++ j))
  | .elect h pd => ra 0x099 h (p3 pd) 0 0
  | .actm h d => ra 0x09A h d 0 0
  | _ => none

/-- The word of groups 3 to 5. -/
def encodeSystem (i : Instr) : Option (BitVec 64) :=
  let n (op : BitVec 9) (h : Hdr) (m : BitVec 6) := some (word op h 0 0 0 0 m)
  let j6 (j : BitVec 4) : BitVec 6 := j.setWidth 6
  let p3 (p : BitVec 3) : BitVec 10 := p.setWidth 10
  let s7 (p : BitVec 7) : BitVec 10 := p.setWidth 10
  let lo8 (m : BitVec 16) : BitVec 10 := m.setWidth 8 ++ (0 : BitVec 2)
  let hi8 (m : BitVec 16) : BitVec 10 := (m >>> 8).setWidth 8 ++ (0 : BitVec 2)
  let ord (o : Bool) : BitVec 2 := (0 : BitVec 1) ++ b1 o
  let x6 (dst src : BitVec 2) : BitVec 6 := (0 : BitVec 2) ++ src ++ dst
  match i with
  | .bra h imm => some (wordI 0x0C0 h 0 0 imm)
  | .brx h a => some (word 0x0C1 h 0 a 0 0 0)
  | .call h imm => some (wordI 0x0C2 h 0 0 imm)
  | .callx h a f => some (word 0x0C3 h 0 a 0 f 0)
  | .ret h => n 0x0C4 h 0
  | .exit h => n 0x0C5 h 0
  | .yield h => n 0x0C6 h 0
  | .nap h k => some (wordI 0x0C7 h 0 0 (k.setWidth 26))
  | .trap h k => some (wordI 0x0C8 h 0 0 (k.setWidth 26))
  | .bkpt h k => some (wordI 0x0C9 h 0 0 (k.setWidth 26))
  | .rtt h mode => n 0x0CA h ((0 : BitVec 4) ++ rttCode mode)
  | .nop h => n 0x0CB h 0
  | .jenter h j => n 0x0D0 h (j6 j)
  | .jquit h j => n 0x0D1 h (j6 j)
  | .jquitm h mask => some (word 0x0D2 h 0 0 (hi8 mask) (lo8 mask) 0)
  | .jwait h j => n 0x0D3 h (j6 j)
  | .jtest h k pd j => some (word 0x0D4 h (p3 pd) ((0 : BitVec 8) ++ jtestCode k) 0 0 (j6 j))
  | .jmask h part d j => some (word 0x0D5 h d ((0 : BitVec 8) ++ jmaskCode part) 0 0 (j6 j))
  | .bari h bar ws b => some (word 0x0E0 h 0 bar.a b.field (s7 ws) (bar.m b.bit))
  | .barx h bar b => some (word 0x0E1 h 0 bar.a b.field 0 (bar.m b.bit))
  | .bara h d bar => some (word 0x0E2 h d bar.a 0 0 (bar.m 0))
  | .barw h bar b => some (word 0x0E3 h 0 bar.a b.field 0 (bar.m b.bit))
  | .bar h bar => some (word 0x0E4 h 0 bar.a 0 0 (bar.m 0))
  | .barq h pd bar b => some (word 0x0E5 h (p3 pd) bar.a b.field 0 (bar.m b.bit))
  | .lds h sz o d ad => some (wordM 0x100 h d ad 0 (ord o) (sizeCode sz))
  | .sts h sz o d ad => some (wordM 0x101 h d ad 0 (ord o) (sizeCode sz))
  | .ldx h sz o sc d ad => some (wordM 0x102 h d ad (scopeCode sc) (ord o) (sizeCode sz))
  | .stx h sz o sc d ad => some (wordM 0x103 h d ad (scopeCode sc) (ord o) (sizeCode sz))
  | .ldk h sz d ad => some (wordM 0x104 h d ad 0 0 (sizeCode sz))
  | .stk h sz d ad => some (wordM 0x105 h d ad 0 0 (sizeCode sz))
  | .ldw h wide o sc d ad => some (wordM 0x106 h d ad (scopeCode sc) (ord o) (if wide then 3 else 2))
  | .atoms h op o d a b c => some (word 0x108 h d a (orderCode o ++ b) c (atomCode op ++ (0 : BitVec 2)))
  | .atomx h op o sc d a b c => some (word 0x109 h d a (orderCode o ++ b) c (atomCode op ++ scopeCode sc))
  | .redx h op o sc a b => some (word 0x10A h 0 a (orderCode o ++ b) 0 (atomCode op ++ scopeCode sc))
  | .fence h k sc => n 0x110 h ((0 : BitVec 2) ++ fenceCode k ++ scopeCode sc)
  | .fencer h rel all sc dyn mask sA =>
    some (word 0x111 h 0 (s7 sA) (hi8 mask) (lo8 mask) ((0 : BitVec 1) ++ b1 dyn ++ b1 all ++ b1 rel ++ scopeCode sc))
  | .roddef h rs k a b =>
    some (word 0x112 h ((0 : BitVec 5) ++ (1 : BitVec 1) ++ k) (s7 a) (s7 b) 0 ((1 : BitVec 1) ++ (0 : BitVec 3) ++ rodSpaceCode rs))
  | .ldf h wide d ad => some (wordM 0x120 h d ad 0 0 (if wide then 4 else 3))
  | .fres h d ad => some (wordM 0x121 h d ad 0 0 3)
  | .fflt h d ad => some (wordM 0x122 h d ad 0 0 3)
  | .freg h d ad => some (wordM 0x123 h d ad 0 0 3)
  | .fpoll h wide d ad => some (wordM 0x124 h d ad 0 0 (if wide then 4 else 3))
  | .spawn h na pd a b c => some (word 0x128 h (p3 pd) (s7 a) (s7 b) (s7 c) ((1 : BitVec 1) ++ b1 na ++ (0 : BitVec 4)))
  | .lnch h pd a b c => some (word 0x129 h (p3 pd) (s7 a) (s7 b) (s7 c) 0x20)
  | .mma h st j d a b c => some (word 0x140 h d a b c (st ++ j))
  | .mmas h st j d a b c => some (word 0x141 h d a b c (st ++ j))
  | .mmat h st j d a b c => some (word 0x142 h d a b c (st ++ j))
  | .msync h st => n 0x143 h (st ++ (0 : BitVec 4))
  | .mchg h st d => some (word 0x144 h d 0 0 0 ((0 : BitVec 4) ++ st))
  | .bcp h dst src bar a => some (word 0x150 h (bar.setWidth 10) (s7 a) 0 0 (x6 (xspaceCode dst) (xspaceCode src)))
  | .bcpp h pull scr bar a p g =>
    some (word 0x151 h (bar.setWidth 10) (s7 a) (s7 p) (s7 g) ((1 : BitVec 1) ++ b1 pull ++ (0 : BitVec 3) ++ b1 scr))
  | .bmc h src bar a mask => some (word 0x152 h (bar.setWidth 10) (s7 a) 0 (mask.setWidth 10) (x6 2 (xspaceCode src)))
  | .bga h dst src bar a x => some (word 0x153 h (bar.setWidth 10) (s7 a) 0 (s7 x) (x6 (xspaceCode dst) (xspaceCode src)))
  | .bsc h dst src bar a x => some (word 0x154 h (bar.setWidth 10) (s7 a) 0 (s7 x) (x6 (xspaceCode dst) (xspaceCode src)))
  | .bfill h dst bar a => some (word 0x155 h (bar.setWidth 10) (s7 a) 0 0 (x6 (xspaceCode dst) 0))
  | .bpfx h bar a => some (word 0x156 h (bar.setWidth 10) (s7 a) 0 0 (x6 1 0))
  | .vmark h pd a b => some (word 0x160 h (p3 pd) (s7 a) (s7 b) 0 0x20)
  | .vstamp h g d a b => some (word 0x161 h d (s7 a) (s7 b) 0 ((1 : BitVec 1) ++ (0 : BitVec 4) ++ b1 g))
  | .vwait h all pd a b => some (word 0x162 h (p3 pd) (s7 a) (s7 b) 0 ((1 : BitVec 1) ++ (0 : BitVec 4) ++ b1 all))
  | .vrefr h all pd a b => some (word 0x163 h (p3 pd) (s7 a) (s7 b) 0 ((1 : BitVec 1) ++ (0 : BitVec 4) ++ b1 all))
  | i => (i.pair?).map fun x => pairWordOf x.1 x.2

/-- The word of an instruction; none for a step that has no encoding. -/
def encode? (i : Instr) : Option (BitVec 64) :=
  match encodeCompute i with
  | some w => some w
  | none => encodeSystem i

/-- The word of an instruction; 0 stands for a step that has no encoding. -/
def encode (i : Instr) : BitVec 64 := (encode? i).getD 0

/-! ### The decoder -/

/-- Opcodes of groups 0 to 2 (Table 3-21): none where a field holds a reserved or illegal code. -/
def decodeCompute (op : Nat) (w : BitVec 64) : Option Instr :=
  let h := fHdr w; let d := fD w; let a := fA w; let b := fBS w; let c := fC w; let imm := fImm26 w
  let sg := signOf (bit w 0); let r := rndOf (bits w 0 2); let z := bit w 2; let bf := bit w 3
  let s7d : BitVec 7 := bits w 36 7; let s7a : BitVec 7 := bits w 26 7; let s7b : BitVec 7 := bits w 16 7
  let pd : BitVec 3 := bits w 36 3; let pc : BitVec 3 := bits w 6 3; let pa : BitVec 3 := bits w 26 3
  let uns := bit w 42; let cb := combOf (bits w 43 2); let cmp := cmpOf (bits w 39 3); let tt : BitVec 8 := bits w 0 8
  let red := redOf (bits w 0 4); let dst := cvtFmtOf (bits w 16 4); let src := cvtFmtOf (bits w 20 4)
  match op with
  | 0x000 => some (.iadd h d a b)
  | 0x001 => some (.isub h d a b)
  | 0x002 => some (.iadd3 h d a b c)
  | 0x003 => some (.imul h d a b)
  | 0x004 => some (.imulh h sg d a b)
  | 0x005 => some (.imad h d a b c)
  | 0x006 => some (.imadw h sg d a b c)
  | 0x007 => some (.imin h sg d a b)
  | 0x008 => some (.imax h sg d a b)
  | 0x009 => some (.iabs h d a)
  | 0x00A => some (.ineg h d a)
  | 0x00B => some (.ishl h d a b)
  | 0x00C => some (.ishr h d a b)
  | 0x00D => some (.ishra h d a b)
  | 0x00E => some (.irot h d a b)
  | 0x00F => some (.lop3 h d a (fB w) (bits w 8 8) tt)
  | 0x010 => some (.bfx h sg d a b)
  | 0x011 => some (.bfi h d a b c)
  | 0x012 => some (.brev h d a)
  | 0x013 => some (.popc h d a)
  | 0x014 => some (.clz h d a)
  | 0x015 => some (.ctz h d a)
  | 0x016 => some (.prmt h d a b c)
  | 0x017 => cmp.map fun k => .isetp h k (signOf uns) cb pd a b pc
  | 0x018 => some (.isel h d a b pc)
  | 0x019 => some (.lea h (bit w 3) (bits w 0 3) d a b)
  | 0x01A => some (.idot4 h (signOf (bit w 0)) (signOf (bit w 1)) (bit w 2) d a b c)
  | 0x01B => some (.iaddi h d a imm)
  | 0x01C => some (.imuli h d a imm)
  | 0x01D => cmp.map fun k => .isetpi h k (signOf uns) pd a imm
  | 0x020 => some (.mov h d a)
  | 0x021 => some (.movi h d imm)
  | 0x022 => some (.movh h d (bits w 0 16))
  | 0x023 => some (.movs h d s7a)
  | 0x024 => some (.vrd h d (bits w 26 6))
  | 0x025 => some (.srd h s7d (bits w 26 6))
  | 0x026 => some (.vtos h s7d a)
  | 0x028 => some (.sadd h s7d s7a s7b)
  | 0x029 => some (.ssub h s7d s7a s7b)
  | 0x02A => some (.smul h s7d s7a s7b)
  | 0x02B => some (.slop3 h s7d s7a s7b (bits w 8 7) tt)
  | 0x02C => some (.sshl h s7d s7a s7b)
  | 0x02D => some (.sshr h sg s7d s7a s7b)
  | 0x02E => cmp.map fun k => .ssetp h k (signOf uns) cb pd s7a s7b pc
  | 0x02F => some (.smovi h s7d imm)
  | 0x030 => some (.smovh h s7d (bits w 0 16))
  | 0x040 => some (.fadd h r z d a b)
  | 0x041 => some (.fsub h r z d a b)
  | 0x042 => some (.fmul h r z d a b)
  | 0x043 => some (.ffma h r z d a b c)
  | 0x044 => some (.fmin h z d a b)
  | 0x045 => some (.fmax h z d a b)
  | 0x046 => cmp.map fun k => .fsetp h k uns cb z pd a b pc
  | 0x047 => some (.frnd h r z d a)
  | 0x048 => some (.fclass h (classFmtOf (bits w 0 2)) d a)
  | 0x049 => some (.fscale h r z d a b)
  | 0x050 => some (.dadd h r z d a b)
  | 0x051 => some (.dsub h r z d a b)
  | 0x052 => some (.dmul h r z d a b)
  | 0x053 => some (.dfma h r z d a b c)
  | 0x054 => some (.dmin h z d a b)
  | 0x055 => some (.dmax h z d a b)
  | 0x056 => cmp.map fun k => .dsetp h k uns cb z pd a b pc
  | 0x057 => some (.drnd h r z d a)
  | 0x060 => some (.hadd2 h r z bf d a b)
  | 0x061 => some (.hmul2 h r z bf d a b)
  | 0x062 => some (.hfma2 h r z bf d a b c)
  | 0x063 => some (.hmin2 h z bf d a b)
  | 0x064 => some (.hmax2 h z bf d a b)
  | 0x065 => if bit w 36 then none else cmp.map fun k => .hsetp2 h k uns cb z bf (bits w 37 2) a b pc
  | 0x070 =>
    match dst, src with
    | some t, some f => if t.isFloat && f.isFloat then some (.cvt h t f r z d a) else none
    | _, _ => none
  | 0x071 =>
    match dst, src with
    | some t, some f => if t.isFloat && f.isFloat then none else some (.cvti h t f r z d a)
    | _, _ => none
  | 0x072 => some (.qscl h (bit w 0) z d a b)
  | 0x073 => some (.qpk4 h d a b)
  | 0x074 => some (.qxp4 h r d a b)
  | 0x080 => if bit w 37 then none else (sfuFnOf (bits w 0 4)).map fun f => .sfq h f (bit w 4) (bit w 36) a
  | 0x081 => if bit w 27 then none else some (.qpop h d (bit w 26))
  | 0x082 => if bit w 27 then none else some (.qlen h d (bit w 26))
  | 0x090 => some (.shfl h (shflOf (bits w 0 2)) z d a b pc)
  | 0x091 => (qexOf (bits w 0 2)).map fun k => .qex h k z d a
  | 0x092 => (voteOf (bits w 0 2)).map fun k => .vote h k pd pa
  | 0x093 => some (.ballot h d pa)
  | 0x094 => some (.matchv h z d a)
  | 0x095 => red.map fun k => .redux h k d a
  | 0x096 => red.map fun k => .scan h k (bit w 4) d a
  | 0x097 => let k : BitVec 4 := bits w 0 4; if decide (1 ≤ k.toNat) && decide (k.toNat ≤ 8) then some (.topk h k d a) else none
  | 0x098 => let n : BitVec 7 := bits w 6 7
             if decide (1 ≤ n.toNat) && decide (n.toNat ≤ 64) then some (.regrp h (bit w 4) d a n (bits w 0 4)) else none
  | 0x099 => some (.elect h pd)
  | 0x09A => some (.actm h d)
  | _ => none

/-- Opcodes of groups 3 to 5 (Table 3-21). -/
def decodeSystem (op : Nat) (w : BitVec 64) : Option Instr :=
  let h := fHdr w; let d := fD w; let a := fA w; let b := fBS w; let c := fC w; let imm := fImm26 w
  let j : BitVec 4 := bits w 0 4; let k16 : BitVec 16 := bits w 0 16
  let mask : BitVec 16 := (bits w 18 8 : BitVec 8) ++ (bits w 8 8 : BitVec 8)
  let s7a : BitVec 7 := bits w 26 7; let s7b : BitVec 7 := bits w 16 7; let s7c : BitVec 7 := bits w 6 7
  let pd : BitVec 3 := bits w 36 3; let bar := fBar w; let ad := fAddr w
  let sz := sizeOf? (bits w 0 3); let o : BitVec 2 := bits w 3 2; let o1 := bit w 3; let sc := scopeOf (bits w 24 2)
  let plain := decide (bits w 24 2 = (0 : BitVec 2)) && !bit w 4
  let aop := atomOf (bits w 2 4); let aord := orderOf (bits w 24 2); let asc := scopeOf (bits w 0 2); let ab : BitVec 8 := bits w 16 8
  let st : BitVec 2 := bits w 4 2; let tb : BitVec 4 := bits w 36 4
  let xd := xspaceOf (bits w 0 2); let xs := xspaceOf (bits w 2 2)
  match op with
  | 0x0C0 => some (.bra h imm)
  | 0x0C1 => some (.brx h a)
  | 0x0C2 => some (.call h imm)
  | 0x0C3 => some (.callx h a c)
  | 0x0C4 => some (.ret h)
  | 0x0C5 => some (.exit h)
  | 0x0C6 => some (.yield h)
  | 0x0C7 => some (.nap h k16)
  | 0x0C8 => some (.trap h k16)
  | 0x0C9 => some (.bkpt h k16)
  | 0x0CA => (rttOf (bits w 0 2)).map fun k => .rtt h k
  | 0x0CB => some (.nop h)
  | 0x0D0 => some (.jenter h j)
  | 0x0D1 => some (.jquit h j)
  | 0x0D2 => some (.jquitm h mask)
  | 0x0D3 => some (.jwait h j)
  | 0x0D4 => (jtestOf (bits w 26 2)).map fun k => .jtest h k pd j
  | 0x0D5 => (jmaskOf (bits w 26 2)).map fun k => .jmask h k d j
  | 0x0E0 => let n : BitVec 7 := bits w 6 7; if decide (n.toNat ≤ 64) then some (.bari h bar n b) else none
  | 0x0E1 => if bar.clu then none else some (.barx h bar b)
  | 0x0E2 => some (.bara h d bar)
  | 0x0E3 => some (.barw h bar b)
  | 0x0E4 => some (.bar h bar)
  | 0x0E5 => some (.barq h pd bar b)
  | 0x100 => if plain then sz.map fun s => .lds h s o1 d ad else none
  | 0x101 => if plain then sz.map fun s => .sts h s o1 d ad else none
  | 0x102 => if bit w 4 then none else sz.map fun s => .ldx h s o1 sc d ad
  | 0x103 => if bit w 4 then none else sz.map fun s => .stx h s o1 sc d ad
  | 0x104 => if plain && decide (o = 0) then sz.map fun s => .ldk h s d ad else none
  | 0x105 => if plain && decide (o = 0) then sz.map fun s => .stk h s d ad else none
  | 0x106 =>
    if bit w 4 then none
    else match sz with
      | some .b4 => some (.ldw h false o1 sc d ad)
      | some .b8 => some (.ldw h true o1 sc d ad)
      | _ => none
  | 0x108 => some (.atoms h aop aord d a ab c)
  | 0x109 => some (.atomx h aop aord asc d a ab c)
  | 0x10A => if aop.isCas || aop.isExch || aord == .acq || aord == .ar then none else some (.redx h aop aord asc a ab)
  | 0x110 => (fenceOf (bits w 2 2)).map fun k => .fence h k asc
  | 0x111 => some (.fencer h (bit w 2) (bit w 3) asc (bit w 4) mask s7a)
  | 0x112 => if bit w 40 then some (.roddef h (rodSpaceOf (bits w 0 2)) (bits w 36 4) s7a s7b) else none
  | 0x120 => match sz with
    | some .b8 => some (.ldf h false d ad)
    | some .b16 => some (.ldf h true d ad)
    | _ => none
  | 0x121 => if sz = some .b8 then some (.fres h d ad) else none
  | 0x122 => if sz = some .b8 then some (.fflt h d ad) else none
  | 0x123 => if sz = some .b8 then some (.freg h d ad) else none
  | 0x124 => match sz with
    | some .b8 => some (.fpoll h false d ad)
    | some .b16 => some (.fpoll h true d ad)
    | _ => none
  | 0x128 => some (.spawn h (bit w 4) pd s7a s7b s7c)
  | 0x129 => some (.lnch h pd s7a s7b s7c)
  | 0x140 => some (.mma h st j d a (fB w) c)
  | 0x141 => some (.mmas h st j d a (fB w) c)
  | 0x142 => some (.mmat h st j d a (fB w) c)
  | 0x143 => some (.msync h st)
  | 0x144 => some (.mchg h (bits w 0 2) d)
  | 0x150 => match xd, xs with
    | some t, some f => some (.bcp h t f tb s7a)
    | _, _ => none
  | 0x151 => if bit w 1 || bit w 2 || bit w 3 then none else some (.bcpp h (bit w 4) (bit w 0) tb s7a s7b s7c)
  | 0x152 => if xd = some .sh then xs.map fun f => .bmc h f tb s7a (bits w 6 4) else none
  | 0x153 => match xd, xs with
    | some t, some f => some (.bga h t f tb s7a s7c)
    | _, _ => none
  | 0x154 => match xd, xs with
    | some t, some f => some (.bsc h t f tb s7a s7c)
    | _, _ => none
  | 0x155 => if xs = some .mm then xd.map fun t => .bfill h t tb s7a else none
  | 0x156 => if xd = some .sp && xs = some .mm then some (.bpfx h tb s7a) else none
  | 0x160 => some (.vmark h pd s7a s7b)
  | 0x161 => some (.vstamp h (bit w 0) d s7a s7b)
  | 0x162 => some (.vwait h (bit w 0) pd s7a s7b)
  | 0x163 => some (.vrefr h (bit w 0) pd s7a s7b)
  | _ => none

/-- OP is assigned in Table 3-21. -/
def opAssigned (op : Nat) : Bool :=
  decide (op ≤ 0x1D) || (decide (0x20 ≤ op) && decide (op ≤ 0x26)) || (decide (0x28 ≤ op) && decide (op ≤ 0x30))
    || (decide (0x40 ≤ op) && decide (op ≤ 0x49)) || (decide (0x50 ≤ op) && decide (op ≤ 0x57))
    || (decide (0x60 ≤ op) && decide (op ≤ 0x65)) || (decide (0x70 ≤ op) && decide (op ≤ 0x74))
    || (decide (0x80 ≤ op) && decide (op ≤ 0x82)) || (decide (0x90 ≤ op) && decide (op ≤ 0x9A))
    || (decide (0xC0 ≤ op) && decide (op ≤ 0xCB)) || (decide (0xD0 ≤ op) && decide (op ≤ 0xD5))
    || (decide (0xE0 ≤ op) && decide (op ≤ 0xE5)) || (decide (0x100 ≤ op) && decide (op ≤ 0x106))
    || (decide (0x108 ≤ op) && decide (op ≤ 0x10A)) || (decide (0x110 ≤ op) && decide (op ≤ 0x112))
    || (decide (0x120 ≤ op) && decide (op ≤ 0x124)) || op == 0x128 || op == 0x129
    || (decide (0x140 ≤ op) && decide (op ≤ 0x144)) || (decide (0x150 ≤ op) && decide (op ≤ 0x156))
    || (decide (0x160 ≤ op) && decide (op ≤ 0x163))

/-- The bits of a full-form word that must be zero, given its other bits, as fields D, A, B, C and M (R54 and the
entries). A code that an entry calls reserved or illegal is not among them (WHY 3). C of REDX's compare codes is one of them, since REDX as written
has no comparison register (R54; assumption 77). -/
def zeroFields (op : Nat) (w : BitVec 64) : Nat × Nat × Nat × Nat × Nat :=
  let zb : Nat := if bit w 5 then 0x380 else 0
  let sa : Nat := if bit w 5 then 0x380 else 0
  let za (sc : Nat) : Nat := if sc = 0 then 0x300 else 0
  let cpc : Nat := if bits w 43 2 = (0 : BitVec 2) then 0x3FF else 0x3F8
  let cas : Nat := if (atomOf (bits w 2 4)).isCas then 0 else 0x3FF
  let blk (m : Nat) : Nat × Nat × Nat × Nat × Nat := (0x3FF, 0x3FF, 0x3FF, 0x3FF, m)
  let barA : Nat := if bit w 4 then 0x3FC else 0x3F0
  let rnd0 : Nat :=
    match cvtFmtOf (bits w 16 4), cvtFmtOf (bits w 20 4) with
    | some .e2m1, _ => 3
    | some t, some f => if t.isFloat || f.isFloat then 0 else 3
    | _, _ => 0
  let ordv := (bits w 3 2 : BitVec 2).toNat
  match op with
  | 0x000 | 0x001 | 0x003 | 0x00B | 0x00C | 0x00D | 0x00E => (0, 0, zb, 0x3FF, 0x1F)
  | 0x004 | 0x007 | 0x008 | 0x010 => (0, 0, zb, 0x3FF, 0x1E)
  | 0x002 | 0x005 | 0x011 | 0x016 => (0, 0, zb, 0, 0x1F)
  | 0x006 => (0, 0, zb, 0, 0x1E)
  | 0x009 | 0x00A | 0x012 | 0x013 | 0x014 | 0x015 | 0x020 => (0, 0, 0x3FF, 0x3FF, 0x3F)
  | 0x017 => (0x200, 0, zb, cpc, 0x1F)
  | 0x018 => (0, 0, zb, 0x3F8, 0x1F)
  | 0x019 => (0, 0, zb, 0x3FF, 0x10)
  | 0x01A => (0, 0, zb, 0, 0x18)
  | 0x01D => (0x380, 0, 0, 0, 0)
  | 0x021 => (0, 0x3FF, 0, 0, 0)
  | 0x022 => (0, 0x3FF, 0x3FF, 0, 0)
  | 0x023 => (0, 0x380, 0x3FF, 0x3FF, 0x3F)
  | 0x024 => (0, 0x3C0, 0x3FF, 0x3FF, 0x3F)
  | 0x025 => (0x380, 0x3C0, 0x3FF, 0x3FF, 0x3F)
  | 0x026 => (0x380, 0, 0x3FF, 0x3FF, 0x3F)
  | 0x028 | 0x029 | 0x02A | 0x02C => (0x380, 0x380, 0x380, 0x3FF, 0x3F)
  | 0x02B => (0x380, 0x380, 0x380, 0x200, 0)
  | 0x02D => (0x380, 0x380, 0x380, 0x3FF, 0x3E)
  | 0x02E => (0x200, 0x380, 0x380, cpc, 0x3F)
  | 0x02F => (0x380, 0x3FF, 0, 0, 0)
  | 0x030 => (0x380, 0x3FF, 0x3FF, 0, 0)
  | 0x040 | 0x041 | 0x042 | 0x049 | 0x050 | 0x051 | 0x052 => (0, 0, zb, 0x3FF, 0x18)
  | 0x043 | 0x053 => (0, 0, zb, 0, 0x18)
  | 0x044 | 0x045 | 0x054 | 0x055 => (0, 0, zb, 0x3FF, 0x1B)
  | 0x046 | 0x056 => (0x200, 0, zb, cpc, 0x1B)
  | 0x047 | 0x057 => (0, 0, 0x3FF, 0x3FF, 0x38)
  | 0x048 => (0, 0, 0x3FF, 0x3FF, 0x3C)
  | 0x060 | 0x061 => (0, 0, zb, 0x3FF, 0x10)
  | 0x062 => (0, 0, zb, 0, 0x10)
  | 0x063 | 0x064 => (0, 0, zb, 0x3FF, 0x13)
  | 0x065 => (0x200, 0, zb, cpc, 0x13)
  | 0x070 | 0x071 => (0, 0, 0x300, 0x3FF, 0x38 + rnd0)
  | 0x072 => if bit w 0 then (0, 0, 0x3FF, 0x3FF, 0x3E) else (0, 0, zb, 0x3FF, 0x1A)
  | 0x073 => (0, 0, zb, 0x3FF, 0x1F)
  | 0x074 => (0, 0, zb, 0x3FF, 0x1C)
  | 0x080 => (0x3FC, 0, 0x3FF, 0x3FF, 0x20)
  | 0x081 | 0x082 => (0, 0x3FC, 0x3FF, 0x3FF, 0x3F)
  | 0x090 => (0, 0, zb, 0x3F8, 0x18)
  | 0x091 => (0, 0, 0x3FF, 0x3FF, 0x38)
  | 0x092 => (0x3F8, 0x3F8, 0x3FF, 0x3FF, 0x3C)
  | 0x093 => (0, 0x3F8, 0x3FF, 0x3FF, 0x3F)
  | 0x094 => (0, 0, 0x3FF, 0x3FF, 0x3B)
  | 0x095 | 0x097 => (0, 0, 0x3FF, 0x3FF, 0x30)
  | 0x096 => (0, 0, 0x3FF, 0x3FF, 0x20)
  | 0x098 => (0, 0, 0x3FF, 0x380, 0x20)
  | 0x099 => (0x3F8, 0x3FF, 0x3FF, 0x3FF, 0x3F)
  | 0x09A => (0, 0x3FF, 0x3FF, 0x3FF, 0x3F)
  | 0x0C0 | 0x0C2 => (0x3FF, 0x3FF, 0, 0, 0)
  | 0x0C1 => (0x3FF, 0, 0x3FF, 0x3FF, 0x3F)
  | 0x0C3 => (0x3FF, 0, 0x3FF, 0, 0x3F)
  | 0x0C4 | 0x0C5 | 0x0C6 | 0x0CB => blk 0x3F
  | 0x0C7 | 0x0C8 | 0x0C9 => (0x3FF, 0x3FF, 0x3FF, 0, 0)
  | 0x0CA => blk 0x3C
  | 0x0D0 | 0x0D1 | 0x0D3 => blk 0x30
  | 0x0D2 => (0x3FF, 0x3FF, 3, 3, 0x3F)
  | 0x0D4 => (0x3F8, 0x3FC, 0x3FF, 0x3FF, 0x30)
  | 0x0D5 => (0, 0x3FC, 0x3FF, 0x3FF, 0x30)
  | 0x0E0 => (0x3FF, barA, zb, 0x380, 0x0F)
  | 0x0E1 | 0x0E3 => (0x3FF, barA, zb, 0x3FF, 0x0F)
  | 0x0E2 => (0, barA, 0x3FF, 0x3FF, 0x2F)
  | 0x0E4 => (0x3FF, barA, 0x3FF, 0x3FF, 0x2F)
  | 0x0E5 => (0x3F8, barA, zb, 0x3FF, 0x0F)
  | 0x100 | 0x101 | 0x102 | 0x103 | 0x104 | 0x105 | 0x106 => (0, sa, za ordv, 0, 0)
  | 0x108 => (0, 0, 0, cas, 3)
  | 0x109 => (0, 0, 0, cas, 0)
  | 0x10A => (0x3FF, 0, 0, 0x3FF, 0)
  | 0x110 => blk 0x30
  | 0x111 => (0x3FF, if bit w 4 then 0x380 else 0x3FF, 3, 3, 0x20)
  | 0x112 => (0x3E0, 0x380, 0x380, 0x3FF, 0x1C)
  | 0x120 | 0x121 | 0x122 | 0x123 | 0x124 => (0, sa, 0x300, 0, 0x18)
  | 0x128 => (0x3F8, 0x380, if bit w 4 then 0x3FF else 0x380, 0x380, 0x0F)
  | 0x129 => (0x3F8, 0x380, 0x380, 0x380, 0x1F)
  | 0x140 | 0x141 | 0x142 => (0, 0, 0, 0, 0)
  | 0x143 => blk 0x0F
  | 0x144 => (0, 0x3FF, 0x3FF, 0x3FF, 0x3C)
  | 0x150 | 0x155 | 0x156 => (0x3F0, 0x380, 0x3FF, 0x3FF, 0x30)
  | 0x151 => (0x3F0, 0x380, 0x380, if bit w 4 then 0x3FF else 0x380, 0)
  | 0x152 => (0x3F0, 0x380, 0x3FF, 0x3F0, 0x30)
  | 0x153 | 0x154 => (0x3F0, 0x380, 0x3FF, 0x380, 0x30)
  | 0x160 => (0x3F8, 0x380, 0x380, 0x3FF, 0x1F)
  | 0x161 => (0, 0x380, 0x380, 0x3FF, 0x1E)
  | 0x162 | 0x163 => (0x3F8, 0x380, if bit w 0 then 0x3FF else 0x380, 0x3FF, 0x1E)
  | _ => (0, 0, 0, 0, 0)

/-- M[5] must be 1 (R54). -/
def needsOne (op : Nat) : Bool :=
  op == 0x112 || op == 0x128 || op == 0x129 || op == 0x151 || (decide (0x160 ≤ op) && decide (op ≤ 0x163))

/-- A full-form word breaches R54: a bit that must be zero is set, or one that must be 1 is 0. -/
def fieldBreach (w : BitVec 64) : Bool :=
  let op := (fOp w).toNat
  let z := zeroFields op w
  Nat.land (fD w).toNat z.1 != 0 || Nat.land (fA w).toNat z.2.1 != 0 || Nat.land (fB w).toNat z.2.2.1 != 0
    || Nat.land (fC w).toNat z.2.2.2.1 != 0 || Nat.land (fM w).toNat z.2.2.2.2 != 0 || (needsOne op && !bit w 5)

/-- A full-form word as an instruction, before R54 is checked. -/
def decodeFull (w : BitVec 64) : Option Instr :=
  let op := (fOp w).toNat
  if op < 0xC0 then decodeCompute op w else decodeSystem op w

/-- The fields of the slot whose lowest bit is `lo` (Table 3-15). -/
def slotAt (w : BitVec 64) (lo : Nat) : Slot :=
  { d := bits w (lo + 16) 8, s := bits w (lo + 8) 8, n := bit w (lo + 7), g := bits w (lo + 4) 3,
    rnd := rndOf (bits w lo 2), ftz := bit w (lo + 2) }

/-- A slot's breach of R64 or R63: unused M bits, or S[7] of MOVS. -/
def slotBreach (w : BitVec 64) (lo : Nat) (op : PairOp) : Bool := bit w (lo + 3) || !slotOk op (slotAt w lo)

/-- Why a paired word is not an instruction: the lowest WHY, then the lowest WHERE (R73). -/
def pairReject (w : BitVec 64) : Option Reject :=
  let c0 : BitVec 6 := bits w 54 6; let c1 : BitVec 6 := bits w 24 6
  match pairOpOf c0, pairOpOf c1 with
  | none, _ => some ⟨1, 1, c0.toNat⟩
  | some _, none => some ⟨1, 2, c1.toNat⟩
  | some p0, some p1 => if slotBreach w 30 p0 then some ⟨2, 1, 0⟩ else if slotBreach w 0 p1 then some ⟨2, 2, 0⟩ else none

/-- A paired word as an instruction, before its checks. -/
def decodePair (w : BitVec 64) : Option Instr :=
  match pairOpOf (bits w 54 6), pairOpOf (bits w 24 6) with
  | some p0, some p1 => some (pairInstr p0 ⟨bits w 60 3, slotAt w 30, p1, slotAt w 0⟩)
  | _, _ => none

/-- Why a full-form word is not an instruction. -/
def fullReject (w : BitVec 64) : Option Reject :=
  let op := (fOp w).toNat
  if !opAssigned op then some ⟨1, 0, op⟩
  else if fieldBreach w then some ⟨2, 0, 0⟩
  else match decodeFull w with
    | none => some ⟨3, 0, 0⟩
    | some i => if encode i = w then none else some ⟨2, 0, 0⟩

/-- The decoder: an instruction, or the WHY 1 to 3 for which the word traps ILL (R73). -/
def decode (w : BitVec 64) : Except Reject Instr :=
  match if bit w 63 then pairReject w else fullReject w with
  | some r => .error r
  | none => match if bit w 63 then decodePair w else decodeFull w with
    | some i => .ok i
    | none => .error ⟨3, 0, 0⟩

/-- The decoder's instruction, where there is one. -/
def decode? (w : BitVec 64) : Option Instr :=
  match decode w with
  | .ok i => some i
  | .error _ => none

/-- The bytes of a value, lowest first (R4). -/
def leBytes : Nat → Nat → List Byte
  | 0, _ => []
  | n + 1, v => BitVec.ofNat 8 v :: leBytes n (v / 256)

/-- The value of bytes, lowest first (R4). -/
def leValue : List Byte → Nat
  | [] => 0
  | b :: bs => b.toNat + 256 * leValue bs

/-- The decoder on bytes: the first eight, in memory order, and the rest (R51). -/
def decodeBytes (bs : List Byte) : Option (Instr × List Byte) :=
  if bs.length < 8 then none
  else (decode? (BitVec.ofNat 64 (leValue (bs.take 8)))).map fun i => (i, bs.drop 8)

/-- The instruction the decoder reads from an instruction whose bits are `w`; every word has 64 bits, so one that is
said to be longer is refused. -/
def decodeTableWord (nbits w : Nat) : Option Instr :=
  if nbits ≤ 64 then (decodeBytes (leBytes 8 w)).map (·.1) else none

end Sys2Proof
end

