-- ==== Sys2Proof/Config.lean ====
section
/-!
DEFINITION. What an implementation fixes, the constants of Tables 0-2, 3-18 and others, and the free values.
-/
namespace Sys2Proof.Config

/-- The SFU results that a device gives within the largest errors of Table 7-9 (R121: the same for the same input on every core); free but for
those errors (assumption 9). -/
opaque sfu : SfuFn → Word → Word

/-- Whether a fused multiply-add of ∞ × 0 and a quiet NaN raises invalid: IEEE 754-2019 leaves it open, and R85 adds no word; free
(assumption 25). -/
opaque fmaQuietInvalid : Bool

/-- Where an image holds its body, its public key, the point of that key, its signature and its version: R352 names them and lays out none;
free (assumption 14). -/
opaque imageBody : List Byte → List Byte
opaque imageKey : List Byte → List Byte
opaque keyPoint : List Byte → Nat × Nat
opaque imageSig : List Byte → Nat × Nat
opaque imageVersion : List Byte → Nat
/-- What is fused into the device (R352): the SHA-384 hash of the public key, and the least version; each part decides (assumption 14). -/
opaque fusedKeyHash : List Byte
opaque fusedMinVersion : Nat
/-- The private half of the device's identity key, and the number that it chooses for its signature `n` (R353); free (assumption 14). -/
opaque identityKey : Nat
opaque signingNumber : Nat → Nat
/-- The layout of an attestation report, and of one with its signature, which R353 leaves open; free (assumption 14). -/
opaque reportBody : List Byte → Nat → BitVec 8 → BitVec 384 → List Byte
opaque reportBytes : List Byte → Nat → Nat → List Byte

/-- The refusal code of a refused image (Table 21-13 gives the field, no codes); free (assumption 14). -/
opaque refusalCode : List Byte → BitVec 2

/-- The code by which a record of KIND 2 names its agent, by the agents of Table 19-7: R341 lists the agent and no codes; free (assumption 15). -/
opaque agentCode : Nat → Word

/-- Kind-specific bytes of a fault record that R341 does not lay out, by record; free (assumption 15). -/
opaque faultDetail : Nat → List Byte

/-- A fresh free value, by a counter of the state (assumption 13). -/
opaque freeWord : Nat → Word

/-- A fresh free byte, by a counter of the state (assumption 13). -/
opaque freeByte : Nat → Byte

/-- The bytes that a save writes over a block's record, from its first byte; the layout is the device's own (R315); free (assumption 24). -/
opaque saveImage : Nat → List Byte

/-- The memory modules of an installation, in bytes; each installation decides (assumption 20). -/
opaque modules : Nat
/-- Installed physical memory in bytes, up to 8 TiB (Table 0-2, R319). -/
def installed : Nat := min modules (2 ^ 43)

/-- Offset limit of a die's scratchpad (R136): 768 MiB. -/
def dieBytes : Nat := 0x30000000
/-- Bytes of one cluster's scratchpad slice (R348): 48 MiB. -/
def sliceBytes : Nat := 0x03000000
/-- Words of register file per quadrant (R25). -/
def quadWords : Nat := 65536
/-- Wait-table entries per die (R142). -/
def waitEntries : Nat := 16384
/-- Continuation-table entries per die (R157). -/
def contEntries : Nat := 4096
/-- Pending tasks per die (R162). -/
def taskEntries : Nat := 8192
/-- Jobs of a core's transfer front end (R242). -/
def frontEndJobs : Nat := 64
/-- Operations a matrix engine holds (R314). -/
def engineOps : Nat := 4
/-- Replay rows of a core (R321). -/
def replayRows : Nat := 256
/-- Blocks in a leaf's queue (R282). -/
def leafQueue : Nat := 256
/-- Send permits of a leaf's link (R282). -/
def linkPermits : Nat := 16
/-- The completion window (R292). -/
def window : Nat := 4096
/-- Device-side launches per interface (R164). -/
def deviceLaunches : Nat := 256
/-- Arithmetic-clock cycles in a microsecond at the full clock (R2). -/
def cyclesPerUs (mhz : Nat) : Nat := mhz
/-- Bytes of a save record (R315). -/
def saveRecord : Nat := 2228224

end Sys2Proof.Config
end

