-- ==== Sys2Proof/Machine/Num.lean ====
section
/-!
DEFINITION. Number formats and exact arithmetic (R76 to R95): values are decoded exactly, computed exactly and rounded
once to a format.
-/
namespace Sys2Proof.Machine

/-- A two's-complement integer of some bits. -/
def toSigned (bits x : Nat) : Int := if x < 2 ^ (bits - 1) then (x : Int) else (x : Int) - 2 ^ bits
/-- A floating-point format (Table 5-1): exponent and fraction bits, bias, largest finite code, whether it has infinities,
a NaN code and a sign bit, and the code of its canonical NaN. -/
structure Fmt where
  exp : Nat
  frac : Nat
  bias : Nat
  maxCode : Nat
  hasInf : Bool
  hasNan : Bool
  signed : Bool
  nan : Nat
  deriving DecidableEq, Repr

def Fmt.f64 : Fmt := ⟨11, 52, 1023, 0x7FEFFFFFFFFFFFFF, true, true, true, 0x7FF8000000000000⟩
def Fmt.f32 : Fmt := ⟨8, 23, 127, 0x7F7FFFFF, true, true, true, 0x7FC00000⟩
def Fmt.f16 : Fmt := ⟨5, 10, 15, 0x7BFF, true, true, true, 0x7E00⟩
def Fmt.bf16 : Fmt := ⟨8, 7, 127, 0x7F7F, true, true, true, 0x7FC0⟩
def Fmt.e4m3 : Fmt := ⟨4, 3, 7, 0x7E, false, true, true, 0x7F⟩
def Fmt.e5m2 : Fmt := ⟨5, 2, 15, 0x7B, true, true, true, 0x7E⟩
def Fmt.e2m1 : Fmt := ⟨2, 1, 1, 7, false, false, true, 0⟩
def Fmt.e3m5 : Fmt := ⟨3, 5, 3, 0xFE, false, true, false, 0xFF⟩
/-- The matrix engine's internal format: two more exponent bits (R93). -/
def Fmt.internal (f : Fmt) : Fmt :=
  { exp := f.exp + 2, frac := f.frac, bias := 2 ^ (f.exp + 1) - 1, maxCode := (2 ^ (f.exp + 2) - 1) * 2 ^ f.frac - 1, hasInf := true,
    hasNan := true, signed := true, nan := (2 ^ (f.exp + 2) - 1) * 2 ^ f.frac + 2 ^ (f.frac - 1) }
def Fmt.signBit (f : Fmt) : Nat := if f.signed then 2 ^ (f.exp + f.frac) else 0
def Fmt.infCode (f : Fmt) : Nat := (2 ^ f.exp - 1) * 2 ^ f.frac

/-- A value: NaN (signalling or not), an infinity, or ± m × 2^e. -/
inductive Num where
  | nan (sig : Bool)
  | inf (neg : Bool)
  | fin (neg : Bool) (m : Nat) (e : Int)
  deriving DecidableEq, Repr

/-- The value of a code (R76 to R78, R84). -/
def Fmt.decode (f : Fmt) (x : Nat) : Num :=
  let neg := f.signed && x / 2 ^ (f.exp + f.frac) % 2 == 1
  let mag := x % 2 ^ (f.exp + f.frac)
  let e := mag / 2 ^ f.frac
  let m := mag % 2 ^ f.frac
  if f.hasNan && decide (f.maxCode < mag) && !(f.hasInf && m == 0) then .nan (f.hasInf && decide (7 ≤ f.frac) && m / 2 ^ (f.frac - 1) == 0)
  else if f.hasInf && mag == f.infCode then .inf neg
  else if e == 0 then .fin neg m (1 - (f.bias : Int) - f.frac)
  else .fin neg (2 ^ f.frac + m) ((e : Int) - f.bias - f.frac)

/-- IEEE 754 exceptions in the bit order of Table 5-5. -/
abbrev Flags := BitVec 5
def fIV : Flags := 1
def fDZ : Flags := 2
def fOF : Flags := 4
def fUF : Flags := 8
def fNX : Flags := 16

/-- n / d × 2^e in units of 2^q: the quotient, and the remainder over a divisor. -/
def scaleDiv (n d : Nat) (e q : Int) : Nat × Nat × Nat :=
  let n' := if e ≥ q then n * 2 ^ (e - q).toNat else n
  let d' := if e ≥ q then d else d * 2 ^ (q - e).toNat
  (n' / d', n' % d', d')
/-- Whether rounding moves the magnitude up (R82). -/
def roundUp (rm : Rnd) (neg : Bool) (q r d : Nat) : Bool :=
  match rm with
  | .rn => decide (d < 2 * r) || (2 * r == d && q % 2 == 1)
  | .rz => false
  | .ru => !neg && r != 0
  | .rd => neg && r != 0
/-- floor(log2(n / d × 2^e)) for n, d > 0. -/
def log2Rat (n d : Nat) (e : Int) : Int :=
  let k : Int := (n.log2 : Int) - d.log2
  let big := if k ≥ 0 then decide (d * 2 ^ k.toNat ≤ n) else decide (d ≤ n * 2 ^ (-k).toNat)
  if big then k + e else k - 1 + e
/-- The code an overflow gives in a format with infinities (R86). -/
def overflowInf (rm : Rnd) (neg : Bool) : Bool :=
  match rm with
  | .rn => true
  | .rz => false
  | .ru => !neg
  | .rd => neg

/-- A magnitude rounded with the exponent unbounded above: the code, whether it is inexact and whether it is tiny after
rounding. -/
def Fmt.roundMag (f : Fmt) (rm : Rnd) (neg : Bool) (n d : Nat) (e : Int) : Nat × Bool × Bool :=
  if n == 0 then (0, false, false)
  else
    let lb := log2Rat n d e
    let qmin : Int := 1 - (f.bias : Int) - f.frac
    let q := max qmin (lb - f.frac)
    let x := scaleDiv n d e q
    let sig := x.1 + (if roundUp rm neg x.1 x.2.1 x.2.2 then 1 else 0)
    let y := scaleDiv n d e (lb - f.frac)
    let sig' := y.1 + (if roundUp rm neg y.1 y.2.1 y.2.2 then 1 else 0)
    let lb' := if sig' == 2 ^ (f.frac + 1) then lb + 1 else lb
    ((q - qmin).toNat * 2 ^ f.frac + sig, x.2.1 != 0, decide (lb' < 1 - (f.bias : Int)))

/-- Round a finite value ± n/d × 2^e to a format: its code and exceptions; `ftz` flushes a subnormal result (R83, R85). -/
def Fmt.round (f : Fmt) (rm : Rnd) (ftz sat : Bool) (neg : Bool) (n d : Nat) (e : Int) : Nat × Flags :=
  let sb := if neg then f.signBit else 0
  let r := f.roundMag rm neg n d e
  if decide (f.maxCode < r.1) then
    if sat then (sb + f.maxCode, fNX)
    else if overflowInf rm neg then (if f.hasInf then sb + f.infCode else f.nan, fOF ||| fNX)
    else (sb + f.maxCode, fOF ||| fNX)
  else if ftz && r.1 != 0 && decide (r.1 < 2 ^ f.frac) then (sb, fUF ||| fNX)
  else (sb + r.1, (if r.2.1 then fNX else 0) ||| (if r.2.1 && r.2.2 then fUF else 0))

/-- Read an operand: a signalling NaN raises invalid; under flush a subnormal is a zero of its sign (R83, R84). -/
def Fmt.operand (f : Fmt) (ftz : Bool) (x : Nat) : Num × Flags :=
  match f.decode x with
  | .nan true => (.nan true, fIV)
  | .fin neg m e => if ftz && decide (m < 2 ^ f.frac) then (.fin neg 0 e, 0) else (.fin neg m e, 0)
  | v => (v, 0)
def Num.isNan : Num → Bool
  | .nan _ => true
  | _ => false
def Num.negate : Num → Num
  | .inf n => .inf !n
  | .fin n m e => .fin (!n) m e
  | v => v
/-- The exact product; none: invalid (∞ × 0). NaN operands are excluded by callers. -/
def Num.mul : Num → Num → Option Num
  | .fin n m e, .fin k p g => some (.fin (n != k) (m * p) (e + g))
  | .inf n, .inf k => some (.inf (n != k))
  | .inf n, .fin k p _ => if p == 0 then none else some (.inf (n != k))
  | .fin n m _, .inf k => if m == 0 then none else some (.inf (n != k))
  | _, _ => none
/-- The exact sum; none: invalid (∞ − ∞). The sign of a zero sum follows the rounding mode (R82). -/
def Num.add (rm : Rnd) : Num → Num → Option Num
  | .fin n m e, .fin k p g =>
    let c := min e g
    let a : Int := (m * 2 ^ (e - c).toNat : Nat)
    let b : Int := (p * 2 ^ (g - c).toNat : Nat)
    let t := (if n then -a else a) + (if k then -b else b)
    if t == 0 then some (.fin (if m == 0 && p == 0 && n == k then n else rm == .rd) 0 c)
    else some (.fin (decide (t < 0)) t.natAbs c)
  | .inf n, .inf k => if n == k then some (.inf n) else none
  | .inf n, .fin _ _ _ => some (.inf n)
  | .fin _ _ _, .inf k => some (.inf k)
  | _, _ => none
/-- Deliver a value in a format. -/
def Fmt.deliver (f : Fmt) (rm : Rnd) (ftz sat : Bool) (v : Option Num) : Nat × Flags :=
  match v with
  | none => (f.nan, fIV)
  | some (.nan _) => (f.nan, 0)
  | some (.inf neg) => (f.infCode + (if neg then f.signBit else 0), 0)
  | some (.fin neg m e) => f.round rm ftz sat neg m 1 e

def Fmt.fadd (f : Fmt) (rm : Rnd) (ftz : Bool) (x y : Nat) : Nat × Flags :=
  let a := f.operand ftz x
  let b := f.operand ftz y
  if a.1.isNan || b.1.isNan then (f.nan, a.2 ||| b.2) else f.deliver rm ftz false (Num.add rm a.1 b.1)
def Fmt.fsub (f : Fmt) (rm : Rnd) (ftz : Bool) (x y : Nat) : Nat × Flags :=
  let a := f.operand ftz x
  let b := f.operand ftz y
  if a.1.isNan || b.1.isNan then (f.nan, a.2 ||| b.2) else f.deliver rm ftz false (Num.add rm a.1 b.1.negate)
def Fmt.fmul (f : Fmt) (rm : Rnd) (ftz : Bool) (x y : Nat) : Nat × Flags :=
  let a := f.operand ftz x
  let b := f.operand ftz y
  if a.1.isNan || b.1.isNan then (f.nan, a.2 ||| b.2) else f.deliver rm ftz false (Num.mul a.1 b.1)
/-- a × b + c, rounded once (R82). Whether ∞ × 0 with a quiet NaN addend raises invalid is free, as IEEE 754-2019 leaves it to the
implementation (assumption 25). -/
def Fmt.ffma (f : Fmt) (rm : Rnd) (ftz : Bool) (x y z : Nat) : Nat × Flags :=
  let a := f.operand ftz x
  let b := f.operand ftz y
  let c := f.operand ftz z
  let fl := a.2 ||| b.2 ||| c.2
  if a.1.isNan || b.1.isNan then (f.nan, fl)
  else match Num.mul a.1 b.1 with
    | none => (f.nan, (if c.1.isNan && !Config.fmaQuietInvalid then 0 else fIV) ||| fl)
    | some p => if c.1.isNan then (f.nan, fl) else f.deliver rm ftz false (Num.add rm p c.1)

/-- a < b for values that are not NaN. -/
def Num.lt : Num → Num → Bool
  | .fin n m e, .fin k p g =>
    let c := min e g
    let a : Int := (m * 2 ^ (e - c).toNat : Nat)
    let b : Int := (p * 2 ^ (g - c).toNat : Nat)
    decide ((if n then -a else a) < (if k then -b else b))
  | .inf n, .inf k => n && !k
  | .inf n, .fin _ _ _ => n
  | .fin _ _ _, .inf k => !k
  | _, _ => false
def Num.isNeg : Num → Bool
  | .inf n => n
  | .fin n _ _ => n
  | .nan _ => false
/-- minimumNumber and maximumNumber (R112): −0 is below +0, a signalling NaN raises invalid. -/
def Fmt.minmax (f : Fmt) (mx ftz : Bool) (x y : Nat) : Nat × Flags :=
  let a := f.operand ftz x
  let b := f.operand ftz y
  let fl := a.2 ||| b.2
  let code := fun (v : Num) => (f.deliver .rn false false (some v)).1
  if a.1.isNan && b.1.isNan then (f.nan, fl)
  else if a.1.isNan then (code b.1, fl)
  else if b.1.isNan then (code a.1, fl)
  else
    let less := a.1.lt b.1 || (!b.1.lt a.1 && a.1.isNeg && !b.1.isNeg)
    (code (if less != mx then a.1 else b.1), fl)
/-- Round to an integral value (FRND, DRND of Table 7-5): only a signalling NaN raises an exception. -/
def Fmt.frnd (f : Fmt) (rm : Rnd) (ftz : Bool) (x : Nat) : Nat × Flags :=
  match f.operand ftz x with
  | (.nan _, fl) => (f.nan, fl)
  | (.inf n, fl) => (f.infCode + (if n then f.signBit else 0), fl)
  | (.fin n m e, fl) =>
    let q := scaleDiv m 1 e 0
    let v := q.1 + (if roundUp rm n q.1 q.2.1 q.2.2 then 1 else 0)
    ((f.round rm false false n v 1 0).1, fl)
/-- The class mask (R114). -/
def Fmt.classOf (f : Fmt) (x : Nat) : Nat :=
  match f.decode x with
  | .nan true => 1
  | .nan false => 2
  | .inf true => 4
  | .inf false => 512
  | .fin n m _ => if m == 0 then (if n then 32 else 64) else if m < 2 ^ f.frac then (if n then 16 else 128) else (if n then 8 else 256)
/-- a × 2^b (FSCALE). -/
def Fmt.fscale (f : Fmt) (rm : Rnd) (ftz : Bool) (x : Nat) (b : Int) : Nat × Flags :=
  match f.operand ftz x with
  | (.fin n m e, fl) =>
    -- a shift beyond any value's range rounds as the largest shift does
    let b' := max (-4096) (min 4096 b)
    let r := f.round rm ftz false n m 1 (e + b')
    (r.1, r.2 ||| fl)
  | (.nan _, fl) => (f.nan, fl)
  | (.inf n, fl) => (f.infCode + (if n then f.signBit else 0), fl)

/-- Convert between floating-point formats (R86, R88, Table 5-7). A largest finite value delivered for an infinity differs from the exact
result, so it raises inexact (R85). An infinity between equal formats under `.sat`, where R118 returns the value and Table 5-7 the largest
finite value, follows Table 5-7 (assumption 67). -/
def cvtFloat (src dst : Fmt) (rm : Rnd) (sat : Bool) (x : Nat) : Nat × Flags :=
  let e2 := !dst.hasNan
  match src.decode x with
  | .nan sig => if e2 then (0, fIV) else if !dst.hasInf && !sat then (dst.nan, fIV) else (dst.nan, if sig then fIV else 0)
  | .inf neg =>
    let sb := if neg then dst.signBit else 0
    if e2 || sat then (sb + dst.maxCode, fNX)
    else if dst.hasInf then (sb + dst.infCode, 0) else (dst.nan, fIV)
  | .fin neg m e => if e2 then dst.round .rn false true neg m 1 e else dst.round rm false sat neg m 1 e
/-- Convert a floating-point value to an integer in a range, as an integer (R87). -/
def cvtToInt (src : Fmt) (rm : Rnd) (lo hi : Int) (x : Nat) : Int × Flags :=
  match src.decode x with
  | .nan _ => (0, fIV)
  | .inf neg => (if neg then lo else hi, fIV)
  | .fin neg m e =>
    let q := scaleDiv m 1 e 0
    let v : Int := ((q.1 + (if roundUp rm neg q.1 q.2.1 q.2.2 then 1 else 0) : Nat) : Int)
    let t := if neg then -v else v
    if t < lo then (lo, fIV) else if hi < t then (hi, fIV) else (t, if q.2.1 != 0 then fNX else 0)
/-- Convert an integer to a floating-point format (R87). -/
def cvtFromInt (dst : Fmt) (rm : Rnd) (sat : Bool) (t : Int) : Nat × Flags :=
  if dst.hasNan then dst.round rm false sat (decide (t < 0)) t.natAbs 1 0 else dst.round .rn false true (decide (t < 0)) t.natAbs 1 0

/-! ### HF4 (R80, R88 to R91) -/

/-- The smallest value of a format that is at least n/d × 2^e, and whether it is exact; the code. -/
def Fmt.roundUpTo (f : Fmt) (n d : Nat) (e : Int) : Nat × Bool :=
  let r := f.roundMag .ru false n d e
  (r.1, !r.2.1)
/-- The conversion of R88 of the exact quotient n/d × 2^e. -/
def toE2m1 (neg : Bool) (n d : Nat) (e : Int) : Nat × Flags := Fmt.e2m1.round .rn false true neg n d e
/-- |x| of a finite value as m × 2^e. -/
def Num.mag : Num → Nat × Int
  | .fin _ m e => (m, e)
  | _ => (0, 0)
/-- The larger magnitude. -/
def maxMag (a b : Nat × Int) : Nat × Int :=
  let c := min a.2 b.2
  if a.1 * 2 ^ (a.2 - c).toNat < b.1 * 2 ^ (b.2 - c).toNat then b else a
/-- A finite positive value as m × 2^e, for a divisor. -/
def bandScale (m : Nat × Int) : Nat × Bool := Fmt.bf16.roundUpTo m.1 186 m.2
/-- Block scale of a block maximum under a band scale (R90). -/
def blockScale (mb : Nat × Int) (s : Nat) : Nat × Bool :=
  match Fmt.bf16.decode s with
  | .fin _ m e => if m == 0 then (0, true) else Fmt.e3m5.roundUpTo mb.1 (6 * m) (mb.2 - e)
  | _ => (0xFF, true)
/-- An element under its block and band scales. -/
def quantElem (v : Num) (sc s : Nat) : Nat × Flags :=
  match v, Fmt.e3m5.decode sc, Fmt.bf16.decode s with
  | .fin neg m e, .fin _ p g, .fin sn q h =>
    if p == 0 || q == 0 then (if neg then 8 else 0, 0) else toE2m1 (neg != sn) m (p * q) (e - g - h)
  | .inf neg, .fin _ p _, .fin sn q _ => if p == 0 || q == 0 then (if neg then 8 else 0, 0) else (if neg != sn then 15 else 7, fNX)
  | .nan _, _, _ => (0, fIV)
  | _, _, _ => (0, fIV)
/-- The value of an HF4 element under its scales (R80); NaN where a scale is NaN or the band scale is infinite. -/
def hf4Value (el sc s : Nat) : Num :=
  match Fmt.e2m1.decode el, Fmt.e3m5.decode sc, Fmt.bf16.decode s with
  | .fin a m e, .fin _ p g, .fin b q h => .fin (a != b) (m * p * q) (e + g + h)
  | _, _, _ => .nan false
/-- `quantise_band` (R90) on rows of values, each row a list of blocks of eight: band scale, block scales and elements;
none: INVALID. -/
def quantiseBand (rows : List (List (List Num))) : Option (Nat × List (List Nat) × List (List (List Nat))) :=
  let all := (rows.map List.flatten).flatten
  let bad := all.any fun v => match v with
    | .fin _ _ _ => false
    | _ => true
  let m := all.foldl (fun a v => maxMag a v.mag) (0, 0)
  let S := (bandScale m).1
  if bad || decide (Fmt.bf16.maxCode < S) then none
  else
    let scales := rows.map fun row => row.map fun b => (blockScale (b.foldl (fun a v => maxMag a v.mag) (0, 0)) S).1
    let els := (rows.zip scales).map fun x => (x.1.zip x.2).map fun y => y.1.map fun v => (quantElem v y.2 S).1
    some (S, scales, els)

end Sys2Proof.Machine
end

