-- ==== Sys2Proof/Machine/State.lean ====
section
/-!
DEFINITION. The state of an HX512: plain data, holding what the manual gives the machine. INVENTORY.md lists every
piece with its rule and its reset value. Machine and state names follow the manual.
-/
namespace Sys2Proof.Machine

/-- Why a step stops with a fault. -/
inductive Fault where
  /-- The agenda names an instruction word as a step of its own; words issue only from a run (assumption 3). Raised by
  `step`. Safe: no run of the hardware reaches it. -/
  | agendaNotStep
  deriving DecidableEq, Repr

/-- Why an instruction is refused. -/
inductive Refusal where
  /-- The instruction has no meaning yet. Raised by an arm of `exec`. Safe: nothing can be proved of what follows. -/
  | notModelled (mnemonic : String)
  deriving DecidableEq, Repr

/-! ### Warps -/

/-- A register of a warp: vector and predicate registers are held per lane (Table 1-3). -/
inductive RegId where
  | v (lane n : Nat)
  | s (n : Nat)
  | p (lane n : Nat)
  deriving DecidableEq, Repr

/-- A fixed-latency result that has not landed (R67): it lands at the cycle `due`. A predicate is held as 0 or 1. -/
structure Pending where
  reg : RegId
  val : Word
  due : Nat
  deriving DecidableEq, Repr

/-- What a scoreboarded result waits for (R68). -/
inductive LateKind where
  | load | plain
  /-- An accumulator of a matrix operation; a predicate under FLAG; a charge (R233, R229, R238). -/
  | op (id : Nat)
  | opFlag (id : Nat)
  | opCharge (id : Nat)
  /-- A predicate of a transfer under FLAG (R250). -/
  | job (id : Nat)
  deriving DecidableEq, Repr

/-- Where a store goes: shared memory, or the scratchpad at a physical address. -/
inductive StoreSpace where
  | shared | scratch
  deriving DecidableEq, Repr

/-- An access of a load in a lane (R170): the first register that it fills, its place, and how many of its bytes come before those registers;
`made`: the number at which it was made (R169). -/
structure Part where
  lane : Nat
  reg : Nat
  space : StoreSpace
  addr : Nat
  len : Nat
  skip : Nat := 0
  made : Nat := 0
  deriving DecidableEq, Repr

/-- A scoreboarded result that has not landed (R68), with the rods its access was tagged with (R147). `rest`: the accesses of a load that have
yet to be made; `loose`: those that have been made and may yet return a newer value of another core (R169); `acq`: the load is an acquire,
`poll`: it is one where it finds a future that is not EMPTY (R181);
`after`: the loads that must be complete before it (R179); `queued`: an atomic that stands in the store queue; `bad`: the registers that
receive poison (R323). -/
structure Late where
  id : Nat
  kind : LateKind
  writes : List (RegId × Word)
  rods : Word
  rest : List Part := []
  loose : List Part := []
  acq : Bool := false
  poll : Bool := false
  after : List Nat := []
  queued : Bool := false
  bad : List Nat := []
  deriving DecidableEq, Repr

/-- An atomic that waits in the store queue for what it must follow (R168, R174): per lane its address and operands, and the number and the
first register of its result. -/
structure QueuedAtomic where
  op : AtomOp
  order : Order
  lanes : List (Nat × Nat × Nat × Nat)
  result : Option (Nat × Nat)
  deriving DecidableEq, Repr

/-- What a future operation does: FRES, FFLT, FREG. -/
inductive FutureKind where
  | full | fault | link
  deriving DecidableEq, Repr

/-- A lane's future operation that waits in the store queue, as a release, for what it must follow (R155 to R157, R181): the place of the future,
and the value or the place of the record. -/
structure QueuedFuture where
  kind : FutureKind
  place : Nat
  arg : Nat
  deriving DecidableEq, Repr

/-- An entry of an SFU queue: reserved by SFQ and supplied later (R121). -/
structure QEntry where
  val : Word
  filled : Bool
  deriving DecidableEq, Repr

/-- A rejoin set (R197). -/
structure JSet where
  member : Mask
  arrived : Mask
  depth : Nat
  deriving DecidableEq, Repr

/-- The fields of a matrix word that signing compares (R232). -/
structure MatWord where
  op : Nat
  d : Nat
  a : Nat
  b : Nat
  c : Nat
  st : Nat
  j : Nat
  deriving DecidableEq, Repr

/-- A group of a view that an instruction waits on, with the sampled generation (R261, R269). -/
structure ViewWait where
  vf : Nat
  handle : Nat
  group : Nat
  g0 : Word
  deriving DecidableEq, Repr

/-- How a run is blocked (R17). `parked`: the lanes of the run that are parked at BAR or REGRP. Lists give the place on which each
parked lane waits; `rods` are the rods its access was tagged with (R147). A wait on views has sampled one group and not those behind it (R269). -/
inductive Wait where
  | jwait (j : Nat)
  | bar (b : Nat) (parked : Mask)
  | barw (b token : Nat)
  | regrp (desc : Bool) (d a n j : Nat) (parked : Mask)
  | word (wide acq : Bool) (d : Nat) (rods : Word) (addrs : List (Nat × Nat))
  | future (wide : Bool) (d : Nat) (rods : Word) (addrs : List (Nat × Nat))
  | sign (w : MatWord)
  | msync (ops : List Nat)
  | nap (until_ : Nat)
  | flush
  /-- FREG on a full continuation table: its tags (R147), and the futures and records of the lanes that have yet to register (R157). -/
  | freg (rods : Word) (links : List (Nat × Nat))
  /-- `act`: the active lanes and their helpers, which receive the predicate. -/
  | view (pd : Nat) (act : Mask) (w : ViewWait) (rest : List (Nat × Nat))
  | fetch (recno : Nat)
  deriving DecidableEq, Repr

/-- A run (R16): `yieldEnd` is the cycle at which its yield window ends (R22), `notBefore` the first cycle at which STALL
lets it issue (R67), `held` a pre-emption hold at a safe point (R313), `handler` that it runs at trap level (R307). -/
structure Run where
  pc : DWord
  lanes : Mask
  age : Nat
  yieldEnd : Option Nat
  notBefore : Nat
  wait : Option Wait
  held : Bool
  handler : Bool
  /-- The samples of an instruction held under WAIT (R261); none left: a range fence that has passed its views (R263). -/
  samples : Option (List ViewWait)
  deriving DecidableEq, Repr

/-- The trap record (Table 1-4). -/
structure TrapRec where
  cause : Word
  pc : DWord
  mask : Mask
  info : Word
  infx : Word
  deriving DecidableEq, Repr

/-- A code-table entry (Table 21-2) as it was read; `early`: it was read from a table that keeps the reading of R355. -/
structure CodeEntry where
  code : DWord
  ppt : DWord
  kind : Nat
  check : Bool
  main : Bool
  mat : Bool
  f64p : Bool
  width : Nat
  regs : Nat
  threads : Nat
  warps : Nat
  team : Nat
  cluster : Nat
  spawnres : Nat
  shared : Nat
  scratch : Nat
  /-- .over: the handle of the TensorHandle that the tiles divide. -/
  overTh : Nat
  operands : List Nat
  maps : List Nat
  rods : List (DWord × Word)
  stack : Nat
  bars : BitVec 16
  early : Bool
  deriving DecidableEq, Repr

/-- Trap level (R306, R307): the lanes of %tmask with their call depths and %sp at handler entry, and the handler's entry. -/
structure TrapLevel where
  mask : Mask
  depth : Sparse Nat
  sp : Sparse Word
  handler : CodeEntry
  deriving DecidableEq, Repr

/-- An entry of a warp's store queue (R167): a store, an atomic or a future operation; `seq` places it among the warp's loads and engine jobs in issue order,
`after` are the loads that must be complete before it (R179). -/
structure StoreEntry where
  space : StoreSpace
  addr : Nat
  bytes : List Byte
  rel : Option Scope
  rods : Word
  lost : Bool
  seq : Nat := 0
  after : List Nat := []
  atom : Option QueuedAtomic := none
  fut : Option QueuedFuture := none
  deriving DecidableEq, Repr

/-- A warp. Vector registers are keyed `1024 * lane + n`, predicates `8 * lane + n`, queues `128 * level + 2 * lane + q`,
stack bytes `2^20 * lane + offset`, reach masks by barrier (16 to 19: cb0 to cb3). -/
structure Warp where
  live : Mask
  helpers : Mask
  runs : List Run
  v : Sparse Word
  s : Sparse Word
  p : Sparse Bool
  sets : Sparse JSet
  queues : Sparse (List QEntry)
  depth : Sparse Nat
  sp : Sparse Word
  /-- Bytes written; a byte that is not listed has not been written since `stackTag` was set (R32, R132). -/
  stack : Sparse (Option Byte)
  stackTag : Option Nat
  reach : Sparse Mask
  /-- The barriers at which the warp has arrived in the current phase (R208). -/
  arrived : Sparse Bool
  /-- Per barrier that the warp has reached with every live lane, the number below which its accesses come before its arrival (R217). -/
  dueAt : Sparse (Option Nat) := []
  trec : TrapRec
  trap : Option TrapLevel
  pend : List Pending
  late : List Late
  storeQ : List StoreEntry
  vPois : List Nat
  sPois : List Nat
  stackPois : List Nat
  halted : Bool
  ended : Bool
  /-- The warp has ended in the step in progress (R232). -/
  endedNow : Bool
  /-- A warp of the team has ended while lanes of this warp were signed, during its trap level (R310). -/
  heldTeam : Option Nat
  /-- The cycle at which the warp was last picked (R302). -/
  picked : Nat
  /-- Writes below this number happen before the warp's next accesses (R172), and per rod for accesses that are tagged with it (R179). -/
  floor : Nat := 0
  rodFloor : Sparse Nat := []
  /-- Per scratchpad word, the number below which the warp has read past (R171). -/
  readAt : Sparse Nat := []
  /-- Acquire range fences: the rods they name, and the earlier loads that later accesses tagged with one of them wait for (R179). -/
  acqs : List (Word × List Nat) := []
  deriving DecidableEq, Repr

/-! ### Blocks -/

/-- Barrier state (Table 11-6). -/
structure Barrier where
  ready : Bool
  phase : BitVec 16
  expW : Nat
  arrW : Nat
  expB : Nat
  arrB : Nat
  lost : Bool
  deriving DecidableEq, Repr

/-- A range that a rod or a footprint names: a space, a base and a length; for `th`, the base is a handle (R147, R150). -/
structure Range where
  space : RodSpace
  base : Nat
  len : Nat
  deriving DecidableEq, Repr

/-- A team (R11): its charge average (R238), and per stream the last operation issued and the last charge. -/
structure Team where
  avg : Word
  lastOp : Sparse Nat
  charge : Sparse Word
  passed : Nat
  /-- The stream whose turn comes first (R239). -/
  turn : Nat := 0
  deriving DecidableEq, Repr

/-- A queue class (Table 21-8). -/
inductive QClass where
  | deadline | interactive | bulk
  deriving DecidableEq, Repr

/-- Pre-emption of a block (R313). -/
inductive Preempt where
  | none | requested
  deriving DecidableEq, Repr

/-- A block or a task. Cores, clusters and dies are physical: core `c` is core `c % 4` of cluster `c / 4`, cluster `k` is on
die `k / 16`. -/
structure Block where
  id : Nat
  vf : Nat
  launch : Nat
  task : Bool
  core : Nat
  slot : Nat
  q0 : Nat
  decl : CodeEntry
  depth : Nat
  cls : QClass
  deadline : DWord
  tile : Nat
  coords : List Nat
  tcnt : Nat
  version : Nat
  spill : Nat
  tbase : DWord
  obase : List DWord
  sbase : DWord
  /-- The staging region in the cluster's slice: offset and bytes (R284). -/
  region : Nat
  regionLen : Nat
  cstat : Word
  warps : List Warp
  bars : List Barrier
  gang : Option Nat
  rods : List (List Range)
  /-- Bytes of shared memory that have been written; the rest is undefined (R32): byte `a` is free byte `sharedTag + a`. -/
  shared : Sparse (Option Byte)
  sharedTag : Nat
  sharedPois : List Nat
  teams : List Team
  reserve : Nat
  futures : List Nat
  pins : List (Nat × Nat)
  preempt : Preempt
  /-- The block has ended but keeps its resources (R292). -/
  parked : Bool
  /-- The number of the image that the device wrote over the block's save record (R315; assumption 24). -/
  record : Option Nat := none
  deriving DecidableEq, Repr

/-- A cluster gang (R10): its cluster barriers and the created warps of all blocks it was placed with (R204, R209). -/
structure Gang where
  id : Nat
  cluster : Nat
  created : Nat
  bars : List Barrier
  deriving DecidableEq, Repr

/-! ### Engines -/

/-- The kinds of transfer job. A staging copy is a BCP of the leaf (R286). -/
inductive JobKind where
  | copy | fill | push | pull | multicast | gather | scatter | prefetch
  deriving DecidableEq, Repr

/-- A chunk of a transfer (R243): the bytes `off` to `off + len - 1` of a row, the index read for the row (R246), whether it
is under way to or from a peer, the fault that parks it (R320) and whether it waits for its receiver (R321). -/
structure Chunk where
  id : Nat
  row : Nat
  off : Nat
  len : Nat
  index : Option Nat
  sent : Bool
  parked : Option Nat
  later : Bool
  deriving DecidableEq, Repr

/-- An engine job of the transfer front end (R241 to R249). -/
structure Job where
  id : Nat
  vf : Nat
  blk : Nat
  warp : Nat
  staging : Bool
  kind : JobKind
  dst : XSpace
  src : XSpace
  dstAddr : Nat
  srcAddr : Nat
  len : Nat
  rows : Nat
  sPitch : Nat
  dPitch : Nat
  pattern : Word
  bar : Nat
  list : Nat
  limit : Nat
  cores : BitVec 4
  /-- The peer device, the peer word and the address of its signal word (Table 13-13). -/
  dev : Nat
  peer : Word
  sig : Nat
  chunks : List Chunk
  reads : List Range
  writes : List Range
  rods : Word
  failed : Bool
  /-- One of its chunks has moved (R259). -/
  begun : Bool := false
  /-- The operand tile that a staging copy reads and pins (R277): handle and tile. -/
  pin : Option (Nat × Nat) := none
  /-- The loads of its warp that must be complete before it (R172, R179). -/
  after : List Nat := []
  deriving DecidableEq, Repr

/-- Where a matrix operation takes an operand: units captured at issue (R233), a scratchpad image (R228), a tile block at
the address of a copy (R229). -/
inductive MatSrc where
  | regs (codes scales : List Nat) (band : Nat) (bad : List Bool)
  | scratch (base p tp q : Nat)
  | tile (main : Bool) (addr handle tile block : Nat)
  deriving DecidableEq, Repr

/-- An issued matrix operation (R233). -/
structure MatOp where
  id : Nat
  core : Nat
  blk : Nat
  team : Nat
  st : Nat
  op : Nat
  fmt : Word
  dst : Nat
  srcA : MatSrc
  srcB : MatSrc
  positions : List Nat
  /-- The accumulator input, read at start (R233), and which of its elements are poisoned (R323). -/
  acc : List Nat
  accBad : List Bool := []
  reads : List Range
  /-- The rods its bytes overlapped when it was issued (R147). -/
  rods : Word
  started : Bool
  parked : Option Nat
  aborted : Bool
  warps : List Nat
  /-- The loads of its warps that must be complete before it (R172, R179). -/
  after : List Nat := []
  deriving DecidableEq, Repr

/-- An entry of a wait table (R142): a warp parked on a word, or on a future, at a physical scratchpad address; `woken`: a write to it has been
performed at package scope. -/
structure WaitEntry where
  ref : WarpRef
  addr : Nat
  len : Nat
  woken : Bool := false
  deriving DecidableEq, Repr

/-- Whose later releases cover a write, since it happens before them (R172): a warp's, or those of the warps that observe the phase of a
barrier; `unit` is the block's number, or the gang's. -/
inductive Knower where
  | warp (r : WarpRef)
  | bar (unit b : Nat)
  deriving DecidableEq, Repr

/-- A write that has left its store queue, with its number there, and is performed at core or die scope, not yet at package scope (R175). -/
structure Flight where
  blk : Nat
  warp : Nat
  core : Nat
  die : Bool
  addr : Nat
  bytes : List Byte
  rods : Word
  known : List Knower
  seq : Nat := 0
  deriving DecidableEq, Repr

/-- A write performed at package scope in the scratchpad, with the bytes that it replaced, which a relaxed load that nothing orders behind
it may still return (R169, R173). `by_`: the core whose warp wrote it and whether its die saw it before; none: an agent outside the cores. -/
structure Past where
  seq : Nat
  by_ : Option (Nat × Bool)
  addr : Nat
  old : List Byte
  deriving DecidableEq, Repr

/-- The stores and atomics of an issuer that its SPAWN or LNCH covers and that had not left its queue (R181): those of a warp below a number,
or some that are lost, so that the release is never performed (R176). -/
inductive Cover where
  | none
  | stores (r : WarpRef) (n : Nat)
  | never
  deriving DecidableEq, Repr

/-- A pending task or ready continuation (R162, R159). -/
structure PendTask where
  vf : Nat
  die : Nat
  num : Nat
  args : List Word
  /-- The numbers of its poisoned arguments (R323). -/
  bad : List Nat
  depth : Nat
  launch : Nat
  cls : QClass
  deadline : DWord
  owner : Option Nat
  cstat : Word
  record : Nat
  /-- The engine jobs that its issuer's release waits for, and the stores (R181, R182). -/
  after : List Nat := []
  cover : Cover := .none
  deriving DecidableEq, Repr

/-- A link from a future to a continuation record (R157), at physical scratchpad addresses. -/
structure Link where
  future : Nat
  record : Nat
  vf : Nat
  launch : Nat
  cls : QClass
  deadline : DWord
  deriving DecidableEq, Repr

/-! ### Views -/

/-- A stamp (Table 15-2). -/
structure Stamp where
  pois : Bool
  gen : Word
  deriving DecidableEq, Repr

/-- A registered view: its stamps by group, and, for a view without a placement table, the home code and the address of each of its
tiles (Table 15-1; assumption 26). -/
structure View where
  vf : Nat
  handle : Nat
  master : Nat
  stamps : Sparse Stamp
  homes : List (Nat × Nat)
  /-- The queue whose VIEWREG has not yet completed (R253). -/
  reg : Option Nat
  deriving DecidableEq, Repr

/-- A dirty group, in the order of the list (R258); `ahead`: VREFR has put it before the others of its die (R270). -/
structure Dirty where
  vf : Nat
  handle : Nat
  group : Nat
  ahead : Bool
  deriving DecidableEq, Repr

/-- A message to a peer device's interface, in the order sent (R321, R350, R351). -/
inductive FabMsg where
  | write (dev vf job chunk : Nat) (main : Bool) (addr : Nat) (bytes : List Byte) (bad : List Nat)
  | read (dev vf job chunk : Nat) (main : Bool) (addr len : Nat)
  | signal (dev vf addr val : Nat)
  | answer (dev vf : Nat) (a : FabAnswer)
  | ready (dev vf : Nat)
  deriving DecidableEq, Repr

/-- Where a refresh stands (R258): its source is yet to be read; a peer has been asked for it; its content is built; the peers that it is homed on
have been asked for what they hold; it is being committed; or a commit that failed is being taken back (R265). -/
inductive RefreshStage where
  | source | fetch | ready | probe | commit | undo
  deriving DecidableEq, Repr

/-- A refresh in progress (R258): the generation it was started at, the fault that parks it, the rows that a peer has yet to answer, and what
is left to commit: rows for peers, a list per step of R258, then parts of at most 4 KiB for the homes of this device. `back` and `old` are what
the peers, and the homes of this device, held before the commit began: rows that write it again, and the parts with their poisoned words
(R265). -/
structure Commit where
  id : Nat
  vf : Nat
  handle : Nat
  group : Nat
  gen : Word
  stage : RefreshStage
  parked : Option Nat
  rows : List (Nat × FabMsg)
  far : List (List FabMsg)
  near : List (List (Nat × List Byte))
  back : List FabMsg := []
  old : List (List (Nat × List Byte × List Nat)) := []
  deriving DecidableEq, Repr

/-! ### Launches -/

/-- The options of a launch block (Table 9-9). -/
structure LaunchOpts where
  args : List Word
  /-- The numbers of its poisoned arguments (R323). -/
  bad : List Nat
  spill : Nat
  nearest : Bool
  cont : Bool
  fetch : Bool
  count : Option Nat
  pfx : Option Nat
  done : Option Nat
  pred : Option Nat
  deriving DecidableEq, Repr

/-- A tile's completion (Table 17-7). -/
structure TileDone where
  stat : Nat
  ranAt : Nat
  spill : Nat
  version : Nat
  deriving DecidableEq, Repr

/-- Where a launch stands. -/
inductive Phase where
  | waiting | walking | walked | done
  deriving DecidableEq, Repr

/-- A launch (R278 to R297). -/
structure Launch where
  vf : Nat
  num : Nat
  kernel : CodeEntry
  queue : Option Nat
  noirq : Bool
  cls : QClass
  deadline : DWord
  stamp : DWord
  arrival : Nat
  opts : LaunchOpts
  phase : Phase
  tiles : Nat
  countWord : Nat
  next : Nat
  deferred : List Nat
  /-- The physical clusters of its engine group when it started (R288, R343). -/
  clusters : List Nat
  handing : Option (Nat × List (Nat × Nat × Nat))
  tileDone : List (Nat × TileDone)
  completed : Nat
  posted : Nat
  created : Nat
  status : Nat
  suspended : Bool
  aborted : Bool
  bundle : Option (Nat × Nat)
  parkedRec : Option Nat
  /-- The tiles whose records its walk treats as FAULTED, since the host has aborted their faults (R320). -/
  lostRecs : List Nat
  doneAt : DWord
  retired : Bool
  quantumFired : Bool
  started : Nat
  /-- The binding of its queue when it started (R343). -/
  bind : Word
  /-- The engine jobs that its issuer's release waits for, and the stores (R181, R182). -/
  after : List Nat := []
  cover : Cover := .none
  deriving DecidableEq, Repr

/-- An entry of a leaf's queue: a tile or a gang of one launch, or a suspended block returning (R282, R316). -/
structure LeafEntry where
  vf : Nat
  launch : Nat
  /-- Tiles with their VERSION and spill code. -/
  tiles : List (Nat × Nat × Nat)
  gang : Bool
  cls : QClass
  deadline : DWord
  resume : Option Nat
  accepted : Nat
  /-- Since when a gang has waited at the head of the queue, and whether it has waited longer than AGE (R298). -/
  headSince : Option Nat := none
  aged : Bool := false
  deriving DecidableEq, Repr

/-- A leaf controller (R282, R298). -/
structure Leaf where
  incoming : List LeafEntry
  queue : List LeafEntry
  deriving DecidableEq, Repr

/-! ### Interfaces and the device -/

/-- A completion entry that waits for a ring slot (R339). -/
structure Posting where
  tile : Bool
  bytes : List Byte
  irq : Bool
  /-- The launch of a tile entry. -/
  launch : Nat := 0
  deriving DecidableEq, Repr

/-- A command queue (Tables 21-3, 21-4, 21-8). -/
structure Queue where
  qbase : DWord
  qcomp : DWord
  qcfg : Word
  qwr : Word
  qrd : Word
  qcrd : Word
  qibase : DWord
  qilen : Word
  bind : Word
  halted : Bool
  lwr : Word
  twr : Word
  /-- Launch number of each recent command, newest first, 0 where it was no launch (R336 REL). -/
  recent : List Nat
  arrivals : List (Word × Nat × DWord)
  posts : List Posting
  held : Bool
  /-- The command at its read index has started and not completed (R338), under this binding (R343). -/
  started : Bool
  startBind : Word
  deriving DecidableEq, Repr

/-- A virtual interface: BAR0 registers (Table 21-1), queues and the physical function's registers for it. -/
structure Vf where
  dbgctl : Word
  fpxctl : Word
  spillth : Word
  gangage : Word
  traph : Word
  event : Word
  quant : Word
  savebase : DWord
  ptroot : DWord
  htab : DWord
  ctab : DWord
  frbase : DWord
  drbase : DWord
  frcfg : Word
  drcfg : Word
  frrd : Word
  drrd : Word
  mmwin : DWord
  frwr : Word
  /-- Records of translation faults that wait for a slot of the fault ring (R341). -/
  frPosts : List (List Byte)
  /-- The handles and the entry numbers whose descriptors and code-table entries were written in early service and keep its reading (R355). -/
  earlyTh : List Nat
  earlyCode : List Nat
  /-- The device-side completion ring's queue state (R291). -/
  dev : Queue
  queues : Sparse Queue
  egrp : List (BitVec 128)
  vfclu : BitVec 128
  /-- Those of its clusters that are disabled, whose slices it holds without cores (R347). -/
  coreless : BitVec 128
  vfctl : Word
  enWaits : Bool
  flr : Bool
  fbind : Sparse Byte
  lastLaunch : Nat
  records : Nat
  devHalted : Bool
  /-- The queue whose turn is next (R299), keyed `8 * class + group`. -/
  turn : Sparse Nat
  /-- The engine groups that have been reported idle, or have had no work (R299). -/
  idle : BitVec 8
  deriving DecidableEq, Repr

/-- A migration in progress (R337, Table 21-6 MIGRATE): the queue of its command, the tile and its size, the copy's old and new home
code and address, and the rows under way to or from a peer. -/
structure Migration where
  id : Nat
  vf : Nat
  queue : Nat
  handle : Nat
  tile : Nat
  copy : Nat
  len : Nat
  fromCode : Nat
  fromAddr : Nat
  toCode : Nat
  toAddr : Nat
  early : Bool
  rows : List (Nat × FabMsg)
  failed : Bool
  deriving DecidableEq, Repr

/-- What a translation fault parked (R320). -/
inductive Parked where
  | chunk (job id : Nat)
  | fetch (w : WarpRef)
  | op (id : Nat)
  | sign (blk team : Nat)
  | view (handle group : Nat)
  | walk (launch tile : Nat)
  | stage (leaf accepted va : Nat)
  | save (blk : Nat)
  | peer (dev peerVf : Nat)
  deriving DecidableEq, Repr

/-- A translation fault: its record number, and whether FRESP has answered it. -/
structure ParkedFault where
  vf : Nat
  recno : Nat
  what : Parked
  abort : Option Bool
  deriving DecidableEq, Repr

/-- The image that the firmware complex runs (R352, R353): its length, the SHA-384 hash of its body, and its version. -/
structure Image where
  len : BitVec 26
  hash : List Byte
  version : Nat
  deriving DecidableEq, Repr

/-- What the device answers to a host read, and the interrupts it raises, newest first. -/
inductive HostMsg where
  | readData (bytes : List Byte)
  | unsupported
  | irq (vf : Option Nat) (vector : Nat)
  deriving DecidableEq, Repr

/-- The runs that the current issue opportunity has selected and not yet issued (R20; assumption 3). -/
structure Latch where
  ref : WarpRef
  d0 : Mask
  d1 : Option Mask
  deriving DecidableEq, Repr

/-- A quadrant (R302): `busy` is the first cycle at which it may issue again, `last` the cycle of its last opportunity plus
one, `used` the last cycle of each engine. -/
structure Quad where
  busy : Nat
  last : Nat
  used : Sparse Nat
  deriving DecidableEq, Repr

/-- What moves next (assumption 3): a cycle passes, or a step that is not an instruction word. -/
inductive Move where
  | tick
  | act (i : Instr)
  deriving DecidableEq, Repr

/-- The state. -/
structure State where
  clock : Nat
  mhz : Nat
  time : Nat
  timeRuns : Bool
  timeMark : Option Nat
  timeWritten : Option Nat
  timeSlew : Int
  /-- The nanoseconds that have run since %time last slewed, at most 1,000 (R345). -/
  slewRun : Nat
  level : Nat
  /-- The enabled clusters, fixed in the part (R1): all 128 of an HX512, 14 on each die of an HX448. -/
  enabled : BitVec 128
  /-- Every memory link has trained and every die has passed its self-test (R354). -/
  trained : Bool
  fwFail : BitVec 4
  fwRefusal : BitVec 2
  fwctl : Word
  image : Option Image
  fabid : BitVec 8
  ramp : Word
  pwrlim : Word
  tpwr : Word
  /-- The package power of the last ten windows of 100 µs, newest first (R357, R358). -/
  watts : List Nat
  tdie : List Word
  cecnt : Word
  uecnt : Word
  frlost : Word
  attn : BitVec 384
  pffrbase : DWord
  pffrcfg : Word
  pffrrd : Word
  pffrwr : Word
  pfRecords : Nat
  pfevent : Word
  pmwin : DWord
  ports : BitVec 18
  coreHalted : Bool
  admitting : Bool
  mm : Memory
  sp : Memory
  host : Memory
  stagingArea : Memory
  mmPois : List Nat
  spPois : List Nat
  flight : List Flight
  past : List Past
  waitTab : List WaitEntry
  links : List Link
  tasks : List PendTask
  conts : List PendTask
  blocks : List Block
  saved : List Block
  gangs : List Gang
  jobs : List Job
  ops : List MatOp
  grants : Sparse Nat
  views : List View
  dirty : List Dirty
  commits : List Commit
  gens : Sparse Word
  launches : List Launch
  leaves : Sparse Leaf
  /-- Pacing (R303), by die: the blocks started and ended in its interval, when the interval began; and the cores that idle until a later one admits them. -/
  starts : Sparse Nat
  ends : Sparse Nat
  rampAt : Sparse Nat
  idling : List Nat
  vfs : Sparse Vf
  quads : Sparse Quad
  faults : List ParkedFault
  pinned : List (Nat × Nat × Nat)
  migrating : List Migration
  fab : List FabMsg
  /-- The peer copies whose remote signal has been sent, with their interface: a receiver may yet refuse it (R351). -/
  signals : List (Nat × Nat)
  hostOut : List HostMsg
  nextId : Nat
  fresh : Nat
  issue : Option Latch
  agenda : List Move
  deriving DecidableEq, Repr

/-- A queue at reset (Table 21-4 gives QCFG 0, Table 21-8 HX_QBIND 0; the rest are assumption 2). -/
def Queue.reset : Queue :=
  { qbase := 0, qcomp := 0, qcfg := 0, qwr := 0, qrd := 0, qcrd := 0, qibase := 0, qilen := 0, bind := 0, halted := false,
    lwr := 0, twr := 0, recent := [], arrivals := [], posts := [], held := false, started := false, startBind := 0 }

/-- An interface at reset (Tables 3-19, 5-5, 17-6, 17-9, 19-1, 19-4, 21-1, 21-9; R343; assumption 2). -/
def Vf.reset : Vf :=
  { dbgctl := 0, fpxctl := 0, spillth := 8, gangage := 20, traph := 0, event := 0, quant := 0, savebase := 0, ptroot := 0,
    htab := 0, ctab := 0, frbase := 0, drbase := 0, frcfg := 0, drcfg := 0, frrd := 0, drrd := 0, mmwin := 0, frwr := 0,
    frPosts := [], earlyTh := [], earlyCode := [],
    dev := Queue.reset, queues := [], egrp := BitVec.allOnes 128 :: List.replicate 7 0, vfclu := 0, coreless := 0, vfctl := 0,
    enWaits := false, flr := false, fbind := [], lastLaunch := 0, records := 0, devHalted := false, turn := [], idle := 255 }

/-- A leaf at reset. -/
def Leaf.reset : Leaf := { incoming := [], queue := [] }

/-- A quadrant at reset. -/
def Quad.reset : Quad := { busy := 0, last := 0, used := [] }

/-- The machine right after reset (INVENTORY.md, State): nothing runs, memory lists nothing. -/
def State.reset : State :=
  { clock := 0, mhz := 1000, time := 0, timeRuns := false, timeMark := none, timeWritten := none, timeSlew := 0, slewRun := 0, level := 0, enabled := BitVec.allOnes 128, trained := false,
    fwFail := 0, fwRefusal := 0, fwctl := 0, image := none, fabid := 0, ramp := 0x0000100A, pwrlim := 8000, tpwr := 0, watts := [],
    tdie := List.replicate 8 0, cecnt := 0, uecnt := 0, frlost := 0, attn := 0, pffrbase := 0, pffrcfg := 0, pffrrd := 0,
    pffrwr := 0, pfRecords := 0, pfevent := 0, pmwin := 0, ports := 0, coreHalted := false, admitting := true,
    mm := [], sp := [], host := [], stagingArea := [], mmPois := [], spPois := [], flight := [], past := [], waitTab := [], links := [],
    tasks := [], conts := [], blocks := [], saved := [], gangs := [], jobs := [], ops := [], grants := [], views := [],
    dirty := [], commits := [], gens := [], launches := [], leaves := [], starts := [], ends := [], rampAt := [], idling := [], vfs := [], quads := [], faults := [],
    pinned := [], migrating := [], fab := [], signals := [], hostOut := [], nextId := 0, fresh := 0, issue := none, agenda := [] }

/-- An outcome of a step of this machine. -/
abbrev Out := Host.Outcome State Fault Refusal

end Sys2Proof.Machine
end

