-- ==== Sys2Proof/Machine/Ops.lean ====
section
/-!
DEFINITION. Named operations over the state: blocks and warps, scratchpad addresses, memory and its store queues,
translation, rings, registers, runs, sets, barriers, the end of lanes, and taking a trap.
-/
namespace Sys2Proof.Machine

/-! ### Finding things -/

def State.block? (s : State) (id : Nat) : Option Block := s.blocks.find? fun b => b.id == id
def State.setBlock (s : State) (b : Block) : State := { s with blocks := listPut (fun x => x.id == b.id) b s.blocks }
def State.warp? (s : State) (r : WarpRef) : Option Warp := (s.block? r.blk).bind fun b => b.warps[r.num]?
def Block.setWarp (b : Block) (n : Nat) (w : Warp) : Block := { b with warps := listSet b.warps n w }
def State.setWarp (s : State) (r : WarpRef) (w : Warp) : State :=
  match s.block? r.blk with
  | some b => s.setBlock (b.setWarp r.num w)
  | none => s
def State.mapWarp (s : State) (r : WarpRef) (f : Warp → Warp) : State :=
  match s.warp? r with
  | some w => s.setWarp r (f w)
  | none => s
def State.mapBlock (s : State) (id : Nat) (f : Block → Block) : State :=
  match s.block? id with
  | some b => s.setBlock (f b)
  | none => s
def State.vf (s : State) (n : Nat) : Vf := Sparse.get Vf.reset s.vfs n
def State.setVf (s : State) (n : Nat) (v : Vf) : State := { s with vfs := Sparse.set Vf.reset s.vfs n v }
def Vf.queue (v : Vf) (q : Nat) : Queue := Sparse.get Queue.reset v.queues q
def State.setQueue (s : State) (vf q : Nat) (x : Queue) : State :=
  let v := s.vf vf
  s.setVf vf { v with queues := Sparse.set Queue.reset v.queues q x }
def State.leaf (s : State) (c : Nat) : Leaf := Sparse.get Leaf.reset s.leaves c
def State.setLeaf (s : State) (c : Nat) (l : Leaf) : State := { s with leaves := Sparse.set Leaf.reset s.leaves c l }
def State.quad (s : State) (q : Nat) : Quad := Sparse.get Quad.reset s.quads q
def State.setQuad (s : State) (q : Nat) (x : Quad) : State := { s with quads := Sparse.set Quad.reset s.quads q x }
def State.launch? (s : State) (vf num : Nat) : Option Launch := s.launches.find? fun l => l.vf == vf && l.num == num
def State.setLaunch (s : State) (l : Launch) : State :=
  { s with launches := listPut (fun x => x.vf == l.vf && x.num == l.num) l s.launches }
def State.job? (s : State) (id : Nat) : Option Job := s.jobs.find? fun j => j.id == id
def State.setJob (s : State) (j : Job) : State := { s with jobs := listPut (fun x => x.id == j.id) j s.jobs }
def State.op? (s : State) (id : Nat) : Option MatOp := s.ops.find? fun o => o.id == id
def State.setOp (s : State) (o : MatOp) : State := { s with ops := listPut (fun x => x.id == o.id) o s.ops }
/-- Put a step at the front of the agenda: it comes about at once. -/
def State.push (s : State) (i : Instr) : State := { s with agenda := .act i :: s.agenda }

def Block.clu (b : Block) : Nat := b.core / 4
def Block.die (b : Block) : Nat := b.core / 64
def Block.width (b : Block) : Nat := b.decl.width
/-- The quadrant a warp runs on, over all cores (R9). -/
def Block.quadOf (b : Block) (w : Nat) : Nat := b.core * 4 + (b.q0 + w) % 4
/-- Created warps (R9). -/
def CodeEntry.created (d : CodeEntry) : Nat := (d.threads + d.width - 1) / d.width

/-! ### Clusters and scratchpad addresses (R348) -/

/-- The physical clusters of die `d` that an interface holds, with cores. -/
def Vf.clustersOn (v : Vf) (d : Nat) : List Nat := (List.range 16).filter fun c => v.vfclu.getLsbD (16 * d + c) && !v.coreless.getLsbD (16 * d + c)
/-- The slices of die `d` in an interface's numbering: those of its clusters, then the coreless ones (R348). -/
def Vf.slicesOn (v : Vf) (d : Nat) : List Nat := v.clustersOn d ++ (List.range 16).filter fun c => v.vfclu.getLsbD (16 * d + c) && v.coreless.getLsbD (16 * d + c)
/-- The physical dies of an interface, in its numbering. -/
def Vf.dies (v : Vf) : List Nat := (List.range 8).filter fun d => !(v.slicesOn d).isEmpty
/-- Position of an element in a list. -/
def indexOf (x : Nat) : List Nat → Nat
  | [] => 0
  | y :: ys => if x = y then 0 else indexOf x ys + 1
/-- The interface's number of a physical die, and of a physical cluster on its die. -/
def Vf.dieNum (v : Vf) (d : Nat) : Nat := indexOf d v.dies
def Vf.cluNum (v : Vf) (k : Nat) : Nat := indexOf (k % 16) (v.slicesOn (k / 16))
/-- The physical cluster, or the cluster of the coreless slice, that an interface numbers `c` on its die `d`. -/
def Vf.cluster? (v : Vf) (d c : Nat) : Option Nat :=
  match v.dies[d]? with
  | some pd => ((v.slicesOn pd)[c]?).map fun pc => 16 * pd + pc
  | none => none
/-- The physical place of a scratchpad address (R29, R136, R348); none outside the interface's windows. -/
def Vf.scratch? (v : Vf) (a : Nat) : Option Nat :=
  let off := a % 2 ^ 30
  if a < 2 ^ 33 && off < Config.dieBytes then
    (v.cluster? (a / 2 ^ 30) (off / Config.sliceBytes)).map fun k =>
      (k / 16) * 2 ^ 30 + (k % 16) * Config.sliceBytes + off % Config.sliceBytes
  else none
/-- The interface's scratchpad address of an offset in the slice of a physical cluster. -/
def Vf.scratchAddr (v : Vf) (k off : Nat) : Nat := v.dieNum (k / 16) * 2 ^ 30 + v.cluNum k * Config.sliceBytes + off
/-- The physical place of an offset in the slice of a physical cluster. -/
def slicePlace (k off : Nat) : Nat := (k / 16) * 2 ^ 30 + (k % 16) * Config.sliceBytes + off

/-! ### Bytes -/

def readBytes (m : Memory) (a n : Nat) : List Byte := (List.range n).map fun i => Sparse.get 0 m (a + i)
def writeBytes (m : Memory) (a : Nat) : List Byte → Memory
  | [] => m
  | b :: bs => writeBytes (Sparse.set 0 m a b) (a + 1) bs
def readWord (m : Memory) (a : Nat) : Word := BitVec.ofNat 32 (leValue (readBytes m a 4))
/-- Whether two byte ranges meet. -/
def meets (a n b k : Nat) : Bool := decide (a < b + k) && decide (b < a + n) && decide (0 < n) && decide (0 < k)
/-- Poison marks (R323) that remain after bytes `a` to `a + n - 1` are written: a whole word written is clean. -/
def clearPois (p : List Nat) (a n : Nat) : List Nat := p.filter fun w => !(decide (a ≤ 4 * w) && decide (4 * w + 4 ≤ a + n))
/-- Add a poison mark. -/
def addPois (p : List Nat) (x : Nat) : List Nat := if p.contains x then p else x :: p

/-- Whether agents of core `core` have seen a write of core `c` that is performed there, or, with `die`, on its die (R166, R175). -/
def seenOn (c : Nat) (die : Bool) (core : Nat) : Bool := c == core || (die && c / 64 == core / 64)
def Past.seenBy (p : Past) (core : Nat) : Bool := (p.by_.map fun x => seenOn x.1 x.2 core).getD false
/-- Whether some warp could still return what stood under a write: one that has not seen it before it was performed at package scope. -/
def State.someUnseen (s : State) (by_ : Option (Nat × Bool)) : Bool :=
  (s.blocks ++ s.saved).any fun b => !(by_.map fun x => seenOn x.1 x.2 b.core).getD false && b.warps.any fun w => w.live != 0
/-- Whether a load that has not landed may yet return a write to some bytes (R169). -/
def State.someLoose (s : State) (a n : Nat) : Bool :=
  (s.blocks ++ s.saved).any fun b => b.warps.any fun w => w.late.any fun l => l.loose.any fun p => meets p.addr p.len a n
/-- Whether a write leaves the bytes that it replaces behind: some warp could still return them, or an older write to them is kept, past which
no reader of this one may go. -/
def State.keepsPast (s : State) (by_ : Option (Nat × Bool)) (a n : Nat) : Bool :=
  s.someUnseen by_ || s.past.any (fun p => meets a n p.addr p.old.length) || s.someLoose a n
/-- A write performed at package scope in the scratchpad: it wakes the lanes parked on its words (R142, R175), and the bytes that it
replaces stay for relaxed loads that nothing orders behind it (R173). -/
def State.spWrite (s : State) (a : Nat) (bs : List Byte) (by_ : Option (Nat × Bool) := none) : State :=
  let s1 := { s with sp := writeBytes s.sp a bs, spPois := clearPois s.spPois a bs.length }
  let s2 : State :=
    if s.keepsPast by_ a bs.length then
      { s1 with
        past := s1.past ++ [{ seq := s.nextId, by_ := by_, addr := a, old := readBytes s.sp a bs.length }]
        nextId := s.nextId + 1 }
    else s1
  let hit := fun (e : WaitEntry) => meets a bs.length e.addr e.len
  let woken := ((s.waitTab.filter hit).map (·.addr)).eraseDups
  { s2 with
    waitTab := mapIf hit (fun e => { e with woken := true }) s2.waitTab
    agenda := woken.map (fun x => .act (.waitTableWake x)) ++ s2.agenda }

/-- Whether agents of core `core` see an in-flight write (R166, R175). -/
def Flight.seenBy (f : Flight) (core : Nat) : Bool := seenOn f.core f.die core
def Flight.meets (f g : Flight) : Bool := Machine.meets f.addr f.bytes.length g.addr g.bytes.length
/-- The byte that the newest in-flight write visible to a core gives. -/
def flightByte (core a : Nat) (fs : List Flight) : Option Byte :=
  fs.foldl (fun acc f => if f.seenBy core && decide (f.addr ≤ a) then
      match f.bytes[a - f.addr]? with
      | some b => some b
      | none => acc
    else acc) none
/-- The byte that the newest store of a warp's own queue gives (R167). -/
def queueByte (sp : StoreSpace) (a : Nat) (q : List StoreEntry) : Option Byte :=
  q.foldl (fun acc e => if e.space == sp && decide (e.addr ≤ a) then
      match e.bytes[a - e.addr]? with
      | some b => some b
      | none => acc
    else acc) none

/-- Bytes of the scratchpad as an agent of a core sees them; `q` is the reading warp's queue, empty for another agent. -/
def State.spView (s : State) (core : Nat) (q : List StoreEntry) (a n : Nat) : List Byte :=
  (List.range n).map fun i =>
    match queueByte .scratch (a + i) q with
    | some b => b
    | none => (flightByte core (a + i) s.flight).getD (Sparse.get 0 s.sp (a + i))
/-- Bytes of the scratchpad as an engine job of any die sees them: a write performed at die scope reaches every engine job (R166, R175). -/
def State.engineView (s : State) (a n : Nat) : List Byte :=
  (List.range n).map fun i => (s.flight.foldl (fun acc f =>
    if f.die && decide (f.addr ≤ a + i) then (f.bytes[a + i - f.addr]?).or acc else acc) none).getD (Sparse.get 0 s.sp (a + i))
/-- A word after a store to some of its bytes. -/
def patchWord (a : Nat) (word : List Byte) (addr : Nat) (bytes : List Byte) : List Byte :=
  (word.zip (List.range word.length)).map fun x => if addr ≤ a + x.2 then (bytes[a + x.2 - addr]?).getD x.1 else x.1
/-- Whether a store to bytes `a` to `a + n - 1` gives all of word `k`: it then stands clean of poison (R323). -/
def givesWord (a n k : Nat) : Bool := decide (a ≤ 4 * k) && decide (4 * k + 4 ≤ a + n)
/-- The stores of warps that a job issued as number `seq` may or may not see: in flight short of die scope, or still in a queue. -/
def State.unreleased (s : State) (ws : List WarpRef) (seq : Nat) (sp : StoreSpace) (a : Nat) : List (Nat × List Byte) :=
  (if sp == .scratch then (s.flight.filter fun f => !f.die && ws.contains ⟨f.blk, f.warp⟩ && meets a 4 f.addr f.bytes.length).map fun f => (f.addr, f.bytes) else [])
    ++ ws.flatMap fun r => (((s.warp? r).map (·.storeQ)).getD []).filterMap fun e =>
      if e.space == sp && decide (e.seq < seq) && meets a 4 e.addr e.bytes.length then some (e.addr, e.bytes) else none
/-- Who reads for an engine job: the warps whose unreleased stores it may see, its number, and the number of its free values (R182). -/
structure Reader where
  ws : List WarpRef := []
  seq : Nat := 0
  free : Nat := 0
  deriving DecidableEq, Repr
/-- Those of the unreleased stores to an aligned word that a job sees: the first few, how many is a free value (R182). -/
def State.jobStores (s : State) (x : Reader) (sp : StoreSpace) (a : Nat) : List (Nat × List Byte) :=
  let st := s.unreleased x.ws x.seq sp a
  st.take ((Config.freeWord (x.free + a)).toNat % (st.length + 1))
/-- The value of an aligned word that a job reads over a base (R182). -/
def State.jobWord (s : State) (x : Reader) (sp : StoreSpace) (a : Nat) (base : List Byte) : List Byte :=
  (s.jobStores x sp a).foldl (fun v y => patchWord a v y.1 y.2) base
/-- Whether a poisoned word reads as clean for a job: one write that it sees gives all of it (R323). In the scratchpad these are the writes
performed at die scope, too. -/
def State.jobClean (s : State) (x : Reader) (sp : StoreSpace) (a : Nat) : Bool :=
  (sp == .scratch && s.flight.any fun f => f.die && givesWord f.addr f.bytes.length (a / 4))
    || (s.jobStores x sp a).any fun y => givesWord y.1 y.2.length (a / 4)
/-- The numbers of the free values of a matrix operation, and of a chunk of a transfer. -/
def opFree (id : Nat) : Nat := 2 ^ 150 + id * 2 ^ 48
def chunkFree (job chunk : Nat) : Nat := 2 ^ 200 + (job * 2 ^ 48 + chunk) * 2 ^ 48
/-- A byte of a block's shared memory: one that has not been written is free (R32; assumption 13). -/
def Block.sharedByte (b : Block) (a : Nat) : Byte :=
  match Sparse.get none b.shared a with
  | some x => x
  | none => Config.freeByte (b.sharedTag + a)
def Block.sharedRead (b : Block) (a n : Nat) : List Byte := (List.range n).map fun i => b.sharedByte (a + i)
def sharedPut (m : Sparse (Option Byte)) (a : Nat) : List Byte → Sparse (Option Byte)
  | [] => m
  | x :: xs => sharedPut (Sparse.set none m a (some x)) (a + 1) xs
/-- Write bytes of a block's shared memory. -/
def Block.sharedWrite (b : Block) (a : Nat) (bs : List Byte) : Block :=
  { b with shared := sharedPut b.shared a bs, sharedPois := clearPois b.sharedPois a bs.length }
/-- Bytes of shared memory as a warp of the block sees them. -/
def Block.shView (b : Block) (q : List StoreEntry) (a n : Nat) : List Byte :=
  (List.range n).map fun i => (queueByte .shared (a + i) q).getD (b.sharedByte (a + i))

/-- Which in-flight writes are performed at a wider scope: those selected, and every earlier one that meets a selected one and that agents who
see both have seen before it: those of the die, or the engine jobs, once both are performed at die scope (R166, R171, R175). -/
def performSet (sel : Flight → Bool) : List Flight → List (Bool × Flight)
  | [] => []
  | f :: rest =>
    let r := performSet sel rest
    (sel f || r.any (fun x => x.1 && f.meets x.2 && (f.core / 64 == x.2.core / 64 || (f.die && x.2.die))), f) :: r
/-- Perform selected in-flight writes at die scope, or at package scope. -/
def State.perform (s : State) (sel : Flight → Bool) (sc : Scope) : State :=
  let marked := performSet sel s.flight
  match sc with
  | .core => s
  | .die => { s with flight := marked.map fun x => if x.1 then { x.2 with die := true } else x.2 }
  | _ =>
    let keep := (marked.filter fun x => !x.1).map (·.2)
    (marked.filter (·.1)).foldl (fun t x => t.spWrite x.2.addr x.2.bytes (some (x.2.core, x.2.die))) { s with flight := keep }
/-- Perform the in-flight writes that happen before the next accesses of a warp: its own, and those that it has learnt of through a
barrier or an acquire (R172, R174). -/
def State.performWarpFlights (s : State) (r : WarpRef) (sc : Scope) : State :=
  s.perform (fun f => f.known.contains (.warp r)) sc

/-- Whether an engine job of a warp issued before a number is outstanding: a transfer, or an operation of its team with a read footprint
(R178, R182, R234). -/
def State.jobsBefore (s : State) (r : WarpRef) (seq : Nat) : Bool :=
  (s.jobs.any fun j => j.blk == r.blk && j.warp == r.num && !j.staging && decide (j.id < seq))
    || s.ops.any fun o => o.blk == r.blk && o.warps.contains r.num && !o.reads.isEmpty && decide (o.id < seq)
/-- The numbers of a warp's outstanding engine jobs; and whether jobs of those numbers are complete. -/
def State.jobIds (s : State) (r : WarpRef) : List Nat :=
  (s.jobs.filter fun j => j.blk == r.blk && j.warp == r.num && !j.staging).map (·.id)
    ++ (s.ops.filter fun o => o.blk == r.blk && o.warps.contains r.num && !o.reads.isEmpty).map (·.id)
def State.drained (s : State) (ids : List Nat) : Bool := ids.all fun k => !(s.jobs.any fun j => j.id == k) && !(s.ops.any fun o => o.id == k)
/-! ### What a warp has seen (R171 to R173) -/

/-- What is left of the old bytes once no warp may return them, or a newer value behind them. -/
def State.prunePast (s : State) : State :=
  if s.past.isEmpty then s
  else
    let ws := (s.blocks ++ s.saved).flatMap (·.warps)
    let floors := (ws.filter fun w => w.live != 0).map (·.floor)
    let reads := ws.flatMap fun w => w.late.flatMap fun l => l.loose.map (·.made)
    let low := (floors ++ reads).foldl min s.nextId
    { s with past := s.past.filter fun p => decide (low ≤ p.seq) }
/-- The floors of a warp after every write so far happens before its next accesses. -/
def Warp.seeAll (w : Warp) (now : Nat) : Warp := { w with floor := now, readAt := [], rodFloor := [] }
/-- A warp's later releases cover the writes in flight that it sees (R172; assumption 68). -/
def State.learn (s : State) (r : WarpRef) : State :=
  match s.block? r.blk with
  | none => s
  | some b =>
    let add := fun (f : Flight) => if f.seenBy b.core && !f.known.contains (.warp r) then { f with known := f.known ++ [.warp r] } else f
    { s with flight := s.flight.map add }
/-- An acquire of a warp (R172, R174): the writes so far happen before its next accesses, and its later releases cover those in flight that
it sees (assumption 68). -/
def State.observe (s : State) (r : WarpRef) : State := ((s.learn r).mapWarp r fun w => w.seeAll s.nextId).prunePast
/-- The past writes, oldest first, behind which a relaxed load of a warp need not stand: those at or above a floor that no agent of its core
has seen and that it has not read past. -/
def State.unordered (s : State) (core : Nat) (w : Warp) (floor a n : Nat) : List Past :=
  let words := (List.range ((a + n + 3) / 4 - a / 4)).map fun k => a / 4 + k
  let xs := s.past.filter fun p => decide (floor ≤ p.seq) && meets a n p.addr p.old.length && words.all fun k => decide (Sparse.get 0 w.readAt k ≤ p.seq)
  (xs.reverse.takeWhile fun p => !p.seenBy core).reverse
/-- Bytes from an address as they were before a past write. -/
def undoPast (a : Nat) (bs : List Byte) (p : Past) : List Byte :=
  (bs.zip (List.range bs.length)).map fun x => if p.addr ≤ a + x.2 then (p.old[a + x.2 - p.addr]?).getD x.1 else x.1
/-- A warp has read the words of some bytes past every write below a number, and past those that it had read past before (R171). -/
def Warp.readPast (w : Warp) (a n seq : Nat) : Warp :=
  { w with readAt := ((List.range ((a + n + 3) / 4 - a / 4)).map fun k => a / 4 + k).foldl (fun m k => Sparse.set 0 m k (max seq (Sparse.get 0 m k))) w.readAt }
/-- A warp has read the newest value of some places: its later loads of them return nothing older (R171, R173). -/
def State.readNow (s : State) (r : WarpRef) (places : List (Nat × Nat)) : State :=
  if s.past.isEmpty then s else s.mapWarp r fun w => places.foldl (fun w x => w.readPast x.1 x.2 s.nextId) w
/-- Whether a queue, or a write in flight that a core sees, gives one of some bytes. -/
def State.ownBytes (s : State) (core : Nat) (q : List StoreEntry) (a n : Nat) : Bool :=
  (List.range n).any fun i => (queueByte .scratch (a + i) q).isSome || (flightByte core (a + i) s.flight).isSome
/-- What a relaxed load of at most 8 bytes returns, read at once from one moment (R170): the bytes as the warp sees them behind the queue `q`,
or, where nothing orders the load behind the writes since, as they stood before; `pick` says how far back. A load of which the warp's own
view gives a byte takes the newest of the others. With it, what the warp has then read past (R171). -/
def State.looseRead (s : State) (core : Nat) (w : Warp) (q : List StoreEntry) (floor a n pick : Nat) : List Byte × Warp :=
  let now := s.spView core q a n
  let xs := s.unordered core w floor a n
  if xs.isEmpty then (now, w)
  else
    let back := if s.ownBytes core q a n then [] else xs.reverse.take (pick % (xs.length + 1))
    (back.foldl (undoPast a) now, w.readPast a n ((back.getLast?.map (·.seq)).getD s.nextId))
/-- The writes that an access, made before them, may return all the same, oldest first: those of other cores performed since, up to the first that
its own core has seen, so that toward its core it stands where it was made (R168, R169). -/
def State.newer (s : State) (core : Nat) (p : Part) : List Past :=
  (s.past.filter fun x => decide (p.made ≤ x.seq) && meets p.addr p.len x.addr x.old.length).takeWhile fun x => !x.seenBy core
/-- What it returns then, `pick` saying how far it goes, with the number below which it has read past; none: what it has. -/
def State.newerBytes (s : State) (core : Nat) (p : Part) (pick : Nat) : Option (List Byte × Nat) :=
  let xs := s.newer core p
  ((xs.take (pick % (xs.length + 1))).getLast?).map fun x =>
    let later := s.past.filter fun y => decide (x.seq < y.seq) && meets p.addr p.len y.addr y.old.length
    (later.reverse.foldl (undoPast p.addr) (readBytes s.sp p.addr p.len), x.seq + 1)

/-- An accumulator of a matrix operation. -/
def LateKind.isOp : LateKind → Bool
  | .op _ => true
  | _ => false
/-! ### Loads that are yet to be made (R168 to R174, R179) -/

/-- Bytes into registers from `d`: the low word first; 1 and 2 bytes zero-extend. -/
def loadWrites (d l : Nat) (bs : List Byte) : List (RegId × Word) :=
  (List.range ((bs.length + 3) / 4)).map fun k => (.v l (d + k), BitVec.ofNat 32 (leValue ((bs.drop (4 * k)).take 4)))
def queueGives (sp : StoreSpace) (q : List StoreEntry) (k : Nat) : Bool := q.any fun e => e.space == sp && givesWord e.addr e.bytes.length k
def flightGives (core : Nat) (fs : List Flight) (k : Nat) : Bool := fs.any fun f => f.seenBy core && givesWord f.addr f.bytes.length k
/-- Whether some bytes hold a poisoned word that no store of the reader's view gives whole. -/
def anyPois (marks : List Nat) (given : Nat → Bool) (addr n : Nat) : Bool := marks.any fun k => meets addr n (4 * k) 4 && !given k
/-- Whether an access of a warp reads poison, behind the queue `q`. -/
def State.partPois (s : State) (b : Block) (q : List StoreEntry) (p : Part) : Bool :=
  match p.space with
  | .shared => anyPois b.sharedPois (queueGives .shared q) p.addr p.len
  | .scratch => anyPois s.spPois (fun k => queueGives .scratch q k || flightGives b.core s.flight k) p.addr p.len
/-- The floor of an access of a warp with its tags: the writes below it happen before the access (R172, R179). -/
def Warp.floorOf (w : Warp) (tags : Word) : Nat :=
  (List.range 32).foldl (fun f k => if tags.getLsbD k then max f (Sparse.get 0 w.rodFloor k) else f) w.floor
/-- What an access of a load returns behind the queue `q`, and what the warp has then read past: `free` numbers the free value that says how far
back it reads, where it need not read the newest. -/
def State.readPart (s : State) (b : Block) (q : List StoreEntry) (newest : Bool) (rods : Word) (free : Nat) (p : Part) (w : Warp) : List Byte × Warp :=
  match p.space with
  | .shared => (b.shView q p.addr p.len, w)
  | .scratch =>
    if newest then (s.spView b.core q p.addr p.len, w)
    else s.looseRead b.core w q (w.floorOf rods) p.addr p.len (Config.freeWord (free + p.addr)).toNat
/-- The accesses of one load instruction, in order: those at one place return one value (R138). -/
def State.readParts (s : State) (b : Block) (q : List StoreEntry) (newest : Bool) (rods : Word) (free : Nat) :
    List Part → List (Part × List Byte) → Warp → List (Part × List Byte) × Warp
  | [], got, w => (got.reverse, w)
  | p :: ps, got, w =>
    let x := match got.find? fun y => y.1.space == p.space && y.1.addr == p.addr && y.1.len == p.len with
      | some y => (y.2, w)
      | none => s.readPart b q newest rods free p w
    s.readParts b q newest rods free ps ((p, x.1) :: got) x.2
/-- The accesses that may yet return a newer value: relaxed ones of the scratchpad that no store of the reader's core gives. -/
def State.looseParts (s : State) (b : Block) (q : List StoreEntry) (newest : Bool) (ps : List Part) : List Part :=
  if newest then [] else ps.filter fun p => p.space == .scratch && !s.ownBytes b.core q p.addr p.len
/-- The registers that an access fills, as poison marks name them. -/
def Part.regs (p : Part) : List Nat := (List.range ((p.len - p.skip + 3) / 4)).map fun k => 1024 * p.lane + p.reg + k
/-- The registers that an access fills from its bytes. -/
def Part.writes (p : Part) (bs : List Byte) : List (RegId × Word) := loadWrites p.reg p.lane (bs.drop p.skip)
def Part.meets (p x : Part) : Bool := p.space == x.space && Machine.meets p.addr p.len x.addr x.len
/-- Whether the results of these numbers have landed. -/
def Warp.landed (w : Warp) (ids : List Nat) : Bool := ids.all fun k => !w.late.any fun l => l.id == k
/-- The places at which a future operation acts: its future, and the count of the record that FREG names. -/
def QueuedFuture.places (f : QueuedFuture) : List (Nat × Nat) := (f.place, 16) :: (if f.kind == .link then [(f.arg, 4)] else [])
/-- Whether a queue entry keeps back later loads of some places: an atomic every load, a future operation those of its own places (R167, R168). -/
def StoreEntry.holds (e : StoreEntry) (ps : List Part) : Bool :=
  e.atom.isSome || (e.fut.map fun f => f.places.any fun x => ps.any fun p => p.space == .scratch && Machine.meets p.addr p.len x.1 x.2).getD false
/-- Whether a load may not yet make its accesses: it follows an atomic in the queue, or a future operation on its places, or loads that are not
complete (R167, R168, R179). -/
def Warp.loadHeld (w : Warp) (l : Late) : Bool :=
  !l.rest.isEmpty && (!w.landed l.after || w.storeQ.any fun e => e.holds l.rest && decide (e.seq < l.id))
/-- The earlier loads that an access with some tags comes after, by acquire range fences, and that are not complete (R179). -/
def Warp.afterIds (w : Warp) (tags : Word) : List Nat :=
  ((w.acqs.filter fun x => (x.1 &&& tags) != 0).flatMap (·.2)).filter fun id => w.late.any fun l => l.id == id
/-- The loads and atomics of a warp that an engine job with some tags comes after and that are not complete: acquires, reads of futures that may turn
out to be acquires, and what an acquire range fence names (R172, R174, R179, R181, R182). -/
def Warp.jobAfter (w : Warp) (tags : Word) : List Nat :=
  ((w.late.filter fun l => (l.acq || l.poll) && (!l.rest.isEmpty || l.queued)).map (·.id)) ++ w.afterIds tags
/-- Whether none of these results of some warps is outstanding. -/
def State.loadsDone (s : State) (ws : List WarpRef) (ids : List Nat) : Bool :=
  ids.isEmpty || ws.all fun r => ((s.warp? r).map fun w => w.landed ids).getD true
/-- Whether a load with some tags that issues now may not make the accesses `ps` at once: it would pass an earlier load, or an entry of the queue
that holds it (R167, R168, R179). -/
def Warp.heldNow (w : Warp) (tags : Word) (ps : List Part) : Bool :=
  (w.late.any fun l => !l.rest.isEmpty) || (w.storeQ.any fun e => e.holds ps) || !(w.afterIds tags).isEmpty
/-- The value of a load's accesses becomes final: each keeps what it has, or takes a newer write of another core (R169; assumption 5). -/
def State.closeLoad (s : State) (r : WarpRef) (sel : Part → Bool) (id : Nat) : State :=
  match s.block? r.blk, s.warp? r with
  | some b, some w =>
    match w.late.find? fun l => l.id == id with
    | some l =>
      let got : List (Part × List Byte × Nat) := (l.loose.filter sel).filterMap fun p =>
        (s.newerBytes b.core p (Config.freeWord ((s.fresh + 1) * 2 ^ 48 + p.addr)).toNat).map fun x => (p, x)
      let w1 := got.foldl (fun (w : Warp) (x : Part × List Byte × Nat) => w.readPast x.1.addr x.1.len x.2.2) w
      let closed : Late := { l with
        writes := l.writes ++ got.flatMap fun (x : Part × List Byte × Nat) => x.1.writes x.2.1
        loose := l.loose.filter fun p => !sel p }
      { s with fresh := s.fresh + 1 }.setWarp r { w1 with late := mapIf (fun y => y.id == id) (fun _ => closed) w1.late }
    | none => s
  | _, _ => s
/-- The values of those accesses of a warp's loads become final that satisfy a test. -/
def State.closeLoads (s : State) (r : WarpRef) (which : Late → Bool) (sel : Part → Bool) : State :=
  match s.warp? r with
  | none => s
  | some w => ((w.late.filter fun l => which l && l.loose.any sel).map (·.id)).foldl (fun t id => t.closeLoad r sel id) s
/-- The accesses of a warp's loads to some places come before what the warp now does there (R167, R171). -/
def State.closePlaces (s : State) (r : WarpRef) (ps : List Part) : State := s.closeLoads r (fun _ => true) fun p => ps.any p.meets
/-- A load makes those accesses that it has yet to make and that satisfy a test. Poison that has come since it issued goes to its registers
(R323). -/
def State.makeLoad (s : State) (r : WarpRef) (id : Nat) (sel : Part → Bool := fun _ => true) : State :=
  match s.warp? r with
  | none => s
  | some w0 =>
    match w0.late.find? fun l => l.id == id with
    | none => s
    | some l =>
      let ps := l.rest.filter sel
      let s0 := s.closePlaces r ps
      match s0.block? r.blk, s0.warp? r with
      | some b, some w =>
        let q := w.storeQ.filter fun e => decide (e.seq < id)
        let newest := l.acq || l.poll
        let x := s0.readParts b q newest l.rods ((s0.fresh + 1) * 2 ^ 48) ps [] w
        let made : Late := { l with
          writes := l.writes ++ x.1.flatMap fun y => y.1.writes y.2
          rest := l.rest.filter fun p => !sel p
          loose := l.loose ++ (s0.looseParts b q newest ps).map fun p => { p with made := s0.nextId }
          bad := l.bad ++ (ps.filter fun p => s0.partPois b q p).flatMap Part.regs }
        let s1 : State := { s0 with fresh := s0.fresh + 1 }.setWarp r { x.2 with late := mapIf (fun y => y.id == id) (fun _ => made) x.2.late }
        let full := l.poll && x.1.any fun y => w.live.has y.1.lane && !(y.2.head?.map fun (a : Byte) => a.toNat % 4 == 0).getD true
        if (l.acq && made.rest.isEmpty) || full then s1.observe r
        else if l.poll then s1.readNow r (ps.map fun p => (p.addr, p.len)) else s1
      | _, _ => s
/-- The loads of a warp make their accesses, in issue order, up to one that may not (R168). -/
def State.makeLoads (s : State) (r : WarpRef) : State :=
  match s.warp? r with
  | none => s
  | some w =>
    ((w.late.filter fun l => !l.rest.isEmpty).foldl (fun (acc : Bool × State) l =>
      if acc.1 && !(((acc.2.warp? r).map fun x => x.loadHeld l).getD true) then (true, acc.2.makeLoad r l.id) else (false, acc.2)) (true, s)).2
/-- A load issues: those of its accesses that `first` selects are made at once, unless they must wait (R168, R179). Its other accesses, and the
registers that wait for them, follow. -/
def State.startLoad (s : State) (r : WarpRef) (l : Late) (first : Part → Bool) : State :=
  match s.warp? r with
  | none => s
  | some w =>
    let new : Late := { l with id := s.nextId, writes := l.writes ++ l.rest.flatMap fun p => p.writes (List.replicate p.len 0), after := w.afterIds l.rods }
    let s1 : State := { s with nextId := s.nextId + 1 }.setWarp r { w with late := w.late ++ [new] }
    if w.heldNow l.rods l.rest || l.rest.isEmpty then s1 else s1.makeLoad r s.nextId first

/-! ### Atomics on a location (R143 to R145, Table 9-4) -/

def atomNew (op : AtomOp) (m b c : Nat) : Nat :=
  let sg := toSigned 32
  match op with
  | .add32 => (m + b) % 2 ^ 32
  | .add64 => (m + b) % 2 ^ 64
  | .mins => if sg m ≤ sg b then m else b
  | .minun => min m b
  | .maxs => if sg b ≤ sg m then m else b
  | .maxun => max m b
  | .and => Nat.land m b
  | .or => Nat.lor m b
  | .xor => Nat.xor m b
  | .exch32 => b
  | .exch64 => b
  | .cas32 => if m = c then b else m
  | .cas64 => if m = c then b else m
  | .fadd32 => (Fmt.f32.fadd .rn false m b).1
  | .inc => if b ≤ m then 0 else m + 1
  | .dec => if m = 0 || decide (b < m) then b else m - 1
def atomBytes (op : AtomOp) : Nat := if op.wide then 8 else 4
def orderRel (o : Order) : Bool := o == .rel || o == .ar
def orderAcq (o : Order) : Bool := o == .acq || o == .ar
/-- Earlier writes to a location are performed before an atomic acts on it (R145). -/
def State.settle (s : State) (addr n : Nat) : State := s.perform (fun f => meets f.addr f.bytes.length addr n) .pkg
/-- A read-modify-write of a scratchpad location to which no write is in flight: the old value and the state after it; `core` is the warp's. -/
def State.rmwScratch (s : State) (addr n : Nat) (f : Nat → Nat) (core : Option Nat := none) : Nat × State :=
  let m := leValue (readBytes s.sp addr n)
  (m, s.spWrite addr (leBytes n (f m)) (core.map fun c => (c, false)))
def State.rmwShared (s : State) (blk addr n : Nat) (f : Nat → Nat) : Nat × State :=
  match s.block? blk with
  | some b =>
    let m := leValue (b.sharedRead addr n)
    (m, s.setBlock (b.sharedWrite addr (leBytes n (f m))))
  | none => (0, s)
/-- Whether the location of an atomic is poisoned where the atomic acts. -/
def State.atomBad (s : State) (blk : Nat) (sp : StoreSpace) (addr n : Nat) : Bool :=
  match sp with
  | .scratch => anyPois s.spPois (fun _ => false) addr n
  | .shared => anyPois (((s.block? blk).map (·.sharedPois)).getD []) (fun _ => false) addr n
/-- One lane of an atomic acts on a location, behind the writes in flight to it: the old value, none where it is then poisoned, which leaves it
unchanged, and the state after it (R138, R145, R323, R324). -/
def State.atomLane (s : State) (r : WarpRef) (core : Nat) (sp : StoreSpace) (op : AtomOp) (addr b c : Nat) : Option Nat × State :=
  let n := atomBytes op
  match sp with
  | .scratch =>
    let s0 := s.settle addr n
    if s0.atomBad r.blk sp addr n then (none, s0)
    else
      let x := s0.rmwScratch addr n (fun m => atomNew op m b c) (some core)
      (some x.1, x.2)
  | .shared =>
    if s.atomBad r.blk sp addr n then (none, s)
    else
      let x := s.rmwShared r.blk addr n fun m => atomNew op m b c
      (some x.1, x.2)
/-- The lanes of an atomic act in ascending order, with the value that each receives (R138). -/
def State.atomLanes (s : State) (r : WarpRef) (core : Nat) (sp : StoreSpace) (op : AtomOp) : List (Nat × Nat × Nat × Nat) → List (Nat × Option Nat) × State
  | [] => ([], s)
  | y :: ys =>
    let x := s.atomLane r core sp op y.2.1 y.2.2.1 y.2.2.2
    let z := x.2.atomLanes r core sp op ys
    ((y.1, x.1) :: z.1, z.2)
/-- The lanes of a warp receive what an atomic of `n` bytes returns, in result `id`, from register `d`; a lane that met poison receives it. Lanes that
have ended receive nothing. -/
def Warp.takeAtomic (w : Warp) (id d : Nat) (sp : StoreSpace) (n : Nat) (vals : List (Nat × Option Nat)) : Warp :=
  let got := vals.filter fun y => (w.live ||| w.helpers).has y.1
  { w with late := mapIf (fun l => l.id == id) (fun l => { l with
      writes := l.writes ++ got.flatMap fun y => (y.2.map fun m => loadWrites d y.1 (leBytes n m)).getD []
      queued := false
      bad := l.bad ++ (got.filter fun y => y.2.isNone).flatMap fun y => Part.regs { lane := y.1, reg := d, space := sp, addr := 0, len := n } }) w.late }
/-- An atomic that has waited in the store queue acts, lane by lane. -/
def State.performAtomic (s : State) (r : WarpRef) (sp : StoreSpace) (a : QueuedAtomic) : State :=
  match s.block? r.blk with
  | none => s
  | some b =>
    let x := s.atomLanes r b.core sp a.op a.lanes
    let s1 := match a.result with
      | none => x.2
      | some (id, d) => x.2.mapWarp r fun w => w.takeAtomic id d sp (atomBytes a.op) x.1
    if orderAcq a.order then s1.observe r else s1

/-! ### Covered accesses (R176, R181) -/

/-- Whether the accesses that a SPAWN or LNCH covers are performed at package scope: those of a warp, resident or saved, below a number. -/
def State.covered (s : State) (c : Cover) : Bool :=
  match c with
  | .none => true
  | .never => false
  | .stores r n =>
    !((s.blocks ++ s.saved).any fun b => b.id == r.blk && ((b.warps[r.num]?).map fun w =>
        (w.storeQ.any fun e => decide (e.seq < n)) || w.late.any fun l => !l.rest.isEmpty && decide (l.id < n)).getD false)
      && !s.flight.any fun f => f.blk == r.blk && f.warp == r.num && decide (f.seq < n)

/-- The bytes that an entry of the queue writes: addresses and lengths. -/
def StoreEntry.places (e : StoreEntry) : List (Nat × Nat) :=
  match e.atom, e.fut with
  | some a, _ => a.lanes.map fun x => (x.2.1, atomBytes a.op)
  | none, some f => f.places
  | none, none => [(e.addr, e.bytes.length)]

/-! ### Leaving the store queue (R167, R174 to R176) -/

/-- Whether an entry of the queue may leave: it is not lost, the warp's earlier loads have been made and those of a range fence are complete,
and a release waits for the warp's earlier engine jobs (R168, R174, R176, R179, R182). -/
def State.mayLeave (s : State) (r : WarpRef) (e : StoreEntry) : Bool :=
  !e.lost && !(e.rel.isSome && s.jobsBefore r e.seq) && (match s.warp? r with
    | some w => w.landed e.after && !w.late.any fun l => decide (l.id < e.seq) && w.loadHeld l
    | none => true)
/-- A store is performed at core scope (R167). -/
def State.putStore (s : State) (r : WarpRef) (e : StoreEntry) : State :=
  match e.space, s.block? r.blk with
  | .shared, some b => s.setBlock (b.sharedWrite e.addr e.bytes)
  | .scratch, some b =>
    let f : Flight := { blk := r.blk, warp := r.num, core := b.core, die := false, addr := e.addr, bytes := e.bytes, rods := e.rods, known := [.warp r], seq := e.seq }
    { s with flight := s.flight ++ [f] }
  | _, none => s
/-- Every access of a warp before a release in its queue is performed at the release's scope (R174). -/
def State.beforeRelease (s : State) (r : WarpRef) (e : StoreEntry) : State :=
  match e.rel with
  | some sc => (s.closeLoads r (fun l => decide (l.id < e.seq)) fun _ => true).performWarpFlights r sc
  | none => s
/-- A store leaves its queue, or an atomic, which then acts, behind what a release comes after (R167, R174). -/
def State.leaveQueue (s : State) (r : WarpRef) (e : StoreEntry) : State :=
  match e.atom with
  | some a => (s.beforeRelease r e).performAtomic r e.space a
  | none => (s.beforeRelease r e).putStore r e
/-- The oldest entry of a warp's queue, a store or an atomic, leaves it, where it may, behind the loads before it. A future operation stands there
until STORE_DRAIN. -/
def State.drainOne (s : State) (r : WarpRef) : State :=
  let s1 := s.makeLoads r
  match s1.warp? r with
  | some w => (match w.storeQ with
    | e :: q => if e.fut.isNone && s1.mayLeave r e then (s1.setWarp r { w with storeQ := q }).leaveQueue r e else s1
    | [] => s1)
  | none => s1
/-- Entries of a warp's queue leave it, in order, at most `n`. -/
def State.drain (r : WarpRef) : Nat → State → State
  | 0, s => s.makeLoads r
  | n + 1, s => (s.drainOne r).drain r n
/-- The warp's earlier stores leave its queue, as far as they may. -/
def State.drainAll (s : State) (r : WarpRef) : State := State.drain r (((s.warp? r).map (·.storeQ.length)).getD 0) s
/-- Perform every earlier access of a warp at a scope, as far as it may be made, with the writes that the warp knows of. -/
def State.performWarp (s : State) (r : WarpRef) (sc : Scope) : State :=
  ((s.drainAll r).closeLoads r (fun _ => true) fun _ => true).performWarpFlights r sc

/-! ### Translation (R318, R319, R355) -/

/-- Where an address leads: main memory or the scratchpad, physical. -/
inductive Loc where
  | main (a : Nat)
  | scratch (a : Nat)
  deriving DecidableEq, Repr

/-- One table entry, as a number. -/
def State.ptEntry (s : State) (table idx : Nat) : Nat := leValue (readBytes s.mm (table + 8 * idx) 8)
/-- The next address of an entry, if the entry is legal for its level and the access (Table 19-6). -/
def ptStep (e level : Nat) (write fetch : Bool) : Option (Bool × Nat) :=
  let leaf := level == 3 || (e / 2 % 2 == 1)
  let addr := e / 256 % 2 ^ 35 * 256
  let size := if level == 1 then 2 ^ 30 else if level == 2 then 2 ^ 21 else 2 ^ 16
  if e % 2 == 0 || e / 2 ^ 43 != 0 || e / 16 % 16 != 0 then none
  else if level == 0 && leaf then none
  else if leaf then
    if addr % size != 0 || (write && e / 4 % 2 == 0) || (fetch && e / 8 % 2 == 0) then none else some (true, addr)
  else if (level < 2 && addr % 4096 != 0) || (level == 2 && addr % 256 != 0) then none
  else some (false, addr)
/-- The walk of a virtual address through the levels that remain. -/
def State.walkTable (s : State) (va : Nat) (write fetch : Bool) : List Nat → Nat → Option Nat
  | [], _ => none
  | level :: rest, table =>
    let idx := if level == 0 then va / 2 ^ 39 % 512 else if level == 1 then va / 2 ^ 30 % 512 else if level == 2 then va / 2 ^ 21 % 512 else va / 2 ^ 16 % 32
    let size := if level == 1 then 2 ^ 30 else if level == 2 then 2 ^ 21 else 2 ^ 16
    match ptStep (s.ptEntry table idx) level write fetch with
    | none => none
    | some (true, addr) => some (addr + va % size)
    | some (false, addr) => s.walkTable va write fetch rest addr
/-- Where a virtual address of an interface leads; none: a translation fault. In early service, and for an object that keeps
that reading, the address is a scratchpad address of die 0. -/
def State.translate (s : State) (vf : Nat) (early : Bool) (va : Nat) (write fetch : Bool) : Option Loc :=
  let v := s.vf vf
  if early || s.level != 2 then
    if va < 2 ^ 30 then (v.scratch? va).map .scratch else none
  else if va / 2 ^ 48 % 2 ^ 16 != 0 || v.ptroot.getLsbD 0 == false then none
  else
    match s.walkTable va write fetch [0, 1, 2, 3] (v.ptroot.toNat / 4096 % 2 ^ 31 * 4096) with
    | some pa => if pa < Config.installed then some (.main pa) else none
    | none => none
/-- Bytes at a place, as an agent outside every core sees them. -/
def State.locBytes (s : State) (l : Loc) (n : Nat) : List Byte :=
  match l with
  | .main a => readBytes s.mm a n
  | .scratch a => readBytes s.sp a n
/-- Bytes at a virtual address, each aligned word translated on its own. -/
def State.vaRead (s : State) (vf : Nat) (early : Bool) (va n : Nat) : Option (List Byte) :=
  ((List.range n).foldl (fun (acc : Option (List Byte × Option Loc)) i =>
    match acc with
    | none => none
    | some (bs, l) =>
      let a := va + i
      let l' := if a % 4 == 0 || i == 0 then s.translate vf early a false false else l
      match l' with
      | none => none
      | some (.main p) => some (Sparse.get 0 s.mm p :: bs, some (.main (p + 1)))
      | some (.scratch p) => some (Sparse.get 0 s.sp p :: bs, some (.scratch (p + 1)))) (some ([], none))).map fun x => x.1.reverse
/-- Write bytes at a place, performed at package scope. -/
def State.locWrite (s : State) (l : Loc) (bs : List Byte) : State :=
  match l with
  | .main a => { s with mm := writeBytes s.mm a bs, mmPois := s.mmPois.filter fun b => !(decide (a ≤ 64 * b) && decide (64 * b + 64 ≤ a + bs.length)) }
  | .scratch a => s.spWrite a bs
/-- Whether a word at a place is poisoned (R323). -/
def State.locPois (s : State) (l : Loc) : Bool :=
  match l with
  | .main a => s.mmPois.contains (a / 64)
  | .scratch a => s.spPois.contains (a / 4)

/-! ### Fields of byte lists -/

def u8 (bs : List Byte) (i : Nat) : Nat := ((bs[i]?).getD 0).toNat
def u16 (bs : List Byte) (i : Nat) : Nat := u8 bs i + 256 * u8 bs (i + 1)
def u32 (bs : List Byte) (i : Nat) : Nat := leValue ((bs.drop i).take 4)
def u64 (bs : List Byte) (i : Nat) : Nat := leValue ((bs.drop i).take 8)

/-! ### Rings and records (R331, R339, R341) -/

def lrsz (c : Word) : Nat := c.toNat / 2 ^ 20 % 16
def trsz (c : Word) : Nat := c.toNat / 2 ^ 16 % 16
def qsz (c : Word) : Nat := c.toNat / 2 ^ 12 % 16
def sizeOk (n : Nat) : Bool := decide (4 ≤ n)
def State.hostWrite (s : State) (a : Nat) (bs : List Byte) : State := { s with host := writeBytes s.host a bs }
def State.irq (s : State) (vf : Option Nat) (vector : Nat) : State := { s with hostOut := .irq vf vector :: s.hostOut }
/-- A counter that stops at its largest value (R358). -/
def satInc (x : Word) : Word := if x == BitVec.allOnes 32 then x else x + 1

/-- Write a record into an interface's fault ring if it has a free slot (R341). -/
def State.ringRecord? (s : State) (vf : Nat) (bs : List Byte) : Option State :=
  let v := s.vf vf
  let n := 2 ^ lrsz v.frcfg
  if v.frcfg.getLsbD 31 && sizeOk (lrsz v.frcfg) && decide ((v.frwr.toNat + 2 ^ 16 - v.frrd.toNat % 2 ^ 16) % 2 ^ 16 < n) then
    let s1 := s.hostWrite (v.frbase.toNat + 64 + 64 * (v.frwr.toNat % n)) bs
    let s2 := s1.hostWrite v.frbase.toNat (leBytes 4 (v.frwr + 1).toNat)
    some ((s2.setVf vf { v with frwr := v.frwr + 1, event := v.event ||| 2 }).irq (some vf) 1)
  else none
/-- The bytes of a fault record: fields that R341 lays out, then detail that it leaves to the device (assumption 15). -/
def recordBytes (kind n launch time : Nat) (body : List Byte) : List Byte :=
  leBytes 4 kind ++ leBytes 4 n ++ leBytes 4 launch ++ leBytes 4 0 ++ leBytes 8 time ++ (body ++ (Config.faultDetail n).take (40 - body.length)).take 40
/-- Report a record to an interface's fault ring: a full ring drops it, but keeps a translation fault for later. -/
def State.report (s : State) (vf kind launch : Nat) (body : List Byte) : State :=
  let v := s.vf vf
  let s1 := s.setVf vf { v with records := v.records + 1 }
  let bs := recordBytes kind (v.records + 1) launch s.time body
  match s1.ringRecord? vf bs with
  | some s2 => s2
  | none =>
    if kind == 2 then s1.setVf vf { s1.vf vf with frPosts := (s1.vf vf).frPosts ++ [bs] }
    else { s1 with frlost := satInc s1.frlost }
/-- Report a record to the physical function's fault ring (R342): one that stands there sets FAULT and raises vector 1, one that a full or disabled
ring drops is counted. -/
def State.reportPf (s : State) (kind : Nat) : State :=
  let n := 2 ^ lrsz s.pffrcfg
  let bs := recordBytes kind (s.pfRecords + 1) 0 s.time []
  let s0 := { s with pfRecords := s.pfRecords + 1 }
  if s.pffrcfg.getLsbD 31 && sizeOk (lrsz s.pffrcfg) && decide ((s.pffrwr.toNat + 2 ^ 16 - s.pffrrd.toNat % 2 ^ 16) % 2 ^ 16 < n) then
    let s1 := s0.hostWrite (s.pffrbase.toNat + 64 + 64 * (s.pffrwr.toNat % n)) bs
    ({ s1.hostWrite s.pffrbase.toNat (leBytes 4 (s.pffrwr + 1).toNat) with pffrwr := s.pffrwr + 1, pfevent := s.pfevent ||| 2 }).irq none 1
  else { s0 with frlost := satInc s0.frlost }
/-- The agents of Table 19-7, by what they parked: transfers, matrix operations, the view engine, walker and staging, instruction fetch, saves, and
a peer's requests. -/
def Parked.agent (p : Parked) : Nat :=
  match p with
  | .chunk .. => 0
  | .op .. | .sign .. => 1
  | .view .. => 2
  | .walk .. | .stage .. => 3
  | .fetch .. => 4
  | .save .. => 5
  | .peer .. => 6
/-- Park an access on a translation fault: a record of KIND 2 that awaits FRESP (R320), with the address and the agent (R341). -/
def State.park (s : State) (vf launch va : Nat) (what : Parked) : Nat × State :=
  let n := (s.vf vf).records + 1
  let s1 := s.report vf 2 launch (leBytes 8 va ++ leBytes 4 (Config.agentCode what.agent).toNat)
  (n, { s1 with faults := s1.faults ++ [{ vf := vf, recno := n, what := what, abort := none }] })

/-! ### Registers -/

def vKey (lane n : Nat) : Nat := 1024 * lane + n
def Warp.rv (w : Warp) (lane n : Nat) : Word := Sparse.get 0 w.v (vKey lane n)
def Warp.rs (w : Warp) (n : Nat) : Word := Sparse.get 0 w.s n
/-- A predicate; p7 reads 1 (Table 1-3). -/
def Warp.rp (w : Warp) (lane n : Nat) : Bool := n == 7 || Sparse.get false w.p (8 * lane + n)
def Warp.rv64 (w : Warp) (lane n : Nat) : DWord := pairWord (w.rv lane (n + 1)) (w.rv lane n)
def Warp.rs64 (w : Warp) (n : Nat) : DWord := pairWord (w.rs (n + 1)) (w.rs n)
/-- Write a register: a write to p7 is discarded; a whole word written is clean of poison. -/
def Warp.put (w : Warp) (r : RegId) (x : Word) : Warp :=
  match r with
  | .v lane n => { w with v := Sparse.set 0 w.v (vKey lane n) x, vPois := w.vPois.filter (· != vKey lane n) }
  | .s n => { w with s := Sparse.set 0 w.s n x, sPois := w.sPois.filter (· != n) }
  | .p lane n => if n == 7 then w else { w with p := Sparse.set false w.p (8 * lane + n) (x != 0) }
def Warp.puts (w : Warp) (rs : List (RegId × Word)) : Warp := rs.foldl (fun w x => w.put x.1 x.2) w
/-- Queue a fixed-latency result, earliest landing first, later ones behind equals (R69). -/
def addPend : List Pending → Pending → List Pending
  | [], p => [p]
  | q :: qs, p => if p.due < q.due then p :: q :: qs else q :: addPend qs p
/-- The fixed-latency results that land by cycle `now` (R67). -/
def Warp.landDue (w : Warp) (now : Nat) : Warp :=
  let due := w.pend.filter fun p => decide (p.due ≤ now)
  { due.foldl (fun w p => w.put p.reg p.val) w with pend := w.pend.filter fun p => !decide (p.due ≤ now) }
/-- Every fixed-latency write already issued lands (R306). -/
def Warp.landAll (w : Warp) : Warp := { w.pend.foldl (fun w p => w.put p.reg p.val) w with pend := [] }
/-- Scoreboarded writes land, behind any fixed-latency write of an earlier instruction to the same registers, which they then replace
(assumption 28). -/
def Warp.landWrites (w : Warp) (ws : List (RegId × Word)) : Warp :=
  { w.puts ws with pend := w.pend.filter fun p => !ws.any fun x => x.1 == p.reg }
/-- A scoreboarded result lands (R68). -/
def Warp.landLate (w : Warp) (id : Nat) : Warp :=
  match w.late.find? fun l => l.id == id with
  | some l =>
    let w1 := w.landWrites l.writes
    { w1 with late := w.late.filter fun l => l.id != id, vPois := l.bad.foldl addPois w1.vPois }
  | none => w
def Warp.sp1 (w : Warp) (lane : Nat) : Word := Sparse.get 0 w.sp lane
def Warp.depth1 (w : Warp) (lane : Nat) : Nat := Sparse.get 0 w.depth lane
def JSet.empty : JSet := { member := 0, arrived := 0, depth := 0 }
def Warp.jset (w : Warp) (j : Nat) : JSet := Sparse.get JSet.empty w.sets j
def Warp.setJset (w : Warp) (j : Nat) (x : JSet) : Warp := { w with sets := Sparse.set JSet.empty w.sets j x }
/-- The queue that SFQ, QPOP and QLEN use: trap level has its own pair (R124). -/
def Warp.qKey (w : Warp) (lane q : Nat) : Nat := (if w.trap.isSome then 128 else 0) + 2 * lane + q
def Warp.queue (w : Warp) (lane q : Nat) : List QEntry := Sparse.get [] w.queues (w.qKey lane q)
def Warp.setQueue (w : Warp) (lane q : Nat) (x : List QEntry) : Warp := { w with queues := Sparse.set [] w.queues (w.qKey lane q) x }
def stackKey (lane off : Nat) : Nat := lane * 2 ^ 20 + off
/-- A byte of a lane's stack: one that has not been written since the stack became undefined is free (R32, R132). -/
def Warp.stackByte (w : Warp) (lane off : Nat) : Byte :=
  match Sparse.get none w.stack (stackKey lane off), w.stackTag with
  | some b, _ => b
  | none, none => 0
  | none, some t => Config.freeByte (t + stackKey lane off)
def Warp.stackRead (w : Warp) (lane off n : Nat) : List Byte := (List.range n).map fun i => w.stackByte lane (off + i)
def Warp.stackWrite (w : Warp) (lane off : Nat) : List Byte → Warp
  | [] => w
  | b :: bs => Warp.stackWrite { w with stack := Sparse.set none w.stack (stackKey lane off) (some b) } lane (off + 1) bs

/-- The lowest live lane of a lane's quad: the anchor of a helper lane (R14). -/
def Warp.anchor (w : Warp) (lane : Nat) : Option Nat :=
  (List.range 4).foldl (fun acc i => acc.or (if w.live.has (lane / 4 * 4 + i) then some (lane / 4 * 4 + i) else none)) none
/-- The helper lanes bound to lanes of a mask. -/
def Warp.helpersOf (w : Warp) (m : Mask) : Mask :=
  Mask.ofLanes ((w.helpers.lanes 64).filter fun l => match w.anchor l with
    | some a => m.has a
    | none => false)
/-- Helper lanes end when their quad holds no live lane (R14). -/
def Warp.endHelpers (w : Warp) : Warp :=
  { w with helpers := Mask.ofLanes ((w.helpers.lanes 64).filter fun l => (w.anchor l).isSome) }

/-! ### Runs -/

/-- Take lanes out of every run; a run left without lanes goes. -/
def dropLanes (m : Mask) (rs : List Run) : List Run :=
  (rs.map fun r => { r with lanes := r.lanes.diff m }).filter fun r => r.lanes != 0
/-- The yield window of two runs that become one: the earlier end, where both are yielding (R18). -/
def joinYield : Option Nat → Option Nat → Option Nat
  | some a, some b => some (min a b)
  | _, _ => none
/-- Put released runs together where their PCs are equal, with the largest ageing counter (R18, R200). -/
def joinRun (r : Run) : List Run → List Run
  | [] => [r]
  | x :: xs =>
    if x.pc == r.pc && x.handler == r.handler then
      { x with lanes := x.lanes ||| r.lanes, age := max x.age r.age, notBefore := max x.notBefore r.notBefore,
               yieldEnd := joinYield x.yieldEnd r.yieldEnd } :: xs
    else x :: joinRun r xs
/-- Release the lanes of a mask that runs satisfying a test are blocked with: they continue at the next word. -/
def Warp.release (w : Warp) (test : Wait → Bool) (m : Mask) : Warp :=
  let hit := fun (r : Run) => (match r.wait with
    | some x => test x
    | none => false) && (r.lanes &&& m) != 0
  let freed := (w.runs.filter hit).foldl (fun acc r => joinRun { r with pc := r.pc + 8, lanes := r.lanes &&& m, wait := none, samples := none } acc) []
  let kept := (w.runs.map fun r => if hit r then { r with lanes := r.lanes.diff m } else r).filter fun r => r.lanes != 0
  { w with runs := kept ++ freed }
/-- check_release (R200). -/
def Warp.checkRelease (w : Warp) (j : Nat) : Warp :=
  let x := w.jset j
  if x.member != 0 && x.arrived == x.member then
    (w.release (fun y => y == .jwait j) x.arrived).setJset j { x with arrived := 0 }
  else w

/-! ### Barriers (R203 to R217) -/

def Barrier.uninit : Barrier := { ready := false, phase := 0, expW := 0, arrW := 0, expB := 0, arrB := 0, lost := false }
/-- The barrier number of a name: 0 to 15 named, 16 to 19 cluster. -/
def barIdx (b : Bar) : Nat := if b.clu then 16 + b.num.toNat else b.num.toNat
def State.gang? (s : State) (id : Nat) : Option Gang := s.gangs.find? fun g => g.id == id
def State.barrier (s : State) (blk b : Nat) : Barrier :=
  match s.block? blk with
  | some x =>
    if b < 16 then (x.bars[b]?).getD Barrier.uninit
    else ((x.gang.bind s.gang?).bind fun g => g.bars[b - 16]?).getD Barrier.uninit
  | none => Barrier.uninit
def State.setBarrier (s : State) (blk b : Nat) (x : Barrier) : State :=
  match s.block? blk with
  | some k =>
    if b < 16 then s.setBlock { k with bars := listSet k.bars b x }
    else match k.gang with
      | some g => { s with gangs := mapIf (fun y => y.id == g) (fun y => { y with bars := listSet y.bars (b - 16) x }) s.gangs }
      | none => s
  | none => s
/-- The warps that can arrive (R209). -/
def State.canArrive (s : State) (b : Block) (clu : Bool) : Nat :=
  if clu then ((b.gang.bind s.gang?).map (·.created)).getD b.decl.created else b.decl.created
/-- Whether a block uses a barrier: its own, or one of its gang. -/
def sharesBar (b : Nat) (k x : Block) : Bool := if b < 16 then x.id == k.id else x.gang == k.gang && k.gang.isSome
/-- Change every warp of the blocks that use a barrier. -/
def State.mapBarWarps (s : State) (blk b : Nat) (f : Warp → Warp) : State :=
  match s.block? blk with
  | some k => { s with blocks := mapIf (sharesBar b k) (fun x => { x with warps := x.warps.map f }) s.blocks }
  | none => s
/-- Release the runs of a warp that a completed phase lets go: those parked at BAR, and those in BARW whose token the new phase
differs from (R207, R212). Every access before an arrival of the phase happens before the warp's next accesses (R172, R217). -/
def Warp.phaseDone (w : Warp) (b : Nat) (phase : BitVec 16) (now : Nat) : Warp :=
  let w1 := (w.seeAll now).release (fun x => match x with
    | .bar k _ => k == b
    | .barw k token => k == b && token != phase.toNat
    | _ => false) (BitVec.allOnes 64)
  { w1 with reach := Sparse.set 0 w1.reach b 0, arrived := Sparse.set false w1.arrived b false, dueAt := Sparse.set none w1.dueAt b none }
/-- The unit whose barrier `b` is: the block, or its gang for a cluster barrier. -/
def Block.barUnit (k : Block) (b : Nat) : Nat := if b < 16 then k.id else k.gang.getD k.id
/-- The warps of the blocks that use a barrier. -/
def State.barWarps (s : State) (k : Block) (b : Nat) : List WarpRef :=
  (s.blocks.filter (sharesBar b k)).flatMap fun x => (List.range x.warps.length).map fun n => ⟨x.id, n⟩
/-- The writes known at a barrier's arrivals are known to every warp that observes its phase (R172, R217). -/
def State.shareKnown (s : State) (blk b : Nat) : State :=
  match s.block? blk with
  | none => s
  | some k =>
    if s.flight.isEmpty then s
    else
      let tok := Knower.bar (k.barUnit b) b
      let ws := (s.barWarps k b).map Knower.warp
      { s with flight := s.flight.map fun f =>
          if f.known.contains tok then { f with known := (f.known.filter (· != tok)) ++ ws.filter fun x => !f.known.contains x } else f }
/-- The completion check that ends every step at a barrier (R207). -/
def State.checkPhase (s : State) (blk b : Nat) : State :=
  let x := s.barrier blk b
  if x.ready && decide (0 < x.expW + x.expB) && decide (x.expW ≤ x.arrW) && decide (x.expB ≤ x.arrB) then
    (((s.setBarrier blk b { x with phase := x.phase + 1, arrB := x.arrB - x.expB, expB := 0, arrW := 0 }).mapBarWarps blk b
      fun w => w.phaseDone b (x.phase + 1) s.nextId).shareKnown blk b).prunePast
  else s
def satByte (n : Nat) : Nat := if n > 0xFFFFFFFF then 0xFFFFFFFF else n
/-- Bytes counted into a barrier (R213). -/
def State.countBytes (s : State) (blk b n : Nat) : State :=
  let x := s.barrier blk b
  if x.ready then (s.setBarrier blk b { x with arrB := satByte (x.arrB + n) }).checkPhase blk b
  else s.setBarrier blk b { x with lost := true }
def Warp.reach1 (w : Warp) (b : Nat) : Mask := Sparse.get 0 w.reach b
/-- A warp arrives at a barrier: what it knows of is known there, but for its own writes from a number on, which come after its arrival. -/
def State.noteArrival (s : State) (r : WarpRef) (b n : Nat) : State :=
  match s.block? r.blk with
  | none => s
  | some k =>
    let tok := Knower.bar (k.barUnit b) b
    let later := fun (f : Flight) => f.blk == r.blk && f.warp == r.num && decide (n ≤ f.seq)
    { s with flight := s.flight.map fun f => if f.known.contains (.warp r) && !later f && !f.known.contains tok then { f with known := f.known ++ [tok] } else f }
/-- Whether a warp has reached a barrier with every live lane and has not arrived (R208). -/
def Warp.arrivalDue (w : Warp) (b : Nat) : Bool := w.live != 0 && w.live.sub (w.reach1 b) && !Sparse.get false w.arrived b
/-- Whether a warp has an access below a number that is not made or has not left its queue. -/
def Warp.accessDue (w : Warp) (n : Nat) : Bool :=
  (w.storeQ.any fun e => decide (e.seq < n)) || w.late.any fun l => !l.rest.isEmpty && decide (l.id < n)
/-- The arrival check of a warp at a barrier (R208): the accesses before its arrival, which a number marks from the step at which it became due, are
performed first, and it arrives once they are (R217). -/
def State.checkArrive (s : State) (r : WarpRef) (b : Nat) : State :=
  match s.warp? r with
  | some w =>
    if w.arrivalDue b then
      let n := (Sparse.get none w.dueAt b).getD s.nextId
      let s0 := s.performWarp r (if b < 16 then .core else .die)
      if ((s0.warp? r).map fun x => x.accessDue n).getD true then s0.mapWarp r fun w => { w with dueAt := Sparse.set none w.dueAt b (some n) }
      else
        let s1 := (s0.noteArrival r b n).mapWarp r fun w =>
          { w with arrived := Sparse.set false w.arrived b true, dueAt := Sparse.set none w.dueAt b none }
        let x := s1.barrier r.blk b
        s1.setBarrier r.blk b { x with arrW := x.arrW + 1 }
    else s
  | none => s
/-- The arrivals that have waited for accesses of the warp. -/
def State.retryArrivals (s : State) (r : WarpRef) : State :=
  match s.warp? r with
  | some w => ((List.range 20).filter w.arrivalDue).foldl (fun t b => (t.checkArrive r b).checkPhase r.blk b) s
  | none => s

/-! ### The end of lanes and warps (R193, R214) -/

/-- Whether every warp of a block has ended, and none of them is halted over a lost store, which is never performed (R176, R193, R325). -/
def Block.over (b : Block) : Bool := b.warps.all fun w => w.ended && !w.halted
/-- A block whose warps have ended and whose jobs are complete ends (R193). -/
def State.noteBlock (s : State) (blk : Nat) : State :=
  match s.block? blk with
  | some b => if b.over && !s.jobs.any (fun j => j.blk == blk) && !s.ops.any (fun o => o.blk == blk) && !b.parked
      then s.push (.blockEnd blk) else s
  | none => s
/-- A warp ends: the READY barriers of its block and gang are adjusted in one step (R214). -/
def State.warpEnd (s : State) (r : WarpRef) : State :=
  let s0 := { s with waitTab := s.waitTab.filter fun e => e.ref != r }
  let s1 := s0.mapWarp r fun w => { w with ended := true, endedNow := true, trap := none, runs := [] }
  let s2 := (List.range 20).foldl (fun t b =>
    let x := t.barrier r.blk b
    if x.ready then
      let arr := match t.warp? r with
        | some w => Sparse.get false w.arrived b
        | none => false
      (t.setBarrier r.blk b { x with arrW := if arr then x.arrW - 1 else x.arrW, expW := x.expW - 1 }).checkPhase r.blk b
    else t) s1
  s2.noteBlock r.blk
/-- A result without what goes to lanes that have ended; none where nothing is left of it. An accumulator is written as a whole. -/
def Late.without (m : Mask) (l : Late) : Option Late :=
  if l.kind.isOp then some l
  else
    let writes := l.writes.filter fun x => match x.1 with
      | .v k _ => !m.has k
      | .p k _ => !m.has k
      | .s _ => true
    let keep := fun (ps : List Part) => ps.filter fun p => !m.has p.lane
    if writes.isEmpty then none else some { l with writes := writes, rest := keep l.rest, loose := keep l.loose }
/-- Live lanes exit (R193): sets, barriers, helpers, pending results; a warp without live lanes ends. A set that they leave empty has DEPTH 0
(assumption 84). -/
def State.exitLanes (s : State) (r : WarpRef) (m0 : Mask) : State :=
  match s.warp? r with
  | none => s
  | some w0 =>
    let m := m0 &&& w0.live
    if m == 0 then s else
    let lanes := m.lanes 64
    let left := (List.range 16).filter fun j => ((w0.jset j).member &&& m) != 0
    let w1 : Warp := { w0 with
      live := w0.live.diff m, runs := dropLanes m w0.runs,
      queues := lanes.foldl (fun q l => Sparse.erase (Sparse.erase (Sparse.erase (Sparse.erase q (2 * l)) (2 * l + 1)) (128 + 2 * l)) (129 + 2 * l)) w0.queues }
    let w2 := left.foldl (fun w j =>
      let x := w.jset j
      let mem := x.member.diff m
      w.setJset j { member := mem, arrived := x.arrived.diff m, depth := if mem == 0 then 0 else x.depth }) w1
    let w3 := (left.foldl (fun w j => w.checkRelease j) w2).endHelpers
    let s1 := s.setWarp r { w3 with late := w3.late.filterMap (Late.without (~~~(w3.live ||| w3.helpers))) }
    if w3.live == 0 then s1.warpEnd r
    else (List.range 20).foldl (fun t b => (t.checkArrive r b).checkPhase r.blk b) s1

/-! ### The code table (R333) -/

/-- A code-table entry from its bytes (Table 21-2). -/
def CodeEntry.ofBytes (early : Bool) (bs : List Byte) : CodeEntry :=
  let w := u32 bs 16
  { code := BitVec.ofNat 64 (u64 bs 0), ppt := BitVec.ofNat 64 (u64 bs 8), kind := w / 2 ^ 30, check := w / 2 ^ 29 % 2 == 1,
    main := w / 2 ^ 28 % 2 == 1, mat := w / 2 ^ 27 % 2 == 1, f64p := w / 2 ^ 26 % 2 == 1,
    width := if w / 2 ^ 24 % 4 == 0 then 16 else if w / 2 ^ 24 % 4 == 1 then 32 else if w / 2 ^ 24 % 4 == 2 then 64 else 0,
    regs := u16 bs 20, threads := u16 bs 22, warps := u8 bs 24, team := u8 bs 25, cluster := u8 bs 26, spawnres := u8 bs 27,
    shared := u32 bs 28, scratch := u32 bs 32, overTh := u32 bs 36,
    operands := (List.range 8).map fun k => u32 bs (40 + 4 * k), maps := (List.range 8).map fun k => u8 bs (72 + k),
    rods := (List.range 8).map fun k => (BitVec.ofNat 64 (u64 bs (80 + 12 * k)), BitVec.ofNat 32 (u32 bs (88 + 12 * k))),
    stack := u32 bs 176, bars := BitVec.ofNat 16 (u16 bs 180), early := early }
/-- Whether a descriptor was written in early service and keeps its reading (R355). -/
def Vf.thEarly (v : Vf) (handle : Nat) : Bool := v.earlyTh.contains handle
/-- A descriptor written in full service is no object of early service any more. -/
def State.rewritten (s : State) (vf handle : Nat) : State :=
  let v := s.vf vf
  if v.thEarly handle then s.setVf vf { v with earlyTh := v.earlyTh.filter (· != handle) } else s
/-- The entry of number `n`; none for 0, a number out of range or an address that does not translate. -/
def State.codeEntry? (s : State) (vf n : Nat) : Option CodeEntry :=
  let v := s.vf vf
  if n == 0 || n ≥ 65536 then none
  else (s.vaRead vf (v.earlyCode.contains n) (v.ctab.toNat + 256 * n) 256).map (CodeEntry.ofBytes (v.earlyCode.contains n || s.level != 2))

/-- Whether an entry is a task's, of a width that Table 21-2 gives. -/
def CodeEntry.isTask (e : CodeEntry) : Bool := e.kind == 2 && e.width != 0
/-- What a task takes from its entry (R12, R160): one warp, one team, no operands and no rods. -/
def CodeEntry.asTask (e : CodeEntry) : CodeEntry :=
  { e with
    warps := 1
    team := 1
    cluster := 1
    threads := if 1 ≤ e.threads && decide (e.threads ≤ e.width) then e.threads else e.width
    operands := []
    maps := []
    rods := [] }

/-! ### Taking a trap (R306 to R308) -/

/-- A trap that an instruction raises. -/
structure Trap where
  cause : Nat
  info : Word
  infx : Word := 0
  mask : Option Mask := none
  deriving DecidableEq, Repr

/-- The fields of a record of KIND 1 (R341). -/
def TrapRec.bytes (t : TrapRec) : List Byte :=
  leBytes 4 t.cause.toNat ++ leBytes 8 t.pc.toNat ++ leBytes 8 t.mask.toNat ++ leBytes 4 t.info.toNat ++ leBytes 4 t.infx.toNat
/-- The handler's entry, where HX_TRAPH names one (R305). -/
def State.handler? (s : State) (vf : Nat) : Option CodeEntry :=
  match s.codeEntry? vf ((s.vf vf).traph.toNat % 65536) with
  | some e => if e.kind == 3 then some e else none
  | none => none
/-- Trap level ends without a resumption: the handler's runs go. -/
def Warp.leaveTrap (w : Warp) : Warp :=
  { w with trap := none, runs := w.runs.filter fun r => !r.handler,
           queues := w.queues.filter fun e => decide (e.1 < 128) }
/-- The first `n` entries, all of them supplied (R124). -/
def Warp.landQueues (w : Warp) : Warp :=
  { w with queues := w.queues.map fun e => if e.1 < 128 then (e.1, e.2.map fun x => { x with filled := true }) else e }
/-- Take a trap at `pc` with the lanes `mask` of a warp: delivered to the interface's handler, or, at trap level and without
a handler, every live lane exits and the record goes to the fault ring. -/
def State.takeTrap (s : State) (r : WarpRef) (pc : DWord) (mask : Mask) (t : Trap) : State :=
  match s.block? r.blk, s.warp? r with
  | some b, some w =>
    let trec : TrapRec := { cause := BitVec.ofNat 32 t.cause, pc := pc, mask := mask, info := t.info, infx := t.infx }
    let s0 := { s with issue := none }
    match w.trap, s.handler? b.vf with
    | none, some h =>
      let w1 := w.landAll
      let tl := mask.lanes 64
      let lvl : TrapLevel := {
        mask := mask, handler := h,
        depth := tl.foldl (fun d l => Sparse.set 0 d l (w.depth1 l)) [],
        sp := tl.foldl (fun d l => Sparse.set 0 d l (w.sp1 l)) [] }
      let run : Run := { pc := h.code, lanes := mask, age := 0, yieldEnd := none, notBefore := 0, wait := none, held := false,
                         handler := true, samples := none }
      s0.setWarp r { w1.landQueues with trec := trec, trap := some lvl, runs := dropLanes mask w1.runs ++ [run] }
    | old, _ =>
      let s1 := (s0.setWarp r { w with trec := trec }).exitLanes r w.live
      let s2 := s1.mapWarp r Warp.leaveTrap
      let s3 := s2.report b.vf 1 b.launch trec.bytes
      if old.isSome then s3.report b.vf 1 b.launch w.trec.bytes else s3
  | _, _ => s

/-- Return from a trap (R196): trap level ends, call depths and %sp are restored, the lanes resume as one run. -/
def State.returnTrap (s : State) (r : WarpRef) (mode : RttMode) (notBefore : Nat) : State :=
  match s.warp? r with
  | some w =>
    match w.trap with
    | some lvl =>
      let skip := match mode with
        | .auto => w.trec.cause == 0x14 || w.trec.cause == 0x15 || w.trec.cause == 0x0F
        | .retry => false
        | .skip => true
      let lanes := lvl.mask.lanes 64
      let w1 := w.leaveTrap
      let back := lvl.mask &&& w.live
      let run : Run := { pc := if skip then w.trec.pc + 8 else w.trec.pc, lanes := back, age := 0, yieldEnd := none,
                         notBefore := notBefore, wait := none, held := false, handler := false, samples := none }
      s.setWarp r { w1 with
        depth := lanes.foldl (fun d l => Sparse.set 0 d l (Sparse.get 0 lvl.depth l)) w1.depth,
        sp := lanes.foldl (fun d l => Sparse.set 0 d l (Sparse.get 0 lvl.sp l)) w1.sp,
        runs := if back == 0 then w1.runs else w1.runs ++ [run] }
    | none => s
  | none => s

end Sys2Proof.Machine
end

