-- ==== Sys2Proof/Machine/Operands.lean ====
section
/-!
DEFINITION. What each instruction word reads and writes, in field order D, A, B, C (R73), its fixed latency (R68), the
engine it targets (R302) and the instruction classes of Table 1-2.
-/
namespace Sys2Proof
open Sys2Proof.Machine

/-- A register class. -/
inductive Cls where
  | v | s | p
  deriving DecidableEq, Repr

/-- One register operand: `cnt` registers from `num`, whose base must be a multiple of `al`; `all`: every live and helper
lane of the warp (R110); `cross`: lanes outside the run (R99). -/
structure Use where
  cls : Cls
  num : Nat
  cnt : Nat
  al : Nat
  rd : Bool
  wr : Bool
  all : Bool
  cross : Bool
  deriving DecidableEq, Repr

def rdV (r : BitVec 10) (n : Nat := 1) (al : Nat := n) : Use := ⟨.v, r.toNat, n, al, true, false, false, false⟩
def wrV (r : BitVec 10) (n : Nat := 1) (al : Nat := n) : Use := ⟨.v, r.toNat, n, al, false, true, false, false⟩
def rwV (r : BitVec 10) (n : Nat := 1) : Use := ⟨.v, r.toNat, n, n, true, true, false, false⟩
def rdS (r : BitVec 7) (n : Nat := 1) (al : Nat := n) : Use := ⟨.s, r.toNat, n, al, true, false, false, false⟩
def wrS (r : BitVec 7) (n : Nat := 1) : Use := ⟨.s, r.toNat, n, n, false, true, false, false⟩
def rdP (p : Nat) : Use := ⟨.p, p, 1, 1, true, false, false, false⟩
def wrP (p : Nat) : Use := ⟨.p, p, 1, 1, false, true, false, false⟩
/-- `b(s)`: one register, or a 64-bit value. -/
def BSrc.use (b : BSrc) (n : Nat := 1) : Use :=
  match b with
  | .v r => rdV r n
  | .s r => rdS r n
/-- The address register of an F-M word: one register, or a pair (R134). -/
def MAddr.use (a : MAddr) (n : Nat) : Use := if a.scalar then rdS (a.reg.setWidth 7) n else rdV a.reg n
/-- Registers of an access size (R57). -/
def Size.regs : Size → Nat
  | .b8 => 2 | .b16 => 4 | _ => 1
/-- The combining predicate of a compare (R105). -/
def combUse (c : Comb) (pc : BitVec 3) : List Use := if c == .none then [] else [rdP pc.toNat]
def CvtFmt.regs (f : CvtFmt) : Nat := if f.wide then 2 else 1
def AtomOp.regs (o : AtomOp) : Nat := if o.wide then 2 else 1

/-- Uses of one slot of a paired word (R64, R65). -/
def slotUses (op : PairOp) (s : Slot) : List Use :=
  let d : BitVec 10 := s.d.setWidth 10
  (if op.unary then wrV d else rwV d) :: (if op == .movs then [rdS (s.s.setWidth 7)] else [rdV (s.s.setWidth 10)])
/-- A null slot (R65). -/
def isNullSlot (op : PairOp) (s : Slot) : Bool :=
  op == .mov && s.d == 0 && s.s == 0 && s.n && s.g == 7 && s.rnd == .rn && !s.ftz

/-- The register operands of an instruction word; `wide`: the warp's width is 64 (R125, R201). -/
def Instr.uses (wide : Bool) (i : Instr) : List Use :=
  let m := if wide then 2 else 1
  match i with
  | .iadd _ d a b | .isub _ d a b | .imul _ d a b | .imulh _ _ d a b | .imin _ _ d a b | .imax _ _ d a b | .ishl _ d a b
  | .ishr _ d a b | .ishra _ d a b | .irot _ d a b | .bfx _ _ d a b | .fadd _ _ _ d a b | .fsub _ _ _ d a b | .fmul _ _ _ d a b
  | .fmin _ _ d a b | .fmax _ _ d a b | .fscale _ _ _ d a b | .hadd2 _ _ _ _ d a b | .hmul2 _ _ _ _ d a b | .hmin2 _ _ _ d a b
  | .hmax2 _ _ _ d a b => [wrV d, rdV a, b.use]
  | .iadd3 _ d a b c | .imad _ d a b c | .idot4 _ _ _ _ d a b c | .bfi _ d a b c | .prmt _ d a b c | .ffma _ _ _ d a b c
  | .hfma2 _ _ _ _ d a b c => [wrV d, rdV a, b.use, rdV c]
  | .imadw _ _ d a b c => [wrV d 2, rdV a, b.use, rdV c 2]
  | .iabs _ d a | .ineg _ d a | .brev _ d a | .popc _ d a | .clz _ d a | .ctz _ d a | .mov _ d a | .frnd _ _ _ d a => [wrV d, rdV a]
  | .iaddi _ d a _ | .imuli _ d a _ => [wrV d, rdV a]
  | .lop3 _ d a b c _ => [wrV d, rdV a, rdV b, rdV (c.setWidth 10)]
  | .isetp _ _ _ cb pd a b pc => wrP pd.toNat :: rdV a :: b.use :: combUse cb pc
  | .isetpi _ _ _ pd a _ => [wrP pd.toNat, rdV a]
  | .isel _ d a b pc => [wrV d, rdV a, b.use, rdP pc.toNat]
  | .lea _ w64 _ d a b => if w64 then [wrV d 2, rdV a 2, b.use] else [wrV d, rdV a, b.use]
  | .movi _ d _ => [wrV d]
  | .movh _ d _ => [rwV d]
  | .movs _ d x => [wrV d, rdS x]
  | .vrd _ d x => [wrV d (if specialWide x then 2 else 1)]
  | .srd _ d x => [wrS d (if specialWide x then 2 else 1)]
  | .vtos _ d a => [wrS d, rdV a]
  | .sadd _ d a b | .ssub _ d a b | .smul _ d a b | .sshl _ d a b | .sshr _ _ d a b => [wrS d, rdS a, rdS b]
  | .slop3 _ d a b c _ => [wrS d, rdS a, rdS b, rdS c]
  | .ssetp _ _ _ cb pd a b pc => { wrP pd.toNat with all := true } :: rdS a :: rdS b :: (combUse cb pc).map fun u => { u with all := true }
  | .smovi _ d _ => [wrS d]
  | .smovh _ d _ => [{ rdS d with wr := true }]
  | .fsetp _ _ _ cb _ pd a b pc => wrP pd.toNat :: rdV a :: b.use :: combUse cb pc
  | .fclass _ f d a => [wrV d, rdV a (if f == .f64 then 2 else 1)]
  | .dadd _ _ _ d a b | .dsub _ _ _ d a b | .dmul _ _ _ d a b | .dmin _ _ d a b | .dmax _ _ d a b => [wrV d 2, rdV a 2, b.use 2]
  | .dfma _ _ _ d a b c => [wrV d 2, rdV a 2, b.use 2, rdV c 2]
  | .dsetp _ _ _ cb _ pd a b pc => wrP pd.toNat :: rdV a 2 :: b.use 2 :: combUse cb pc
  | .drnd _ _ _ d a => [wrV d 2, rdV a 2]
  | .hsetp2 _ _ _ cb _ _ pd a b pc => wrP (2 * pd.toNat) :: wrP (2 * pd.toNat + 1) :: rdV a :: b.use :: combUse cb pc
  | .cvt _ t f _ _ d a | .cvti _ t f _ _ d a => [wrV d t.regs, rdV a f.regs]
  | .qscl _ band _ d a b => if band then [wrV d, rdV a] else [wrV d, rdV a, b.use]
  | .qpk4 _ d a b => [wrV d, rdV a 8, b.use]
  | .qxp4 _ _ d a b => [wrV d 8, rdV a, b.use]
  | .sfq _ _ _ _ a => [rdV a]
  | .qpop _ d _ | .qlen _ d _ => [wrV d]
  | .shfl _ _ w64 d a b pl => [wrV d (if w64 then 2 else 1), { rdV a (if w64 then 2 else 1) with cross := true }, b.use, wrP pl.toNat]
  | .qex _ _ w64 d a => [wrV d (if w64 then 2 else 1), { rdV a (if w64 then 2 else 1) with cross := true }]
  | .vote _ _ pd pa => [wrP pd.toNat, rdP pa.toNat]
  | .ballot _ d pa => [wrV d m, rdP pa.toNat]
  | .matchv _ w64 d a => [wrV d m, rdV a (if w64 then 2 else 1)]
  | .redux _ _ d a | .scan _ _ _ d a => [wrV d, rdV a]
  | .topk _ _ d a => [wrV d 2, rdV a]
  | .regrp _ _ d a n _ => rdV d n.toNat 1 :: rdV a :: (List.range 7).map wrP
  | .elect _ pd => [wrP pd.toNat]
  | .actm _ d => [wrV d m]
  | .brx _ a | .callx _ a _ => [rdV a 2]
  | .jtest _ _ pd _ => [wrP pd.toNat]
  | .jmask _ part d _ => [wrV d (if part == .dep then 1 else m)]
  | .bari _ _ _ b | .barx _ _ b | .barw _ _ b => [b.use]
  | .bara _ d _ => [wrV d]
  | .barq _ pd _ b => [wrP pd.toNat, b.use]
  | .lds _ sz _ d ad | .ldk _ sz d ad => [wrV d sz.regs, ad.use 1]
  | .sts _ sz _ d ad | .stk _ sz d ad => [rdV d sz.regs, ad.use 1]
  | .ldx _ sz _ _ d ad => [wrV d sz.regs, ad.use 2]
  | .stx _ sz _ _ d ad => [rdV d sz.regs, ad.use 2]
  | .ldw _ w _ _ d ad => [rwV d (if w then 2 else 1), ad.use 2]
  | .atoms _ op _ d a b c => wrV d op.regs :: rdV a :: rdV (b.setWidth 10) op.regs :: (if op.isCas then [rdV c op.regs] else [])
  | .atomx _ op _ _ d a b c => wrV d op.regs :: rdV a 2 :: rdV (b.setWidth 10) op.regs :: (if op.isCas then [rdV c op.regs] else [])
  | .redx _ op _ _ a b => [rdV a 2, rdV (b.setWidth 10) op.regs]
  | .fencer _ _ _ _ dyn _ sA => if dyn then [rdS sA] else []
  | .roddef _ _ _ a b => [rdS a 2, rdS b]
  | .ldf _ w d ad | .fpoll _ w d ad => [wrV d (if w then 4 else 2), ad.use 2]
  | .fres _ d ad | .fflt _ d ad | .freg _ d ad => [rdV d 2, ad.use 2]
  | .spawn _ na pd a b c => wrP pd.toNat :: rdS a :: (if na then [] else [rdS b 2]) ++ [wrS c]
  | .lnch _ pd a b c => [wrP pd.toNat, rdS a, rdS b 2, wrS c]
  | .mma _ _ _ _ _ _ c | .mmas _ _ _ _ _ _ c | .mmat _ _ _ _ _ _ c => [rdV c]
  | .mchg _ _ d => [wrV d]
  | .bcp _ _ _ _ a | .bmc _ _ _ a _ | .bfill _ _ _ a | .bpfx _ _ a => [rdS a 8]
  | .bcpp _ _ _ _ a p g => [rdS a 8, rdS p, rdS g 2]
  | .bga _ _ _ _ a x | .bsc _ _ _ _ a x => [rdS a 8, rdS x 2]
  | .vmark _ pd a b => [wrP pd.toNat, rdS a, rdS b]
  | .vstamp _ _ d a b => [wrV d 2, rdS a, rdS b]
  | .vwait _ all pd a b | .vrefr _ all pd a b => wrP pd.toNat :: rdS a :: (if all then [] else [rdS b])
  | _ => []

/-- The latency of a fixed-latency result (Table 3-18); none: the result is scoreboarded, or there is none. -/
def Instr.latency (i : Instr) : Option Nat :=
  let op := (fOp (encode i)).toNat
  if i.pair?.isSome then some 4
  else if op < 0x50 || op == 0x82 || op == 0xD4 || op == 0xD5 || op == 0xE5 || (0x60 ≤ op && op ≤ 0x65) then some 4
  else if 0x50 ≤ op && op ≤ 0x57 then some 8
  else if 0x70 ≤ op && op ≤ 0x74 then some 6
  else if op == 0x95 || op == 0x96 then some 8
  else if op == 0x97 then some 12
  else if 0x90 ≤ op && op ≤ 0x9A && op != 0x98 then some 6
  else none

/-- The engine an instruction targets (R302): 0 vector ALU, 1 FP64, 2 SFU, 3 load-store, 4 matrix, 5 transfer. -/
def Instr.engine (i : Instr) : Nat :=
  let op := (fOp (encode i)).toNat
  if i.pair?.isSome then 0
  else if 0x50 ≤ op && op ≤ 0x57 then 1
  else if 0x80 ≤ op && op ≤ 0x82 then 2
  else if 0x100 ≤ op && op ≤ 0x129 then 3
  else if 0x140 ≤ op && op ≤ 0x144 then 4
  else if 0x150 ≤ op then 5 else 0

/-- The cases of Table 1-2 in which decoder 1 does not issue beside decoder 0. -/
def decoder1Idle (i0 i1 : Instr) : Bool :=
  let o0 := if i0.pair?.isSome then 0 else (fOp (encode i0)).toNat
  let o1 := if i1.pair?.isSome then 0 else (fOp (encode i1)).toNat
  let ctl := fun (o : Nat) => decide (0xC0 ≤ o) && decide (o < 0x100) && o != 0xC0 && o != 0xC1 && o != 0xCB
  let cross := fun (o : Nat) => decide (0x90 ≤ o) && decide (o ≤ 0x9A)
  let away := fun (o : Nat) => decide (0x140 ≤ o) || (decide (0x110 ≤ o) && decide (o ≤ 0x112)) || o == 0x128 || o == 0x129
  let wrs := (Instr.uses false i1).any fun u => u.cls == .s && u.wr
  let scalar := decide (0x28 ≤ o1) && decide (o1 ≤ 0x30)
  ctl o0 || ctl o1 || cross o0 || cross o1 || away o0 || away o1 || wrs || scalar
    || (i0.engine == 3 && i1.engine == 3) || (i0.engine == 2 && i1.engine == 2) || (i0.engine == 1 && i1.engine == 1)

/-- Lanes of a mask in which a guard holds. -/
def guardMask (w : Warp) (n : Bool) (g : BitVec 3) (m : Mask) : Mask := Mask.ofLanes ((m.lanes 64).filter fun l => w.rp l g.toNat != n)

/-- A matrix word. -/
def Instr.isMatrix (i : Instr) : Bool :=
  match i with
  | .mma .. | .mmas .. | .mmat .. => true
  | _ => false
/-- A word that reads a vector register once for the run, in the lowest active live lane: a barrier word (R205), and VTOS (R108). -/
def Instr.readsOnce (i : Instr) : Bool :=
  match i with
  | .bari .. | .barx .. | .barw .. | .barq .. | .vtos .. => true
  | _ => false
/-- The uses of a word with the lanes that make each: every lane of the run reads the guards, its active lanes the operands. Where a guard
holds on no lane, the word uses its guard alone (R75; assumption 60). -/
def Instr.laneUses (i : Instr) (w : Warp) (wide : Bool) (run : Mask) : List (Mask × Use) :=
  let grd := fun (g : BitVec 3) => if g == 7 then [] else [(run, rdP g.toNat)]
  let full := fun (m : Mask) => m ||| w.helpersOf m
  match i.pair? with
  | some (op, p) =>
    let m0 := guardMask w p.slot0.n p.slot0.g run
    let m1 := guardMask w p.slot1.n p.slot1.g run
    grd p.slot0.g ++ grd p.slot1.g ++ (if isNullSlot op p.slot0 then [] else (slotUses op p.slot0).map fun u => (full m0, u))
      ++ (if isNullSlot p.op1 p.slot1 then [] else (slotUses p.op1 p.slot1).map fun u => (full m1, u))
  | none =>
    let x := encode i
    let act := guardMask w (bit x 58) (bits x 55 3) run
    grd (bits x 55 3) ++ (i.uses wide).map fun u => (if i.readsOnce && u.cls == .v then Mask.ofLanes ((act.lanes 64).take 1) else if u.all then w.live ||| w.helpers else if u.cross then BitVec.allOnes 64 else full act, u)

/-- The source lane of SHFL: a floored remainder of a signed lane number (R126). -/
def shflLane (mode : ShflMode) (width l : Nat) (b : Word) : Nat :=
  let t : Int := match mode with
    | .idx => b.toInt
    | .up => (l : Int) - b.toInt
    | .down => (l : Int) + b.toInt
    | .xor => ((BitVec.ofNat 32 l) ^^^ b).toInt
  (t % (width : Int)).toNat
/-- The neighbour that QEX reads in its quad (R127). -/
def qexLane (dir : QexDir) (l : Nat) : Nat :=
  l / 4 * 4 + Nat.xor (l % 4) (match dir with
    | .h => 1
    | .v => 2
    | .d => 3)
/-- The lane whose source register a lane of SHFL or QEX reads. -/
def Instr.sourceLane (i : Instr) (w : Warp) (width l : Nat) : Nat :=
  match i with
  | .shfl _ mode _ _ _ b _ => shflLane mode width l (match b with
    | .v r => w.rv l r.toNat
    | .s r => w.rs r.toNat)
  | .qex _ dir _ _ _ => qexLane dir l
  | _ => l

/-- The registers that a use names. -/
def Use.ids (m : Mask) (u : Use) : List RegId :=
  (List.range u.cnt).flatMap fun k =>
    match u.cls with
    | .v => (m.lanes 64).map fun l => .v l (u.num + k)
    | .s => if m == 0 then [] else [.s (u.num + k)]
    | .p => if u.num == 7 then [] else (m.lanes 64).map fun l => .p l (u.num + k)

end Sys2Proof
end

