-- ==== Sys2Proof/Machine/Footprint.lean ====
section
/-!
DEFINITION. Where memory instructions and transfers reach: addresses (R134), transfer descriptors (R241), and the bytes that rods and
footprints are matched against (R147, R180).
-/
namespace Sys2Proof.Machine

/-! ### Addresses of a lane (Table 9-1) -/

def sizeBytes (sz : Size) : Nat :=
  match sz with
  | .b1 => 1
  | .b2 => 2
  | .b4 => 4
  | .b8 => 8
  | .b16 => 16
/-- The base register of a 32-bit address. -/
def base32 (w : Warp) (ad : MAddr) (l : Nat) : Word := if ad.scalar then w.rs (ad.reg.toNat % 128) else w.rv l ad.reg.toNat
/-- A byte offset in shared memory, and in a lane's stack (Table 9-1). -/
def sharedEA (w : Warp) (ad : MAddr) (l : Nat) : Nat := (base32 w ad l + ad.imm.signExtend 32).toNat
def stackEA (w : Warp) (ad : MAddr) (l : Nat) : Nat := (w.sp1 l + base32 w ad l + ad.imm.signExtend 32).toNat

def extImm (x : BitVec 18) : DWord := x.signExtend 64
/-- The scratchpad address of a lane (Table 9-1). -/
def scratchEA (w : Warp) (ad : MAddr) (lane : Nat) : DWord :=
  (if ad.scalar then w.rs64 (ad.reg.toNat % 128) else w.rv64 lane ad.reg.toNat) + extImm ad.imm
/-- Whether a lane's address comes from a poisoned vector register; `n`: registers of the base. -/
def addrPois (ad : MAddr) (w : Warp) (n l : Nat) : Bool := !ad.scalar && (List.range n).any fun k => w.vPois.contains (vKey l (ad.reg.toNat + k))
/-! ### Transfers (R241) -/

/-- A transfer descriptor (Table 13-12), with the two words that hold its reserved bits. -/
structure XDesc where
  dst : Nat
  src : Nat
  len : Nat
  rows : Nat
  flagp : Nat
  spitch : Nat
  dpitch : Nat
  pattern : Word
  w4 : Word
  w5 : Word
  deriving DecidableEq, Repr

def xdesc (w : Warp) (n : Nat) : XDesc :=
  { dst := (w.rs64 n).toNat, src := (w.rs64 (n + 2)).toNat, len := (w.rs (n + 4)).toNat % 2 ^ 28, rows := (w.rs (n + 5)).toNat % 2 ^ 24,
    flagp := (w.rs (n + 5)).toNat / 2 ^ 24 % 8, spitch := (w.rs (n + 6)).toNat, dpitch := (w.rs (n + 7)).toNat, pattern := w.rs (n + 2),
    w4 := w.rs (n + 4), w5 := w.rs (n + 5) }
def spaceCode : XSpace → Nat
  | .mm => 0
  | .sp => 1
  | .sh => 2
/-- One side of a transfer: where Table 13-1 says it is, its space (none: the peer's memory), and the rows it may reach. -/
structure Side where
  wh : Nat
  space : Option XSpace
  addr : Nat
  pitch : Nat
  rows : Nat
  deriving DecidableEq, Repr

/-- The bytes a side may reach. -/
def Side.ranges (x : Side) (len : Nat) : List Range :=
  match x.space with
  | none => []
  | some y => (List.range x.rows).map fun i => ⟨match y with
      | .mm => .mm
      | .sp => .sp
      | .sh => .sh, (x.addr + i * x.pitch) % 2 ^ 64, len⟩
def dstSide (x : XSpace) (d : XDesc) : Side := { wh := 0, space := some x, addr := d.dst, pitch := d.dpitch, rows := d.rows }
def srcSide (x : XSpace) (d : XDesc) : Side := { wh := 1, space := some x, addr := d.src, pitch := d.spitch, rows := d.rows }

/-- The rows that the side reached through indices may reach: 0 to LIMIT − 1, where the list has entries. -/
def limitRows (d : XDesc) (limit : Nat) : Nat := if d.rows == 0 then 0 else limit
def listRange (off rows : Nat) : List Range := if rows == 0 then [] else [⟨.sh, off, 4 * rows⟩]
/-- The sides of a transfer, and its index list. -/
structure Reach where
  d : XDesc
  dst : Side
  src : Option Side
  list : List Range := []
  deriving DecidableEq, Repr

/-- Two sides of equal shape (R245, R247, R249); a source that is no place (R245). -/
def copyReach (w : Warp) (dst src : XSpace) (a : BitVec 7) : Reach :=
  let d := xdesc w a.toNat
  { d := d, dst := dstSide dst d, src := some (srcSide src d) }
def fillReach (w : Warp) (dst : XSpace) (a : BitVec 7) : Reach :=
  let d := xdesc w a.toNat
  { d := d, dst := dstSide dst d, src := none }
/-- Offset of an index list, and LIMIT (R246). -/
def indexOff (w : Warp) (i : BitVec 7) : Nat := (w.rs i.toNat).toNat
def indexLimit (w : Warp) (i : BitVec 7) : Nat := (w.rs (i.toNat + 1)).toNat
def gatherReach (w : Warp) (dst src : XSpace) (a i : BitVec 7) : Reach :=
  let d := xdesc w a.toNat
  { d := d, dst := dstSide dst d, src := some { srcSide src d with rows := limitRows d (indexLimit w i) }, list := listRange (indexOff w i) d.rows }
def scatterReach (w : Warp) (dst src : XSpace) (a i : BitVec 7) : Reach :=
  let d := xdesc w a.toNat
  { d := d, dst := { dstSide dst d with rows := limitRows d (indexLimit w i) }, src := some (srcSide src d), list := listRange (indexOff w i) d.rows }
/-- The side of a peer copy that lies with the peer has no space (R248). -/
def peerReach (w : Warp) (pull scr : Bool) (a : BitVec 7) : Reach :=
  let d := xdesc w a.toNat
  let here : XSpace := if scr then .sp else .mm
  let far : Side → Side := fun x => { x with space := none }
  { d := d, dst := if pull then dstSide here d else far (dstSide here d), src := some (if pull then far (srcSide here d) else srcSide here d) }
/-- What a transfer reads and writes: its footprint (R180). -/
def Reach.reads (x : Reach) : List Range := ((x.src.map fun y => y.ranges x.d.len).getD []) ++ x.list
def Reach.writes (x : Reach) : List Range := x.dst.ranges x.d.len
/-- The reach of a transfer as its words and registers give it. -/
def reachOf (i : Instr) (w : Warp) : Option Reach :=
  match i with
  | .bcp _ dst src _ a => some (copyReach w dst src a)
  | .bfill _ dst _ a => some (fillReach w dst a)
  | .bpfx _ _ a => some (copyReach w .sp .mm a)
  | .bmc _ src _ a _ => some (copyReach w .sh src a)
  | .bga _ dst src _ a i => some (gatherReach w dst src a i)
  | .bsc _ dst src _ a i => some (scatterReach w dst src a i)
  | .bcpp _ pull scr _ a _ _ => some (peerReach w pull scr a)
  | _ => none

end Sys2Proof.Machine
end

