-- ==== Sys2Proof/Machine/Tensor.lean ====
section
/-!
DEFINITION. Tensor descriptors, placement records (R271 to R277), views with their commit groups and stale-read checks
(R251 to R264), and generations (R254 to R257).
-/
namespace Sys2Proof.Machine

/-! ### Descriptors -/

/-- A tensor descriptor (Table 17-1). -/
structure Desc where
  view : Bool
  layout : Nat
  fmt : Nat
  rank : Nat
  tiles : Nat
  ext : List Nat
  tshape : Nat
  ptab : Nat
  vlist : List Nat
  master : Nat
  policy : Nat
  qfmt : Nat
  transpose : Bool
  kind : Nat
  early : Bool
  handle : Nat
  deriving DecidableEq, Repr

def Desc.ofBytes (early : Bool) (bs : List Byte) : Desc :=
  let w := u32 bs 0
  let k := u32 bs 60
  { view := w / 2 ^ 30 % 2 == 1, layout := w / 256 % 16, fmt := w / 16 % 16, rank := w % 16, tiles := u32 bs 4 % 2 ^ 24,
    ext := (List.range 4).map fun d => u32 bs (8 + 4 * d), tshape := u16 bs 24, ptab := u64 bs 32,
    vlist := ((List.range 4).map fun d => u32 bs (40 + 4 * d)).filter (· != 0), master := u32 bs 56, policy := k / 256 % 4,
    qfmt := k / 16 % 16, transpose := k / 8 % 2 == 1, kind := k % 8, early := early, handle := 0 }
/-- The descriptor that a handle names (R271). -/
def State.desc? (s : State) (vf handle : Nat) : Option Desc :=
  let v := s.vf vf
  if handle == 0 || handle ≥ 2 ^ 20 then none
  else match s.vaRead vf (v.thEarly handle) (v.htab.toNat + 256 * handle) 256 with
    | some bs => if u32 bs 0 / 2 ^ 31 == 1 then some { Desc.ofBytes (v.thEarly handle || s.level != 2) bs with handle := handle } else none
    | none => none
/-- Tile extent along a dimension. -/
def Desc.text (d : Desc) (k : Nat) : Nat := 2 ^ (d.tshape / 2 ^ (12 - 4 * k) % 16)
def Desc.extent (d : Desc) (k : Nat) : Nat := (d.ext[k]?).getD 1
/-- Tiles along a dimension (R273). -/
def Desc.grid (d : Desc) (k : Nat) : Nat := (d.extent k + d.text k - 1) / d.text k
/-- Coordinates of a tile, outermost first (R273). -/
def Desc.coords (d : Desc) (t : Nat) : List Nat :=
  (List.range d.rank).map fun k => t / ((List.range d.rank).foldl (fun p j => if k < j then p * d.grid j else p) 1) % d.grid k
/-- The linear index of coordinates; none outside the grid. -/
def Desc.tileAt (d : Desc) (cs : List Nat) : Option Nat :=
  (List.range d.rank).foldl (fun acc k => match acc with
    | some t => let c := (cs[k]?).getD 0; if c < d.grid k then some (t * d.grid k + c) else none
    | none => none) (some 0)
def Desc.tileCols (d : Desc) : Nat := d.text (d.rank - 1)
def Desc.tileElems (d : Desc) : Nat := (List.range d.rank).foldl (fun p k => p * d.text k) 1
def Desc.tileRows (d : Desc) : Nat := d.tileElems / d.tileCols
/-- Bits of an element; HF4 elements have 4. -/
def fmtBits (f : Nat) : Nat := if f == 0 then 64 else if f == 1 then 32 else if f == 2 || f == 3 then 16 else if f == 6 then 4 else 8
def fmtOf (f : Nat) : Fmt := if f == 0 then .f64 else if f == 1 then .f32 else if f == 2 then .bf16 else if f == 3 then .f16 else if f == 4 then .e4m3 else .e5m2
/-- Bands of an R × C image (R80). -/
def bandsPerRow (c : Nat) : Nat := (c + 255) / 256
def bandCount (r c : Nat) : Nat := (r + 63) / 64 * bandsPerRow c
/-- Bytes of one tile (R274, Table 5-3). -/
def Desc.tileBytes (d : Desc) : Nat :=
  if d.fmt == 6 then d.tileElems / 2 + d.tileElems / 8 + 2 * bandCount d.tileRows d.tileCols else d.tileElems * fmtBits d.fmt / 8

/-! ### Placement records -/

/-- Where a copy is homed (Table 17-3). -/
inductive Home where
  | main (die : Nat)
  | scratch (cluster : Nat)
  | peer (dev : Nat)
  deriving DecidableEq, Repr

/-- A copy of a tile: its home, its address and the home code. -/
structure Copy where
  home : Home
  addr : Nat
  deriving DecidableEq, Repr

/-- A placement record (Table 17-2): its state after the treatment of R275 and R276. -/
inductive RecState where
  | resident | moving | faulted | absent
  deriving DecidableEq, Repr

structure Rec where
  state : RecState
  version : Nat
  copies : List Copy
  deriving DecidableEq, Repr

/-- A home code as the interface reads it; none: treated as FAULTED (R276, R348). -/
def State.home? (s : State) (vf code addr : Nat) : Option Copy :=
  let v := s.vf vf
  let die := code / 2 ^ 11 % 8
  let clu := code / 2 ^ 7 % 16
  if addr % 256 != 0 then none
  else if code / 2 ^ 14 == 0 then
    if code % 2 ^ 11 == 0 then ((v.dies[die]?).map fun d => ⟨.main d, addr⟩) else none
  else if code / 2 ^ 14 == 1 then
    if code % 2 ^ 7 != 0 then none
    else match v.cluster? die clu with
      | some k => if addr / 2 ^ 30 == die && addr % 2 ^ 30 / Config.sliceBytes == clu then some ⟨.scratch k, addr⟩ else none
      | none => none
  else if code / 2 ^ 14 == 2 then
    if code % 2 ^ 6 == 0 then some ⟨.peer (code / 2 ^ 6 % 256), addr⟩ else none
  else none
/-- The home code of a physical cluster for an interface. -/
def State.homeCode (s : State) (vf k : Nat) : Nat := 2 ^ 14 + (s.vf vf).dieNum (k / 16) * 2 ^ 11 + (s.vf vf).cluNum k * 2 ^ 7

def Rec.ofBytes (s : State) (vf t : Nat) (bs : List Byte) : Rec :=
  let n := u8 bs 4 / 16 % 4
  let st := u8 bs 4 % 16
  let cs := (List.range n).map fun k => s.home? vf (u16 bs (8 + 16 * k)) (u64 bs (16 + 16 * k))
  let ok := u32 bs 0 == t && n != 0 && decide (st ≤ 3) && cs.all (·.isSome)
  { state := if !ok || st == 2 then .faulted else if st == 1 then .moving else if st == 3 then .absent else .resident,
    version := u32 bs 4 / 256, copies := cs.filterMap id }
def State.view? (s : State) (vf handle : Nat) : Option View := s.views.find? fun v => v.vf == vf && v.handle == handle
/-- Read the record of tile `t`; none: a translation fault (R319). A tile of a view without a placement table lies where registration has
homed it (Table 15-1; assumption 26). -/
def State.record? (s : State) (vf : Nat) (d : Desc) (t : Nat) : Option Rec :=
  match if d.view && d.ptab == 0 then (s.view? vf d.handle).bind fun v => v.homes[t]? else none with
  | some (code, a) => some (match s.home? vf code a with
    | some c => { state := .resident, version := 0, copies := [c] }
    | none => { state := .faulted, version := 0, copies := [] })
  | none => (s.vaRead vf d.early (d.ptab + 64 * t) 64).map (Rec.ofBytes s vf t)
/-- The copy that staging and operand fetches use (R229, R284): a RESIDENT copy in scratchpad on a die, else the primary. -/
def Rec.use (r : Rec) (die : Nat) : Option Copy :=
  match r.copies.find? (fun c => match c.home with
    | .scratch k => k / 16 == die
    | _ => false) with
  | some c => some c
  | none => r.copies.head?
/-- Whether main-memory addresses are read as scratchpad addresses: early objects (R355). -/
def State.copyLoc (s : State) (vf : Nat) (early : Bool) (c : Copy) (off : Nat) (write : Bool) : Option Loc :=
  match c.home with
  | .main _ => s.translate vf early (c.addr + off) write false
  | .scratch _ => ((s.vf vf).scratch? (c.addr + off)).map .scratch
  | .peer _ => none

/-! ### Rods (R147, R150) -/

/-- Whether bytes of a space meet a range of a rod: under `th`, any copy of any tile of the tensor. -/
def State.rodHits (s : State) (vf : Nat) (r : Range) (space : RodSpace) (base len : Nat) : Bool :=
  match r.space with
  | .th =>
    match s.desc? vf r.base with
    | some d => (List.range d.tiles).any fun t => match s.record? vf d t with
      | some x => x.copies.any fun c => (match c.home with
        | .main _ => space == (if d.early then .sp else .mm)
        | .scratch _ => space == .sp
        | .peer _ => false) && meets c.addr d.tileBytes base len
      | none => false
    | none => false
  | y => y == space && meets r.base r.len base len
/-- The rods that ranges of an access overlap when it issues. -/
def State.rodTags (s : State) (b : Block) (xs : List Range) : Word :=
  (List.range 32).foldl (fun (m : Word) k =>
    if ((b.rods[k]?).getD []).any fun r => xs.any fun x => s.rodHits b.vf r x.space x.base x.len then m ||| (1 <<< k) else m) 0

/-! ### Views -/

def State.setView (s : State) (v : View) : State := { s with views := mapIf (fun x => x.vf == v.vf && x.handle == v.handle) (fun _ => v) s.views }
def Stamp.zero : Stamp := { pois := false, gen := 0 }
def View.stamp (v : View) (g : Nat) : Stamp := Sparse.get Stamp.zero v.stamps g
/-- Bands of a view tile; a view without QUANT has one group per tile (R256). -/
def Desc.bands (d : Desc) : Nat := if d.kind % 2 == 1 then bandCount d.tileRows d.tileCols else 1
def groupTile (g : Nat) : Nat := g % 2 ^ 24
def groupBand (g : Nat) : Nat := g / 2 ^ 24
def groupNum (tile band : Nat) : Nat := tile + band * 2 ^ 24
/-- Swap the innermost two of a list under TRANSPOSE (R253). -/
def swapLast (n : Nat) (t : Bool) (cs : List Nat) : List Nat :=
  if t && decide (2 ≤ n) then cs.take (n - 2) ++ [(cs[n - 1]?).getD 0, (cs[n - 2]?).getD 0] else cs
/-- Master coordinates of element (row, column) of a view tile, the row counted over the outer dimensions of the tile. -/
def masterElem (v : Desc) (tile row col : Nat) : List Nat :=
  let base := v.coords tile
  let inner := (List.range v.rank).map fun k =>
    if k + 1 == v.rank then col
    else row / ((List.range v.rank).foldl (fun p j => if k < j && j + 1 < v.rank then p * v.text j else p) 1) % v.text k
  swapLast v.rank v.transpose ((List.range v.rank).map fun k => (base[k]?).getD 0 * v.text k + (inner[k]?).getD 0)
/-- The master tile and the element within it. -/
def masterTile (m : Desc) (cs : List Nat) : Nat := (m.tileAt ((List.range m.rank).map fun k => (cs[k]?).getD 0 / m.text k)).getD 0
def masterIdx (m : Desc) (cs : List Nat) : Nat := (List.range m.rank).foldl (fun i k => i * m.text k + (cs[k]?).getD 0 % m.text k) 0
/-- The source tile of a group (R252). -/
def sourceTile (v m : Desc) (g : Nat) : Nat := masterTile m (masterElem v (groupTile g) 0 0)
/-- Rows and columns of a group of a view tile. -/
def groupRows (v : Desc) (g : Nat) : List Nat :=
  if v.kind % 2 == 1 then
    let i := groupBand g / bandsPerRow v.tileCols
    (List.range (min 64 (v.tileRows - 64 * i))).map fun r => 64 * i + r
  else List.range v.tileRows
def groupCols (v : Desc) (g : Nat) : List Nat :=
  if v.kind % 2 == 1 then
    let k := groupBand g % bandsPerRow v.tileCols
    (List.range (min 256 (v.tileCols - 256 * k))).map fun c => 256 * k + c
  else List.range v.tileCols
/-- Every group of a view. -/
def allGroups (v : Desc) : List Nat := (List.range v.tiles).flatMap fun t => (List.range v.bands).map fun b => groupNum t b
/-- Byte ranges of an element of a tile image: offset and length; HF4 elements lie with their scales (Table 5-3). -/
def elemBytes (d : Desc) (i : Nat) : List (Nat × Nat) :=
  if d.fmt == 6 then
    let r := i / d.tileCols
    let c := i % d.tileCols
    [(i / 2, 1), (d.tileElems / 2 + r * (d.tileCols / 8) + c / 8, 1),
     (d.tileElems * 5 / 8 + 2 * (r / 64 * bandsPerRow d.tileCols + c / 256), 2)]
  else [(i * (fmtBits d.fmt / 8), fmtBits d.fmt / 8)]

/-- The dirty mark of a group (R257). -/
def State.isDirty (s : State) (vf handle g : Nat) : Bool := s.dirty.any fun x => x.vf == vf && x.handle == handle && x.group == g
def State.markDirty (s : State) (vf handle g : Nat) (ahead : Bool) : State :=
  let x : Dirty := { vf := vf, handle := handle, group := g, ahead := ahead }
  if ahead then { s with dirty := x :: s.dirty.filter fun y => !(y.vf == vf && y.handle == handle && y.group == g) }
  else if s.isDirty vf handle g then s else { s with dirty := s.dirty ++ [x] }
def genKey (vf handle tile : Nat) : Nat := (vf * 2 ^ 20 + handle) * 2 ^ 24 + tile
def State.gen (s : State) (vf handle tile : Nat) : Word := Sparse.get 0 s.gens (genKey vf handle tile)
/-- x is at least y (R254). -/
def genGe (x y : Word) : Bool := !(x - y).msb
/-- A group whose source bytes a rise leaves alone takes the new generation (R257). While a refresh of it is in progress its committed content is
older: the refresh takes the generation, not the stamp (R262; assumption 74). -/
def State.followGen (s : State) (v : View) (k : Nat) (g : Word) : State :=
  let mine := fun (c : Commit) => c.vf == v.vf && c.handle == v.handle && c.group == k
  if s.isDirty v.vf v.handle k then s
  else if s.commits.any mine then { s with commits := mapIf mine (fun c => { c with gen := g }) s.commits }
  else if (v.stamp k).pois then s
  else s.setView { v with stamps := Sparse.set Stamp.zero v.stamps k { v.stamp k with gen := g } }
/-- A generation rises (R254): the groups that `hit` selects become dirty, the others follow without a rebuild (R257). -/
def State.rise (s : State) (vf handle tile : Nat) (m : Desc) (hit : Desc → Nat → Bool) : State :=
  let g := s.gen vf handle tile + 1
  let s1 := { s with gens := Sparse.set 0 s.gens (genKey vf handle tile) g }
  m.vlist.foldl (fun t vh =>
    match t.desc? vf vh with
    | some vd =>
      ((allGroups vd).filter fun k => sourceTile vd m k == tile).foldl (fun t k =>
        if hit vd k then t.markDirty vf vh k false
        else match t.view? vf vh with
          | some v => t.followGen v k g
          | none => t) t
    | none => t) s1
/-- Whether bytes `lo` to `hi - 1` of the source tile meet the source bytes of a group. -/
def groupReads (v m : Desc) (g lo hi : Nat) : Bool :=
  (groupRows v g).any fun r => (groupCols v g).any fun c =>
    (elemBytes m (masterIdx m (masterElem v (groupTile g) r c))).any fun x => Machine.meets x.1 x.2 lo (hi - lo)

/-! ### Stale-read checks (R261) -/

/-- The outcome of the checks of an engine read of views. -/
inductive ViewCheck where
  | pass (flag : Bool)
  | trap (t : Trap)
  | wait (ws : List ViewWait)
  deriving DecidableEq, Repr

def causeVpois : Nat := 0x11
def causeVstal : Nat := 0x12
/-- The trap that names a group (Table 15-5). -/
def groupTrap (cause g : Nat) : Trap :=
  { cause := cause, info := BitVec.ofNat 32 (groupBand g % 256 * 2 ^ 24 + groupTile g), infx := BitVec.ofNat 32 (groupBand g / 256 % 2 ^ 12) }
/-- Sample the generation of each group's source tile (R261). -/
def State.sampleGroups (s : State) (vf : Nat) (gs : List (Nat × Nat)) : List ViewWait :=
  gs.map fun x =>
    let g0 := match s.view? vf x.1, s.desc? vf x.1 with
      | some v, some d => (match s.desc? vf v.master with
        | some m => s.gen vf v.master (sourceTile d m x.2)
        | none => 0)
      | _, _ => 0
    { vf := vf, handle := x.1, group := x.2, g0 := g0 }
/-- The groups whose stamp has not reached the sampled generation, and the first that has reached it poisoned. Those of a view that has been
deregistered in the meantime are waited for no more (assumption 86). -/
def State.staleOf (s : State) (ws : List ViewWait) : List ViewWait :=
  ws.filter fun w => match s.view? w.vf w.handle with
    | some v => !genGe (v.stamp w.group).gen w.g0
    | none => false
def State.poisonedOf (s : State) (ws : List ViewWait) : Option ViewWait :=
  ws.find? fun w => match s.view? w.vf w.handle with
    | some v => (v.stamp w.group).pois && genGe (v.stamp w.group).gen w.g0
    | none => false
/-- What a wait on groups, in order, has come to (R269). -/
inductive Walk where
  | done
  | trap (g : Nat)
  | wait (w : ViewWait) (rest : List (Nat × Nat))
  deriving DecidableEq, Repr

/-- The groups of a wait, each sampled when its turn comes (R269). -/
def State.walkRest (s : State) (vf : Nat) : List (Nat × Nat) → Walk
  | [] => .done
  | x :: rest =>
    match s.sampleGroups vf [x] with
    | [w] => if !(s.staleOf [w]).isEmpty then .wait w rest else if (s.poisonedOf [w]).isSome then .trap w.group else s.walkRest vf rest
    | _ => s.walkRest vf rest
/-- Pass the group that has been sampled once its stamp has reached the sample, and then those behind it; a poisoned one traps. -/
def State.walkGroups (s : State) (vf : Nat) (cur : Option ViewWait) (rest : List (Nat × Nat)) : Walk :=
  match cur with
  | some w => if !(s.staleOf [w]).isEmpty then .wait w rest else if (s.poisonedOf [w]).isSome then .trap w.group else s.walkRest vf rest
  | none => s.walkRest vf rest
def State.policy (s : State) (w : ViewWait) : Nat := ((s.desc? w.vf w.handle).map (·.policy)).getD 0
/-- The checks of one engine read over its groups in order, each under its view's policy (Table 15-4). -/
def State.checkViews (s : State) (ws : List ViewWait) : ViewCheck :=
  let stale := fun (w : ViewWait) => !(s.staleOf [w]).isEmpty
  let pois := fun (w : ViewWait) => (s.poisonedOf [w]).isSome
  match ws.find? (fun w => (s.policy w == 2 && (stale w || pois w)) || (s.policy w == 0 && pois w)) with
  | some w => .trap (groupTrap (if pois w then causeVpois else causeVstal) w.group)
  | none =>
    let waits := ws.filter fun w => s.policy w == 0 && stale w
    if waits.isEmpty then .pass (ws.any fun w => s.policy w == 1 && (stale w || pois w)) else .wait waits
/-- The group of a view whose bytes hold offset `off` of a tile image. -/
def Desc.bandAt (d : Desc) (off : Nat) : Nat :=
  if d.kind % 2 == 0 then 0
  else if d.fmt == 6 then
    let e := d.tileElems
    if off < e / 2 then let i := 2 * off; i / d.tileCols / 64 * bandsPerRow d.tileCols + i % d.tileCols / 256
    else if off < e * 5 / 8 then let i := 8 * (off - e / 2); i / d.tileCols / 64 * bandsPerRow d.tileCols + i % d.tileCols / 256
    else (off - e * 5 / 8) / 2
  else let i := off / (fmtBits d.fmt / 8); i / d.tileCols / 64 * bandsPerRow d.tileCols + i % d.tileCols / 256
/-- Add to a list in order, once. -/
def insertNat (x : Nat) : List Nat → List Nat
  | [] => [x]
  | y :: ys => if x < y then x :: y :: ys else if x == y then y :: ys else y :: insertNat x ys
/-- The groups of views that bytes in an address space reach, ascending: `hit` gives, for a copy, the bytes read. -/
def State.groupsRead (s : State) (vf : Nat) (hit : Desc → Copy → List Nat) : List (Nat × Nat) :=
  let vs := (s.views.filter fun v => v.vf == vf).map (·.handle)
  (vs.foldl (fun acc h => insertNat h acc) []).flatMap fun h =>
    match s.desc? vf h with
    | some d =>
      let gs := (List.range d.tiles).flatMap fun t =>
        match s.record? vf d t with
        | some r => r.copies.flatMap fun c => (hit d c).map fun off => groupNum t (d.bandAt off)
        | none => []
      (gs.foldl (fun acc g => insertNat g acc) []).map fun g => (h, g)
    | none => []
/-- The groups of views that bytes of the interface's address spaces belong to (R250). -/
def State.readGroups (s : State) (vf : Nat) (rs : List Range) : List (Nat × Nat) :=
  if rs.isEmpty then []
  else s.groupsRead vf fun d c =>
    let here := rs.filter fun r => match c.home with
      | .main _ => r.space == (if d.early then .sp else .mm)
      | .scratch _ => r.space == .sp
      | .peer _ => false
    (List.range d.tileBytes).filter fun o => here.any fun r => decide (r.base ≤ c.addr + o) && decide (c.addr + o < r.base + r.len)
/-- Whether the commit of a refresh has begun: it holds engine readers of its group until it has ended or been taken back (R259, R265). -/
def RefreshStage.holds (x : RefreshStage) : Bool := x == .probe || x == .commit || x == .undo
/-- Whether an engine read of an interface reaches a group during its commit: it then waits (R259). -/
def State.commitHeld (s : State) (vf : Nat) (rs : List Range) : Bool :=
  let cs := s.commits.filter fun c => c.vf == vf && c.stage.holds
  if cs.isEmpty then false
  else
    let gs := s.readGroups vf rs
    cs.any fun c => gs.contains (c.handle, c.group)

end Sys2Proof.Machine
end

