-- ==== Sys2Proof/Machine/Matrix.lean ====
section
/-!
DEFINITION. The matrix engine (R218 to R239): layouts, the format word, team signing and its checks, the start and the
landing of operations.
-/
namespace Sys2Proof.Machine

/-! ### The format word (R220, R221) -/

def fw (w : Word) (lo n : Nat) : Nat := w.toNat / 2 ^ lo % 2 ^ n
def opMMA : Nat := 0x140
def opMMAS : Nat := 0x141
def opMMAT : Nat := 0x142
def is8 (f : Nat) : Bool := f == 4 || f == 5
/-- Table 5-8. -/
def comboOk (a b acc : Nat) : Bool :=
  (a == b || (is8 a && is8 b)) &&
    (if acc == 0 then a == 0 else if acc == 1 then decide (1 ≤ a) && decide (a ≤ 6) else if acc == 2 then decide (2 ≤ a) && decide (a ≤ 5)
     else if acc == 3 then decide (3 ≤ a) && decide (a ≤ 5) else a == 7)
/-- M, N and dense K (Table 13-6). -/
def shapeMN (f : Nat) : Nat := if f == 0 then 16 else 32
def shapeK (f : Nat) : Nat := if f == 0 then 16 else if f == 1 then 8 else if f == 2 || f == 3 then 32 else if f == 6 then 128 else 64
/-- Elements of one unit, and its registers (Table 13-7). -/
def unitElems (f : Nat) : Nat := if f == 0 || f == 1 then 1 else if f == 2 || f == 3 then 2 else if f == 6 then 8 else 4
def unitRegs (f : Nat) : Nat := if f == 0 then 2 else 1
/-- Stored elements of a row of an operand: A of MMAS is compressed, B of MMAS has twice the dense K (R230). -/
def rowElems (op : Nat) (fmt : Word) (isA : Bool) : Nat :=
  let f := fw fmt (if isA then 0 else 4) 4
  let k := shapeK f
  if op == opMMAS then (if isA then (if fw fmt 15 1 == 1 then k else k / 2) else 2 * k) else k
/-- Units of a row of an operand. -/
def rowUnits (op : Nat) (fmt : Word) (isA : Bool) : Nat := rowElems op fmt isA / unitElems (fw fmt (if isA then 0 else 4) 4)

/-! ### Register layout (R223 to R226) -/

def layoutLanes (L T : Nat) : Nat := 2 ^ (min L T).log2
/-- The team lane and unit index that hold unit (row, col) of an operand of R rows of U units. -/
def layoutAt (L R U row col : Nat) : Nat × Nat :=
  let L' := layoutLanes L (R * U)
  let E := R * U / L'
  if R ≤ L' then (row + R * (col / E), col % E) else (row % L', row / L' * U + col)
/-- Registers per lane of an operand. -/
def layoutRegs (L R U w : Nat) : Nat := R * U / layoutLanes L (R * U) * w

def Block.teamFirst (b : Block) (team : Nat) : Nat := team * b.decl.team
def Block.teamWarps (b : Block) (team : Nat) : List Nat := ((List.range b.decl.team).map fun k => b.teamFirst team + k).filter fun n => decide (n < b.warps.length)
def Block.teamLanes (b : Block) : Nat := b.decl.team * b.decl.width
/-- A register of a team lane; a lane that holds no thread reads zero (R226). -/
def Block.teamReg (b : Block) (team l r : Nat) : Word :=
  match b.warps[b.teamFirst team + l / b.decl.width]? with
  | some w => if (w.live ||| w.helpers).has (l % b.decl.width) then w.rv (l % b.decl.width) r else 0
  | none => 0
/-- Whether that register carries poison: a lane that holds no thread has none. -/
def Block.teamPois (b : Block) (team l r : Nat) : Bool :=
  match b.warps[b.teamFirst team + l / b.decl.width]? with
  | some w => (w.live ||| w.helpers).has (l % b.decl.width) && w.vPois.contains (vKey (l % b.decl.width) r)
  | none => false
/-- One unit as a number. -/
def Block.unit (b : Block) (team base R U w row col : Nat) : Nat :=
  let x := layoutAt b.teamLanes R U row col
  let r := base + x.2 * w
  if w == 2 then (b.teamReg team x.1 r).toNat + 2 ^ 32 * (b.teamReg team x.1 (r + 1)).toNat else (b.teamReg team x.1 r).toNat
def Block.unitPois (b : Block) (team base R U w row col : Nat) : Bool :=
  let x := layoutAt b.teamLanes R U row col
  b.teamPois team x.1 (base + x.2 * w) || (w == 2 && b.teamPois team x.1 (base + x.2 * w + 1))
/-- Element codes of a register operand, row by row (R225). -/
def Block.regElems (b : Block) (team base f U : Nat) : List Nat :=
  let per := unitElems f
  let bits := if f == 6 then 4 else if f == 0 then 64 else 32 / per
  (List.range (shapeMN f)).flatMap fun row => (List.range U).flatMap fun col =>
    let u := b.unit team base (shapeMN f) U (unitRegs f) row col
    (List.range per).map fun i => u / 2 ^ (bits * i) % 2 ^ bits
/-- Elements of a register operand that carry poison: their own unit's, or that of their block scale. -/
def Block.regBad (b : Block) (team base f U : Nat) : List Bool :=
  let E := layoutRegs b.teamLanes 32 16 1
  (List.range (shapeMN f)).flatMap fun row => (List.range U).flatMap fun col =>
    List.replicate (unitElems f) (b.unitPois team base (shapeMN f) U (unitRegs f) row col
      || (f == 6 && b.unitPois team (base + E) 32 4 1 row (col / 4)))
/-- Block scales of an HF4 register operand, row by row. -/
def Block.regScales (b : Block) (team base : Nat) : List Nat :=
  let E := layoutRegs b.teamLanes 32 16 1
  (List.range 32).flatMap fun row => (List.range 4).flatMap fun col =>
    let u := b.unit team (base + E) 32 4 1 row col
    (List.range 4).map fun i => u / 2 ^ (8 * i) % 256
/-- Metadata halfwords of MMAS, row by row (R230). -/
def Block.metaGroups (b : Block) (team base f : Nat) : List Nat :=
  (List.range 32).flatMap fun row => (List.range (shapeK f / 8)).flatMap fun col =>
    let u := b.unit team base 32 (shapeK f / 8) 1 row col
    [u % 2 ^ 16, u / 2 ^ 16]
/-- Which of the metadata halfwords carry poison. -/
def Block.metaPois (b : Block) (team base f : Nat) : List Bool :=
  (List.range 32).flatMap fun row => (List.range (shapeK f / 8)).flatMap fun col =>
    List.replicate 2 (b.unitPois team base 32 (shapeK f / 8) 1 row col)

/-! ### Values and arithmetic (R93 to R95) -/

/-- The value of an element code. -/
def elemValue (f code sc band : Nat) : Num := if f == 6 then hf4Value code sc band else (fmtOf f).decode code
/-- An operand ready to compute with: element codes, the block and band scale of each, and poison; `scales` are the block
scales in the order of their units. -/
structure MatData where
  codes : List Nat
  scales : List Nat
  sc : List (Nat × Nat)
  bad : List Bool
  deriving DecidableEq, Repr

def MatData.val (m : MatData) (f K r k : Nat) : Num :=
  let x := (m.sc[r * K + k]?).getD (0, 0)
  elemValue f ((m.codes[r * K + k]?).getD 0) x.1 x.2
/-- One block scale per eight elements, under one band scale. -/
def spreadScales (codes scales : List Nat) (band : Nat) : List (Nat × Nat) :=
  if scales.isEmpty then [] else (List.range codes.length).map fun i => ((scales[i / 8]?).getD 0, band)
/-- One step of an accumulation: the partial sum is rounded once to the internal format. -/
def accStep (acc : Fmt) (rm : Rnd) (x : Num) (a b : Num) : Num :=
  if x.isNan || a.isNan || b.isNan then .nan false
  else match Num.mul a b with
    | none => .nan false
    | some p => match Num.add rm x p with
      | none => .nan false
      | some (.fin n m e) => acc.internal.decode (acc.internal.round rm false false n m 1 e).1
      | some v => v
/-- The final conversion of R94. -/
def accFinish (acc : Fmt) (rm : Rnd) (sat : Bool) (x : Num) : Nat :=
  match x with
  | .nan _ => acc.nan
  | .inf n => (if n then acc.signBit else 0) + (if sat then acc.maxCode else acc.infCode)
  | .fin n m e => (acc.round rm false sat n m 1 e).1
def clamp32 (sat : Bool) (x : Int) : Int :=
  if sat then (if x < -(2 ^ 31) then -(2 ^ 31) else if x > 2 ^ 31 - 1 then 2 ^ 31 - 1 else x) else toSigned 32 (x % 2 ^ 32).toNat
/-- Logical columns of the stored elements of a row of A: ascending (R230). -/
def logicalK (op : Nat) (positions : List Nat) (K r k : Nat) : Nat := if op == opMMAS then (positions[r * K + k]?).getD 0 else k
def rndOfCode (n : Nat) : Rnd := if n == 0 then .rn else if n == 1 then .rz else if n == 2 then .ru else .rd
/-- The accumulator code of element (i, j) after the operation. -/
def matElem (op : Nat) (fmt : Word) (positions : List Nat) (A B : MatData) (c : Nat) (cBad : Bool) (i j : Nat) : Nat :=
  let fa := fw fmt 0 4
  let fb := fw fmt 4 4
  let ac := fw fmt 8 4
  let rm := rndOfCode (fw fmt 12 2)
  let sat := fw fmt 14 1 == 1
  let KA := rowElems op fmt true
  let KB := rowElems op fmt false
  let bad := cBad || (List.range KA).any fun k => (A.bad[i * KA + k]?).getD false || (B.bad[j * KB + logicalK op positions KA i k]?).getD false
  if ac == 7 then
    if bad then 0x80000000
    else
      let r := (List.range KA).foldl (fun (acc : Int) k =>
        clamp32 sat (acc + toSigned 8 ((A.codes[i * KA + k]?).getD 0) * toSigned 8 ((B.codes[j * KB + logicalK op positions KA i k]?).getD 0))) (toSigned 32 c)
      (r % 2 ^ 32).toNat
  else
    let F := fmtOf ac
    if bad then F.nan
    else accFinish F rm sat ((List.range KA).foldl (fun acc k =>
      accStep F rm acc (A.val fa KA i k) (B.val fb KB j (logicalK op positions KA i k))) (F.decode c))

/-- 16-byte beats of an operand: its elements row by row, then its block scales (R238). -/
def packBits (bits : Nat) : List Nat → Nat
  | [] => 0
  | x :: xs => x + 2 ^ bits * packBits bits xs
def popNat (n : Nat) : Nat → Nat
  | 0 => 0
  | k + 1 => (if n / 2 ^ k % 2 == 1 then 1 else 0) + popNat n k
def beats (bits : Nat) (codes : List Nat) : List Nat :=
  let per := 128 / bits
  (List.range ((codes.length + per - 1) / per)).map fun i => packBits bits ((codes.drop (per * i)).take per)
def beatDiffs : List Nat → Nat
  | a :: b :: rest => popNat (Nat.xor a b) 128 + beatDiffs (b :: rest)
  | _ => 0
def operandDiffs (f : Nat) (m : MatData) : Nat := beatDiffs (beats (if f == 7 then 8 else fmtBits f) m.codes ++ (if f == 6 then beats 8 m.scales else []))
/-- The charge of an operation (R238). -/
def charge (fmt : Word) (A B : MatData) : Word := BitVec.ofNat 32 (1 + (operandDiffs (fw fmt 0 4) A + operandDiffs (fw fmt 4 4) B) / 64)

/-! ### Operands in scratchpad and in tiles (R228, R229) -/

/-- The address of 16-byte chunk `j` of row `r`. -/
def scratchChunk (base p q r j : Nat) : Nat := base + r * p * 16 + 256 * (j / 16) + 16 * ((j + r * q) % 16)
/-- The offset of byte `x` of row `r`. -/
def scratchByte (base p q r x : Nat) : Nat := scratchChunk base p q r (x / 16) + x % 16
def rowBytes (f n : Nat) : Nat := n * (if f == 7 then 8 else fmtBits f) / 8
/-- The bytes that a scratchpad operand covers, as an upper bound of its offsets in the slice. -/
def scratchEnd (f n base p tp q : Nat) : Nat :=
  let rows := shapeMN f
  let rb := rowBytes f n
  let last := if q == 0 then base + (rows - 1) * p * 16 + rb else base + (rows - 1) * p * 16 + (rb + 255) / 256 * 256
  if f == 6 then max last (base + tp * 1024 + rows * p * 4 + 2) else last
def scratchOk (f n p tp q : Nat) : Bool :=
  decide (rowBytes f n ≤ p * 16) && (q == 0 || p % 16 == 0) && (f == 6 || tp == 0) && (f != 6 || (q == 0 && decide (shapeMN f * p * 16 ≤ tp * 1024)))
/-- Split a byte list into element codes. -/
def splitCodes (f : Nat) (bs : List Byte) : List Nat :=
  if f == 6 then bs.flatMap fun b => [b.toNat % 16, b.toNat / 16]
  else
    let n := if f == 7 then 1 else fmtBits f / 8
    (List.range (bs.length / n)).map fun i => leValue ((bs.drop (n * i)).take n)
/-- A byte of the scratchpad as an engine job reads it, word by word (R182). -/
def State.jobByte (s : State) (x : Reader) (a : Nat) : Byte :=
  let w := a / 4 * 4
  ((s.jobWord x .scratch w (s.engineView w 4))[a - w]?).getD 0
/-- Whether the scratchpad word of a byte is poisoned for an engine job (R323). -/
def State.jobPois (s : State) (x : Reader) (a : Nat) : Bool := s.spPois.contains (a / 4) && !s.jobClean x .scratch (a / 4 * 4)
/-- The offsets of the scale of each block of eight in a row, and of the band scale, of an HF4 operand in scratchpad (R228). -/
def scaleAt (base p tp r b : Nat) : Nat := base + tp * 1024 + r * p * 4 + b
def bandAt (base p tp : Nat) : Nat := base + tp * 1024 + 32 * p * 4
/-- Read a scratchpad operand from the slice of a cluster. -/
def State.readScratchOperand (s : State) (x : Reader) (k f n base p tp q : Nat) : MatData :=
  let byteAt := fun (o : Nat) => s.jobByte x (slicePlace k o)
  let badAt := fun (o : Nat) => s.jobPois x (slicePlace k o)
  let rb := rowBytes f n
  let rows := List.range (shapeMN f)
  let codes := rows.flatMap fun r => splitCodes f ((List.range rb).map fun x => byteAt (scratchByte base p q r x))
  let scales := if f == 6 then rows.flatMap fun r => (List.range (n / 8)).map fun b => (byteAt (scaleAt base p tp r b)).toNat else []
  let band := if f == 6 then (byteAt (bandAt base p tp)).toNat + 256 * (byteAt (bandAt base p tp + 1)).toNat else 0
  let elemBad := fun (r e : Nat) =>
    if f == 6 then badAt (scratchByte base p q r (e / 2)) || badAt (scaleAt base p tp r (e / 8)) || badAt (bandAt base p tp)
    else badAt (scratchByte base p q r (rowBytes f e)) || badAt (scratchByte base p q r (rowBytes f (e + 1) - 1))
  { codes := codes, scales := scales, sc := spreadScales codes scales band, bad := rows.flatMap fun r => (List.range n).map fun e => elemBad r e }
/-- Element offsets of a block of a tile: rows by K columns for A, K rows by columns for B, as the operand's rows (Bᵀ). -/
def tileElemIdx (d : Desc) (isA : Bool) (mn K block r k : Nat) : Nat :=
  let bw := if isA then K else mn
  let perRow := d.tileCols / bw
  let row0 := block / perRow * (if isA then mn else K)
  let col0 := block % perRow * bw
  if isA then (row0 + r) * d.tileCols + col0 + k else (row0 + k) * d.tileCols + col0 + r
/-- Where a byte of a tile copy lies; none: a translation fault. -/
def State.tileLoc (s : State) (vf : Nat) (early main : Bool) (a : Nat) : Option Loc :=
  if main then s.translate vf early a false false else ((s.vf vf).scratch? a).map .scratch
/-- Bytes of a tile copy as an engine job reads them; none: a translation fault. -/
def State.tileByte (s : State) (x : Reader) (vf : Nat) (early main : Bool) (addr off : Nat) : Option (Byte × Bool) :=
  match s.tileLoc vf early main (addr + off) with
  | some (.main a) => some (Sparse.get 0 s.mm a, s.mmPois.contains (a / 64))
  | some (.scratch a) => some (s.jobByte x a, s.jobPois x a)
  | none => none
def allSome {α : Type} : List (Option α) → Option (List α)
  | [] => some []
  | none :: _ => none
  | some x :: xs => (allSome xs).map (x :: ·)
/-- Read a tile operand; an HF4 element takes its own block and band scale, given as (code, block scale, band scale, poison): each has its own pair of scales. -/
def State.readTileElem (s : State) (x : Reader) (vf : Nat) (d : Desc) (main : Bool) (addr : Nat) (store : Option (Memory × Nat)) (i : Nat) : Option (Nat × Nat × Nat × Bool) :=
  let get := fun (off : Nat) => match store with
    | some (m, base) => some (Sparse.get 0 m (base + off), false)
    | none => s.tileByte x vf d.early main addr off
  match elemBytes d i with
  | [(o, n)] => (allSome ((List.range n).map fun k => get (o + k))).map fun bs => (leValue (bs.map (·.1)), 0, 0, bs.any (·.2))
  | [(o, _), (o2, _), (o3, _)] =>
    (allSome [get o, get o2, get o3, get (o3 + 1)]).map fun bs =>
      let b := fun (k : Nat) => ((bs[k]?).map (·.1.toNat)).getD 0
      ((if i % 2 == 0 then b 0 % 16 else b 0 / 16), b 1, b 2 + 256 * b 3, bs.any (·.2))
  | _ => none

/-! ### Team signing (R231, R232) -/

def Wait.matWord? : Wait → Option MatWord
  | .sign w => some w
  | _ => none
def Warp.signed (w : Warp) : Mask := w.runs.foldl (fun m r => match r.wait with
  | some (.sign _) => m ||| r.lanes
  | _ => m) 0
def lowestLane (m : Mask) : Nat := ((m.lanes 64).head?).getD 0
/-- The word that a warp's lane signed, and the pc of its run. -/
def Warp.signedAt (w : Warp) (l : Nat) : Option (MatWord × DWord) :=
  (w.runs.find? fun r => r.lanes.has l && (r.wait.bind Wait.matWord?).isSome).bind fun r => (r.wait.bind Wait.matWord?).map fun x => (x, r.pc)
def Warp.signedLowest (w : Warp) : Option (MatWord × DWord) := w.signedAt (lowestLane w.signed)

/-- The state of a completed signing: the block, the team warps, the word and the format word. -/
structure Signing where
  blk : Block
  team : Nat
  nums : List Nat
  word : MatWord
  fmt : Word
  deriving DecidableEq, Repr

def causeMteam : Nat := 0x0B
def mteamInfo (warp why : Nat) : Word := BitVec.ofNat 32 (warp % 16 * 256 + why)
def mfmtTrap (lane part why : Nat) : Trap := { cause := 0x0C, info := BitVec.ofNat 32 (lane * 2 ^ 11 + part * 16 + why) }
def illTrap (why loc detail : Nat) : Trap := { cause := 0x01, info := BitVec.ofNat 32 (why * 2 ^ 28 + loc * 2 ^ 26 + detail) }
/-- Table 13-1. -/
def group5Trap (cause loc space : Nat) : Trap := { cause := cause, info := BitVec.ofNat 32 (loc * 2 ^ 28 + space * 2 ^ 26) }
def causeAlgn : Nat := 0x04
def causeSbnd : Nat := 0x05
def causeXbnd : Nat := 0x06

/-- The first team lane, in order, whose register differs from the lowest signing lane's. -/
def Signing.differs (g : Signing) (r : Nat) : Option Nat :=
  let W := g.blk.decl.width
  let lanes := g.nums.flatMap fun n => match g.blk.warps[n]? with
    | some w => (w.signed.lanes 64).map fun l => ((n - g.blk.teamFirst g.team) * W + l, w.rv l r)
    | none => []
  match lanes with
  | [] => none
  | x :: xs => (xs.find? fun y => y.2 != x.2).map (·.1)
def Signing.src (g : Signing) (isA : Bool) : Nat := fw g.fmt (if isA then 16 else 18) 2
def Signing.field (g : Signing) (isA : Bool) : Nat := if isA then g.word.a else g.word.b
def Signing.f (g : Signing) (isA : Bool) : Nat := fw g.fmt (if isA then 0 else 4) 4
def fieldBad (x : Nat) : Bool := x / 128 != 0 || x % 2 == 1
/-- The scalar pair of an operand, from the lowest signing warp. -/
def Signing.pair (g : Signing) (isA : Bool) : Word × Word :=
  match (g.nums.filterMap fun n => g.blk.warps[n]?).find? fun w => w.signed != 0 with
  | some w => (w.rs (g.field isA), w.rs (g.field isA + 1))
  | none => (0, 0)
def Signing.hf4Reg (g : Signing) (isA : Bool) : Bool := g.f isA == 6 && g.src isA == 0

/-- Step 1 of R232. A warp of the team that has ended signs nothing, and its scalars are not compared for WHY 3 (assumption 78). The WARP of the trap is
the first warp of the team that differs from the lowest signing warp (assumption 83). -/
def Signing.teamTrap (g : Signing) : Option Trap :=
  let ws := g.nums.filterMap fun n => (g.blk.warps[n]?).map fun w => (n, w)
  match ws.find? (fun x => x.2.runs.any fun r => match r.wait with
    | some (.sign y) => y != g.word
    | _ => false) with
  | some x => some { cause := causeMteam, info := mteamInfo x.1 2 }
  | none =>
    let needs := fun (isA : Bool) => (g.src isA == 1 || g.src isA == 2) && !fieldBad (g.field isA)
    let sg := ws.filter fun x => x.2.signed != 0
    let bad := fun (isA : Bool) => needs isA && sg.any fun x => x.2.rs (g.field isA) != (g.pair isA).1 || x.2.rs (g.field isA + 1) != (g.pair isA).2
    let badW := sg.find? fun x => (needs true && (x.2.rs g.word.a != (g.pair true).1 || x.2.rs (g.word.a + 1) != (g.pair true).2))
      || (needs false && (x.2.rs g.word.b != (g.pair false).1 || x.2.rs (g.word.b + 1) != (g.pair false).2))
    if bad true || bad false then some { cause := causeMteam, info := mteamInfo ((badW.map (·.1)).getD 0) 3 } else none
/-- Step 2 of R232: MFMT. -/
def Signing.fmtTrap (g : Signing) : Option Trap :=
  let fa := g.f true
  let fb := g.f false
  let ac := fw g.fmt 8 4
  let op := g.word.op
  let srcBad := fun (isA : Bool) => g.src isA == 3 || (op != opMMAT && g.src isA == 2)
  let pairBad := fun (isA : Bool) => g.src isA == 1 && !fieldBad (g.field isA) &&
    (let q := (g.pair isA).2.toNat
     !scratchOk (g.f isA) (rowElems op g.fmt isA) (q % 2 ^ 16) (q / 2 ^ 16 % 2 ^ 12) (q / 2 ^ 28))
  if decide (7 < fa) || decide (7 < fb) || !(decide (ac ≤ 3) || ac == 7) then some (mfmtTrap 0 0 1)
  else if !comboOk fa fb ac || (op == opMMAS && (fa == 0 || fa == 6)) then some (mfmtTrap 0 0 2)
  else if op == opMMAT && g.src true != 2 && g.src false != 2 && g.src true != 3 && g.src false != 3 then some (mfmtTrap 0 0 3)
  else if srcBad true then some (mfmtTrap 0 1 3)
  else if srcBad false then some (mfmtTrap 0 2 3)
  else match g.differs g.word.c with
  | some l => some (mfmtTrap l 0 4)
  | none =>
    if fw g.fmt 24 8 != 0 || (op != opMMAS && fw g.fmt 15 1 == 1) then some (mfmtTrap 0 0 5)
    else if pairBad true then some (mfmtTrap 0 1 6)
    else if pairBad false then some (mfmtTrap 0 2 6)
    else if g.src true != 0 && fieldBad g.word.a then some (mfmtTrap 0 1 7)
    else if g.src false != 0 && fieldBad g.word.b then some (mfmtTrap 0 2 7)
    else if g.hf4Reg true || g.hf4Reg false then (g.differs (g.word.c + 1)).map fun l => mfmtTrap l 4 8
    else none
/-- Registers per lane of a register operand, HF4 scales included. -/
def Signing.operandRegs (g : Signing) (isA : Bool) : Nat :=
  let f := g.f isA
  layoutRegs g.blk.teamLanes (shapeMN f) (rowUnits g.word.op g.fmt isA) (unitRegs f) + (if f == 6 then layoutRegs g.blk.teamLanes 32 4 1 else 0)
def accUnits (fmt : Word) : Nat := if fw fmt 8 4 == 0 then 16 else 32
def accRegs (fmt : Word) : Nat := if fw fmt 8 4 == 0 then 2 else 1
/-- Register ranges in the order of R227, as base, count and alignment; the last, for MMAS, is every register of the metadata (R230), of which R227
names the first (assumption 78). -/
def Signing.ranges (g : Signing) : List (Nat × Nat × Nat) :=
  let L := g.blk.teamLanes
  let metaN := layoutRegs L 32 (shapeK (g.f true) / 8) 1
  [(g.word.d, layoutRegs L (accUnits g.fmt) (accUnits g.fmt) (accRegs g.fmt), accRegs g.fmt)]
    ++ (if g.src true == 0 then [(g.word.a, g.operandRegs true, unitRegs (g.f true))] else [])
    ++ (if g.src false == 0 then [(g.word.b, g.operandRegs false, unitRegs (g.f false))] else [])
    ++ [(g.word.c, 1, 1)]
    ++ (if g.word.op == opMMAS then [(g.word.c + 1, metaN, 1)] else if g.hf4Reg true || g.hf4Reg false then [(g.word.c + 1, 1, 1)] else [])
/-- Step 3 of R232: ILL (R227). DETAIL is the first register past `.regs`, modulo 1024: 0 for v1024, which its ten bits do not hold
(assumption 78). -/
def Signing.rangeTrap (g : Signing) : Option Trap :=
  match g.ranges.find? (fun x => decide (g.blk.decl.regs < x.1 + x.2.1)) with
  | some x => some (illTrap 4 0 (max x.1 g.blk.decl.regs % 1024))
  | none => (g.ranges.find? fun x => x.1 % x.2.2 != 0).map fun x => illTrap 5 0 (x.1 % 1024)
/-- Step 4 of R232: ALGN and XBND of scratchpad operands (R228): A before B, and ALGN of both before XBND of either (assumption 83). -/
def Signing.scratchTrap (g : Signing) : Option Trap :=
  let base := fun (isA : Bool) => (g.pair isA).1.toNat
  let out := fun (isA : Bool) =>
    let q := (g.pair isA).2.toNat
    decide (Config.sliceBytes < scratchEnd (g.f isA) (rowElems g.word.op g.fmt isA) (base isA) (q % 2 ^ 16) (q / 2 ^ 16 % 2 ^ 12) (q / 2 ^ 28))
  if g.src true == 1 && base true % 16 != 0 then some (group5Trap causeAlgn 3 1)
  else if g.src false == 1 && base false % 16 != 0 then some (group5Trap causeAlgn 4 1)
  else if g.src true == 1 && out true then some (group5Trap causeXbnd 3 1)
  else if g.src false == 1 && out false then some (group5Trap causeXbnd 4 1)
  else none
/-- A tile operand's handle, tile index and block index (R229). -/
def Signing.tileOf (g : Signing) (isA : Bool) : Nat × Nat × Nat :=
  let p := g.pair isA
  (p.1.toNat % 2 ^ 20, p.2.toNat % 2 ^ 24, p.1.toNat / 2 ^ 20 * 256 + p.2.toNat / 2 ^ 24)
/-- What a tile operand resolves to. -/
inductive TileRes where
  | trap (t : Trap)
  | wait
  | fault (va : Nat)
  | ok (d : Desc) (main : Bool) (addr : Nat)
  deriving DecidableEq, Repr

/-- The address at which a handle's descriptor does not translate, where its table entry cannot be read (R271, R318). -/
def State.handleFault (s : State) (vf handle : Nat) : Option Nat :=
  let va := (s.vf vf).htab.toNat + 256 * handle
  if handle == 0 || 2 ^ 20 ≤ handle || (s.vaRead vf ((s.vf vf).thEarly handle) va 256).isSome then none else some va
/-- Step 5 of R232: the checks of Table 13-8 on one operand. Its descriptor, like its record, may fault in translation (R320). -/
def State.resolveTile (s : State) (g : Signing) (isA : Bool) : TileRes :=
  let x := g.tileOf isA
  let bad := fun (why : Nat) => TileRes.trap { cause := 0x0E, info := BitVec.ofNat 32 ((if isA then 0 else 16) + why) }
  let vf := g.blk.vf
  match s.desc? vf x.1 with
  | none => ((s.handleFault vf x.1).map TileRes.fault).getD (bad 1)
  | some d =>
    if x.2.1 ≥ d.tiles then bad 2
    else
      let f := g.f isA
      let mn := shapeMN f
      let K := rowElems g.word.op g.fmt isA
      let bw := if isA then K else mn
      let bh := if isA then mn else K
      match s.record? vf d x.2.1 with
      | none => .fault (d.ptab + 64 * x.2.1)
      | some r =>
        let st := r.state
        let copy := r.use g.blk.die
        let peer := match copy with
          | some c => (match c.home with
            | .peer _ => true
            | _ => false)
          | none => false
        if st == .moving then .wait
        else if st == .faulted then bad 3
        else if st == .absent then bad 4
        else if peer then bad 5
        else if d.fmt != f then bad 6
        else if (d.tileElems != d.tileCols * (if 2 ≤ d.rank then d.text (d.rank - 2) else 1)) || d.tileCols % bw != 0
          || (if 2 ≤ d.rank then d.text (d.rank - 2) else 1) % bh != 0 then bad 7
        else if x.2.2 ≥ d.tileElems / (bw * bh) then bad 8
        else match copy with
          | some c => .ok d (match c.home with
            | .main _ => true
            | _ => false) c.addr
          | none => .ok d false 0
/-- The groups of a view that a tile operand reads. -/
def Signing.tileGroups (g : Signing) (s : State) (isA : Bool) : List (Nat × Nat) :=
  let x := g.tileOf isA
  match s.view? g.blk.vf x.1, s.desc? g.blk.vf x.1 with
  | some _, some d =>
    let K := rowElems g.word.op g.fmt isA
    let offs := (List.range (shapeMN (g.f isA))).flatMap fun r => (List.range K).map fun k =>
      let i := tileElemIdx d isA (shapeMN (g.f isA)) K x.2.2 r k
      groupNum x.2.1 (d.bandAt (if d.fmt == 6 then i / 2 else i * (fmtBits d.fmt / 8)))
    (offs.foldl (fun acc y => insertNat y acc) []).map fun y => (x.1, y)
  | _, _ => []
/-- The view groups that an operation reads: A before B (R261). -/
def Signing.viewGroups (g : Signing) (s : State) : List (Nat × Nat) :=
  (if g.src true == 2 then g.tileGroups s true else []) ++ (if g.src false == 2 then g.tileGroups s false else [])
/-- Step 6 of R232: MSPAR (R230). -/
def Signing.sparseTrap (g : Signing) : Option Trap :=
  if g.word.op != opMMAS then none
  else
    let K := shapeK (g.f true)
    let n := if fw g.fmt 15 1 == 1 then 4 else 2
    let groups := g.blk.metaGroups g.team (g.word.c + 1) (g.f true)
    let per := K / 4
    let badG := fun (h : Nat) => h / 2 ^ (3 * n) != 0 || (List.range (n - 1)).any fun i => decide (h / 2 ^ (3 * (i + 1)) % 8 ≤ h / 2 ^ (3 * i) % 8)
    let fails := (List.range (32 * per)).filter fun i => badG ((groups[i]?).getD 0)
    let laneOf := fun (i : Nat) => (layoutAt g.blk.teamLanes 32 (K / 8) (i / per) (i % per / 2)).1
    match fails with
    | [] => none
    | x :: xs =>
      let best := xs.foldl (fun b i => if laneOf i < laneOf b then i else b) x
      some { cause := 0x0D, info := BitVec.ofNat 32 (laneOf best * 2 ^ 16 + best / per * 256 + best % per) }
/-- Logical columns of the stored elements, row by row. -/
def Signing.positions (g : Signing) : List Nat :=
  if g.word.op != opMMAS then []
  else
    let K := shapeK (g.f true)
    let n := if fw g.fmt 15 1 == 1 then 4 else 2
    let groups := g.blk.metaGroups g.team (g.word.c + 1) (g.f true)
    (List.range (32 * (K / 4))).flatMap fun i => (List.range n).map fun x => 8 * (i % (K / 4)) + ((groups[i]?).getD 0) / 2 ^ (3 * x) % 8

/-- Every warp of the team that has signed lanes takes a trap (R232). -/
def State.teamTraps (s : State) (blk : Nat) (nums : List Nat) (t : Trap) : State :=
  nums.foldl (fun s n => match s.warp? ⟨blk, n⟩ with
    | some w => (match w.signedLowest with
      | some x => s.takeTrap ⟨blk, n⟩ x.2 w.signed t
      | none => s)
    | none => s) s
/-- Elements of a register operand that carry poison (R235): an HF4 operand's band scale is one register, and the metadata of MMAS belong to the
elements that they place. -/
def Signing.regBad (g : Signing) (isA : Bool) : List Bool :=
  let own := g.blk.regBad g.team (g.field isA) (g.f isA) (rowUnits g.word.op g.fmt isA)
  let band := g.f isA == 6 && (match (g.nums.filterMap fun n => g.blk.warps[n]?).find? fun w => w.signed != 0 with
    | some w => w.vPois.contains (vKey (lowestLane w.signed) (g.word.c + 1))
    | none => false)
  if band then own.map fun _ => true
  else if isA && g.word.op == opMMAS then
    let n := if fw g.fmt 15 1 == 1 then 4 else 2
    let meta_ := (g.blk.metaPois g.team (g.word.c + 1) (g.f true)).flatMap fun x => List.replicate n x
    (own.zip (List.range own.length)).map fun x => x.1 || (meta_[x.2]?).getD false
  else own
/-- The operand that an issued operation carries. -/
def Signing.capture (g : Signing) (isA : Bool) (res : TileRes) : MatSrc :=
  let f := g.f isA
  if g.src isA == 0 then
    let U := rowUnits g.word.op g.fmt isA
    let base := g.field isA
    let band := match (g.nums.filterMap fun n => g.blk.warps[n]?).find? fun w => w.signed != 0 with
      | some w => fw (w.rv (lowestLane w.signed) (g.word.c + 1)) (if isA then 0 else 16) 16
      | none => 0
    .regs (g.blk.regElems g.team base f U) (if f == 6 then g.blk.regScales g.team base else []) band (g.regBad isA)
  else if g.src isA == 1 then
    let p := g.pair isA
    .scratch p.1.toNat (p.2.toNat % 2 ^ 16) (p.2.toNat / 2 ^ 16 % 2 ^ 12) (p.2.toNat / 2 ^ 28)
  else
    let x := g.tileOf isA
    match res with
    | .ok _ main addr => .tile main addr x.1 x.2.1 x.2.2
    | _ => .tile false 0 x.1 x.2.1 x.2.2
/-- The bytes of a scratchpad operand, as offsets in the slice and lengths (R228). -/
def scratchPieces (f n base p tp q : Nat) : List (Nat × Nat) :=
  let rows := List.range (shapeMN f)
  let rb := rowBytes f n
  (if q == 0 then rows.map fun r => (base + r * p * 16, rb)
    else rows.flatMap fun r => (List.range ((rb + 15) / 16)).map fun j => (scratchChunk base p q r j, min 16 (rb - 16 * j)))
  ++ (if f == 6 then (rows.map fun r => (scaleAt base p tp r 0, n / 8)) ++ [(bandAt base p tp, 2)] else [])
/-- The bytes of a block of a tile, as offsets in the tile's image and lengths (R229, Table 5-3). -/
def tilePieces (d : Desc) (isA : Bool) (mn K block : Nat) : List (Nat × Nat) :=
  let n := if isA then K else mn
  let starts := (List.range (if isA then mn else K)).map fun r => if isA then tileElemIdx d isA mn K block r 0 else tileElemIdx d isA mn K block 0 r
  if d.fmt == 6 then
    let e := d.tileElems
    (starts.flatMap fun i => [(i / 2, n / 2), (e / 2 + i / 8, n / 8),
      (e * 5 / 8 + 2 * (i / d.tileCols / 64 * bandsPerRow d.tileCols + i % d.tileCols / 256), 2)]).eraseDups
  else starts.map fun i => (i * (fmtBits d.fmt / 8), n * (fmtBits d.fmt / 8))
/-- The read footprint of an operand: its bytes, in the interface's own addresses (R234). An early object's bytes lie in scratchpad (R355). -/
def Signing.footprint (g : Signing) (s : State) (isA : Bool) (res : TileRes) : List Range :=
  let n := rowElems g.word.op g.fmt isA
  if g.src isA == 1 then
    let p := g.pair isA
    (scratchPieces (g.f isA) n p.1.toNat (p.2.toNat % 2 ^ 16) (p.2.toNat / 2 ^ 16 % 2 ^ 12) (p.2.toNat / 2 ^ 28)).map fun x =>
      ⟨.sp, (s.vf g.blk.vf).scratchAddr g.blk.clu x.1, x.2⟩
  else if g.src isA == 2 then
    match res with
    | .ok d main addr => (tilePieces d isA (shapeMN (g.f isA)) n (g.tileOf isA).2.2).map fun x => ⟨if main && !d.early then .mm else .sp, addr + x.1, x.2⟩
    | _ => []
  else []
/-- The signing of a team, when every live lane of its warps has signed (R231). -/
def Block.signing? (b : Block) (team : Nat) : Option Signing :=
  let nums := b.teamWarps team
  let ws := nums.filterMap fun n => b.warps[n]?
  if ws.all (fun w => w.live.sub w.signed) then
    match ws.find? fun w => w.signed != 0 with
    | some w => w.signedLowest.map fun x => { blk := b, team := team, nums := nums, word := x.1, fmt := w.rv (lowestLane w.signed) x.1.c }
    | none => none
  else none

/-- Issue the operation once for the team and release its lanes (R231). -/
def State.issueOp (s : State) (g : Signing) (ra rb : TileRes) (flag aborted : Bool) : State :=
  let id := s.nextId
  let flagp := fw g.fmt 21 3
  let L := g.blk.teamLanes
  let n := accUnits g.fmt
  let E := layoutRegs L n n (accRegs g.fmt)
  let L' := layoutLanes L (n * n)
  let reads := g.footprint s true ra ++ g.footprint s false rb
  let rods := s.rodTags g.blk reads
  let op : MatOp := { id := id, core := g.blk.core, blk := g.blk.id, team := g.team, st := g.word.st, op := g.word.op, fmt := g.fmt, dst := g.word.d,
                      srcA := g.capture true ra, srcB := g.capture false rb, positions := g.positions, acc := [],
                      reads := reads, rods := rods, after := if reads.isEmpty then [] else g.nums.flatMap fun k => ((s.warp? ⟨g.blk.id, k⟩).map fun w => w.jobAfter rods).getD [],
                      started := false, parked := none, aborted := aborted, warps := g.nums }
  let views := (s.sampleGroups g.blk.vf (g.viewGroups s)).any fun w => s.policy w == 1
  let s1 := { s with nextId := id + 2, ops := s.ops ++ [op] }
  let s2 := g.nums.foldl (fun s k => s.mapWarp ⟨g.blk.id, k⟩ fun w =>
    let signed := w.signed
    let acc := (List.range g.blk.decl.width).flatMap fun l =>
      if (k - g.blk.teamFirst g.team) * g.blk.decl.width + l < L' then (List.range E).map fun e => (RegId.v l (g.word.d + e), (0 : Word)) else []
    let fl : List Late := if views && flagp != 7 then
      [{ id := id + 1, kind := .opFlag id, writes := (signed.lanes 64).map fun l => (RegId.p l flagp, if flag then 1 else 0), rods := 0 }] else []
    let w1 : Warp := { w with late := w.late ++ [{ id := id, kind := .op id, writes := acc, rods := 0 }] ++ fl }
    { w1.release (fun x => x.matWord?.isSome) signed with heldTeam := none }) s1
  s2.mapBlock g.blk.id fun b =>
    let t := (b.teams[g.team]?).getD { avg := 0, lastOp := [], charge := [], passed := 0 }
    { b with teams := listSet b.teams g.team { t with lastOp := Sparse.set 0 t.lastOp g.word.st (op.id + 1) } }

/-- The operations that the engine of a core holds: those of a suspended block are saved with it (R314). -/
def State.coreOps (s : State) (core : Nat) : List MatOp := s.ops.filter fun o => o.core == core && (s.block? o.blk).isSome
def Run.signs (r : Run) : Bool := (r.wait.bind Wait.matWord?).isSome
/-- The samples that stand for a team's signing. -/
def Signing.samples (g : Signing) : Option (List ViewWait) :=
  (g.nums.filterMap fun n => (g.blk.warps[n]?).bind fun w => (w.runs.find? fun r => r.samples.isSome && r.signs).bind (·.samples)).head?
/-- A signing is held with its samples. -/
def State.holdSigning (s : State) (g : Signing) (ws : List ViewWait) : State :=
  if ws.isEmpty then s
  else g.nums.foldl (fun s n => s.mapWarp ⟨g.blk.id, n⟩ fun w => { w with runs := mapIf Run.signs (fun r => { r with samples := some ws }) w.runs }) s
/-- The views of a completed signing, its sparsity, and the issue: the last steps of R232. The groups are sampled once, and the samples stand
until the operation issues (R261, R314). -/
def State.signingIssue (s : State) (g : Signing) (ra rb : TileRes) (aborted : Bool) : State :=
  let blk := g.blk.id
  let gs := g.viewGroups s
  let ws := g.samples.getD (s.sampleGroups g.blk.vf gs)
  match s.checkViews ws, g.sparseTrap with
  | .trap t, _ => s.teamTraps blk g.nums t
  | .wait _, some t => s.teamTraps blk g.nums t
  | .pass _, some t => s.teamTraps blk g.nums t
  | .wait _, none => s.holdSigning g ws
  | .pass flag, none =>
    if Config.engineOps ≤ (s.coreOps g.blk.core).length then s.holdSigning g ws else s.issueOp g ra rb flag aborted
/-- Whether a register is an operand of a signed operation, in a lane that takes part: a scalar pair, or a register of a range. -/
def Signing.names (g : Signing) (lanes : Mask) (r : RegId) : Bool :=
  match r with
  | .v l n => lanes.has l && g.ranges.any fun x => decide (x.1 ≤ n) && decide (n < x.1 + x.2.1)
  | .s n => [true, false].any fun isA => (g.src isA == 1 || g.src isA == 2) && (n == g.field isA || n == g.field isA + 1)
  | .p _ _ => false
/-- Whether an operand has not landed: the operation reads scoreboarded registers, scalar pairs and lanes outside one run (R68, R99);
accumulators of earlier operations are excepted (R233). -/
def Signing.unlanded (g : Signing) : Bool :=
  g.nums.any fun n => match g.blk.warps[n]? with
    | none => false
    | some w =>
      let lanes := w.signed ||| w.helpersOf w.signed
      w.pend.any (fun p => g.names lanes p.reg) || w.late.any fun l => !l.kind.isOp && l.writes.any fun x => g.names lanes x.1
/-- Step 5 of R232 on both operands of a signing, and what comes after it. A translation fault parks it, once, until the host answers; under an
abort the operation goes on without what faulted (R235, R320). Where both operands fail, A is reported; a record of A that is MOVING, or that cannot
be read, holds the checks of B back (assumption 83). -/
def State.resolveSigning (s : State) (g : Signing) (parked aborted : Bool) : State :=
  let res := fun (isA : Bool) => if g.src isA == 2 then s.resolveTile g isA else .ok (Desc.ofBytes false []) false 0
  let onFault := fun (va : Nat) =>
    if aborted then s.signingIssue g .wait .wait true
    else if parked then s else (s.park g.blk.vf g.blk.launch va (.sign g.blk.id g.team)).2
  match res true, res false with
  | .trap t, _ => s.teamTraps g.blk.id g.nums t
  | .wait, _ => s
  | .fault va, _ => onFault va
  | _, .trap t => s.teamTraps g.blk.id g.nums t
  | _, .wait => s
  | _, .fault va => onFault va
  | ra, rb => s.signingIssue g ra rb aborted
/-- Whether a signing of a team is complete and has not issued. -/
def State.signs (s : State) (blk team : Nat) : Bool := ((s.block? blk).bind fun b => b.signing? team).isSome
/-- Complete the signing of a team if it can: the checks of R232 in order, then the issue (R231, R314). A translation fault on a descriptor or
a placement record parks the signing until the host answers (R235, R320), and an abort stands until the operation has issued, or trapped. -/
def State.completeSigning (s : State) (blk team : Nat) : State :=
  match (s.block? blk).bind fun b => b.signing? team with
  | none => s
  | some g =>
    if g.unlanded then s
    else match g.teamTrap.or (g.fmtTrap.or (g.rangeTrap.or g.scratchTrap)) with
    | some t => s.teamTraps blk g.nums t
    | none =>
      let parked := s.faults.find? fun f => f.what == Parked.sign blk team
      let aborted := parked.any fun f => f.abort == some true
      let t := s.resolveSigning g parked.isSome aborted
      if aborted && !t.signs blk team then { t with faults := t.faults.filter fun x => x.what != Parked.sign blk team } else t

/-! ### Start and landing (R233 to R239) -/

/-- Whether two footprints meet (R180). -/
def rangesMeet (a b : List Range) : Bool := a.any fun x => b.any fun y => x.space == y.space && Machine.meets x.base x.len y.base y.len
/-- Whether an operation reads what an earlier job of its block writes (R180), or follows another in its stream (R236). -/
def MatOp.behind (o : MatOp) (j : Job) : Bool := j.blk == o.blk && decide (j.id < o.id) && rangesMeet j.writes o.reads
def MatOp.follows (o p : MatOp) : Bool := p.blk == o.blk && p.team == o.team && p.st == o.st && decide (p.id < o.id)
/-- Whether earlier jobs of the block keep an operation from reading (R180). -/
def State.opHeld (s : State) (o : MatOp) : Bool := s.jobs.any o.behind
/-- Operations that may start: first of their stream, not parked, behind what their warps have to read first (R174, R179). -/
def State.startable (s : State) (core : Nat) : List MatOp :=
  (s.coreOps core).filter fun o => !o.started && o.parked.isNone && !s.opHeld o && s.loadsDone (o.warps.map fun n => ⟨o.blk, n⟩) o.after
    && !s.ops.any o.follows
def State.slotOf (s : State) (blk : Nat) : Nat := ((s.block? blk).map (·.slot)).getD 0
def State.ringKey (s : State) (o : MatOp) : Nat := s.slotOf o.blk * 16 + o.team
def State.teamOf (s : State) (o : MatOp) : Team := ((s.block? o.blk).bind fun b => b.teams[o.team]?).getD { avg := 0, lastOp := [], charge := [], passed := 0 }
/-- The operation that the engine grants next (R239): by team, in the ring after the team last granted, and within a team by stream. -/
def State.granted (s : State) (core : Nat) : Option MatOp :=
  let os := s.startable core
  let next := Sparse.get 0 s.grants core
  let dist := fun (o : MatOp) => (s.ringKey o + 512 - next % 512) % 512 * 4 + (o.st + 4 - (s.teamOf o).turn % 4) % 4
  let best := fun (key : MatOp → Nat) (os : List MatOp) => os.foldl (fun (b : Option MatOp) o => match b with
    | none => some o
    | some x => if key o < key x then some o else some x) none
  match best dist (os.filter fun o => decide (16 ≤ (s.teamOf o).passed)) with
  | some o => some o
  | none => if s.pwrlim.getLsbD 31 then best (fun o => (s.teamOf o).avg.toNat * 2 ^ 12 + dist o) os else best dist os

/-- Entries 0, 8, 16, … of a list. -/
def everyEighth (xs : List Nat) : List Nat := (List.range ((xs.length + 7) / 8)).map fun i => (xs[8 * i]?).getD 0
/-- Who reads for an operation: the warps of its team. -/
def MatOp.reader (o : MatOp) : Reader := { ws := o.warps.map fun n => ⟨o.blk, n⟩, seq := o.id, free := opFree o.id }
/-- The element offsets of a tile operand, row by row. -/
def MatOp.tileIdx (o : MatOp) (d : Desc) (isA : Bool) (block : Nat) : List Nat :=
  let f := fw o.fmt (if isA then 0 else 4) 4
  let n := rowElems o.op o.fmt isA
  (List.range (shapeMN f)).flatMap fun r => (List.range n).map fun k => tileElemIdx d isA (shapeMN f) n block r k
/-- The data of an operand, read when the operation reads it (R233). -/
def State.operandData (s : State) (o : MatOp) (isA : Bool) : Option MatData :=
  let f := fw o.fmt (if isA then 0 else 4) 4
  let n := rowElems o.op o.fmt isA
  match s.block? o.blk with
  | none => none
  | some b =>
    match (if isA then o.srcA else o.srcB) with
    | .regs codes scales band bad => some { codes := codes, scales := scales, sc := spreadScales codes scales band, bad := bad }
    | .scratch base p tp q => some (s.readScratchOperand o.reader b.clu f n base p tp q)
    | .tile main addr h _ block =>
      let desc := (s.desc? b.vf h).getD (Desc.ofBytes false [])
      let idx := o.tileIdx desc isA block
      if o.aborted then some { codes := idx.map fun _ => 0, scales := [], sc := [], bad := idx.map fun _ => true }
      else (allSome (idx.map fun i => s.readTileElem o.reader b.vf desc main addr none i)).map fun es =>
        { codes := es.map (·.1), scales := everyEighth (es.map (·.2.1)), sc := es.map fun e => (e.2.1, e.2.2.1), bad := es.map (·.2.2.2) }
/-- The first of some bytes of a tile copy, as offsets and lengths, whose address does not translate. -/
def State.tileFault (s : State) (vf : Nat) (early main : Bool) (addr : Nat) (ps : List (Nat × Nat)) : Option Nat :=
  ps.findSome? fun x => ((List.range x.2).find? fun k => (s.tileLoc vf early main (addr + x.1 + k)).isNone).map fun k => addr + x.1 + k
/-- The address at which an operand's fetch faults (R235). -/
def State.operandVa (s : State) (o : MatOp) : Option Nat :=
  match s.block? o.blk with
  | none => none
  | some b =>
    let one := fun (isA : Bool) => match (if isA then o.srcA else o.srcB) with
      | .tile main addr h _ block =>
        let desc := (s.desc? b.vf h).getD (Desc.ofBytes false [])
        if o.aborted then none else s.tileFault b.vf desc.early main addr ((o.tileIdx desc isA block).flatMap fun i => elemBytes desc i)
      | _ => none
    (one true).or (one false)
/-- An operation parks on a translation fault, and its stream waits behind it (R235); it replays from its start. -/
def State.parkOp (s : State) (b : Block) (o : MatOp) (va : Nat) : State :=
  let p := s.park b.vf b.launch va (.op o.id)
  p.2.setOp { o with started := false, parked := some p.1 }
/-- The accumulator input of an operation, and which of its elements are poisoned: zero under ZC (R233, R323). -/
def Block.accInput (b : Block) (o : MatOp) : List (Nat × Bool) :=
  let n := accUnits o.fmt
  let w := accRegs o.fmt
  (List.range n).flatMap fun i => (List.range n).map fun j =>
    if fw o.fmt 20 1 == 1 then (0, false)
    else
      let u := b.unit o.team o.dst n n w i j
      (if fw o.fmt 8 4 == 2 || fw o.fmt 8 4 == 3 then u % 2 ^ 16 else u, b.unitPois o.team o.dst n n w i j)
/-- A team after a grant: the one granted, or one that waits and was passed over (R239). -/
def Team.afterGrant (t : Team) (granted waits : Bool) (st : Nat) : Team :=
  if granted then { t with passed := 0, turn := (st + 1) % 4 } else if waits then { t with passed := t.passed + 1 } else t
/-- MATRIX_OP_START: the engine grants one operation; its accumulator input is read (R233), or a translation fault parks it. -/
def State.startOp (s : State) (core : Nat) : State :=
  if (s.coreOps core).any fun o => o.started then s
  else match s.granted core with
  | none => s
  | some o =>
    match s.block? o.blk with
    | none => s
    | some b =>
      match s.operandVa o with
      | some va => s.parkOp b o va
      | none =>
        let acc := b.accInput o
        let waiting := s.startable core
        let s1 := s.setOp { o with started := true, acc := acc.map (·.1), accBad := acc.map (·.2) }
        let pass := fun (x : Block) (y : Team × Nat) =>
          y.1.afterGrant (x.id == o.blk && y.2 == o.team) (waiting.any fun z => z.blk == x.id && z.team == y.2) o.st
        { s1 with
          grants := Sparse.set 0 s1.grants core (s.ringKey o % 512 + 1)
          blocks := s1.blocks.map fun x => { x with teams := (x.teams.zip (List.range x.teams.length)).map (pass x) } }

/-- What the completion of an operation does to a warp: results wait no longer, MSYNC passes (R237). -/
def Warp.opLanded (w : Warp) (id : Nat) (ch : Word) (rest : List MatOp) : Warp :=
  let done := w.late.filter fun l => l.kind == .opFlag id || l.kind == .opCharge id
  let w1 := done.foldl (fun w l => w.landWrites (if l.kind == .opCharge id then l.writes.map fun x => (x.1, ch) else l.writes)) w
  let pass := fun (ops : List Nat) => ops.all fun x => !rest.any fun p => p.id == x
  { w1 with
    late := w1.late.filter fun l => !(l.kind == .op id || l.kind == .opFlag id || l.kind == .opCharge id),
    runs := w1.runs.map fun r => match r.wait with
      | some (.msync ops) => if pass ops then { r with wait := none, pc := r.pc + 8 } else r
      | _ => r }
/-- MATRIX_OP_COMPLETE: the accumulator is written in one landing, the reads are complete, the charge is taken (R233, R238). A translation
fault first met here parks the operation (R235), and the commit of a view that it reads holds it (R259). -/
def State.finishOp (s : State) (id : Nat) : State :=
  match s.op? id with
  | none => s
  | some o =>
    if !o.started || ((s.block? o.blk).map fun b => s.commitHeld b.vf o.reads).getD false then s else
    match s.block? o.blk, s.operandData o true, s.operandData o false with
    | some b, some A, some B =>
      let n := accUnits o.fmt
      let w := accRegs o.fmt
      let W := b.decl.width
      let put := fun (bl : Block) (i j : Nat) =>
        let x := layoutAt b.teamLanes n n i j
        let v := matElem o.op o.fmt o.positions A B ((o.acc[i * n + j]?).getD 0) ((o.accBad[i * n + j]?).getD false) i j
        let k := b.teamFirst o.team + x.1 / W
        match bl.warps[k]? with
        | some wp =>
          if (wp.live ||| wp.helpers).has (x.1 % W) then
            let r := o.dst + x.2 * w
            let w1 := wp.put (.v (x.1 % W) r) (BitVec.ofNat 32 v)
            bl.setWarp k (if w == 2 then w1.put (.v (x.1 % W) (r + 1)) (BitVec.ofNat 32 (v / 2 ^ 32)) else w1)
          else bl
        | none => bl
      let b1 := (List.range n).foldl (fun bl i => (List.range n).foldl (fun bl j => put bl i j) bl) b
      let ch := charge o.fmt A B
      let land := fun (wp : Warp) => wp.opLanded id ch (s.ops.filter fun p => p.id != id)
      let t := (b1.teams[o.team]?).getD { avg := 0, lastOp := [], charge := [], passed := 0 }
      let avg := t.avg - (t.avg >>> 3) + (ch >>> 3)
      let b2 := { b1 with warps := b1.warps.map land, teams := listSet b1.teams o.team { t with avg := avg, charge := Sparse.set 0 t.charge o.st ch } }
      let poisoned := A.bad.any (fun x => x) || B.bad.any (fun x => x) || o.accBad.any (fun x => x)
      let s1 := { s.setBlock b2 with ops := s.ops.filter fun p => p.id != id }
      let s2 := if poisoned then s1.report b.vf 3 b.launch [] else s1
      s2.noteBlock o.blk
    | some b, _, _ => (match s.operandVa o with
      | some va => s.parkOp b o va
      | none => s)
    | none, _, _ => s

end Sys2Proof.Machine
end

