-- ==== Sys2Proof/Machine/Issue.lean ====
section
/-!
DEFINITION. Issuing a word: fetch (R190), the checks of R74 in order, what a word waits for (R17, R68, R99), the guard
(R53, R19), and what ends every step of a warp: signing, regrouping and the conditions of R359.
-/
namespace Sys2Proof.Machine

/-! ### Fetch -/

def opOf (i : Instr) : Nat := (fOp (encode i)).toNat
/-- What the fetch of a run's next word gives. -/
inductive Fetch where
  | word (i : Instr)
  | ill (x : Reject)
  | pois
  | fault
  deriving DecidableEq, Repr

/-- A full-form word that does not run in early service, by its opcode and its space fields, whatever else it breaches (R355): group 1 outside 0x040
to 0x049, the matrix words, BPFX, and the transfers that name main memory. -/
def wordUsesFull (w : DWord) : Bool :=
  let op := (fOp w).toNat
  let dst := bits w 0 2 == 0
  let src := bits w 2 2 == 0
  !bit w 63 && ((decide (0x4A ≤ op) && decide (op < 0x80)) || (decide (0x140 ≤ op) && decide (op ≤ 0x144)) || op == 0x156
    || ((op == 0x150 || op == 0x153 || op == 0x154) && (dst || src)) || (op == 0x151 && dst) || (op == 0x152 && src) || (op == 0x155 && dst))
def instrUsesFull (i : Instr) : Bool := wordUsesFull (encode i)
/-- Why a word is no instruction: in early service a word that does not run there has WHY 1, whatever else it breaches (R73, R355). -/
def rejectIn (level : Nat) (w : DWord) (x : Reject) : Reject :=
  if level != 2 && x.why != 1 && wordUsesFull w then ⟨1, 0, (fOp w).toNat⟩ else x

/-- The code-table entry whose code a run executes: the handler's at trap level. -/
def runEntry (b : Block) (w : Warp) (r : Run) : CodeEntry :=
  match r.handler, w.trap with
  | true, some t => t.handler
  | _, _ => b.decl
/-- Fetch the word at a run's pc, through the interface's translation (R190, R319). -/
def State.fetch (s : State) (b : Block) (w : Warp) (r : Run) : Fetch :=
  match s.translate b.vf (runEntry b w r).early r.pc.toNat false true with
  | none => .fault
  | some l =>
    if s.locPois l then .pois
    else match decode (BitVec.ofNat 64 (leValue (s.locBytes l 8))) with
      | .ok i => .word i
      | .error x => .ill (rejectIn s.level (BitVec.ofNat 64 (leValue (s.locBytes l 8))) x)

/-! ### The checks of R74 -/

def causePair : Nat := 0x02
def causeStall : Nat := 0x03
def causeSpdep : Nat := 0x10
def causePois : Nat := 0x13
def causePriv : Nat := 0x16
def causeFpx : Nat := 0x17
def causeRgrp : Nat := 0x18
/-- The barrier that a word names: a destination barrier of a transfer, or of group 3 (R205, R240). -/
def instrBar (i : Instr) : Option (Bool × Nat) :=
  match i with
  | .bari _ b _ _ | .barx _ b _ | .bara _ _ b | .barw _ b _ | .bar _ b | .barq _ _ b _ => some (b.clu, b.num.toNat)
  | .bcp _ _ _ b _ | .bcpp _ _ _ b _ _ _ | .bmc _ _ b _ _ | .bga _ _ _ b _ _ | .bsc _ _ _ b _ _ | .bfill _ _ b _ | .bpfx _ b _ => some (false, b.toNat)
  | _ => none
/-- Registers at and above .regs, in field order: WHY 4 (R25, R73). A value that runs past v1023 is named by its base, since DETAIL has no
number for the register it lacks (assumption 61). -/
def regsOver (regs : Nat) (us : List Use) : Option Nat :=
  (us.find? fun u => u.cls == .v && decide (regs < u.num + u.cnt)).map fun u => if max u.num regs < 1024 then max u.num regs else u.num
def oddBase (us : List Use) : Option Nat := (us.find? fun u => u.num % u.al != 0).map (·.num)
/-- ILL found from the word and the kernel's declarations (step 1 of R74), the lowest WHY first; the warps operand of BARI is part of the
word (R209). Matrix words check their ranges when signing completes (R227). -/
def illCheck (s : State) (b : Block) (i : Instr) : Option Trap :=
  let wide := b.width == 64
  let us := i.uses wide
  let matrix := i.isMatrix
  let warpsBad := match i with
    | .bari _ bar warps _ => decide (s.canArrive b bar.clu < warps.toNat)
    | _ => false
  let barBad := match instrBar i with
    | some (true, n) => b.task || decide (b.decl.cluster < 2) || decide (3 < n)
    | some (false, n) => !b.decl.bars.getLsbD n
    | none => false
  if s.level != 2 && instrUsesFull i then some (illTrap 1 0 (opOf i))
  else if warpsBad then some (illTrap 3 0 0)
  else match i.pair? with
  | some (op, p) =>
    match regsOver b.decl.regs (if isNullSlot op p.slot0 then [] else slotUses op p.slot0),
          regsOver b.decl.regs (if isNullSlot p.op1 p.slot1 then [] else slotUses p.op1 p.slot1) with
    | some n, _ => some (illTrap 4 1 n)
    | none, some n => some (illTrap 4 2 n)
    | none, none => none
  | none =>
    match if matrix then none else regsOver b.decl.regs us with
    | some n => some (illTrap 4 0 n)
    | none => match if matrix then none else oddBase us with
      | some n => some (illTrap 5 0 n)
      | none =>
        let guardBad := match i with
          | .sadd h .. | .ssub h .. | .smul h .. | .slop3 h .. | .sshl h .. | .sshr h .. | .ssetp h .. | .smovi h .. | .smovh h .. => !h.scalarOk
          | _ => false
        let idx := match i with
          | .vrd _ _ x => if specialOk x then none else some x.toNat
          | .srd _ _ x => if specialOk x && !specialLane x then none else some x.toNat
          | _ => none
        if guardBad then some (illTrap 6 0 0)
        else match idx with
          | some n => some (illTrap 7 0 n)
          | none => if barBad then some (illTrap 8 0 (((instrBar i).map (·.2)).getD 0)) else none
/-- The pairing rules (R66): read ports, destinations, class F. -/
def pairCheck (op : PairOp) (p : Pair) : Option Trap :=
  let n0 := isNullSlot op p.slot0
  let n1 := isNullSlot p.op1 p.slot1
  let reads := fun (o : PairOp) (x : Slot) => (if o.unary then [] else [x.d.toNat]) ++ (if o == .movs then [] else [x.s.toNat])
  let rs := ((if n0 then [] else reads op p.slot0) ++ (if n1 then [] else reads p.op1 p.slot1)).foldl (fun acc r => insertNat r acc) []
  let full := (List.range 4).find? fun k => decide (2 < (rs.filter fun r => r % 4 == k).length)
  match full with
  | some k => some { cause := causePair, info := BitVec.ofNat 32 (16 * k + 1) }
  | none =>
    if !n0 && !n1 && p.slot0.d == p.slot1.d then some { cause := causePair, info := 2 }
    else if !n0 && !n1 && op.isF && p.op1.isF then some { cause := causePair, info := 3 }
    else none
/-- Steps 1 and 2 of R74. -/
def wordTrap (s : State) (b : Block) (i : Instr) : Option Trap :=
  (illCheck s b i).or (i.pair?.bind fun x => pairCheck x.1 x.2)

/-- Number and class of a register for Table 3-20. -/
def regCode : RegId → Nat
  | .v _ n => n
  | .s n => 1024 + n
  | .p _ n => 2048 + n
/-- Scoreboard checking (R69): an early read, or a fixed-latency write that would land before an earlier one; the exceptions of helper
lanes are discarded (R14). Where a word meets several, %tinfo names a read before a write, and of these the first in the order of the
guards and the fields D, A, B and C, in its lowest lane (assumption 62). -/
def stallCheck (w : Warp) (us : List (Mask × Use)) (due : Option Nat) : Option Trap :=
  let reads := us.flatMap fun x => if x.2.rd then x.2.ids (x.1 &&& w.live) else []
  let writes := us.flatMap fun x => if x.2.wr then x.2.ids (x.1 &&& w.live) else []
  match reads.find? (fun r => w.pend.any fun p => p.reg == r) with
  | some r => some { cause := causeStall, info := BitVec.ofNat 32 (regCode r) }
  | none =>
    match due with
    | none => none
    | some d => (writes.find? fun r => w.pend.any fun p => p.reg == r && decide (d < p.due)).map fun r =>
        { cause := causeStall, info := BitVec.ofNat 32 (2 ^ 12 + regCode r) }
/-- The uses that scoreboard checking checks at issue. The operands of a matrix word are read when its team's signing is complete, once they have landed
(R99, R231): at issue it reads its guard alone (R69). -/
def checkedUses (i : Instr) (us : List (Mask × Use)) : List (Mask × Use) := if i.isMatrix then us.filter fun x => x.2.cls == .p else us
/-- The registers that a word reads, each with the active lane that reads it: a scalar is read by the lowest of them, the source of SHFL
and QEX by each lane in its own source lane. -/
def readBy (i : Instr) (w : Warp) (width : Nat) (act : Mask) (us : List (Mask × Use)) : List (Nat × RegId) :=
  us.flatMap fun x =>
    if !x.2.rd then []
    else if x.2.cross then ((act &&& w.live).lanes 64).flatMap fun l =>
      let src := i.sourceLane w width l
      if (w.live ||| w.helpers).has src then (x.2.ids (Mask.bit src)).map fun r => (l, r) else []
    else (x.2.ids (x.1 &&& w.live)).map fun r => (match r with
      | .v l _ => l
      | .p l _ => l
      | .s _ => (((x.1 &&& w.live).lanes 64).head?).getD 0, r)
/-- Poisoned registers that active lanes read (R324, Table 19-8), for the lowest lane that reads one: POIS of a helper lane is discarded. -/
def poisCheck (w : Warp) (reads : List (Nat × RegId)) : Option Trap :=
  let bad := reads.filter fun x => match x.2 with
    | .v l n => w.vPois.contains (vKey l n)
    | .s n => w.sPois.contains n
    | .p _ _ => false
  match bad with
  | [] => none
  | x :: xs =>
    let y := xs.foldl (fun b r => if r.1 < b.1 then r else b) x
    some { cause := causePois, info := BitVec.ofNat 32 (y.1 * 2 ^ 26 + (match y.2 with
      | .v _ n => 3 * 2 ^ 23 + n
      | .s n => 4 * 2 ^ 23 + n
      | .p _ _ => 0)) }

/-! ### What a word waits for -/

/-- Results that have not landed (R68) and, for scalar and cross-lane reads, fixed-latency writes (R99). A matrix word waits for no accumulator
of an earlier operation (R233). -/
def scoreWait (w : Warp) (matrix : Bool) (us : List (Mask × Use)) : Bool :=
  let ids := us.flatMap fun x => x.2.ids x.1
  let shared := us.flatMap fun x => if x.2.rd && (x.2.cls == .s || x.2.cross) then x.2.ids x.1 else []
  (w.late.any fun l => !(matrix && l.kind.isOp) && l.writes.any fun x => ids.contains x.1) || w.pend.any fun p => shared.contains p.reg
/-- Engine jobs of a warp that are outstanding: its transfers, and operations of its team with a read footprint (R178, R234). -/
def State.warpJobs (s : State) (r : WarpRef) : List Word :=
  (s.jobs.filter fun j => j.blk == r.blk && j.warp == r.num && !j.staging).map (·.rods)
    ++ (s.ops.filter fun o => o.blk == r.blk && o.warps.contains r.num && !o.reads.isEmpty).map (·.rods)
/-- The rods that a FENCER names, and whether it acts as a FENCE (R148). -/
def fencerMask (b : Block) (w : Warp) (all dyn : Bool) (mask : BitVec 16) (sA : BitVec 7) : Word × Bool :=
  let m : Word := mask.setWidth 32 ||| (if dyn then w.rs sA.toNat &&& 0xFFFF0000 else 0)
  let empties := (List.range 32).any fun k => m.getLsbD k && ((b.rods[k]?).getD []).isEmpty
  (m, all || empties)
/-- A word that accesses memory, arrives at a barrier or issues an engine job: the accesses of the warp's earlier loads are made before it, as far
as they may (R168, R174, R182). -/
def accessWord (i : Instr) : Bool :=
  match i with
  | .lds .. | .sts .. | .ldx .. | .stx .. | .ldw .. | .atoms .. | .atomx .. | .redx .. => true
  | .ldf .. | .fres .. | .fflt .. | .freg .. | .fpoll .. | .spawn .. | .lnch .. | .bar .. | .bara .. | .vmark .. => true
  | .bcp .. | .bcpp .. | .bmc .. | .bga .. | .bsc .. | .bfill .. | .bpfx .. | .mma .. | .mmas .. | .mmat .. => true
  | _ => false
def State.beforeAccess (s : State) (r : WarpRef) (i : Instr) (act : Mask) : State := if act != 0 && accessWord i then s.makeLoads r else s
/-- What is left of a warp's accesses once its queue has drained as far as it may: stores and atomics, and loads that are yet to be made. -/
def State.leftOver (s : State) (r : WarpRef) : List StoreEntry × List Late :=
  match (s.drainAll r).warp? r with
  | some w => (w.storeQ, w.late.filter fun l => !l.rest.isEmpty)
  | none => ([], [])
/-- Whether an earlier access of a warp cannot be performed yet, or one of its engine jobs is outstanding: a fence, and a release that acts at
issue, waits for them (R174, R178). -/
def State.releaseHeld (s : State) (r : WarpRef) : Bool :=
  let x := s.leftOver r
  !x.1.isEmpty || !x.2.isEmpty || !(s.warpJobs r).isEmpty
/-- The same of the accesses and jobs that are tagged with a rod of a mask (R179). -/
def State.rodsHeld (s : State) (r : WarpRef) (m : Word) : Bool :=
  let x := s.leftOver r
  x.1.any (fun e => (e.rods &&& m) != 0) || x.2.any (fun l => (l.rods &&& m) != 0) || (s.warpJobs r).any fun k => (k &&& m) != 0
/-- The waits of an instruction's own entry (R17), given its active lanes; `sampled`: a range fence has passed the views it
waits on (R263). VMARK orders as FENCE.rel.pkg, and waits as one (R267). -/
def ownWait (s : State) (b : Block) (w : Warp) (r : WarpRef) (i : Instr) (act all : Mask) (sampled : Bool) : Bool :=
  let loads := w.late.any fun l => l.kind == .load
  match i with
  | .sfq _ _ _ q _ => (all.lanes 64).any fun l => decide (8 ≤ (w.queue l (if q then 1 else 0)).length)
  | .qpop _ _ q => (all.lanes 64).any fun l => (w.queue l (if q then 1 else 0)).isEmpty
  | .fence _ k _ => act != 0 && ((k != .rel && loads) || (k != .acq && s.releaseHeld r))
  | .fencer _ rel all' _ dyn mask sA =>
    let m := fencerMask b w all' dyn mask sA
    act != 0 && (if rel then (if m.2 then s.releaseHeld r else s.rodsHeld r m.1) else m.2 && sampled && loads)
  | .vmark .. => act != 0 && s.releaseHeld r
  | .bcp .. | .bcpp .. | .bmc .. | .bga .. | .bsc .. | .bfill .. | .bpfx .. =>
    act != 0 && decide (Config.frontEndJobs ≤ (s.jobs.filter fun j => ((s.block? j.blk).map (·.core)).getD 0 == b.core && (s.block? j.blk).isSome).length)
  | _ => false

/-- The lanes of a run that a word's guard leaves active (R53); every lane of the run for a paired word (R65). -/
def activeLanes (i : Instr) (w : Warp) (run : Mask) : Mask :=
  match i.pair? with
  | some _ => run
  | none => guardMask w (bit (encode i) 58) (bits (encode i) 55 3) run

/-- The samples that a held word waits for: a transfer waits for the groups of WAIT views, a fence for every group that it names (R261, R263). -/
def waitsOn (i : Instr) (s : State) (ws : List ViewWait) : List ViewWait :=
  match i with
  | .fencer .. => ws
  | _ => ws.filter fun w => s.policy w == 0
/-- Whether a run may issue its next word now: nothing blocks it (R17). -/
def State.runReady (s : State) (b : Block) (n : Nat) (w : Warp) (r : Run) : Bool :=
  r.wait.isNone && !r.held && !w.halted && decide (r.notBefore ≤ s.clock) && (w.trap.isNone || r.handler)
    && (let w' := w.landDue s.clock
        match s.fetch b w' r with
        | .word i =>
          (s.staleOf (waitsOn i s (r.samples.getD []))).isEmpty &&
          match wordTrap s b i with
          | some _ => true
          | none =>
            let us := i.laneUses w' (b.width == 64) r.lanes
            let act := activeLanes i w' r.lanes
            !scoreWait w' i.isMatrix us && !ownWait s b w' ⟨b.id, n⟩ i act (act ||| w'.helpersOf act) (r.samples == some [])
        | _ => true)

/-! ### The end of a step of a warp (R359) -/

/-- How a run is blocked, for the conditions of R202, R216, R133 and R232. -/
inductive BlockKind where
  | jwait | bar | regrp | sign | other
  deriving DecidableEq, Repr

/-- A run at BAR or REGRP counts as parked there when every lane of it is. -/
def Run.kind (r : Run) : BlockKind :=
  match r.wait with
  | some (.jwait _) => .jwait
  | some (.bar _ parked) => if r.lanes.sub parked then .bar else .other
  | some (.regrp _ _ _ _ _ parked) => if r.lanes.sub parked then .regrp else .other
  | some (.sign _) => .sign
  | _ => .other
/-- The run that takes a condition: the one whose blocking completed it, else the lowest pc and then the lowest lane. -/
def takingRun (runs : List Run) (cand : Mask) : Option Run :=
  match runs.find? fun r => (r.lanes &&& cand) != 0 with
  | some r => some r
  | none => runs.foldl (fun b r => match b with
    | none => some r
    | some x => if r.pc.toNat < x.pc.toNat || (r.pc == x.pc && lowestLane r.lanes < lowestLane x.lanes) then some r else some x) none
/-- The condition that holds of a warp at the end of a step, with its cause and detail. -/
def warpCondition (n : Nat) (w : Warp) (cand : Mask) : Option (Run × Trap) :=
  if w.trap.isSome || w.ended || w.live == 0 || w.runs.isEmpty then none
  else
    let ks := w.runs.map Run.kind
    let only := fun (a : List BlockKind) => ks.all fun k => a.contains k
    let has := fun (k : BlockKind) => ks.contains k
    let bars := w.runs.filterMap fun r => match r.wait with
      | some (.bar b _) => some b
      | _ => none
    match takingRun w.runs cand with
    | none => none
    | some r =>
      if only [.jwait] then
        let j := match r.wait with
          | some (.jwait j) => j
          | _ => 0
        some (r, { cause := 0x08, info := BitVec.ofNat 32 (j * 2 ^ 16 + 2) })
      else if only [.jwait, .bar, .regrp] && has .bar && bars.all (fun b => !w.live.sub (w.reach1 b)) then
        let b := bars.foldl min 31
        some (r, { cause := 0x09, info := BitVec.ofNat 32 (if b < 16 then b else 32 + (b - 16)) })
      else if only [.jwait, .sign] && has .jwait && has .sign then some (r, { cause := causeMteam, info := mteamInfo n 5 })
      else if only [.jwait, .regrp] && has .jwait && has .regrp then some (r, { cause := causeRgrp, info := BitVec.ofNat 32 (n % 16 * 256 + 4) })
      else none
/-- Unblock the taking run's lanes before the trap (R359). -/
def Warp.unblock (w : Warp) (r : Run) : Warp :=
  match r.wait with
  | some (.jwait j) => w.setJset j { w.jset j with arrived := (w.jset j).arrived.diff r.lanes }
  | some (.bar b parked) => { w with reach := Sparse.set 0 w.reach b ((w.reach1 b).diff parked), dueAt := Sparse.set none w.dueAt b none }
  | _ => w
/-- Lanes parked at REGRP are released without regrouping, after an RGRP trap (R133); as every released lane does, they go on at the next
word, which R133 does not say (assumption 63). -/
def Warp.freeRegrp (w : Warp) : Warp := w.release (fun x => match x with
  | .regrp .. => true
  | _ => false) (BitVec.allOnes 64)
/-- Take a trap; after RGRP the other lanes of the warp that are parked at REGRP go on (R133); those of the block's other warps stay parked, which
R133 leaves open (assumption 76). -/
def State.takeTrapFree (s : State) (r : WarpRef) (pc : DWord) (mask : Mask) (t : Trap) : State :=
  let s1 := s.takeTrap r pc mask t
  if t.cause == causeRgrp then s1.mapWarp r Warp.freeRegrp else s1
/-- Take the condition of a warp. -/
def State.takeCondition (s : State) (r : WarpRef) (x : Run × Trap) : State :=
  (s.mapWarp r fun w => { w.unblock x.1 with runs := w.runs.map fun y => if y.lanes == x.1.lanes then { y with wait := none } else y }).takeTrapFree
    r x.1.pc x.1.lanes x.2

/-! ### Regrouping (R131 to R133) -/

structure RegrpOp where
  desc : Bool
  d : Nat
  a : Nat
  n : Nat
  j : Nat
  deriving DecidableEq, Repr

def Run.regrp? (r : Run) : Option RegrpOp :=
  match r.wait with
  | some (.regrp desc d a n j parked) => if r.lanes.sub parked then some ⟨desc, d, a, n, j⟩ else none
  | _ => none
/-- Insert a thread, keeping equal keys in order. -/
def insertThread (desc : Bool) (x : Nat × Nat × Nat) : List (Nat × Nat × Nat) → List (Nat × Nat × Nat)
  | [] => [x]
  | y :: ys => if (if desc then decide (y.1 < x.1) else decide (x.1 < y.1)) then x :: y :: ys else y :: insertThread desc x ys
/-- Results outstanding when a block regroups (R132; assumption 64): those of a matrix operation, which R233 lets no reader pass, land
later as they were issued; of the rest, what goes to scalar registers, which are unchanged. -/
def Late.pastRegroup (l : Late) : Option Late :=
  match l.kind with
  | .op _ => some l
  | .opFlag _ => some l
  | .opCharge _ => some l
  | _ =>
    let ws := l.writes.filter fun x => match x.1 with
      | .s _ => true
      | _ => false
    if ws.isEmpty then none else some { l with writes := ws }
/-- Move the threads of a block (R132). `tag` marks the stack of each warp as undefined from here. A warp whose lanes parked at different REGRP words
goes on behind the one of its first run, which R132 leaves open (assumption 64). R132 is silent on %sp, which each lane
position keeps, and on the predicates of lanes that receive no thread, which are cleared (assumption 76). -/
def Block.regroup (b : Block) (op : RegrpOp) (pc : DWord) (tag : Nat → Nat) : Block :=
  let W := b.width
  let ts := (b.warps.zip (List.range b.warps.length)).flatMap fun x => (x.1.live.lanes 64).map fun l => ((x.1.rv l op.a).toNat % 256, x.2, l)
  let sorted := ts.foldl (fun acc t => insertThread op.desc t acc) []
  let n := sorted.length
  { b with warps := (b.warps.zip (List.range b.warps.length)).map fun x =>
      let k := x.2
      let here := (List.range W).filter fun l => decide (k * W + l < n)
      let live := Mask.ofLanes here
      let src := fun (l : Nat) => (sorted[k * W + l]?).bind fun t => (b.warps[t.2.1]?).map fun w => (w, t.2.2)
      let vs := here.foldl (fun (v : Sparse Word) l => match src l with
        | some (w, m) => (List.range op.n).foldl (fun v r => Sparse.set 0 v (vKey l (op.d + r)) (w.rv m (op.d + r))) v
        | none => v) []
      let vp := here.flatMap fun l => match src l with
        | some (w, m) => (List.range op.n).filterMap fun r => if w.vPois.contains (vKey m (op.d + r)) then some (vKey l (op.d + r)) else none
        | none => []
      let ps := here.foldl (fun (p : Sparse Bool) l => match src l with
        | some (w, m) => (List.range 7).foldl (fun p r => Sparse.set false p (8 * l + r) (w.rp m r)) p
        | none => p) []
      let mine := match x.1.runs.head? with
        | some r => r.pc
        | none => pc
      let run : Run := { pc := mine + 8, lanes := live, age := 0, yieldEnd := none, notBefore := 0, wait := none, held := false, handler := false, samples := none }
      ({ x.1 with
        live := live, helpers := Mask.diff (BitVec.ofNat 64 (2 ^ W - 1)) live, v := vs, p := ps, vPois := vp,
        sets := Sparse.set JSet.empty [] op.j { member := live, arrived := 0, depth := 0 }, queues := [], depth := [],
        stack := [], stackTag := some (tag k), stackPois := [], pend := [], late := x.1.late.filterMap Late.pastRegroup,
        runs := if live == 0 then [] else [run], ended := x.1.ended && live == 0 } : Warp).endHelpers }
/-- Complete a regroup when every live lane of the block has parked at REGRP: D, A, n and the set are compared; where the order group
differs, the block sorts by the first run's (R132; assumption 64). Where they differ, the trap of a warp with lanes parked at several REGRP words names
the lowest of these PCs and the lanes parked there (assumption 76). -/
def State.checkRegrp (s : State) (blk : Nat) : State :=
  match s.block? blk with
  | none => s
  | some b =>
    let runs := (b.warps.filter fun w => w.live != 0).flatMap (·.runs)
    if runs.isEmpty || !runs.all (fun r => r.regrp?.isSome) then s
    else match runs.filterMap Run.regrp? with
    | [] => s
    | op :: rest =>
      let same := fun (x : RegrpOp) => x.d == op.d && x.a == op.a && x.n == op.n && x.j == op.j
      if rest.all same then
        let b0 := { b with warps := b.warps.map Warp.landAll }
        let b1 := b0.regroup op ((runs.head?.map (·.pc)).getD 0) fun n => (s.fresh + n) * 2 ^ 32
        let s1 := { s with fresh := s.fresh + b.warps.length }.setBlock b1
        (List.range b1.warps.length).foldl (fun t n => match t.warp? ⟨blk, n⟩ with
          | some w => if w.live == 0 && !w.ended then t.warpEnd ⟨blk, n⟩ else t
          | none => t) s1
      else
        let found := (List.range b.warps.length).find? fun n => match b.warps[n]? with
          | some w => w.runs.any fun r => match r.regrp? with
            | some x => !same x
            | none => false
          | none => false
        (List.range b.warps.length).foldl (fun t n => match t.warp? ⟨blk, n⟩ with
          | some w => (match takingRun w.runs 0 with
            | some r =>
              let here := (w.runs.filter fun x => x.pc == r.pc).foldl (fun m x => m ||| x.lanes) 0
              t.takeTrapFree ⟨blk, n⟩ r.pc here { cause := causeRgrp, info := BitVec.ofNat 32 (found.getD 0 % 16 * 256 + 3) }
            | none => t)
          | none => t) s

/-- A warp of a team has ended while lanes of another were signed: MTEAM, WHY 4 (R232, R310). -/
def State.teamEnds (s : State) (blk : Nat) : State :=
  match s.block? blk with
  | none => s
  | some b =>
    let ns := List.range b.warps.length
    let ended := ns.filter fun n => match b.warps[n]? with
      | some w => w.endedNow
      | none => false
    let s1 := s.setBlock { b with warps := b.warps.map fun w => { w with endedNow := false } }
    let s2 := ended.foldl (fun t e => (b.teamWarps (e / b.decl.team)).foldl (fun t n => t.mapWarp ⟨blk, n⟩ fun w =>
      if w.signed != 0 then { w with heldTeam := some e } else w) t) s1
    ns.foldl (fun t n => match t.warp? ⟨blk, n⟩ with
      | some w => (match w.heldTeam with
        | some e =>
          if w.trap.isSome then t
          else
            let t1 := t.setWarp ⟨blk, n⟩ { w with heldTeam := none }
            (match w.signedLowest with
            | some x => t1.takeTrap ⟨blk, n⟩ x.2 w.signed { cause := causeMteam, info := mteamInfo e 4 }
            | none => t1)
        | none => t)
      | none => t) s2
/-- Take conditions of a block's warps until none holds; the number bounds the conditions of one step. -/
def State.takeConditions (s : State) (blk : Nat) (r : WarpRef) (cand : Mask) : Nat → State
  | 0 => s
  | k + 1 =>
    match s.block? blk with
    | none => s
    | some b =>
      match (b.warps.zip (List.range b.warps.length)).findSome? (fun x => (warpCondition x.2 x.1 (if r == ⟨blk, x.2⟩ then cand else 0)).map fun c => (x.2, c)) with
      | some (n, c) => (s.takeCondition ⟨blk, n⟩ c).takeConditions blk r cand k
      | none => s
/-- The end of a step of a warp: arrivals whose earlier accesses the step has performed, team ends, signing, regrouping, then the conditions of
R359. -/
def State.endStep (s : State) (r : WarpRef) (cand : Mask) : State :=
  match s.block? r.blk with
  | none => s
  | some b =>
    let s1 := (s.retryArrivals r).teamEnds r.blk
    let s2 := (List.range b.teams.length).foldl (fun t k => t.completeSigning r.blk k) s1
    ((s2.checkRegrp r.blk).teamEnds r.blk).takeConditions r.blk r cand (2 * b.warps.length)

/-! ### Issue -/

/-- What an instruction's own effect gives: a next state, a trap before any effect, or the run held where it is. -/
inductive Res where
  | ok (s : State)
  | trap (t : Trap)
  | hold (s : State)

/-- What an issued word has at hand: its warp as it stands, the run that issues it, the active live lanes and, with their
helpers, all active lanes, and the cycle at which a fixed-latency result lands. -/
structure Ctx where
  ref : WarpRef
  blk : Block
  w : Warp
  run : Run
  act : Mask
  all : Mask
  land : Nat
  nextAt : Nat
  deriving DecidableEq, Repr

/-- Issue cycles of a word (R67). -/
def Block.cycles (b : Block) : Nat := b.width / 16
def stallOf (i : Instr) : Nat := (bits (encode i) 60 3 : BitVec 3).toNat
def yieldOf (i : Instr) : Bool := !i.pair?.isSome && bit (encode i) 59
/-- The run after its word: at the next word, its ageing counter 0, held by STALL, yielding under Y and until a yield window that is open
ends (R22, R67, R70). -/
def Run.advance (r : Run) (now cyc stall : Nat) (y : Bool) : Run :=
  { r with pc := r.pc + 8, age := 0, notBefore := now + cyc + stall, yieldEnd := if y then some (now + cyc + 32) else r.yieldEnd, samples := none }
/-- Replace the run that has exactly these lanes. -/
def Warp.setRun (w : Warp) (lanes : Mask) (f : Run → Run) : Warp := { w with runs := mapIf (fun r => r.lanes == lanes) f w.runs }
/-- Instructions that trap SPDEP at trap level (R308). -/
def instrSpdep (i : Instr) : Bool :=
  match i with
  | .jwait .. | .bar .. | .barw .. | .regrp .. | .mma .. | .mmas .. | .mmat .. | .spawn .. | .lnch .. | .freg .. => true
  | _ => false
/-- Whether scoreboard checking is on for a run: by its kernel or task, by the handler that it runs, or by HX_DBGCTL (R69, R305). -/
def State.checking (s : State) (b : Block) (w : Warp) (r : Run) : Bool := b.decl.check || (runEntry b w r).check || (s.vf b.vf).dbgctl.getLsbD 0

/-- What stands between a latched run and its word's effect. -/
inductive Gate where
  /-- No latched run (assumption 11), or the word waits where it is. -/
  | stay
  | trap (r : WarpRef) (pc : DWord) (run : Mask) (w : Warp) (t : Trap)
  /-- The word has its effect, on the state in which the run has moved on. -/
  | go (c : Ctx) (s : State)

/-- The checks of R74, the waits (R17) and the guard (R53) of a word, for the latched run. A word of decoder 1 that reads a scalar which the
word of decoder 0 writes waits for it: R20 has decoder 0's word complete first, so the write counts as issued earlier (R99; assumption
65). -/
def gate (i : Instr) (s : State) : Gate :=
  match s.issue with
  | none => .stay
  | some l =>
    match s.block? l.ref.blk, s.warp? l.ref with
    | some b, some w0 =>
      match w0.runs.find? fun r => r.lanes == l.d0 && r.wait.isNone with
      | none => .stay
      | some r =>
        let w := w0.landDue s.clock
        let trap : Trap → Gate := fun t => .trap l.ref r.pc r.lanes w t
        let us := i.laneUses w (b.width == 64) r.lanes
        let act := activeLanes i w r.lanes
        let all := act ||| w.helpersOf act
        let cyc := b.cycles
        match wordTrap s b i with
        | some t => trap t
        | none =>
          if scoreWait w i.isMatrix us then .stay
          else match if s.checking b w r then stallCheck w (checkedUses i us) (i.latency.map fun k => s.clock + cyc + k) else none with
          | some t => trap t
          | none =>
            match poisCheck w (readBy i w b.width act us) with
            | some t => trap t
            | none =>
              if w.trap.isSome && instrSpdep i && act != 0 then trap { cause := causeSpdep, info := BitVec.ofNat 32 (opOf i) }
              else if ownWait (s.setWarp l.ref w) b w l.ref i act all (r.samples == some []) then .stay
              else
                let w1 := w.setRun r.lanes fun x => x.advance s.clock cyc (stallOf i) (yieldOf i)
                .go { ref := l.ref, blk := b, w := w, run := r, act := act, all := all, land := s.clock + cyc + (i.latency.getD 0),
                      nextAt := s.clock + cyc + stallOf i } ((s.setWarp l.ref w1).beforeAccess l.ref i act)
    | _, _ => .stay

/-- A word traps: its warp takes the trap before any effect, with the lanes the cause gives (R307). -/
def State.trapWord (s : State) (r : WarpRef) (pc : DWord) (run : Mask) (w : Warp) (t : Trap) : State :=
  ((s.setWarp r w).takeTrapFree r pc (t.mask.getD run) t).endStep r run

/-- Issue a word from the latched run: what stands before its effect, then the word's own effect `body`. -/
def issue (i : Instr) (s : State) (body : Ctx → State → Res) : Out :=
  match gate i s with
  | .stay => .next s
  | .trap r pc run w t => .next (s.trapWord r pc run w t)
  | .go c s1 =>
    match body c s1 with
    | .ok s' => .next (s'.endStep c.ref c.run.lanes)
    | .trap t => .next (s.trapWord c.ref c.run.pc c.run.lanes c.w t)
    | .hold s' => .next s'

/-- Queue fixed-latency results (R67). -/
def Ctx.fixed (c : Ctx) (s : State) (ws : List (RegId × Word)) : State :=
  s.mapWarp c.ref fun w => { w with pend := ws.foldl (fun p x => addPend p { reg := x.1, val := x.2, due := c.land }) w.pend }
/-- Queue a scoreboarded result (R68). -/
def Ctx.late (c : Ctx) (s : State) (kind : LateKind) (rods : Word) (ws : List (RegId × Word)) : State :=
  if ws.isEmpty then s
  else ({ s with nextId := s.nextId + 1 } : State).mapWarp c.ref fun w => { w with late := w.late ++ [{ id := s.nextId, kind := kind, writes := ws, rods := rods }] }
/-- The active lanes, helpers included, and the participants (R125), in ascending order. -/
def Ctx.lanes (c : Ctx) : List Nat := c.all.lanes 64
def Ctx.live (c : Ctx) : List Nat := c.act.lanes 64
/-- A `b(s)` operand of a lane (R98). -/
def bval (w : Warp) (b : BSrc) (l : Nat) : Word :=
  match b with
  | .v r => w.rv l r.toNat
  | .s r => w.rs r.toNat
def bval64 (w : Warp) (b : BSrc) (l : Nat) : DWord :=
  match b with
  | .v r => w.rv64 l r.toNat
  | .s r => w.rs64 r.toNat
/-- A result per active lane, written to a vector register (R19). -/
def perLane (i : Instr) (s : State) (d : BitVec 10) (f : Warp → Nat → Word) : Out :=
  issue i s fun c s => .ok (c.fixed s (c.lanes.map fun l => (.v l d.toNat, f c.w l)))
/-- A 64-bit result per active lane. -/
def perLane64 (i : Instr) (s : State) (d : BitVec 10) (f : Warp → Nat → DWord) : Out :=
  issue i s fun c s => .ok (c.fixed s (c.lanes.flatMap fun l => [(.v l d.toNat, loWord (f c.w l)), (.v l (d.toNat + 1), hiWord (f c.w l))]))
/-- A predicate per active lane. -/
def perLaneP (i : Instr) (s : State) (pd : Nat) (f : Warp → Nat → Bool) : Out :=
  issue i s fun c s => .ok (c.fixed s (c.lanes.map fun l => (.p l pd, if f c.w l then 1 else 0)))

end Sys2Proof.Machine
end

