-- ==== Sys2Proof/Machine/Flags.lean ====
section
/-!
DEFINITION. Every flag computation: compares and combining (R105, R113), the exceptions of floating-point instructions and
their trap (R85, R115), and the results they deliver.
-/
namespace Sys2Proof.Machine

/-- The relation of a compare, given "less" and "equal" of its operands. -/
def relOf (c : Cmp) (lt eq : Bool) : Bool :=
  match c with
  | .eq => eq
  | .ne => !eq
  | .lt => lt
  | .le => lt || eq
  | .gt => !(lt || eq)
  | .ge => !lt

/-- ISETP, ISETPI and SSETP compare two 32-bit integers (R105). -/
def intCmp (c : Cmp) (sg : Sign) (a b : Word) : Bool :=
  match sg with
  | .s => relOf c (decide (a.toInt < b.toInt)) (a == b)
  | .u => relOf c (decide (a.toNat < b.toNat)) (a == b)

/-- A compare of two codes of a floating-point format (R113), with its exceptions. -/
def floatCmp (F : Fmt) (c : Cmp) (un ftz : Bool) (x y : Nat) : Bool × Flags :=
  let a := F.operand ftz x
  let b := F.operand ftz y
  (if a.1.isNan || b.1.isNan then un || c == .ne else relOf c (a.1.lt b.1) (!a.1.lt b.1 && !b.1.lt a.1), a.2 ||| b.2)

/-- Combine a compare's result with the combining predicate (R105). -/
def combine (c : Comb) (t p : Bool) : Bool :=
  match c with
  | .none => t
  | .and => t && p
  | .or => t || p
  | .andn => t && !p

/-- A predicate as the word a pending write holds. -/
def predWord (b : Bool) : Word := if b then 1 else 0

/-- The exceptions raised in any participant (R100: those of helper lanes are discarded). -/
def raisedIn (ls : List Nat) (f : Nat → Flags) : Flags := ls.foldl (fun a l => a ||| f l) 0

/-- FPX, when an exception that HX_FPXCTL enables is raised (R85, Tables 5-5 and 5-6). -/
def fpxTrap (ctl : Word) (raised : Flags) : Option Trap :=
  let cause := raised &&& ctl.setWidth 5
  if cause == 0 then none else some { cause := causeFpx, info := BitVec.ofNat 32 (32 * raised.toNat + cause.toNat) }

/-- Issue a floating-point instruction: its writes and its exceptions, by lane. Nothing is written where FPX traps. -/
def perLaneF (i : Instr) (s : State) (f : Warp → Nat → List (RegId × Word) × Flags) : Out :=
  issue i s fun c s =>
    match fpxTrap (s.vf c.blk.vf).fpxctl (raisedIn c.live fun l => (f c.w l).2) with
    | some t => .trap t
    | none => .ok (c.fixed s (c.lanes.flatMap fun l => (f c.w l).1))

/-- One 32-bit result of a floating-point instruction. -/
def write32 (d l : Nat) (x : Nat × Flags) : List (RegId × Word) × Flags := ([(.v l d, BitVec.ofNat 32 x.1)], x.2)
/-- One 64-bit result. -/
def write64 (d l : Nat) (x : Nat × Flags) : List (RegId × Word) × Flags :=
  ([(.v l d, BitVec.ofNat 32 x.1), (.v l (d + 1), BitVec.ofNat 32 (x.1 / 2 ^ 32))], x.2)
/-- Half `i` of a register (R97). -/
def half (x : Word) (i : Nat) : Nat := x.toNat / 2 ^ (16 * i) % 2 ^ 16
/-- Two 16-bit results in one register (R116): an exception of either half is one of the lane. -/
def both (f : Nat → Nat × Flags) : Nat × Flags := ((f 0).1 + 2 ^ 16 * (f 1).1, (f 0).2 ||| (f 1).2)

end Sys2Proof.Machine
end

