-- ==== Sys2Proof/Machine/Integer.lean ====
section
/-!
DEFINITION. Integer arithmetic (R101, Table 7-1), logic, bit fields and bytes (R103, R104, Table 7-2), compare, select
and address (R105, R106), moves and special registers (R107, R108, Table 7-3) and the scalar instructions (R109, R110).
-/
namespace Sys2Proof.Machine

/-- ext of R97: a word as a signed or unsigned integer. -/
def extInt (sg : Sign) (x : Word) : Int :=
  match sg with
  | .s => x.toInt
  | .u => (x.toNat : Int)
/-- A shift count: b[4:0] (R101). -/
def count5 (b : Word) : Nat := b.toNat % 32
/-- A sign-extended 26-bit immediate. -/
def imm26 (x : BitVec 26) : Word := x.signExtend 32
/-- The high word of a product of two words (IMULH). -/
def mulHigh (sg : Sign) (a b : Word) : Word := BitVec.ofInt 32 (extInt sg a * extInt sg b / 2 ^ 32)
/-- A widening product and sum (IMADW). -/
def mulWide (sg : Sign) (a b : Word) (c : DWord) : DWord := BitVec.ofInt 64 (extInt sg a * extInt sg b) + c
def iminOf (sg : Sign) (a b : Word) : Word := if extInt sg a ≤ extInt sg b then a else b
def imaxOf (sg : Sign) (a b : Word) : Word := if extInt sg b ≤ extInt sg a then a else b
def iabsOf (a : Word) : Word := if a.msb then -a else a
/-- Byte `i` of a word as an integer. -/
def byteInt (sg : Sign) (x : Word) (i : Nat) : Int :=
  match sg with
  | .s => (x.extractLsb' (8 * i) 8).toInt
  | .u => ((x.extractLsb' (8 * i) 8).toNat : Int)
/-- IDOT4. -/
def dot4 (sa sb : Sign) (sat : Bool) (a b c : Word) : Word :=
  let t := (List.range 4).foldl (fun t i => t + byteInt sa a i * byteInt sb b i) c.toInt
  if sat then BitVec.ofInt 32 (max (-(2 ^ 31)) (min (2 ^ 31 - 1) t)) else BitVec.ofInt 32 t
/-- Bit `i` of a three-input truth table (R103). -/
def lop3Of (tt : BitVec 8) (a b c : Word) : Word :=
  (List.range 32).foldl (fun (d : Word) i =>
    if tt.getLsbD ((if a.getLsbD i then 4 else 0) + (if b.getLsbD i then 2 else 0) + if c.getLsbD i then 1 else 0) then d ||| (1 <<< i) else d) 0
/-- The bit range that BFX and BFI read from b: its low bit and its width, 0 where it is empty (R103). -/
def fieldLo (b : Word) : Nat := b.toNat % 32
def fieldLen (b : Word) : Nat := b.toNat / 2 ^ 8 % 32 + 1 - fieldLo b
def bfxOf (sg : Sign) (a b : Word) : Word :=
  let w := fieldLen b
  let x := a >>> fieldLo b
  if w == 0 then 0
  else match sg with
    | .u => x &&& BitVec.ofNat 32 (2 ^ w - 1)
    | .s => (x <<< (32 - w)).sshiftRight (32 - w)
def bfiOf (a b c : Word) : Word :=
  let m : Word := BitVec.ofNat 32 (2 ^ fieldLen b - 1) <<< fieldLo b
  (c &&& ~~~m) ||| ((a <<< fieldLo b) &&& m)
def brevOf (a : Word) : Word := (List.range 32).foldl (fun (d : Word) i => if a.getLsbD (31 - i) then d ||| (1 <<< i) else d) 0
def popcOf (a : Word) : Word := BitVec.ofNat 32 ((List.range 32).filter fun i => a.getLsbD i).length
def clzOf (a : Word) : Word := BitVec.ofNat 32 (((List.range 32).find? fun i => a.getLsbD (31 - i)).getD 32)
def ctzOf (a : Word) : Word := BitVec.ofNat 32 (((List.range 32).find? fun i => a.getLsbD i).getD 32)
/-- PRMT (R104). -/
def prmtByte (a b c : Word) (i : Nat) : Nat :=
  let k := c.toNat / 2 ^ (8 * i) % 256
  let y := (a.toNat + 2 ^ 32 * b.toNat) / 2 ^ (8 * (k % 8)) % 256
  if k / 8 % 4 == 0 then y else if k / 8 % 4 == 1 then 0 else if k / 8 % 4 == 2 then (if 128 ≤ y then 255 else 0) else 255
def prmtOf (a b c : Word) : Word :=
  BitVec.ofNat 32 (prmtByte a b c 0 + 2 ^ 8 * prmtByte a b c 1 + 2 ^ 16 * prmtByte a b c 2 + 2 ^ 24 * prmtByte a b c 3)

/-! ### Integer arithmetic -/

def execIadd (h : Hdr) (d a : BitVec 10) (b : BSrc) (s : State) : Out :=
  perLane (.iadd h d a b) s d fun w l => w.rv l a.toNat + bval w b l
def execIsub (h : Hdr) (d a : BitVec 10) (b : BSrc) (s : State) : Out :=
  perLane (.isub h d a b) s d fun w l => w.rv l a.toNat - bval w b l
def execIadd3 (h : Hdr) (d a : BitVec 10) (b : BSrc) (c : BitVec 10) (s : State) : Out :=
  perLane (.iadd3 h d a b c) s d fun w l => w.rv l a.toNat + bval w b l + w.rv l c.toNat
def execImul (h : Hdr) (d a : BitVec 10) (b : BSrc) (s : State) : Out :=
  perLane (.imul h d a b) s d fun w l => w.rv l a.toNat * bval w b l
def execImulh (h : Hdr) (sg : Sign) (d a : BitVec 10) (b : BSrc) (s : State) : Out :=
  perLane (.imulh h sg d a b) s d fun w l => mulHigh sg (w.rv l a.toNat) (bval w b l)
def execImad (h : Hdr) (d a : BitVec 10) (b : BSrc) (c : BitVec 10) (s : State) : Out :=
  perLane (.imad h d a b c) s d fun w l => w.rv l a.toNat * bval w b l + w.rv l c.toNat
def execImadw (h : Hdr) (sg : Sign) (d a : BitVec 10) (b : BSrc) (c : BitVec 10) (s : State) : Out :=
  perLane64 (.imadw h sg d a b c) s d fun w l => mulWide sg (w.rv l a.toNat) (bval w b l) (w.rv64 l c.toNat)
def execImin (h : Hdr) (sg : Sign) (d a : BitVec 10) (b : BSrc) (s : State) : Out :=
  perLane (.imin h sg d a b) s d fun w l => iminOf sg (w.rv l a.toNat) (bval w b l)
def execImax (h : Hdr) (sg : Sign) (d a : BitVec 10) (b : BSrc) (s : State) : Out :=
  perLane (.imax h sg d a b) s d fun w l => imaxOf sg (w.rv l a.toNat) (bval w b l)
def execIabs (h : Hdr) (d a : BitVec 10) (s : State) : Out :=
  perLane (.iabs h d a) s d fun w l => iabsOf (w.rv l a.toNat)
def execIneg (h : Hdr) (d a : BitVec 10) (s : State) : Out :=
  perLane (.ineg h d a) s d fun w l => -(w.rv l a.toNat)
def execIshl (h : Hdr) (d a : BitVec 10) (b : BSrc) (s : State) : Out :=
  perLane (.ishl h d a b) s d fun w l => w.rv l a.toNat <<< count5 (bval w b l)
def execIshr (h : Hdr) (d a : BitVec 10) (b : BSrc) (s : State) : Out :=
  perLane (.ishr h d a b) s d fun w l => w.rv l a.toNat >>> count5 (bval w b l)
def execIshra (h : Hdr) (d a : BitVec 10) (b : BSrc) (s : State) : Out :=
  perLane (.ishra h d a b) s d fun w l => (w.rv l a.toNat).sshiftRight (count5 (bval w b l))
def execIrot (h : Hdr) (d a : BitVec 10) (b : BSrc) (s : State) : Out :=
  perLane (.irot h d a b) s d fun w l => (w.rv l a.toNat).rotateLeft (count5 (bval w b l))
def execIdot4 (h : Hdr) (sa sb : Sign) (sat : Bool) (d a : BitVec 10) (b : BSrc) (c : BitVec 10) (s : State) : Out :=
  perLane (.idot4 h sa sb sat d a b c) s d fun w l => dot4 sa sb sat (w.rv l a.toNat) (bval w b l) (w.rv l c.toNat)
def execIaddi (h : Hdr) (d a : BitVec 10) (imm : BitVec 26) (s : State) : Out :=
  perLane (.iaddi h d a imm) s d fun w l => w.rv l a.toNat + imm26 imm
def execImuli (h : Hdr) (d a : BitVec 10) (imm : BitVec 26) (s : State) : Out :=
  perLane (.imuli h d a imm) s d fun w l => w.rv l a.toNat * imm26 imm

/-! ### Logic, bit fields, bytes -/

def execLop3 (h : Hdr) (d a b : BitVec 10) (c : BitVec 8) (tt : BitVec 8) (s : State) : Out :=
  perLane (.lop3 h d a b c tt) s d fun w l => lop3Of tt (w.rv l a.toNat) (w.rv l b.toNat) (w.rv l c.toNat)
def execBfx (h : Hdr) (sg : Sign) (d a : BitVec 10) (b : BSrc) (s : State) : Out :=
  perLane (.bfx h sg d a b) s d fun w l => bfxOf sg (w.rv l a.toNat) (bval w b l)
def execBfi (h : Hdr) (d a : BitVec 10) (b : BSrc) (c : BitVec 10) (s : State) : Out :=
  perLane (.bfi h d a b c) s d fun w l => bfiOf (w.rv l a.toNat) (bval w b l) (w.rv l c.toNat)
def execBrev (h : Hdr) (d a : BitVec 10) (s : State) : Out := perLane (.brev h d a) s d fun w l => brevOf (w.rv l a.toNat)
def execPopc (h : Hdr) (d a : BitVec 10) (s : State) : Out := perLane (.popc h d a) s d fun w l => popcOf (w.rv l a.toNat)
def execClz (h : Hdr) (d a : BitVec 10) (s : State) : Out := perLane (.clz h d a) s d fun w l => clzOf (w.rv l a.toNat)
def execCtz (h : Hdr) (d a : BitVec 10) (s : State) : Out := perLane (.ctz h d a) s d fun w l => ctzOf (w.rv l a.toNat)
def execPrmt (h : Hdr) (d a : BitVec 10) (b : BSrc) (c : BitVec 10) (s : State) : Out :=
  perLane (.prmt h d a b c) s d fun w l => prmtOf (w.rv l a.toNat) (bval w b l) (w.rv l c.toNat)

/-! ### Compare, select, address -/

def execIsetp (h : Hdr) (cmp : Cmp) (sg : Sign) (comb : Comb) (pd : BitVec 3) (a : BitVec 10) (b : BSrc) (pc : BitVec 3) (s : State) : Out :=
  perLaneP (.isetp h cmp sg comb pd a b pc) s pd.toNat fun w l =>
    combine comb (intCmp cmp sg (w.rv l a.toNat) (bval w b l)) (w.rp l pc.toNat)
def execIsetpi (h : Hdr) (cmp : Cmp) (sg : Sign) (pd : BitVec 3) (a : BitVec 10) (imm : BitVec 26) (s : State) : Out :=
  perLaneP (.isetpi h cmp sg pd a imm) s pd.toNat fun w l => intCmp cmp sg (w.rv l a.toNat) (imm26 imm)
def execIsel (h : Hdr) (d a : BitVec 10) (b : BSrc) (pc : BitVec 3) (s : State) : Out :=
  perLane (.isel h d a b pc) s d fun w l => if w.rp l pc.toNat then w.rv l a.toNat else bval w b l
/-- LEA: `.w32` writes one register, `.w64` a pair. -/
def execLea (h : Hdr) (w64 : Bool) (sh : BitVec 3) (d a : BitVec 10) (b : BSrc) (s : State) : Out :=
  if w64 then perLane64 (.lea h w64 sh d a b) s d fun w l => w.rv64 l a.toNat + ((bval w b l).setWidth 64 <<< sh.toNat)
  else perLane (.lea h w64 sh d a b) s d fun w l => w.rv l a.toNat + (bval w b l <<< sh.toNat)

/-! ### Moves and special registers -/

/-- Scratchpad address bits [35:0] (R28). -/
def addr36 (x : DWord) : DWord := (x.setWidth 36).setWidth 64
/-- Tile coordinates, innermost first (R28). -/
def coordOf (b : Block) (k : Nat) : DWord := BitVec.ofNat 64 ((b.coords.reverse[k]?).getD 0)
/-- A special register as a lane reads it (Table 1-4). -/
def special (s : State) (b : Block) (n : Nat) (w : Warp) (idx l : Nat) : DWord :=
  let v := s.vf b.vf
  let nat : Nat → DWord := fun x => BitVec.ofNat 64 x
  if idx == 0x00 then nat l
  else if idx == 0x01 then nat (l / 4)
  else if idx == 0x02 then nat n
  else if idx == 0x03 then nat b.decl.warps
  else if idx == 0x04 then nat b.width
  else if idx == 0x05 then nat (n / b.decl.team)
  else if idx == 0x08 then coordOf b 0
  else if idx == 0x09 then coordOf b 1
  else if idx == 0x0A then coordOf b 2
  else if idx == 0x0B then coordOf b 3
  else if idx == 0x0C then nat b.tile
  else if idx == 0x0D then nat b.tcnt
  else if idx == 0x10 then nat (b.core % 4)
  else if idx == 0x11 then nat (v.cluNum b.clu)
  else if idx == 0x12 then nat (v.dieNum b.die)
  else if idx == 0x13 then nat b.launch
  else if idx == 0x14 then nat b.vf
  else if idx == 0x18 then nat s.clock
  else if idx == 0x19 then nat s.time
  else if idx == 0x20 then addr36 b.tbase
  else if 0x21 ≤ idx && idx ≤ 0x28 then addr36 ((b.obase[idx - 0x21]?).getD 0)
  else if idx == 0x29 then addr36 b.sbase
  else if idx == 0x30 then (w.sp1 l).setWidth 64
  else if idx == 0x31 then nat b.decl.stack
  else if idx == 0x38 then b.cstat.setWidth 64
  else if idx == 0x3B then w.trec.infx.setWidth 64
  else if idx == 0x3C then w.trec.cause.setWidth 64
  else if idx == 0x3D then w.trec.pc
  else if idx == 0x3E then w.trec.mask
  else if idx == 0x3F then w.trec.info.setWidth 64
  else 0

def execMov (h : Hdr) (d a : BitVec 10) (s : State) : Out := perLane (.mov h d a) s d fun w l => w.rv l a.toNat
def execMovi (h : Hdr) (d : BitVec 10) (imm : BitVec 26) (s : State) : Out := perLane (.movi h d imm) s d fun _ _ => imm26 imm
def execMovh (h : Hdr) (d : BitVec 10) (imm : BitVec 16) (s : State) : Out :=
  perLane (.movh h d imm) s d fun w l => imm ++ (w.rv l d.toNat).setWidth 16
def execMovs (h : Hdr) (d : BitVec 10) (sr : BitVec 7) (s : State) : Out := perLane (.movs h d sr) s d fun w _ => w.rs sr.toNat
/-- VRD: %clock and %time are sampled once per issue (R108). -/
def execVrd (h : Hdr) (d : BitVec 10) (idx : BitVec 6) (s : State) : Out :=
  issue (.vrd h d idx) s fun c s =>
    .ok (c.fixed s (c.lanes.flatMap fun l =>
      let x := special s c.blk c.ref.num c.w idx.toNat l
      (RegId.v l d.toNat, loWord x) :: if specialWide idx then [(RegId.v l (d.toNat + 1), hiWord x)] else []))
/-- SRD: nothing is written without an active lane (R108). -/
def execSrd (h : Hdr) (d : BitVec 7) (idx : BitVec 6) (s : State) : Out :=
  issue (.srd h d idx) s fun c s =>
    let x := special s c.blk c.ref.num c.w idx.toNat 0
    .ok (if c.act == 0 then s else
      c.fixed s ((RegId.s d.toNat, loWord x) :: if specialWide idx then [(RegId.s (d.toNat + 1), hiWord x)] else []))
/-- VTOS: the value of the lowest-numbered active live lane (R108). -/
def execVtos (h : Hdr) (d : BitVec 7) (a : BitVec 10) (s : State) : Out :=
  issue (.vtos h d a) s fun c s =>
    .ok (match c.live with
      | [] => s
      | l :: _ => c.fixed s [(.s d.toNat, c.w.rv l a.toNat)])

/-! ### Scalar instructions -/

/-- A scalar instruction is performed once by an issue of any run (R109). -/
def scalarOp (i : Instr) (s : State) (d : BitVec 7) (f : Warp → Word) : Out :=
  issue i s fun c s => .ok (c.fixed s [(.s d.toNat, f c.w)])

def execSadd (h : Hdr) (d a b : BitVec 7) (s : State) : Out := scalarOp (.sadd h d a b) s d fun w => w.rs a.toNat + w.rs b.toNat
def execSsub (h : Hdr) (d a b : BitVec 7) (s : State) : Out := scalarOp (.ssub h d a b) s d fun w => w.rs a.toNat - w.rs b.toNat
def execSmul (h : Hdr) (d a b : BitVec 7) (s : State) : Out := scalarOp (.smul h d a b) s d fun w => w.rs a.toNat * w.rs b.toNat
def execSlop3 (h : Hdr) (d a b c : BitVec 7) (tt : BitVec 8) (s : State) : Out :=
  scalarOp (.slop3 h d a b c tt) s d fun w => lop3Of tt (w.rs a.toNat) (w.rs b.toNat) (w.rs c.toNat)
def execSshl (h : Hdr) (d a b : BitVec 7) (s : State) : Out :=
  scalarOp (.sshl h d a b) s d fun w => w.rs a.toNat <<< count5 (w.rs b.toNat)
/-- SSHR: `.s` arithmetic, `.u` logical (R109). -/
def execSshr (h : Hdr) (sg : Sign) (d a b : BitVec 7) (s : State) : Out :=
  scalarOp (.sshr h sg d a b) s d fun w => match sg with
    | .s => (w.rs a.toNat).sshiftRight (count5 (w.rs b.toNat))
    | .u => w.rs a.toNat >>> count5 (w.rs b.toNat)
/-- SSETP writes every live and helper lane of the warp (R110). -/
def execSsetp (h : Hdr) (cmp : Cmp) (sg : Sign) (comb : Comb) (pd : BitVec 3) (a b : BitVec 7) (pc : BitVec 3) (s : State) : Out :=
  issue (.ssetp h cmp sg comb pd a b pc) s fun c s =>
    let t := intCmp cmp sg (c.w.rs a.toNat) (c.w.rs b.toNat)
    .ok (c.fixed s (((c.w.live ||| c.w.helpers).lanes 64).map fun l => (.p l pd.toNat, predWord (combine comb t (c.w.rp l pc.toNat)))))
def execSmovi (h : Hdr) (d : BitVec 7) (imm : BitVec 26) (s : State) : Out := scalarOp (.smovi h d imm) s d fun _ => imm26 imm
def execSmovh (h : Hdr) (d : BitVec 7) (imm : BitVec 16) (s : State) : Out :=
  scalarOp (.smovh h d imm) s d fun w => imm ++ (w.rs d.toNat).setWidth 16

end Sys2Proof.Machine
end

