-- ==== Sys2Proof/Machine/Special.lean ====
section
/-!
DEFINITION. Special functions (R121, Table 7-9): the exact result in fixed point, and a result within the largest error of the table.
-/
namespace Sys2Proof.Machine

/-! ### Fixed point -/

/-- Fraction bits: enough for an argument of 2¹²⁸ reduced by π. -/
def fxBits : Nat := 640
def fxOne : Nat := 2 ^ fxBits
def fxMul (a b : Nat) : Nat := a * b / fxOne
/-- m × 2^e in fixed point. -/
def fxOf (m : Nat) (e : Int) : Nat := if 0 ≤ e + fxBits then m * 2 ^ (e + fxBits).toNat else m / 2 ^ (-(e + fxBits)).toNat
/-- Integer square root by bits: the largest r with r² ≤ n, below 2^k. -/
def isqrt (n : Nat) : Nat → Nat → Nat
  | 0, r => r
  | k + 1, r => if (r + 2 ^ k) * (r + 2 ^ k) ≤ n then isqrt n k (r + 2 ^ k) else isqrt n k r
/-- The sum of the next `n` terms of a series: `next k t` gives term k + 1 from term k. -/
def fxSum (next : Nat → Nat → Nat) : Nat → Nat → Nat → Nat
  | 0, _, _ => 0
  | n + 1, k, t => t + fxSum next n (k + 1) (next k t)
/-- The difference of the even and the odd ones of the next `n` terms. -/
def fxAlternate (next : Nat → Nat → Nat) (n t : Nat) : Nat :=
  fxSum (fun k x => next (2 * k + 1) (next (2 * k) x)) n 0 t - fxSum (fun k x => next (2 * k + 2) (next (2 * k + 1) x)) n 0 (next 0 t)
/-- ln 2 = Σ 1 / (k × 2^k). -/
def fxLn2 : Nat := fxSum (fun k _ => fxOne / ((k + 2) * 2 ^ (k + 2))) 700 0 (fxOne / 2)
/-- arctan (1 / n). -/
def fxAtanInv (n : Nat) : Nat :=
  let term := fun (k : Nat) => fxOne / ((2 * k + 1) * n ^ (2 * k + 1))
  fxAlternate (fun k _ => term (k + 1)) 150 (term 0)
/-- π by Machin's formula. -/
def fxPi : Nat := 16 * fxAtanInv 5 - 4 * fxAtanInv 239
/-- e^z for z below 2. -/
def fxExp1 (z : Nat) : Nat := fxSum (fun k t => fxMul t z / (k + 1)) 170 0 fxOne
/-- Σ t^(2j + 1) / (2j + 1): the next `n` terms, from a power of t. -/
def fxArtanh (t : Nat) : Nat → Nat → Nat → Nat
  | 0, _, _ => 0
  | n + 1, k, p => p / (2 * k + 1) + fxArtanh t n (k + 1) (fxMul p (fxMul t t))
/-- A value squared `n` times over. -/
def fxSquares : Nat → Nat → Nat
  | 0, x => x
  | n + 1, x => fxSquares n (fxMul x x)
/-- e^z for z below 128. -/
def fxExp (z : Nat) : Nat := fxSquares 7 (fxExp1 (z / 128))
/-- Sine and cosine of an angle below π / 2. -/
def fxSin (r : Nat) : Nat := fxAlternate (fun k t => fxMul t (fxMul r r) / ((2 * k + 2) * (2 * k + 3))) 60 r
def fxCos (r : Nat) : Nat := fxAlternate (fun k t => fxMul t (fxMul r r) / ((2 * k + 1) * (2 * k + 2))) 60 fxOne

/-! ### Exact results -/

/-- A real number ± n × 2^e, known to within 2^-354. -/
structure Approx where
  neg : Bool
  n : Nat
  e : Int
  deriving DecidableEq, Repr
def fxResult (neg : Bool) (n : Nat) : Approx := { neg := neg, n := n, e := -(fxBits : Int) }
/-- 1 / √x: the root of 2^(2 × 500) / x. -/
def rsqOf (m : Nat) (e : Int) : Approx :=
  let odd := e % 2 != 0
  let M := if odd then 2 * m else m
  { neg := false, n := isqrt (2 ^ 1000 / M) 501 0, e := -500 - (if odd then e - 1 else e) / 2 }
/-- 2^x = 2^k × e^(f × ln 2), for x = k + f. -/
def ex2Of (neg : Bool) (m : Nat) (e : Int) : Approx :=
  if neg && Num.lt (.fin false 200 0) (.fin false m e) then fxResult false 0
  else
    let x := fxOf m e
    let k : Int := if neg then -(((x + fxOne - 1) / fxOne : Nat) : Int) else ((x / fxOne : Nat) : Int)
    let f := if neg then (fxOne - x % fxOne) % fxOne else x % fxOne
    { neg := false, n := fxExp1 (fxMul f fxLn2), e := k - fxBits }
/-- log₂ (m × 2^e) = e + k + 2 × artanh (t) / ln 2, for m = 2^k × (1 + t) / (1 − t). -/
def lg2Of (m : Nat) (e : Int) : Approx :=
  let k := m.log2
  let t := (m - 2 ^ k) * fxOne / (m + 2 ^ k)
  let ln := 2 * fxArtanh t 230 0 t
  let y : Int := (e + k) * fxOne + (ln * fxOne / fxLn2 : Nat)
  fxResult (decide (y < 0)) y.natAbs
/-- Quarter turns of an angle, and the rest. -/
def quarters (m : Nat) (e : Int) : Nat × Nat := (fxOf m e / (fxPi / 2), fxOf m e % (fxPi / 2))
def sinOf (neg : Bool) (m : Nat) (e : Int) : Approx :=
  let q := quarters m e
  fxResult (neg != decide (2 ≤ q.1 % 4)) (if q.1 % 2 == 0 then fxSin q.2 else fxCos q.2)
def cosOf (m : Nat) (e : Int) : Approx :=
  let q := quarters m e
  fxResult (q.1 % 4 == 1 || q.1 % 4 == 2) (if q.1 % 2 == 0 then fxCos q.2 else fxSin q.2)
/-- A number below 1 by so little that the codes within an error of it are those within that error of every number nearer to 1. -/
def belowOne : Nat := fxOne - 2 ^ 500
/-- tanh x = (e^(2x) − 1) / (e^(2x) + 1), and from 63 on 1 but for less than 2^-180. -/
def tanhOf (neg : Bool) (m : Nat) (e : Int) : Approx :=
  if Num.lt (.fin false m e) (.fin false 63 0) then
    let E := fxExp (2 * fxOf m e)
    fxResult neg ((E - fxOne) * fxOne / (E + fxOne))
  else fxResult neg belowOne
/-- erf x = 2 / √π × e^(−x²) × Σ 2^k × x^(2k + 1) / (2k + 1)!!, and from 6 on 1 but for less than 2^-54. -/
def erfOf (neg : Bool) (m : Nat) (e : Int) : Approx :=
  if Num.lt (.fin false m e) (.fin false 6 0) then
    let x := fxOf m e
    let y := fxSum (fun k t => fxMul t (2 * fxMul x x) / (2 * k + 3)) 400 0 x
    fxResult neg (2 * y * fxOne / isqrt (fxPi * fxOne) (fxBits + 2) 0 * fxOne / fxExp (fxMul x x))
  else fxResult neg belowOne

/-! ### Within the largest error -/

/-- ± m × 2^e in units of 2^c, for c at or below e. -/
def unitsOf (neg : Bool) (m : Nat) (e c : Int) : Int := if neg then -((m * 2 ^ (e - c).toNat : Nat) : Int) else ((m * 2 ^ (e - c).toNat : Nat) : Int)
/-- The exponent of an ulp of FP32 at a real number. -/
def Approx.ulp (y : Approx) : Int := if y.n == 0 then -149 else max (-149) ((y.n.log2 : Int) + y.e - 23)
/-- The largest error of a function at a result, a number and an exponent (Table 7-9). -/
def Approx.error (y : Approx) (fn : SfuFn) : Nat × Int :=
  match fn with
  | .rsq => (1, y.ulp)
  | .sin | .cos => if decide (y.n == 0) || decide ((y.n.log2 : Int) + y.e < -22) then (1, -24) else (2, y.ulp)
  | _ => (2, y.ulp)
/-- Whether an FP32 code lies within the largest error of a function's exact result, as far as that is known. -/
def Approx.within (y : Approx) (fn : SfuFn) (w : Nat) : Bool :=
  match Fmt.f32.decode w with
  | .fin neg m e =>
    let b := y.error fn
    let c := min (min e y.e) (min b.2 (-149))
    decide ((unitsOf neg m e c - unitsOf y.neg y.n y.e c).natAbs ≤ b.1 * 2 ^ (b.2 - c).toNat + 2 ^ (-354 - c).toNat)
  | _ => false
/-- What the device returns for an exact result: its own choice where that is within the largest error, else the nearest code (assumption 9). -/
def Approx.choose (y : Approx) (fn : SfuFn) (pick : Word) (ftz : Bool) : Nat :=
  if y.within fn pick.toNat then pick.toNat else (Fmt.f32.round .rn ftz false y.neg y.n 1 y.e).1

/-! ### The instruction's result -/

/-- A result flushed under `.ftz`. -/
def flushF32 (ftz : Bool) (x : Nat) : Nat := if ftz && decide (x % 2 ^ 31 < 2 ^ 23) then x / 2 ^ 31 * 2 ^ 31 else x
/-- A special function of an FP32 code: `.rcp` and `.sqrt` correctly rounded, the special inputs of Table 7-9, and elsewhere a value within the
table's largest error (assumption 9). -/
def sfuResult (fn : SfuFn) (ftz : Bool) (x : Word) : Word :=
  let F := Fmt.f32
  let v := (F.operand ftz x.toNat).1
  let code := fun (n : Nat) => BitVec.ofNat 32 (flushF32 ftz n)
  let sgn := fun (n : Bool) => if n then 2 ^ 31 else 0
  let near := fun (y : Approx) => code (y.choose fn (Config.sfu fn (code x.toNat)) ftz)
  let neg := fun (n : Bool) (m : Nat) => n && m != 0
  match fn, v with
  | _, .nan _ => code F.nan
  | .rcp, .inf n => code (sgn n)
  | .rcp, .fin n m e => if m == 0 then code (sgn n + F.infCode) else code (F.round .rn ftz false n 1 m (-e)).1
  | .rsq, .inf n => code (if n then F.nan else 0)
  | .rsq, .fin n m e => if neg n m then code F.nan else if m == 0 then code (sgn n + F.infCode) else near (rsqOf m e)
  | .sqrt, .inf n => code (if n then F.nan else F.infCode)
  | .sqrt, .fin n m e =>
    if neg n m then code F.nan
    else if m == 0 then code (sgn n)
    else
      let odd := e % 2 != 0
      let M := (if odd then 2 * m else m) * 2 ^ 60
      let e' := (if odd then e - 1 else e) / 2 - 30
      let r := isqrt M 48 0
      code (F.round .rn ftz false false (2 * r + (if r * r == M then 0 else 1)) 1 (e' - 1)).1
  | .ex2, .inf n => code (if n then 0 else F.infCode)
  | .ex2, .fin n m e => if !n && !Num.lt (.fin n m e) (.fin false 128 0) then code F.infCode else near (ex2Of n m e)
  | .lg2, .inf n => code (if n then F.nan else F.infCode)
  | .lg2, .fin n m e => if neg n m then code F.nan else if m == 0 then code (2 ^ 31 + F.infCode) else near (lg2Of m e)
  | .sin, .inf _ => code F.nan
  | .cos, .inf _ => code F.nan
  | .tanh, .inf n => code (sgn n + 0x3F800000)
  | .erf, .inf n => code (sgn n + 0x3F800000)
  | .sin, .fin n m e => near (sinOf n m e)
  | .cos, .fin _ m e => near (cosOf m e)
  | .tanh, .fin n m e => near (tanhOf n m e)
  | .erf, .fin n m e => near (erfOf n m e)

end Sys2Proof.Machine
end

