-- ==== Sys2Proof/Machine/Float.lean ====
section
/-!
DEFINITION. FP32 and FP64 instructions (R111 to R115, Table 7-5), packed 16-bit (R116, Table 7-7), conversion and
quantisation (R117 to R120), and the special-function queues (R121 to R124).
-/
namespace Sys2Proof.Machine

/-- A 32-bit operand as a code. -/
def n32 (w : Warp) (l : Nat) (r : BitVec 10) : Nat := (w.rv l r.toNat).toNat
/-- A 64-bit operand as a code. -/
def n64 (w : Warp) (l : Nat) (r : BitVec 10) : Nat := (w.rv64 l r.toNat).toNat
def b32 (w : Warp) (l : Nat) (b : BSrc) : Nat := (bval w b l).toNat
def b64 (w : Warp) (l : Nat) (b : BSrc) : Nat := (bval64 w b l).toNat
/-- A predicate result with its exceptions. -/
def writeP (pd l : Nat) (x : Bool × Flags) (f : Bool → Bool) : List (RegId × Word) × Flags := ([(.p l pd, predWord (f x.1))], x.2)

/-! ### FP32 -/

def execFadd (h : Hdr) (r : Rnd) (z : Bool) (d a : BitVec 10) (b : BSrc) (s : State) : Out :=
  perLaneF (.fadd h r z d a b) s fun w l => write32 d.toNat l (Fmt.f32.fadd r z (n32 w l a) (b32 w l b))
def execFsub (h : Hdr) (r : Rnd) (z : Bool) (d a : BitVec 10) (b : BSrc) (s : State) : Out :=
  perLaneF (.fsub h r z d a b) s fun w l => write32 d.toNat l (Fmt.f32.fsub r z (n32 w l a) (b32 w l b))
def execFmul (h : Hdr) (r : Rnd) (z : Bool) (d a : BitVec 10) (b : BSrc) (s : State) : Out :=
  perLaneF (.fmul h r z d a b) s fun w l => write32 d.toNat l (Fmt.f32.fmul r z (n32 w l a) (b32 w l b))
def execFfma (h : Hdr) (r : Rnd) (z : Bool) (d a : BitVec 10) (b : BSrc) (c : BitVec 10) (s : State) : Out :=
  perLaneF (.ffma h r z d a b c) s fun w l => write32 d.toNat l (Fmt.f32.ffma r z (n32 w l a) (b32 w l b) (n32 w l c))
def execFmin (h : Hdr) (z : Bool) (d a : BitVec 10) (b : BSrc) (s : State) : Out :=
  perLaneF (.fmin h z d a b) s fun w l => write32 d.toNat l (Fmt.f32.minmax false z (n32 w l a) (b32 w l b))
def execFmax (h : Hdr) (z : Bool) (d a : BitVec 10) (b : BSrc) (s : State) : Out :=
  perLaneF (.fmax h z d a b) s fun w l => write32 d.toNat l (Fmt.f32.minmax true z (n32 w l a) (b32 w l b))
def execFsetp (h : Hdr) (cmp : Cmp) (un : Bool) (comb : Comb) (z : Bool) (pd : BitVec 3) (a : BitVec 10) (b : BSrc) (pc : BitVec 3) (s : State) : Out :=
  perLaneF (.fsetp h cmp un comb z pd a b pc) s fun w l =>
    writeP pd.toNat l (floatCmp Fmt.f32 cmp un z (n32 w l a) (b32 w l b)) fun t => combine comb t (w.rp l pc.toNat)
def execFrnd (h : Hdr) (r : Rnd) (z : Bool) (d a : BitVec 10) (s : State) : Out :=
  perLaneF (.frnd h r z d a) s fun w l => write32 d.toNat l (Fmt.f32.frnd r z (n32 w l a))
/-- FCLASS raises nothing (R114). -/
def execFclass (h : Hdr) (f : ClassFmt) (d a : BitVec 10) (s : State) : Out :=
  perLane (.fclass h f d a) s d fun w l => BitVec.ofNat 32 (match f with
    | .f32 => Fmt.f32.classOf (n32 w l a)
    | .f64 => Fmt.f64.classOf (n64 w l a)
    | .f16 => Fmt.f16.classOf (n32 w l a % 2 ^ 16)
    | .bf16 => Fmt.bf16.classOf (n32 w l a % 2 ^ 16))
/-- FSCALE, in FP32: b is a signed 32-bit integer (R111, Table 7-5). The word has no field that names another width (assumption 82). -/
def execFscale (h : Hdr) (r : Rnd) (z : Bool) (d a : BitVec 10) (b : BSrc) (s : State) : Out :=
  perLaneF (.fscale h r z d a b) s fun w l => write32 d.toNat l (Fmt.f32.fscale r z (n32 w l a) (bval w b l).toInt)

/-! ### FP64 -/

def execDadd (h : Hdr) (r : Rnd) (z : Bool) (d a : BitVec 10) (b : BSrc) (s : State) : Out :=
  perLaneF (.dadd h r z d a b) s fun w l => write64 d.toNat l (Fmt.f64.fadd r z (n64 w l a) (b64 w l b))
def execDsub (h : Hdr) (r : Rnd) (z : Bool) (d a : BitVec 10) (b : BSrc) (s : State) : Out :=
  perLaneF (.dsub h r z d a b) s fun w l => write64 d.toNat l (Fmt.f64.fsub r z (n64 w l a) (b64 w l b))
def execDmul (h : Hdr) (r : Rnd) (z : Bool) (d a : BitVec 10) (b : BSrc) (s : State) : Out :=
  perLaneF (.dmul h r z d a b) s fun w l => write64 d.toNat l (Fmt.f64.fmul r z (n64 w l a) (b64 w l b))
def execDfma (h : Hdr) (r : Rnd) (z : Bool) (d a : BitVec 10) (b : BSrc) (c : BitVec 10) (s : State) : Out :=
  perLaneF (.dfma h r z d a b c) s fun w l => write64 d.toNat l (Fmt.f64.ffma r z (n64 w l a) (b64 w l b) (n64 w l c))
def execDmin (h : Hdr) (z : Bool) (d a : BitVec 10) (b : BSrc) (s : State) : Out :=
  perLaneF (.dmin h z d a b) s fun w l => write64 d.toNat l (Fmt.f64.minmax false z (n64 w l a) (b64 w l b))
def execDmax (h : Hdr) (z : Bool) (d a : BitVec 10) (b : BSrc) (s : State) : Out :=
  perLaneF (.dmax h z d a b) s fun w l => write64 d.toNat l (Fmt.f64.minmax true z (n64 w l a) (b64 w l b))
def execDsetp (h : Hdr) (cmp : Cmp) (un : Bool) (comb : Comb) (z : Bool) (pd : BitVec 3) (a : BitVec 10) (b : BSrc) (pc : BitVec 3) (s : State) : Out :=
  perLaneF (.dsetp h cmp un comb z pd a b pc) s fun w l =>
    writeP pd.toNat l (floatCmp Fmt.f64 cmp un z (n64 w l a) (b64 w l b)) fun t => combine comb t (w.rp l pc.toNat)
def execDrnd (h : Hdr) (r : Rnd) (z : Bool) (d a : BitVec 10) (s : State) : Out :=
  perLaneF (.drnd h r z d a) s fun w l => write64 d.toNat l (Fmt.f64.frnd r z (n64 w l a))

/-! ### Packed 16-bit -/

/-- The packed format (R116). `.ftz` flushes packed BF16 as it does packed FP16: R116 gives the flush group to both, R83 names FP16 only
(assumption 77). -/
def packed (bf : Bool) : Fmt := if bf then .bf16 else .f16

def execHadd2 (h : Hdr) (r : Rnd) (z bf : Bool) (d a : BitVec 10) (b : BSrc) (s : State) : Out :=
  perLaneF (.hadd2 h r z bf d a b) s fun w l =>
    write32 d.toNat l (both fun i => (packed bf).fadd r z (half (w.rv l a.toNat) i) (half (bval w b l) i))
def execHmul2 (h : Hdr) (r : Rnd) (z bf : Bool) (d a : BitVec 10) (b : BSrc) (s : State) : Out :=
  perLaneF (.hmul2 h r z bf d a b) s fun w l =>
    write32 d.toNat l (both fun i => (packed bf).fmul r z (half (w.rv l a.toNat) i) (half (bval w b l) i))
def execHfma2 (h : Hdr) (r : Rnd) (z bf : Bool) (d a : BitVec 10) (b : BSrc) (c : BitVec 10) (s : State) : Out :=
  perLaneF (.hfma2 h r z bf d a b c) s fun w l =>
    write32 d.toNat l (both fun i => (packed bf).ffma r z (half (w.rv l a.toNat) i) (half (bval w b l) i) (half (w.rv l c.toNat) i))
def execHmin2 (h : Hdr) (z bf : Bool) (d a : BitVec 10) (b : BSrc) (s : State) : Out :=
  perLaneF (.hmin2 h z bf d a b) s fun w l =>
    write32 d.toNat l (both fun i => (packed bf).minmax false z (half (w.rv l a.toNat) i) (half (bval w b l) i))
def execHmax2 (h : Hdr) (z bf : Bool) (d a : BitVec 10) (b : BSrc) (s : State) : Out :=
  perLaneF (.hmax2 h z bf d a b) s fun w l =>
    write32 d.toNat l (both fun i => (packed bf).minmax true z (half (w.rv l a.toNat) i) (half (bval w b l) i))
/-- HSETP2 writes p[2n] and p[2n+1] (R116); `pd` is n. -/
def execHsetp2 (h : Hdr) (cmp : Cmp) (un : Bool) (comb : Comb) (z bf : Bool) (pd : BitVec 2) (a : BitVec 10) (b : BSrc) (pc : BitVec 3) (s : State) : Out :=
  perLaneF (.hsetp2 h cmp un comb z bf pd a b pc) s fun w l =>
    let t : Nat → Bool × Flags := fun i => floatCmp (packed bf) cmp un z (half (w.rv l a.toNat) i) (half (bval w b l) i)
    let p := w.rp l pc.toNat
    ([(.p l (2 * pd.toNat), predWord (combine comb (t 0).1 p)), (.p l (2 * pd.toNat + 1), predWord (combine comb (t 1).1 p))], (t 0).2 ||| (t 1).2)

/-! ### Conversion -/

/-- The floating-point format of a code of Table 7-8. -/
def CvtFmt_float (f : CvtFmt) : Option Fmt :=
  match f with
  | .f64 => some .f64 | .f32 => some .f32 | .bf16 => some .bf16 | .f16 => some .f16 | .e4m3 => some .e4m3 | .e5m2 => some .e5m2
  | .e2m1 => some .e2m1
  | _ => none
/-- Bits of a format of Table 7-8, and whether an integer format is signed. -/
def cvtBits (f : CvtFmt) : Nat :=
  match f with
  | .f64 | .i64 | .n64 => 64
  | .f32 | .i32 | .n32 => 32
  | .bf16 | .f16 | .i16 | .n16 => 16
  | .e4m3 | .e5m2 | .i8 | .n8 => 8
  | .e2m1 => 4
def cvtSigned (f : CvtFmt) : Bool :=
  match f with
  | .i32 | .i64 | .i8 | .i16 => true
  | _ => false
/-- The range of an integer format. -/
def intLo (f : CvtFmt) : Int := if cvtSigned f then -(2 ^ (cvtBits f - 1)) else 0
def intHi (f : CvtFmt) : Int := if cvtSigned f then 2 ^ (cvtBits f - 1) - 1 else 2 ^ cvtBits f - 1
/-- The value of a source in an integer format. -/
def intOf (f : CvtFmt) (x : Nat) : Int :=
  let n := cvtBits f
  let y := x % 2 ^ n
  if cvtSigned f && decide (2 ^ (n - 1) ≤ y) then (y : Int) - 2 ^ n else y
/-- An integer result in 32 or 64 bits: narrow results are extended by their sign (R118). -/
def intCode (f : CvtFmt) (t : Int) : Nat := (t % 2 ^ (if cvtBits f == 64 then 64 else 32)).toNat
/-- A conversion (R118). -/
def convert (dst src : CvtFmt) (r : Rnd) (sat : Bool) (x : Nat) : Nat × Flags :=
  let y := x % 2 ^ cvtBits src
  match CvtFmt_float dst, CvtFmt_float src with
  | some D, some S => cvtFloat S D r sat y
  | some D, none => cvtFromInt D r sat (intOf src y)
  | none, some S => let t := cvtToInt S r (intLo dst) (intHi dst) y; (intCode dst t.1, t.2)
  | none, none =>
    let t := intOf src y
    let u := if sat then max (intLo dst) (min (intHi dst) t) else intOf dst ((t % 2 ^ cvtBits dst).toNat)
    (intCode dst u, 0)
/-- One lane of a conversion. -/
def cvtLane (dst src : CvtFmt) (r : Rnd) (sat : Bool) (d a : BitVec 10) (w : Warp) (l : Nat) : List (RegId × Word) × Flags :=
  let x := if cvtBits src == 64 then n64 w l a else n32 w l a
  let y := convert dst src r sat x
  if cvtBits dst == 64 then write64 d.toNat l y else write32 d.toNat l y

def execCvt (h : Hdr) (dst src : CvtFmt) (r : Rnd) (sat : Bool) (d a : BitVec 10) (s : State) : Out :=
  perLaneF (.cvt h dst src r sat d a) s (cvtLane dst src r sat d a)
def execCvti (h : Hdr) (dst src : CvtFmt) (r : Rnd) (sat : Bool) (d a : BitVec 10) (s : State) : Out :=
  perLaneF (.cvti h dst src r sat d a) s (cvtLane dst src r sat d a)

/-! ### Quantisation -/

/-- QSCL (R119). -/
def qsclOf (band sat : Bool) (a b : Word) : Nat × Flags :=
  match Fmt.f32.decode a.toNat with
  | .fin _ m e =>
    if band then
      let x := bandScale (m, e)
      if Fmt.bf16.maxCode < x.1 then (0x7FC0, fIV) else (x.1, if x.2 then 0 else fNX)
    else
      match Fmt.bf16.decode (b.toNat % 2 ^ 16) with
      | .fin neg p _ =>
        if p == 0 then (0, 0)
        else if neg then (0xFF, fIV)
        else
          let x := blockScale (m, e) (b.toNat % 2 ^ 16)
          if 0xFE < x.1 then (if sat then (0xFE, fNX) else (0xFF, fIV)) else (x.1, if x.2 then 0 else fNX)
      | _ => (0xFF, fIV)
  | _ => if band then (0x7FC0, fIV) else
    (match Fmt.bf16.decode (b.toNat % 2 ^ 16) with
     | .fin _ p _ =>
       -- an infinite a: S = 0 gives 0, else the quotient is above 31
       if (Fmt.f32.decode a.toNat).isNan then (0xFF, fIV)
       else if p == 0 then (0, 0)
       else if (Fmt.bf16.decode (b.toNat % 2 ^ 16)).isNeg then (0xFF, fIV)
       else if sat then (0xFE, fNX) else (0xFF, fIV)
     | _ => (0xFF, fIV))
/-- QPK4 (R120): eight elements under the scales in `b`; of the exceptions of its quotients it raises IV and NX only. -/
def qpk4Of (xs : List Word) (b : Word) : Nat × Flags :=
  let sc := b.toNat % 256
  let S := b.toNat / 2 ^ 16
  let bad := sc == 0xFF || (match Fmt.bf16.decode S with
    | .fin _ _ _ => false
    | _ => true)
  if bad then (0, fIV)
  else
    let es := xs.map fun x =>
      match Fmt.f32.decode x.toNat, Fmt.e3m5.decode sc, Fmt.bf16.decode S with
      | .nan _, .fin _ p _, .fin _ q _ => if p == 0 || q == 0 then (if x.msb then 8 else 0, 0) else (0, fIV)
      | y, _, _ => quantElem y sc S
    ((List.range 8).foldl (fun n j => n + 2 ^ (4 * j) * ((es[j]?).getD (0, 0)).1) 0, (es.foldl (fun f e => f ||| e.2) 0) &&& (fIV ||| fNX))
/-- One element of QXP4 (R120). -/
def qxp4Of (r : Rnd) (e sc S : Nat) : Nat × Flags :=
  if sc == 0xFF then (Fmt.f32.nan, 0)
  else match Fmt.bf16.decode S with
    | .nan sig => (Fmt.f32.nan, if sig then fIV else 0)
    | .inf n => (match Fmt.e2m1.decode e, Fmt.e3m5.decode sc with
      | .fin k m _, .fin _ p _ => if m == 0 || p == 0 then (Fmt.f32.nan, fIV) else (Fmt.f32.infCode + (if n != k then Fmt.f32.signBit else 0), 0)
      | _, _ => (Fmt.f32.nan, 0))
    | .fin _ _ _ => Fmt.f32.deliver r false false (some (hf4Value e sc S))

def execQscl (h : Hdr) (band sat : Bool) (d a : BitVec 10) (b : BSrc) (s : State) : Out :=
  perLaneF (.qscl h band sat d a b) s fun w l => write32 d.toNat l (qsclOf band sat (w.rv l a.toNat) (bval w b l))
def execQpk4 (h : Hdr) (d a : BitVec 10) (b : BSrc) (s : State) : Out :=
  perLaneF (.qpk4 h d a b) s fun w l => write32 d.toNat l (qpk4Of ((List.range 8).map fun j => w.rv l (a.toNat + j)) (bval w b l))
def execQxp4 (h : Hdr) (r : Rnd) (d a : BitVec 10) (b : BSrc) (s : State) : Out :=
  perLaneF (.qxp4 h r d a b) s fun w l =>
    let x := bval w b l
    let es := (List.range 8).map fun j => (j, qxp4Of r (n32 w l a / 2 ^ (4 * j) % 16) (x.toNat % 256) (x.toNat / 2 ^ 16))
    (es.map fun e => (.v l (d.toNat + e.1), BitVec.ofNat 32 e.2.1), es.foldl (fun f e => f ||| e.2.2) 0)

/-! ### Special-function queues -/

def qNum (q : Bool) : Nat := if q then 1 else 0
/-- SFQ reserves an entry in the queue of each active lane; SFQ_FILL supplies it (R121). -/
def execSfq (h : Hdr) (fn : SfuFn) (z : Bool) (q : Bool) (a : BitVec 10) (s : State) : Out :=
  issue (.sfq h fn z q a) s fun c s =>
    .ok (s.mapWarp c.ref fun w => c.lanes.foldl (fun w l =>
      w.setQueue l (qNum q) (w.queue l (qNum q) ++ [{ val := sfuResult fn z (c.w.rv l a.toNat), filled := false }])) w)
/-- QPOP removes the oldest entry of each active lane; its result waits until the entries are supplied (R122). -/
def execQpop (h : Hdr) (d : BitVec 10) (q : Bool) (s : State) : Out :=
  issue (.qpop h d q) s fun c s =>
    let ws := c.lanes.filterMap fun l => ((c.w.queue l (qNum q)).head?).map fun e => (RegId.v l d.toNat, e.val)
    let s1 := s.mapWarp c.ref fun w => c.lanes.foldl (fun w l => w.setQueue l (qNum q) ((w.queue l (qNum q)).drop 1)) w
    .ok (c.late s1 .plain 0 ws)
/-- QLEN counts the entries, filled or not (R122). -/
def execQlen (h : Hdr) (d : BitVec 10) (q : Bool) (s : State) : Out :=
  perLane (.qlen h d q) s d fun w l => BitVec.ofNat 32 (w.queue l (qNum q)).length
/-- SFQ_FILL: the oldest entry of a lane's queue that is not filled is supplied. -/
def fillFirst : List QEntry → List QEntry
  | [] => []
  | e :: q => if e.filled then e :: fillFirst q else { e with filled := true } :: q
def execSfqFill (r : WarpRef) (lane : Nat) (q : Bool) (s : State) : Out :=
  .next (s.mapWarp r fun w => w.setQueue lane (qNum q) (fillFirst (w.queue lane (qNum q))))

end Sys2Proof.Machine
end

