-- ==== Sys2Proof/Machine/Paired.lean ====
section
/-!
DEFINITION. Paired words (R63 to R66): each slot has the effect of its full-form namesake, with a ← d and b ← s, on the lanes of
its own guard, and both read their operands before either writes. AND, OR, XOR, ANDN, FNEG and FABS exist only in paired form.
-/
namespace Sys2Proof.Machine

/-- The result of a slot's operation in a lane, with the exceptions it raises (R64, R84). -/
def slotResult (op : PairOp) (x : Slot) (w : Warp) (l : Nat) : Word × Flags :=
  let a := w.rv l x.d.toNat
  let b := w.rv l x.s.toNat
  let f := fun (y : Nat × Flags) => ((BitVec.ofNat 32 y.1 : Word), y.2)
  match op with
  | .iadd => (a + b, 0)
  | .isub => (a - b, 0)
  | .imin => (iminOf .s a b, 0)
  | .imax => (imaxOf .s a b, 0)
  | .and => (a &&& b, 0)
  | .or => (a ||| b, 0)
  | .xor => (a ^^^ b, 0)
  | .andn => (a &&& ~~~b, 0)
  | .ishl => (a <<< count5 b, 0)
  | .ishr => (a >>> count5 b, 0)
  | .ishra => (a.sshiftRight (count5 b), 0)
  | .mov => (b, 0)
  | .ineg => (-b, 0)
  | .iabs => (iabsOf b, 0)
  | .popc => (popcOf b, 0)
  | .clz => (clzOf b, 0)
  | .brev => (brevOf b, 0)
  | .movs => (w.rs (x.s.toNat % 128), 0)
  | .imul => (a * b, 0)
  | .fadd => f (Fmt.f32.fadd x.rnd x.ftz a.toNat b.toNat)
  | .fsub => f (Fmt.f32.fsub x.rnd x.ftz a.toNat b.toNat)
  | .fmul => f (Fmt.f32.fmul x.rnd x.ftz a.toNat b.toNat)
  | .fmin => f (Fmt.f32.minmax false x.ftz a.toNat b.toNat)
  | .fmax => f (Fmt.f32.minmax true x.ftz a.toNat b.toNat)
  | .fneg => (b ^^^ 0x80000000, 0)
  | .fabs => (b &&& 0x7FFFFFFF, 0)
  | .hadd2 => f (both fun i => Fmt.f16.fadd x.rnd x.ftz (half a i) (half b i))
  | .hmul2 => f (both fun i => Fmt.f16.fmul x.rnd x.ftz (half a i) (half b i))
  | .hmin2 => f (both fun i => Fmt.f16.minmax false x.ftz (half a i) (half b i))
  | .hmax2 => f (both fun i => Fmt.f16.minmax true x.ftz (half a i) (half b i))
/-- The active lanes of a slot of a word's run (R53, R64); a null slot has none (R65). -/
def slotLanes (c : Ctx) (op : PairOp) (x : Slot) : Mask := if isNullSlot op x then 0 else guardMask c.w x.n x.g c.run.lanes
/-- The writes of a slot. -/
def slotWrites (c : Ctx) (op : PairOp) (x : Slot) (r : Slot → Warp → Nat → Word × Flags) : List (RegId × Word) :=
  let m := slotLanes c op x
  ((m ||| c.w.helpersOf m).lanes 64).map fun l => (.v l x.d.toNat, (r x c.w l).1)
/-- The exceptions of a slot. -/
def slotRaised (c : Ctx) (op : PairOp) (x : Slot) (r : Slot → Warp → Nat → Word × Flags) : Flags :=
  raisedIn ((slotLanes c op x).lanes 64) fun l => (r x c.w l).2
/-- Issue a paired word, given its first slot's operation. Nothing is written where FPX traps (R85). -/
def pairedOp (i : Instr) (op : PairOp) (p : Pair) (r0 : Slot → Warp → Nat → Word × Flags) (s : State) : Out :=
  issue i s fun c s =>
    let r1 := slotResult p.op1
    match fpxTrap (s.vf c.blk.vf).fpxctl (slotRaised c op p.slot0 r0 ||| slotRaised c p.op1 p.slot1 r1) with
    | some t => .trap t
    | none => .ok (c.fixed s (slotWrites c op p.slot0 r0 ++ slotWrites c p.op1 p.slot1 r1))

def execIaddPaired (p : Pair) (s : State) : Out := pairedOp (.iaddPaired p) .iadd p (slotResult .iadd) s
def execIsubPaired (p : Pair) (s : State) : Out := pairedOp (.isubPaired p) .isub p (slotResult .isub) s
def execIminPaired (p : Pair) (s : State) : Out := pairedOp (.iminPaired p) .imin p (slotResult .imin) s
def execImaxPaired (p : Pair) (s : State) : Out := pairedOp (.imaxPaired p) .imax p (slotResult .imax) s
def execAndPaired (p : Pair) (s : State) : Out := pairedOp (.andPaired p) .and p (slotResult .and) s
def execOrPaired (p : Pair) (s : State) : Out := pairedOp (.orPaired p) .or p (slotResult .or) s
def execXorPaired (p : Pair) (s : State) : Out := pairedOp (.xorPaired p) .xor p (slotResult .xor) s
def execAndnPaired (p : Pair) (s : State) : Out := pairedOp (.andnPaired p) .andn p (slotResult .andn) s
def execIshlPaired (p : Pair) (s : State) : Out := pairedOp (.ishlPaired p) .ishl p (slotResult .ishl) s
def execIshrPaired (p : Pair) (s : State) : Out := pairedOp (.ishrPaired p) .ishr p (slotResult .ishr) s
def execIshraPaired (p : Pair) (s : State) : Out := pairedOp (.ishraPaired p) .ishra p (slotResult .ishra) s
def execMovPaired (p : Pair) (s : State) : Out := pairedOp (.movPaired p) .mov p (slotResult .mov) s
def execInegPaired (p : Pair) (s : State) : Out := pairedOp (.inegPaired p) .ineg p (slotResult .ineg) s
def execIabsPaired (p : Pair) (s : State) : Out := pairedOp (.iabsPaired p) .iabs p (slotResult .iabs) s
def execPopcPaired (p : Pair) (s : State) : Out := pairedOp (.popcPaired p) .popc p (slotResult .popc) s
def execClzPaired (p : Pair) (s : State) : Out := pairedOp (.clzPaired p) .clz p (slotResult .clz) s
def execBrevPaired (p : Pair) (s : State) : Out := pairedOp (.brevPaired p) .brev p (slotResult .brev) s
def execMovsPaired (p : Pair) (s : State) : Out := pairedOp (.movsPaired p) .movs p (slotResult .movs) s
def execImulPaired (p : Pair) (s : State) : Out := pairedOp (.imulPaired p) .imul p (slotResult .imul) s
def execFaddPaired (p : Pair) (s : State) : Out := pairedOp (.faddPaired p) .fadd p (slotResult .fadd) s
def execFsubPaired (p : Pair) (s : State) : Out := pairedOp (.fsubPaired p) .fsub p (slotResult .fsub) s
def execFmulPaired (p : Pair) (s : State) : Out := pairedOp (.fmulPaired p) .fmul p (slotResult .fmul) s
def execFminPaired (p : Pair) (s : State) : Out := pairedOp (.fminPaired p) .fmin p (slotResult .fmin) s
def execFmaxPaired (p : Pair) (s : State) : Out := pairedOp (.fmaxPaired p) .fmax p (slotResult .fmax) s
def execFnegPaired (p : Pair) (s : State) : Out := pairedOp (.fnegPaired p) .fneg p (slotResult .fneg) s
def execFabsPaired (p : Pair) (s : State) : Out := pairedOp (.fabsPaired p) .fabs p (slotResult .fabs) s
def execHadd2Paired (p : Pair) (s : State) : Out := pairedOp (.hadd2Paired p) .hadd2 p (slotResult .hadd2) s
def execHmul2Paired (p : Pair) (s : State) : Out := pairedOp (.hmul2Paired p) .hmul2 p (slotResult .hmul2) s
def execHmin2Paired (p : Pair) (s : State) : Out := pairedOp (.hmin2Paired p) .hmin2 p (slotResult .hmin2) s
def execHmax2Paired (p : Pair) (s : State) : Out := pairedOp (.hmax2Paired p) .hmax2 p (slotResult .hmax2) s

end Sys2Proof.Machine
end

