-- ==== Sys2Proof/Machine/Lanes.lean ====
section
/-!
DEFINITION. Cross-lane instructions (R125 to R130, Tables 7-10, 7-11), and REGRP as a word (R131). Regrouping itself is in
Issue.lean.
-/
namespace Sys2Proof.Machine

/-- A lane mask in a register, or at width 64 in a pair (R125). -/
def writeMask (wide : Bool) (d l : Nat) (m : Mask) : List (RegId × Word) :=
  (.v l d, loWord m) :: if wide then [(.v l (d + 1), hiWord m)] else []
/-- A register, or a pair, of a lane. -/
def writeWide (w64 : Bool) (d l : Nat) (x : DWord) : List (RegId × Word) := writeMask w64 d l x
def readWide (w64 : Bool) (w : Warp) (l r : Nat) : DWord := if w64 then w.rv64 l r else (w.rv l r).setWidth 64
/-- What a lane holds no thread reads as, and whether the source is live (R126). -/
def laneRead (w64 : Bool) (w : Warp) (src r : Nat) : DWord × Bool :=
  if (w.live ||| w.helpers).has src then (readWide w64 w src r, w.live.has src) else (0, false)

def execShfl (h : Hdr) (mode : ShflMode) (w64 : Bool) (d a : BitVec 10) (b : BSrc) (pl : BitVec 3) (s : State) : Out :=
  issue (.shfl h mode w64 d a b pl) s fun c s =>
    .ok (c.fixed s (c.lanes.flatMap fun l =>
      let x := laneRead w64 c.w (shflLane mode c.blk.width l (bval c.w b l)) a.toNat
      writeWide w64 d.toNat l x.1 ++ [(.p l pl.toNat, predWord x.2)]))
/-- QEX reads a quad neighbour (R127). -/
def execQex (h : Hdr) (dir : QexDir) (w64 : Bool) (d a : BitVec 10) (s : State) : Out :=
  issue (.qex h dir w64 d a) s fun c s =>
    .ok (c.fixed s (c.lanes.flatMap fun l => writeWide w64 d.toNat l (laneRead w64 c.w (qexLane dir l) a.toNat).1))
/-- VOTE over the participants (R128). -/
def voteOver (k : VoteKind) (ps : List Bool) : Bool :=
  match k with
  | .all => ps.all fun p => p
  | .any => ps.any fun p => p
  | .uni => (ps.all fun p => p) || ps.all fun p => !p
def execVote (h : Hdr) (k : VoteKind) (pd pa : BitVec 3) (s : State) : Out :=
  issue (.vote h k pd pa) s fun c s =>
    let r := voteOver k (c.live.map fun l => c.w.rp l pa.toNat)
    .ok (c.fixed s (c.lanes.map fun l => (.p l pd.toNat, predWord r)))
def execBallot (h : Hdr) (d : BitVec 10) (pa : BitVec 3) (s : State) : Out :=
  issue (.ballot h d pa) s fun c s =>
    let m := Mask.ofLanes (c.live.filter fun l => c.w.rp l pa.toNat)
    .ok (c.fixed s (c.lanes.flatMap fun l => writeMask (c.blk.width == 64) d.toNat l m))
/-- MATCH: a helper lane receives 0 (R128). -/
def execMatchv (h : Hdr) (w64 : Bool) (d a : BitVec 10) (s : State) : Out :=
  issue (.matchv h w64 d a) s fun c s =>
    .ok (c.fixed s (c.lanes.flatMap fun l =>
      let m := if c.act.has l then Mask.ofLanes (c.live.filter fun k => readWide w64 c.w k a.toNat == readWide w64 c.w l a.toNat) else 0
      writeMask (c.blk.width == 64) d.toNat l m))
/-- A reduction step and its identity (Table 7-11, R129). -/
def redStep (op : RedOp) (x y : Word) : Word :=
  match op with
  | .add => x + y
  | .mins => iminOf .s x y
  | .maxs => imaxOf .s x y
  | .minun => iminOf .u x y
  | .maxun => imaxOf .u x y
  | .and => x &&& y
  | .or => x ||| y
  | .xor => x ^^^ y
  | .fadd => BitVec.ofNat 32 (Fmt.f32.fadd .rn false x.toNat y.toNat).1
  | .fmin => BitVec.ofNat 32 (Fmt.f32.minmax false false x.toNat y.toNat).1
  | .fmax => BitVec.ofNat 32 (Fmt.f32.minmax true false x.toNat y.toNat).1
def redIdentity (op : RedOp) : Word :=
  match op with
  | .add => 0
  | .mins => 0x7FFFFFFF
  | .maxs => 0x80000000
  | .minun => 0xFFFFFFFF
  | .maxun => 0
  | .and => 0xFFFFFFFF
  | .or => 0
  | .xor => 0
  | .fadd => 0x80000000
  | .fmin => 0x7F800000
  | .fmax => 0xFF800000
/-- A first value of a fold: a NaN result is canonical in the floating-point operations (R84, R129). -/
def redFirst (op : RedOp) (x : Word) : Word :=
  let float := match op with
    | .fadd => true
    | .fmin => true
    | .fmax => true
    | _ => false
  if float && (Fmt.f32.decode x.toNat).isNan then BitVec.ofNat 32 Fmt.f32.nan else x
/-- The fold of values in ascending lane order (R129): an empty fold gives the identity, a fold of one value that value, a NaN in its
canonical encoding (assumption 27). -/
def redFold (op : RedOp) (xs : List Word) : Word :=
  match xs with
  | [] => redIdentity op
  | x :: rest => rest.foldl (redStep op) (redFirst op x)
def execRedux (h : Hdr) (op : RedOp) (d a : BitVec 10) (s : State) : Out :=
  issue (.redux h op d a) s fun c s =>
    let r := redFold op (c.live.map fun l => c.w.rv l a.toNat)
    .ok (c.fixed s (c.lanes.map fun l => (.v l d.toNat, r)))
/-- SCAN: a helper lane receives the identity (R129). -/
def execScan (h : Hdr) (op : RedOp) (exc : Bool) (d a : BitVec 10) (s : State) : Out :=
  issue (.scan h op exc d a) s fun c s =>
    .ok (c.fixed s (c.lanes.map fun l => (.v l d.toNat,
      if c.act.has l then redFold op ((c.live.filter fun k => if exc then decide (k < l) else decide (k ≤ l)).map fun k => c.w.rv k a.toNat)
      else redIdentity op)))
/-- The order of TOPK: a value ranks above another (R130). -/
def ranksAbove (x y : Word) : Bool :=
  let a := Fmt.f32.decode x.toNat
  let b := Fmt.f32.decode y.toNat
  if a.isNan then false else if b.isNan then true else b.lt a
/-- Insert a pair behind those that rank above it or equal to it. -/
def insertRank (x : Word × Nat) : List (Word × Nat) → List (Word × Nat)
  | [] => [x]
  | y :: ys => if ranksAbove x.1 y.1 then x :: y :: ys else y :: insertRank x ys
def execTopk (h : Hdr) (k : BitVec 4) (d a : BitVec 10) (s : State) : Out :=
  issue (.topk h k d a) s fun c s =>
    let L := c.live.foldl (fun acc l => insertRank (c.w.rv l a.toNat, l) acc) []
    .ok (c.fixed s (c.lanes.flatMap fun l =>
      let x := (if l < k.toNat then L[l]? else none).map fun p => (p.1, BitVec.ofNat 32 p.2)
      let y := x.getD (0xFF800000, 0xFFFFFFFF)
      [(RegId.v l d.toNat, y.1), (RegId.v l (d.toNat + 1), y.2)]))
/-- ELECT: the lowest-numbered participant (R128). -/
def execElect (h : Hdr) (pd : BitVec 3) (s : State) : Out :=
  issue (.elect h pd) s fun c s =>
    .ok (c.fixed s (c.lanes.map fun l => (.p l pd.toNat, predWord (c.live.head? == some l))))
def execActm (h : Hdr) (d : BitVec 10) (s : State) : Out :=
  issue (.actm h d) s fun c s => .ok (c.fixed s (c.lanes.flatMap fun l => writeMask (c.blk.width == 64) d.toNat l c.act))

/-- How a word blocks some of its lanes while the rest of the run goes on as a run of its own: JWAIT (R200), NAP (R194), the matrix
words (R231) and MSYNC (R237). -/
def Ctx.block (c : Ctx) (s : State) (m : Mask) (wait : Wait) : State :=
  if m == 0 then s
  else s.mapWarp c.ref fun w =>
    { w with runs := w.runs.flatMap fun r =>
        if r.lanes == c.run.lanes then
          { r with pc := c.run.pc, lanes := m, wait := some wait } :: (if r.lanes.diff m == 0 then [] else [{ r with lanes := r.lanes.diff m }])
        else [r] }
/-- How every other word blocks: the whole run waits at the word while any of its lanes does (R17, R141). -/
def Ctx.blockRun (c : Ctx) (s : State) (wait : Wait) : State :=
  s.mapWarp c.ref fun w => w.setRun c.run.lanes fun r => { r with pc := c.run.pc, wait := some wait }

/-- REGRP: its active lanes park (R131); a lane outside the set, or at a call depth other than 0, traps RGRP; where both are
found, WHY names the first (assumption 83). -/
def execRegrp (h : Hdr) (desc : Bool) (d a : BitVec 10) (n : BitVec 7) (j : BitVec 4) (s : State) : Out :=
  issue (.regrp h desc d a n j) s fun c s =>
    let why := if !c.act.sub (c.w.jset j.toNat).member then 1 else if c.live.any (fun l => c.w.depth1 l != 0) then 2 else 0
    if c.act == 0 then .ok s
    else if why != 0 then .trap { cause := causeRgrp, info := BitVec.ofNat 32 (c.ref.num % 16 * 256 + why) }
    else .ok (c.blockRun s (.regrp desc d.toNat a.toNat n.toNat j.toNat c.act))

end Sys2Proof.Machine
end

