-- ==== Sys2Proof/Machine/Control.lean ====
section
/-!
DEFINITION. Control flow (R188 to R196), rejoin sets (R197 to R202) and barriers (R203 to R217).
-/
namespace Sys2Proof.Machine

def causeStko : Nat := 0x07
def causeBlost : Nat := 0x0A

/-! ### Branches -/

/-- Lanes of a run continue at their own targets, the other lanes of the run at the next word; one run per distinct PC (R18,
R190). -/
def Ctx.jump (c : Ctx) (s : State) (ts : List (Nat × DWord)) : State :=
  s.mapWarp c.ref fun w =>
    match w.runs.find? (fun r => r.lanes == c.run.lanes) with
    | none => w
    | some r =>
      let goes := Mask.ofLanes (ts.map (·.1))
      let parts := ts.foldl (fun acc t => joinRun { r with pc := t.2, lanes := Mask.bit t.1 } acc) []
      let stay := r.lanes.diff goes
      let all := if stay == 0 then parts else joinRun { r with lanes := stay } parts
      { w with runs := w.runs.filter (fun x => x.lanes != c.run.lanes) ++ all }
/-- The target of an immediate branch: the address of the word plus 8 times the immediate (R58). -/
def Ctx.target (c : Ctx) (imm : BitVec 26) : DWord := c.run.pc + imm.signExtend 64 * 8
/-- A target held in a pair, bits [2:0] cleared (R190). -/
def clear8 (x : DWord) : DWord := x &&& ~~~(7 : DWord)

def execBra (h : Hdr) (imm : BitVec 26) (s : State) : Out :=
  issue (.bra h imm) s fun c s => .ok (c.jump s (c.live.map fun l => (l, c.target imm)))
def execBrx (h : Hdr) (a : BitVec 10) (s : State) : Out :=
  issue (.brx h a) s fun c s => .ok (c.jump s (c.live.map fun l => (l, clear8 (c.w.rv64 l a.toNat))))

/-! ### Calls -/

/-- %tinfo of STKO (Table 9-2, SPACE 2). -/
def stkoTrap (l : Nat) : Trap := { cause := causeStko, info := BitVec.ofNat 32 (l * 2 ^ 26 + 2 * 2 ^ 24) }
/-- Whether a call cannot be made (R191). -/
def callBad (b : Block) (w : Warp) (frame l : Nat) : Bool :=
  w.depth1 l == 65535 || decide (b.decl.stack < (w.sp1 l).toNat + frame + 16)
/-- Stack bytes written by a lane: whole words are clean of poison. -/
def Warp.stackPut (w : Warp) (l off : Nat) (bs : List Byte) : Warp :=
  { w.stackWrite l off bs with stackPois := clearPois w.stackPois (stackKey l off) bs.length }
/-- One call record (R191). -/
def Warp.call (w : Warp) (l frame : Nat) (back : DWord) : Warp :=
  let r := (w.sp1 l).toNat + frame
  let w1 := w.stackPut l r (leBytes 8 back.toNat ++ leBytes 4 (w.sp1 l).toNat ++ leBytes 4 0)
  { w1 with sp := Sparse.set 0 w1.sp l (BitVec.ofNat 32 (r + 16)), depth := Sparse.set 0 w1.depth l (w.depth1 l + 1) }
/-- CALL and CALLX: a helper lane calls with its anchor unless its call would trap (R14, R191). -/
def callTo (i : Instr) (frame : Nat) (target : Ctx → Nat → DWord) (s : State) : Out :=
  issue i s fun c s =>
    match c.live.find? fun l => callBad c.blk c.w frame l with
    | some l => .trap (stkoTrap l)
    | none =>
      let makes := c.lanes.filter fun l => !callBad c.blk c.w frame l
      let s1 := s.mapWarp c.ref fun w => makes.foldl (fun w l => w.call l frame (c.run.pc + 8)) w
      .ok (c.jump s1 (c.live.map fun l => (l, target c l)))

def execCall (h : Hdr) (imm : BitVec 26) (s : State) : Out := callTo (.call h imm) 0 (fun c _ => c.target imm) s
/-- CALLX: C holds the frame ÷ 16 (R189). -/
def execCallx (h : Hdr) (a frame : BitVec 10) (s : State) : Out :=
  callTo (.callx h a frame) (16 * frame.toNat) (fun c l => clear8 (c.w.rv64 l a.toNat)) s

/-- The check of RET for a lane (R192). -/
def retTrap (b : Block) (w : Warp) (l : Nat) : Option Trap :=
  if w.depth1 l == 0 then none
  else match (List.range 16).find? fun j => (w.jset j).member.has l && (w.jset j).depth == w.depth1 l with
    | some j => some { cause := 0x08, info := BitVec.ofNat 32 (j * 2 ^ 16 + 1) }
    | none => if (w.sp1 l).toNat < 16 || decide (b.decl.stack ≤ (w.sp1 l).toNat - 16) then some (stkoTrap l) else none
/-- Leave the innermost call: %sp and the depth (R192). -/
def Warp.uncall (w : Warp) (l : Nat) : Warp :=
  let r := (w.sp1 l).toNat - 16
  { w with sp := Sparse.set 0 w.sp l (BitVec.ofNat 32 (leValue (w.stackRead l (r + 8) 4) / 16 * 16)),
           depth := Sparse.set 0 w.depth l (w.depth1 l - 1) }
def execRet (h : Hdr) (s : State) : Out :=
  issue (.ret h) s fun c s =>
    match c.live.findSome? fun l => retTrap c.blk c.w l with
    | some t => .trap t
    | none =>
      let back := c.live.filter fun l => c.w.depth1 l != 0
      let gone := Mask.ofLanes (c.live.filter fun l => c.w.depth1 l == 0)
      let pcOf := fun (l : Nat) => clear8 (BitVec.ofNat 64 (leValue (c.w.stackRead l ((c.w.sp1 l).toNat - 16) 8)))
      let helps := (c.all.diff c.act).lanes 64 |>.filter fun l => c.w.depth1 l != 0 && (retTrap c.blk c.w l).isNone
      let s1 := s.mapWarp c.ref fun w => (back ++ helps).foldl (fun w l => w.uncall l) w
      .ok ((c.jump s1 (back.map fun l => (l, pcOf l))).exitLanes c.ref gone)

/-! ### The end of a thread, waits and traps -/

/-- EXIT; at trap level it exits every lane of %tmask and ends trap level (R193, R196). -/
def execExit (h : Hdr) (s : State) : Out :=
  issue (.exit h) s fun c s =>
    if c.act == 0 then .ok s
    else match c.w.trap with
    | some lvl => .ok ((s.mapWarp c.ref Warp.leaveTrap).exitLanes c.ref lvl.mask)
    | none => .ok (s.exitLanes c.ref c.act)
/-- YIELD makes the run a yielding run for 32 cycles (R22, R194). -/
def execYield (h : Hdr) (s : State) : Out :=
  issue (.yield h) s fun c s =>
    .ok (if c.act == 0 then s else
      s.mapWarp c.ref fun w => w.setRun c.run.lanes fun r => { r with age := 0, yieldEnd := some (s.clock + c.blk.cycles + 32) })
/-- NAP blocks the active lanes for n cycles from the end of its last issue cycle (R194). -/
def execNap (h : Hdr) (n : BitVec 16) (s : State) : Out :=
  issue (.nap h n) s fun c s =>
    .ok (if n == 0 then s else c.block s c.act (.nap (s.clock + c.blk.cycles + n.toNat)))
/-- TRAP and BKPT trap their active lanes; the run's other lanes go on (R195). -/
def trapLanes (i : Instr) (cause : Nat) (n : BitVec 16) (s : State) : Out :=
  issue i s fun c s => .ok (if c.act == 0 then s else s.takeTrap c.ref c.run.pc c.act { cause := cause, info := n.setWidth 32 })
def execTrap (h : Hdr) (n : BitVec 16) (s : State) : Out := trapLanes (.trap h n) 0x14 n s
def execBkpt (h : Hdr) (n : BitVec 16) (s : State) : Out := trapLanes (.bkpt h n) 0x15 n s
/-- RTT: outside trap level it traps PRIV (R196). -/
def execRtt (h : Hdr) (mode : RttMode) (s : State) : Out :=
  issue (.rtt h mode) s fun c s =>
    if c.act == 0 then .ok s
    else if c.w.trap.isSome then .ok (s.returnTrap c.ref mode c.nextAt)
    else .trap { cause := causePriv, info := 0xCA }
def execNop (h : Hdr) (s : State) : Out := issue (.nop h) s fun _ s => .ok s

/-! ### Rejoin sets -/

def execJenter (h : Hdr) (j : BitVec 4) (s : State) : Out :=
  issue (.jenter h j) s fun c s =>
    match c.live with
    | [] => .ok s
    | l :: _ => .ok (s.mapWarp c.ref fun w =>
        let x := w.jset j.toNat
        w.setJset j.toNat { x with member := x.member ||| c.act, depth := if x.member == 0 then w.depth1 l else x.depth })
/-- Leave a set (R199). -/
def Warp.quitSet (w : Warp) (m : Mask) (j : Nat) : Warp :=
  let x := w.jset j
  let mem := x.member.diff m
  w.setJset j { member := mem, arrived := x.arrived.diff m, depth := if mem == 0 then 0 else x.depth }
/-- Leave sets in ascending order, then check each for release (R199). -/
def Warp.quitSets (w : Warp) (m : Mask) (js : List Nat) : Warp :=
  js.foldl (fun w j => w.checkRelease j) (js.foldl (fun w j => w.quitSet m j) w)
def execJquit (h : Hdr) (j : BitVec 4) (s : State) : Out :=
  issue (.jquit h j) s fun c s => .ok (if c.act == 0 then s else s.mapWarp c.ref fun w => w.quitSets c.act [j.toNat])
def execJquitm (h : Hdr) (mask : BitVec 16) (s : State) : Out :=
  issue (.jquitm h mask) s fun c s =>
    .ok (if c.act == 0 then s else s.mapWarp c.ref fun w => w.quitSets c.act ((List.range 16).filter fun j => mask.getLsbD j))
/-- JWAIT blocks the members among the active lanes, then checks the set (R200). -/
def execJwait (h : Hdr) (j : BitVec 4) (s : State) : Out :=
  issue (.jwait h j) s fun c s =>
    let a := c.act &&& (c.w.jset j.toNat).member
    let s1 := s.mapWarp c.ref fun w => w.setJset j.toNat { w.jset j.toNat with arrived := (w.jset j.toNat).arrived ||| a }
    .ok (if c.act == 0 then s else (c.block s1 a (.jwait j.toNat)).mapWarp c.ref fun w => w.checkRelease j.toNat)
def execJtest (h : Hdr) (k : JtestKind) (pd : BitVec 3) (j : BitVec 4) (s : State) : Out :=
  perLaneP (.jtest h k pd j) s pd.toNat fun w l => match k with
    | .mem => (w.jset j.toNat).member.has l
    | .live => (w.jset j.toNat).member == w.live
    | .empty => (w.jset j.toNat).member == 0
def execJmask (h : Hdr) (part : JmaskPart) (d : BitVec 10) (j : BitVec 4) (s : State) : Out :=
  issue (.jmask h part d j) s fun c s =>
    let x := c.w.jset j.toNat
    .ok (c.fixed s (c.lanes.flatMap fun l => match part with
      | .mem => writeMask (c.blk.width == 64) d.toNat l x.member
      | .arr => writeMask (c.blk.width == 64) d.toNat l x.arrived
      | .dep => [(.v l d.toNat, BitVec.ofNat 32 x.depth)]))

/-! ### Barriers -/

/-- An operand that a barrier instruction reads once for its run: that of the lowest-numbered active live lane (R205). -/
def runValue (c : Ctx) (b : BSrc) : Word := bval c.w b ((c.live.head?).getD 0)
/-- BLOST (R213, Table 11-8). -/
def blostTrap (b : Bar) (x : Barrier) : Option Trap :=
  if x.ready && !x.lost then none
  else some { cause := causeBlost, info := BitVec.ofNat 32 ((if x.ready then 1 else 2) * 64 + (if b.clu then 32 else 0) + b.num.toNat) }
/-- A barrier instruction that acts with at least one active live lane, on a barrier that is READY and not LOST. -/
def barOp (i : Instr) (b : Bar) (s : State) (f : Ctx → State → Barrier → State) : Out :=
  issue i s fun c s =>
    if c.act == 0 then .ok s
    else match blostTrap b (s.barrier c.ref.blk (barIdx b)) with
      | some t => .trap t
      | none => .ok (f c s (s.barrier c.ref.blk (barIdx b)))
/-- Lanes reach a barrier (R208). -/
def Warp.reachBar (w : Warp) (b : Nat) (m : Mask) : Warp := { w with reach := Sparse.set 0 w.reach b (w.reach1 b ||| m) }

/-- BARI: its warps operand has been checked with the word itself (R74, R209). -/
def execBari (h : Hdr) (bar : Bar) (warps : BitVec 7) (b : BSrc) (s : State) : Out :=
  issue (.bari h bar warps b) s fun c s =>
    let k := barIdx bar
    if c.act == 0 then .ok s
    else
      let x := s.barrier c.ref.blk k
      let s1 := if x.ready then s else s.mapBarWarps c.ref.blk k fun w =>
        { w with reach := Sparse.set 0 w.reach k 0, arrived := Sparse.set false w.arrived k false, dueAt := Sparse.set none w.dueAt k none }
      let y := if x.ready then x else { x with phase := 0, arrW := 0 }
      .ok ((s1.setBarrier c.ref.blk k { y with ready := true, expW := warps.toNat, expB := (runValue c b).toNat, arrB := 0 }).checkPhase c.ref.blk k)
def execBarx (h : Hdr) (bar : Bar) (b : BSrc) (s : State) : Out :=
  barOp (.barx h bar b) bar s fun c s x =>
    (s.setBarrier c.ref.blk (barIdx bar) { x with expB := satByte (x.expB + (runValue c b).toNat) }).checkPhase c.ref.blk (barIdx bar)
/-- BARA: the active lanes reach without parking; the phase as it stood is written, scoreboarded (R211). -/
def execBara (h : Hdr) (d : BitVec 10) (bar : Bar) (s : State) : Out :=
  barOp (.bara h d bar) bar s fun c s x =>
    let k := barIdx bar
    let s1 := c.late s .plain 0 (c.lanes.map fun l => (.v l d.toNat, x.phase.setWidth 32))
    ((s1.mapWarp c.ref fun w => w.reachBar k c.act).checkArrive c.ref k).checkPhase c.ref.blk k
/-- BARW parks until the phase differs from the token, one value for the run (R205, R212). -/
def execBarw (h : Hdr) (bar : Bar) (b : BSrc) (s : State) : Out :=
  barOp (.barw h bar b) bar s fun c s x =>
    let tok := (runValue c b).toNat % 2 ^ 16
    if x.phase.toNat == tok then c.blockRun s (.barw (barIdx bar) tok) else s
/-- BAR: the active lanes reach and park until the phase completes (R211), and the run waits with them (R17). -/
def execBar (h : Hdr) (bar : Bar) (s : State) : Out :=
  barOp (.bar h bar) bar s fun c s _ =>
    let k := barIdx bar
    (((c.blockRun s (.bar k c.act)).mapWarp c.ref fun w => w.reachBar k c.act).checkArrive c.ref k).checkPhase c.ref.blk k
def execBarq (h : Hdr) (pd : BitVec 3) (bar : Bar) (b : BSrc) (s : State) : Out :=
  barOp (.barq h pd bar b) bar s fun c s x =>
    c.fixed s (c.lanes.map fun l => (.p l pd.toNat, predWord (x.phase.toNat != (runValue c b).toNat % 2 ^ 16)))

end Sys2Proof.Machine
end

