-- ==== Sys2Proof/Machine/Memory.lean ====
section
/-!
DEFINITION. Loads, stores and waiting on a word (R134 to R142), atomics (R143 to R145), fences and rods (R146 to R151,
R178, R179, R263).
-/
namespace Sys2Proof.Machine

/-! ### Addresses (R134 to R137) -/

/-- How an instruction reaches one space: the address of a lane, whether the space ends before it, the bytes and the poison
that a lane reads, and the ranges its rods are matched against. -/
structure Access where
  code : Nat
  outCause : Nat
  ea : Nat → Nat
  out : Nat → Nat → Bool
  view : Nat → Nat → List Byte
  pois : Nat → Nat → Bool
  range : Nat → Nat → List Range
  /-- Whether a register that a lane's load reads is poisoned (R324). -/
  bad : Nat → Bool := fun _ => false

/-- A trap of Table 9-2. -/
def addrTrap (cause lane space : Nat) : Trap := { cause := cause, info := BitVec.ofNat 32 (lane * 2 ^ 26 + space * 2 ^ 24) }
/-- The checks of R137 on the addresses of lanes, in order: alignment, then the end of the space. -/
def Access.trap (a : Access) (lanes : List Nat) (n align : Nat) : Option Trap :=
  match lanes.find? fun l => a.ea l % align != 0 with
  | some l => some (addrTrap causeAlgn l a.code)
  | none => (lanes.find? fun l => a.out l n).map fun l => addrTrap a.outCause l a.code
/-- POIS for the lowest lane that reads poison (R324, Table 19-8). -/
def Access.poisTrap (a : Access) (lanes : List Nat) (n : Nat) : Option Trap :=
  (lanes.find? fun l => a.pois l n).map fun l =>
    { cause := causePois, info := BitVec.ofNat 32 (l * 2 ^ 26 + (if a.code == 3 then 1 else a.code) * 2 ^ 23) }
/-- Whether a lane's load would trap (R14: a helper lane's load then returns zero). -/
def Access.fails (a : Access) (l n align : Nat) : Bool := a.bad l || a.ea l % align != 0 || a.out l n || a.pois l n

/-- The window of an interface: an access any byte of which lies outside it traps XBND (R136). -/
def outOfWindow (s : State) (vf addr n : Nat) : Bool := ((s.vf vf).scratch? addr).isNone || ((s.vf vf).scratch? (addr + n - 1)).isNone
def physOf (s : State) (vf addr : Nat) : Nat := ((s.vf vf).scratch? addr).getD 0
/-- Scratchpad bytes as a warp sees them, and their poison. -/
def scratchAccess (s : State) (c : Ctx) (code : Nat) (ea : Nat → Nat) : Access :=
  let q := ((s.warp? c.ref).map (·.storeQ)).getD []
  { code := code, outCause := causeXbnd, ea := ea, out := fun l n => outOfWindow s c.blk.vf (ea l) n,
    view := fun l n => s.spView c.blk.core q (physOf s c.blk.vf (ea l)) n,
    pois := fun l n => s.partPois c.blk q { lane := l, reg := 0, space := .scratch, addr := physOf s c.blk.vf (ea l), len := n },
    range := fun l n => [⟨.sp, ea l, n⟩] }
def sharedAccess (s : State) (c : Ctx) (ea : Nat → Nat) : Access :=
  let q := ((s.warp? c.ref).map (·.storeQ)).getD []
  let b := (s.block? c.ref.blk).getD c.blk
  { code := 0, outCause := causeSbnd, ea := ea, out := fun l n => decide (b.decl.shared < ea l + n), view := fun l n => b.shView q (ea l) n,
    pois := fun l n => s.partPois b q { lane := l, reg := 0, space := .shared, addr := ea l, len := n },
    range := fun l n => [⟨.sh, ea l, n⟩] }
def stackAccess (s : State) (c : Ctx) (ea : Nat → Nat) : Access :=
  let w := (s.warp? c.ref).getD c.w
  { code := 2, outCause := causeStko, ea := ea, out := fun l n => decide (c.blk.decl.stack < ea l + n), view := fun l n => w.stackRead l (ea l) n,
    pois := fun l n => w.stackPois.any fun k => meets (stackKey l (ea l)) n (4 * k) 4,
    range := fun _ _ => [] }
/-- The rods that the lanes of an access overlap. -/
def accessRods (s : State) (c : Ctx) (a : Access) (lanes : List Nat) (n : Nat) : Word :=
  s.rodTags c.blk (lanes.flatMap fun l => a.range l n)

/-! ### Loads and stores (R139, R140) -/

/-- The low bytes of registers from `d`. -/
def storeBytes (w : Warp) (d l n : Nat) : List Byte := ((List.range ((n + 3) / 4)).flatMap fun k => leBytes 4 (w.rv l (d + k)).toNat).take n
/-- Where a lane's access lies: in shared memory at its offset, in the scratchpad at a physical address. -/
def placeOf (s : State) (c : Ctx) (sp : StoreSpace) (ea : Nat) : Nat :=
  match sp with
  | .shared => ea
  | .scratch => physOf s c.blk.vf ea
/-- The accesses of a load of `n` bytes: of 16 two, the lower first (R170); a helper lane whose access fails makes none. -/
def loadParts (s : State) (c : Ctx) (sp : StoreSpace) (a : Access) (d n : Nat) : List Part :=
  (c.lanes.filter fun l => c.act.has l || !a.fails l n n).flatMap fun l =>
    (List.range (if n == 16 then 2 else 1)).map fun k =>
      { lane := l, reg := d + 2 * k, space := sp, addr := placeOf s c sp (a.ea l) + 8 * k, len := min n 8 }
/-- Zeros for the helper lanes whose access of `n` bytes fails (R14). -/
def Ctx.zeros (c : Ctx) (a : Access) (d n regs : Nat) : List (RegId × Word) :=
  (c.lanes.filter fun l => !c.act.has l && a.fails l n n).flatMap fun l => loadWrites d l (List.replicate (4 * regs) 0)
/-- A load: every address is checked first; its accesses are made at issue, the upper ones of a 16-byte load before the warp's next access
(R137, R168, R170; assumption 5), and its result lands later. `sp` is none for the stack. -/
def loadOp (i : Instr) (s : State) (n d : Nat) (sp : Option StoreSpace) (acq : Bool) (acc : State → Ctx → Access) : Out :=
  issue i s fun c s =>
    let a := acc s c
    match (a.trap c.live n n).or (a.poisTrap c.live n) with
    | some t => .trap t
    | none =>
      let zeros := c.zeros a d n ((n + 3) / 4)
      if c.act == 0 then .ok s
      else match sp with
        | none => .ok (c.late s .load 0 (zeros ++ (c.lanes.filter fun l => c.act.has l || !a.fails l n n).flatMap fun l => loadWrites d l (a.view l n)))
        | some x => .ok (s.startLoad c.ref
            { id := 0, kind := .load, writes := zeros, rods := accessRods s c a c.live n, rest := loadParts s c x a d n, acq := acq } fun p => p.reg == d)
/-- A scoreboarded result of a warp lands (R68), once it is there: a load has made its accesses, and an atomic has left the queue. -/
def State.landResult (s : State) (r : WarpRef) (id : Nat) : State :=
  let s1 := s.makeLoads r
  match (s1.warp? r).bind fun w => w.late.find? fun l => l.id == id with
  | some l => if !l.rest.isEmpty || l.queued then s1 else (s1.closeLoad r (fun _ => true) id).mapWarp r fun w => w.landLate id
  | none => s1
/-- The accesses that a store makes, the lower first: two of 8 bytes for 16 (R170). -/
def storeParts (bs : List Byte) : List (Nat × List Byte) := if bs.length == 16 then [(0, bs.take 8), (8, bs.drop 8)] else [(0, bs)]
/-- Stores enter the warp's queue in ascending lane order (R138, R167). -/
def storeOp (i : Instr) (s : State) (n d : Nat) (rel : Option Scope) (sp : StoreSpace) (acc : State → Ctx → Access) : Out :=
  issue i s fun c s =>
    let a := acc s c
    match a.trap c.live n n with
    | some t => .trap t
    | none =>
      let es := c.live.flatMap fun l => (storeParts (storeBytes c.w d l n)).map fun x =>
        { space := sp, addr := placeOf s c sp (a.ea l) + x.1, bytes := x.2, rel := rel, rods := s.rodTags c.blk (a.range l n), lost := false,
          seq := s.nextId, after := c.w.afterIds (s.rodTags c.blk (a.range l n)) : StoreEntry }
      .ok (if c.act == 0 then s
        else ({ s with nextId := s.nextId + 1 } : State).mapWarp c.ref fun w => { w with storeQ := w.storeQ ++ es })

def execLds (h : Hdr) (sz : Size) (ord : Bool) (d : BitVec 10) (ad : MAddr) (s : State) : Out :=
  loadOp (.lds h sz ord d ad) s (sizeBytes sz) d.toNat (some .shared) ord fun s c => { sharedAccess s c (sharedEA c.w ad) with bad := addrPois ad c.w 1 }
def execSts (h : Hdr) (sz : Size) (ord : Bool) (d : BitVec 10) (ad : MAddr) (s : State) : Out :=
  storeOp (.sts h sz ord d ad) s (sizeBytes sz) d.toNat (if ord then some .core else none) .shared
    fun s c => sharedAccess s c (sharedEA c.w ad)
def execLdx (h : Hdr) (sz : Size) (ord : Bool) (sc : Scope) (d : BitVec 10) (ad : MAddr) (s : State) : Out :=
  loadOp (.ldx h sz ord sc d ad) s (sizeBytes sz) d.toNat (some .scratch) ord fun s c =>
    { scratchAccess s c 1 fun l => (scratchEA c.w ad l).toNat with bad := addrPois ad c.w 2 }
def execStx (h : Hdr) (sz : Size) (ord : Bool) (sc : Scope) (d : BitVec 10) (ad : MAddr) (s : State) : Out :=
  storeOp (.stx h sz ord sc d ad) s (sizeBytes sz) d.toNat (if ord then some sc else none) .scratch
    fun s c => scratchAccess s c 1 fun l => (scratchEA c.w ad l).toNat
def execLdk (h : Hdr) (sz : Size) (d : BitVec 10) (ad : MAddr) (s : State) : Out :=
  loadOp (.ldk h sz d ad) s (sizeBytes sz) d.toNat none false fun s c => { stackAccess s c (stackEA c.w ad) with bad := addrPois ad c.w 1 }
/-- STK writes the lane's own stack at once (R140; assumption 8). -/
def execStk (h : Hdr) (sz : Size) (d : BitVec 10) (ad : MAddr) (s : State) : Out :=
  issue (.stk h sz d ad) s fun c s =>
    let n := sizeBytes sz
    let a := stackAccess s c (stackEA c.w ad)
    match a.trap c.live n n with
    | some t => .trap t
    | none => .ok (s.mapWarp c.ref fun w => c.live.foldl (fun w l => w.stackPut l (a.ea l) (storeBytes c.w d.toNat l n)) w)

/-! ### Waiting on a word (R141, R142) -/

/-- Take a place in the wait table of a word's die, if it has room: the lanes of one warp on one word share an entry, which covers the bytes
of each. `woken`: the lane has yet to read. -/
def State.waitOn (s : State) (r : WarpRef) (addr len : Nat) (woken : Bool := false) : State :=
  if s.waitTab.any fun e => e.ref == r && e.addr == addr then
    { s with waitTab := mapIf (fun e => e.ref == r && e.addr == addr) (fun e => { e with len := max e.len len, woken := e.woken || woken }) s.waitTab }
  else if Config.waitEntries ≤ (s.waitTab.filter fun e => e.addr / 2 ^ 30 == addr / 2 ^ 30).length then s
  else { s with waitTab := s.waitTab ++ [{ ref := r, addr := addr, len := len, woken := woken }] }
/-- Give up the entries of a warp on words that none of its lanes is parked on. -/
def waitedOn (w : Warp) (addr : Nat) : Bool :=
  w.runs.any fun r => match r.wait with
    | some (.word _ _ _ _ xs) => xs.any fun x => x.2 == addr
    | some (.future _ _ _ xs) => xs.any fun x => x.2 == addr
    | _ => false
def State.pruneWaits (s : State) (r : WarpRef) : State :=
  { s with waitTab := s.waitTab.filter fun e => e.ref != r || (match s.warp? r with
    | some w => waitedOn w e.addr
    | none => false) }
/-- The bytes of a scratchpad place as a warp sees them. -/
def State.warpView (s : State) (r : WarpRef) (addr n : Nat) : List Byte :=
  match s.block? r.blk, s.warp? r with
  | some b, some w => s.spView b.core w.storeQ addr n
  | _, _ => []
/-- An access that LDW or a future read makes of a place. -/
def waitPart (wait : Wait) (l addr : Nat) : Part :=
  match wait with
  | .word wide _ d _ _ => { lane := l, reg := d, space := .scratch, addr := addr, len := if wide then 8 else 4 }
  | .future wide d _ _ => { lane := l, reg := d, space := .scratch, addr := addr, len := 16, skip := if wide then 0 else 8 }
  | _ => { lane := l, reg := 0, space := .scratch, addr := addr, len := 0 }
/-- The registers that LDF and FPOLL load from the 16 bytes of a future (R154). -/
def futureWrites (wide : Bool) (d l : Nat) (bs : List Byte) : List (RegId × Word) := loadWrites d l (if wide then bs else bs.drop 8)
/-- What a parked lane reads: its writes if it leaves its wait, else none. -/
def State.lookAgain (s : State) (r : WarpRef) (w : Warp) (wait : Wait) (l addr : Nat) : Option (List (RegId × Word)) :=
  match wait with
  | .word wide _ d _ _ =>
    let n := if wide then 8 else 4
    let x := s.warpView r addr n
    if x == storeBytes w d l n then none else some (loadWrites d l x)
  | .future wide d _ _ =>
    let x := s.warpView r addr 16
    if u8 x 0 % 4 == 0 then none else some (futureWrites wide d l x)
  | _ => none
/-- Whether the read that ends a wait is an acquire (R139, R181), and the rods that it is tagged with (R147). -/
def Wait.acquires : Wait → Bool
  | .word _ acq _ _ _ => acq
  | .future .. => true
  | _ => false
def Wait.rods : Wait → Word
  | .word _ _ _ rods _ => rods
  | .future _ _ rods _ => rods
  | _ => 0
/-- The parked lanes of a wait. -/
def Wait.places : Wait → List (Nat × Nat)
  | .word _ _ _ _ xs => xs
  | .future _ _ _ xs => xs
  | _ => []
/-- A wait of fewer lanes. -/
def Wait.withPlaces (wait : Wait) (xs : List (Nat × Nat)) : Wait :=
  match wait with
  | .word a b d rods _ => .word a b d rods xs
  | .future a d rods _ => .future a d rods xs
  | y => y
/-- Whether a parked lane's place is poisoned (R324). -/
def State.waitPois (s : State) (r : WarpRef) (wait : Wait) (x : Nat × Nat) : Bool :=
  match s.block? r.blk, s.warp? r with
  | some b, some w => s.partPois b w.storeQ (waitPart wait x.1 x.2)
  | _, _ => false
/-- The lanes of one run parked at an address read again; those that leave their wait receive their values, and the run goes
on when its last lane has left (R141, R154). A poisoned word traps POIS for the lanes still parked (R324). -/
def State.rereadRun (s : State) (r : WarpRef) (run : Run) (sel : Nat → Nat → Bool) : State :=
  match run.wait with
  | none => s
  | some wait =>
    let xs := wait.places.filter fun x => sel x.1 x.2
    let ps := xs.map fun x => waitPart wait x.1 x.2
    match xs.find? (s.waitPois r wait) with
    | some x =>
      let stuck := Mask.ofLanes (wait.places.map (·.1))
      let s1 := s.mapWarp r fun w => w.release (fun y => y == wait) (run.lanes.diff stuck)
      (s1.takeTrap r run.pc stuck { cause := causePois, info := BitVec.ofNat 32 (x.1 * 2 ^ 26 + 2 ^ 23) }).pruneWaits r
    | none =>
      let s0 := (s.closePlaces r ps).readNow r (ps.map fun p => (p.addr, p.len))
      match s0.warp? r with
      | none => s
      | some w =>
        let res := wait.places.map fun x => (x, if sel x.1 x.2 then s0.lookAgain r w wait x.1 x.2 else none)
        let left := (res.filter fun y => y.2.isNone).map (·.1)
        let writes := res.flatMap fun y => y.2.getD []
        let wait' := wait.withPlaces left
        let got : Late := { id := s0.nextId, kind := .load, writes := writes, rods := wait.rods }
        let w1 : Warp := { w with late := w.late ++ [got], runs := mapIf (fun x => x.lanes == run.lanes) (fun x => { x with wait := some wait' }) w.runs }
        let s1 := ({ s0 with nextId := s0.nextId + 1 } : State).setWarp r w1
        let s2 := if wait.acquires then s1.observe r else s1
        if writes.isEmpty then s0
        else (if left.isEmpty then s2.mapWarp r fun w => w.release (fun x => x == wait') run.lanes else s2).pruneWaits r
/-- Whether the parked lanes of a run may not read yet, behind an earlier access of their warp (R167, R168, R179). -/
def Warp.waitsBehind (w : Warp) (run : Run) : Bool :=
  (run.wait.map fun x => w.heldNow x.rods (x.places.map fun y => waitPart x y.1 y.2)).getD (w.heldNow 0 [])
/-- Lanes of a warp read again, where `sel` holds of the lane and its address, once no earlier load and no atomic in the queue is ahead of
their read (R168, R179). -/
def State.reread (s : State) (r : WarpRef) (sel : Nat → Nat → Bool) : State :=
  let s1 := s.makeLoads r
  match s1.warp? r with
  | some w => w.runs.foldl (fun t run => if w.waitsBehind run then t else t.rereadRun r run sel) s1
  | none => s
/-- The warp of a word as it stands. -/
def Ctx.now (c : Ctx) (s : State) : Warp := (s.warp? c.ref).getD c.w
/-- The lanes of a load park: those of `xs`, each with its place; `woken`: they have yet to read (R141, R154). -/
def Ctx.park (c : Ctx) (s : State) (wait : Wait) (woken : Bool) : State :=
  if wait.places.isEmpty then s
  else wait.places.foldl (fun t x => t.waitOn c.ref x.2 (waitPart wait x.1 x.2).len woken) (c.blockRun s wait)
/-- LDW and LDF: the active lanes of which `stay` does not hold are loaded, the others park, and the run waits for them. A helper lane reads once
(R14, R141, R154). Behind an access that has yet to be made, every lane parks before it reads. -/
def Ctx.waitLoad (c : Ctx) (s : State) (a : Access) (n regs : Nat) (wait : Wait) (stay : Nat → Bool) : State :=
  let d := (waitPart wait 0 0).reg
  let at_ := fun (l : Nat) => (l, physOf s c.blk.vf (a.ea l))
  let parts := fun (ls : List Nat) => ls.map fun l => waitPart wait l (at_ l).2
  let helpers := c.lanes.filter fun l => !c.act.has l && !a.fails l n n
  let zeros := c.zeros a d n regs
  if (c.now s).heldNow wait.rods (parts c.lanes) then
    let s1 := if zeros.isEmpty && helpers.isEmpty then s
      else s.startLoad c.ref { id := 0, kind := .load, writes := zeros, rods := wait.rods, rest := parts helpers } fun _ => true
    c.park s1 (wait.withPlaces (c.live.map at_)) true
  else
    let stays := c.live.filter stay
    let goes := c.live.filter fun l => !stay l
    let s0 := (s.closePlaces c.ref (parts c.live)).readNow c.ref (c.live.map fun l => ((at_ l).2, n))
    let s1 := c.late s0 .load wait.rods (zeros ++ (parts (goes ++ helpers)).flatMap fun p => p.writes (a.view p.lane n))
    let s2 := if wait.acquires && !goes.isEmpty then s1.observe c.ref else s1
    c.park s2 (wait.withPlaces (stays.map at_)) false

/-- LDW: lanes whose word differs from d load it; the others park (R141). -/
def execLdw (h : Hdr) (wide ord : Bool) (sc : Scope) (d : BitVec 10) (ad : MAddr) (s : State) : Out :=
  issue (.ldw h wide ord sc d ad) s fun c s =>
    let n := if wide then 8 else 4
    let a := { scratchAccess s c 1 fun l => (scratchEA c.w ad l).toNat with
      bad := fun l => addrPois ad c.w 2 l || (List.range (n / 4)).any fun k => c.w.vPois.contains (vKey l (d.toNat + k)) }
    match (a.trap c.live n n).or (a.poisTrap c.live n) with
    | some t => .trap t
    | none => .ok (c.waitLoad s a n (n / 4) (.word wide ord d.toNat (accessRods s c a c.live n) []) fun l => a.view l n == storeBytes c.w d.toNat l n)

/-- Whether the lanes parked on an entry may not read yet, behind an earlier access of their warp (R168, R179). -/
def State.waitHeld (s : State) (e : WaitEntry) : Bool :=
  ((s.warp? e.ref).map fun w => w.runs.any fun run => match run.wait with
    | some x => x.places.any (fun y => y.2 == e.addr) && w.waitsBehind run
    | none => false).getD false
/-- WAIT_TABLE_WAKE: once a write to the word, or to the future, has been performed at package scope, every lane parked on it reads again
(R142); warps whose read is behind another access read later. -/
def execWaitTableWake (addr : Nat) (s : State) : Out :=
  let s1 := (s.waitTab.filter fun e => e.addr == addr && e.woken).foldl (fun t e => t.makeLoads e.ref) s
  let due := fun (e : WaitEntry) => e.addr == addr && e.woken && !s1.waitHeld e
  .next ((s1.waitTab.filter due).foldl (fun t e => t.reread e.ref fun _ a => a == addr)
    { s1 with waitTab := mapIf due (fun e => { e with woken := false }) s1.waitTab })
/-- Lanes of a warp that have yet to read are woken again, where an access ahead of them may have been made. -/
def State.rewake (s : State) (r : WarpRef) : State :=
  let es := s.waitTab.filter fun e => e.ref == r && e.woken
  { s with agenda := es.map (fun e => .act (.waitTableWake e.addr)) ++ s.agenda }
/-- WAIT_TABLE_REREAD: a lane without an entry reads its word again (R142). -/
def execWaitTableReread (r : WarpRef) (lane : Nat) (s : State) : Out :=
  .next (s.reread r fun l a => l == lane && !s.waitTab.any fun e => e.ref == r && e.addr == a)

/-! ### Atomics (R143 to R145, Table 9-4) -/

/-- An operand of an atomic, 32-bit or 64-bit. -/
def atomArg (op : AtomOp) (w : Warp) (l r : Nat) : Nat := if op.wide then (w.rv64 l r).toNat else (w.rv l r).toNat
/-- An atomic instruction (R143): addresses and poison are checked for every lane first. It stands behind the stores of the warp's queue, and acts
when it leaves it (R168): at once, unless something ahead of it has yet to be performed (R174, R179). A helper lane receives 0 (R14). -/
def atomOp (i : Instr) (s : State) (op : AtomOp) (o : Order) (sc : Scope) (d : Option Nat) (b c0 : Nat) (sp : StoreSpace)
    (acc : State → Ctx → Access) : Out :=
  issue i s fun c s =>
    let n := atomBytes op
    let a := acc s c
    match (a.trap c.live n n).or (a.poisTrap c.live n) with
    | some t => .trap t
    | none =>
      if c.act == 0 then .ok s
      else
        let id := s.nextId
        let rods := accessRods s c a c.live n
        let at_ := fun (l : Nat) => placeOf s c sp (a.ea l)
        let result : List Late := match d with
          | some d => [{ id := id, kind := .load, writes := c.lanes.flatMap fun l => loadWrites d l (List.replicate n 0), rods := rods, acq := orderAcq o, queued := true }]
          | none => []
        let e : StoreEntry := {
          space := sp, addr := 0, bytes := [], rel := if orderRel o then some sc else none, rods := rods, lost := false, seq := id, after := c.w.afterIds rods,
          atom := some { op := op, order := o, lanes := c.live.map fun l => (l, at_ l, atomArg op c.w l b, atomArg op c.w l c0), result := d.map fun d => (id, d) } }
        let s1 := s.closePlaces c.ref (c.live.map fun l => { lane := l, reg := 0, space := sp, addr := at_ l, len := n })
        .ok ((({ s1 with nextId := id + 1 } : State).mapWarp c.ref fun w => { w with late := w.late ++ result, storeQ := w.storeQ ++ [e] }).drainAll c.ref)

def execAtoms (h : Hdr) (op : AtomOp) (o : Order) (d a : BitVec 10) (b : BitVec 8) (cc : BitVec 10) (s : State) : Out :=
  atomOp (.atoms h op o d a b cc) s op o .core (some d.toNat) b.toNat cc.toNat .shared
    fun s c => sharedAccess s c fun l => (c.w.rv l a.toNat).toNat
def execAtomx (h : Hdr) (op : AtomOp) (o : Order) (sc : Scope) (d a : BitVec 10) (b : BitVec 8) (cc : BitVec 10) (s : State) : Out :=
  atomOp (.atomx h op o sc d a b cc) s op o sc (some d.toNat) b.toNat cc.toNat .scratch
    fun s c => scratchAccess s c 1 fun l => (c.w.rv64 l a.toNat).toNat
/-- REDX returns nothing (R144). -/
def execRedx (h : Hdr) (op : AtomOp) (o : Order) (sc : Scope) (a : BitVec 10) (b : BitVec 8) (s : State) : Out :=
  atomOp (.redx h op o sc a b) s op o sc none b.toNat 0 .scratch
    fun s c => scratchAccess s c 1 fun l => (c.w.rv64 l a.toNat).toNat

/-! ### Fences and rods -/

/-- At system scope the run of a release fence waits for a flushing read behind its accesses (R178, R185). -/
def Ctx.flushed (c : Ctx) (s : State) (sc : Scope) : State := if sc == .sys then c.blockRun s .flush else s
/-- FENCE: its waits are those it issues under. A release has every earlier access of the warp performed, an acquire comes before every
later one (R178). -/
def execFence (h : Hdr) (k : FenceKind) (sc : Scope) (s : State) : Out :=
  issue (.fence h k sc) s fun c s =>
    if c.act == 0 then .ok s
    else
      let s1 := if k == .acq then s else s.performWarp c.ref sc
      let s2 := if k == .rel then s1 else s1.observe c.ref
      .ok (if k == .acq then s2 else c.flushed s2 sc)
/-- The groups of the views that an acquire range fence names (R263). -/
def fenceViews (s : State) (b : Block) (m : Word) : List (Nat × Nat) :=
  let hs := ((List.range 32).filter fun k => m.getLsbD k).flatMap fun k => (((b.rods[k]?).getD []).filter fun r => r.space == .th).map (·.base)
  ((hs.filter fun h => (s.view? b.vf h).isSome).flatMap fun h => match s.desc? b.vf h with
    | some d => (allGroups d).map fun g => (h, g)
    | none => []).eraseDups
/-- The groups behind the one that a fence has sampled. -/
def groupsAfter (w : ViewWait) (gs : List (Nat × Nat)) : List (Nat × Nat) :=
  if gs.contains (w.handle, w.group) then (gs.dropWhile fun x => x != (w.handle, w.group)).drop 1 else gs
/-- The run stays at its word with the generations it sampled (R261). -/
def Ctx.holdSamples (c : Ctx) (s : State) (ws : List ViewWait) : State :=
  s.mapWarp c.ref fun w => { w with runs := (c.w.setRun c.run.lanes fun r => { r with samples := some ws }).runs }
/-- How many entries of a queue stand up to the last that satisfies a test. -/
def upToLast (p : StoreEntry → Bool) (q : List StoreEntry) : Nat := q.length - (q.reverse.takeWhile fun e => !p e).length
/-- A release range fence: the warp's accesses tagged with a rod of the mask are performed at a scope, and the writes of other warps that
happen before the fence (R172, R179); stores ahead of a tagged one leave the queue before it (R167). -/
def State.performRods (s : State) (r : WarpRef) (m : Word) (sc : Scope) : State :=
  match s.warp? r with
  | none => s
  | some w =>
    let s1 := (State.drain r (upToLast (fun e => (e.rods &&& m) != 0) w.storeQ) s).closeLoads r (fun l => (l.rods &&& m) != 0) fun _ => true
    s1.perform (fun f => f.known.contains (.warp r) && ((f.rods &&& m) != 0 || f.blk != r.blk || f.warp != r.num)) sc
/-- An acquire range fence: accesses tagged with a rod of the mask come after the warp's earlier loads, and after the writes that those may
have read (R179; assumption 68). -/
def State.acquireRods (s : State) (r : WarpRef) (m : Word) : State :=
  (s.learn r).mapWarp r fun w =>
    let ids := (w.late.filter fun l => l.kind == .load).map (·.id)
    let old := w.acqs.filter fun x => x.2.any fun id => w.late.any fun l => l.id == id
    { w with acqs := if ids.isEmpty then old else old ++ [(m, ids)],
             rodFloor := (List.range 32).foldl (fun f k => if m.getLsbD k then Sparse.set 0 f k s.nextId else f) w.rodFloor }
/-- FENCER: a release performs the warp's tagged accesses. An acquire first waits on the views it names, group by group; it then orders what
follows: everything, where it acts as FENCE, the tagged accesses else, and nothing where it names no rod (R148, R179, R263). -/
def execFencer (h : Hdr) (rel all : Bool) (sc : Scope) (dyn : Bool) (mask : BitVec 16) (sA : BitVec 7) (s : State) : Out :=
  issue (.fencer h rel all sc dyn mask sA) s fun c s1 =>
    let m := fencerMask c.blk c.w all dyn mask sA
    if c.act == 0 then .ok s1
    else if rel then
      .ok (if m.2 then c.flushed (s1.performWarp c.ref sc) sc
        else if m.1 == 0 then s1 else c.flushed (s1.performRods c.ref m.1 sc) sc)
    else
      let order := fun (t : State) => if m.2 then t.observe c.ref else if m.1 == 0 then t else t.acquireRods c.ref m.1
      if c.run.samples == some [] then .ok (order s1)
      else
        let cur := c.run.samples.bind (·.head?)
        let gs := fenceViews s1 c.blk m.1
        match s1.walkGroups c.blk.vf cur ((cur.map fun w => groupsAfter w gs).getD gs) with
        | .trap g => .trap (groupTrap causeVpois g)
        | .wait w _ => .hold (c.holdSamples s1 [w])
        | .done => if m.2 && c.w.late.any (fun l => l.kind == .load) then .hold (c.holdSamples s1 []) else .ok (order s1)
/-- The ranges RODDEF sets (R150). -/
def rodRanges (s : State) (vf : Nat) (rs : RodSpace) (base : DWord) (len : Word) : List Range :=
  if len == 0 then []
  else match rs with
    | .th => if (s.desc? vf (loWord base).toNat).isSome then [⟨.th, (loWord base).toNat, len.toNat⟩] else []
    | y => [⟨y, base.toNat, len.toNat⟩]
/-- RODDEF sets rod 16 + k of the block, for accesses and jobs issued after it (R150, R151). -/
def execRoddef (h : Hdr) (rs : RodSpace) (k : BitVec 4) (a b : BitVec 7) (s : State) : Out :=
  issue (.roddef h rs k a b) s fun c s =>
    .ok (if c.act == 0 then s else s.mapBlock c.ref.blk fun x =>
      { x with rods := listSet x.rods (16 + k.toNat) (rodRanges s c.blk.vf rs (c.w.rs64 a.toNat) (c.w.rs b.toNat)) })
/-- Whether the device holds posted writes toward the host for an interface that it has not issued. -/
def Vf.holdsPosts (v : Vf) : Bool := !v.frPosts.isEmpty || !v.dev.posts.isEmpty || v.queues.any fun q => !q.2.posts.isEmpty
/-- FLUSHING_READ_COMPLETE: the fences of an interface that wait for it are complete, once every posted write that the device holds for the
interface has been issued (R185). -/
def execFlushingReadComplete (vf : Nat) (s : State) : Out :=
  let done := fun (bs : List Block) => mapIf (fun (b : Block) => b.vf == vf)
    (fun b => { b with warps := b.warps.map fun w => w.release (fun x => x == .flush) (BitVec.allOnes 64) }) bs
  .next (if (s.vf vf).holdsPosts then s else { s with blocks := done s.blocks, saved := done s.saved })

end Sys2Proof.Machine
end

