-- ==== Sys2Proof/Machine/Future.lean ====
section
/-!
DEFINITION. Futures and continuations (R152 to R159, R181).
-/
namespace Sys2Proof.Machine

def causeFdbl : Nat := 0x0F

/-! ### What a block needs of a core (R9, R25, R31) -/

def roundTo (n k : Nat) : Nat := (n + k - 1) / k * k
/-- Stack backing of a block. -/
def CodeEntry.stackBytes (d : CodeEntry) : Nat := d.created * d.width * d.stack
/-- Words of register file that a warp takes. -/
def CodeEntry.warpWords (d : CodeEntry) : Nat := d.width * d.regs
/-- Whether an empty core of the interface takes the block (R12; Table 9-8, reason 3). -/
def State.fitsSome (s : State) (vf : Nat) (d : CodeEntry) : Bool :=
  !(s.vf vf).dies.isEmpty && decide (d.shared ≤ 2 ^ 20) && decide (d.scratch + d.stackBytes ≤ Config.sliceBytes)
    && decide (d.created ≤ 64) && decide ((d.created + 3) / 4 * d.warpWords ≤ Config.quadWords) && decide (d.spawnres ≤ Config.taskEntries)

/-! ### Resolution (R155) -/

def futState (s : State) (f : Nat) : Nat := u8 (readBytes s.sp f 1) 0 % 4
/-- Word 0 of a continuation record. -/
def recWord (s : State) (r : Nat) : Nat := leValue (readBytes s.sp r 4)
def orBit (n k : Nat) : Nat := if n / 2 ^ k % 2 == 1 then n else n + 2 ^ k
/-- Which of sixteen words from an address carry a poison mark. -/
def wordsBad (marks : List Nat) (a : Nat) : List Nat := (List.range 16).filter fun k => marks.contains (a / 4 + k)
/-- A continuation's TASK names no task, or its footprint fits no core: OVER is set and the host is notified (R159). -/
def State.overRecord (s : State) (l : Link) : State :=
  (s.spWrite l.record (leBytes 4 (orBit (recWord s l.record) 17))).report l.vf 6 l.launch (leBytes 8 l.record)
/-- Start a continuation whose JOIN has reached 0 (R159): it is held until it can be placed. -/
def State.startContinuation (s : State) (l : Link) : State :=
  let num := leValue (readBytes s.sp (l.record + 4) 4)
  let args := (List.range 16).map fun k => readWord s.sp (l.record + 8 + 4 * k)
  match s.codeEntry? l.vf num with
  | some e =>
    if e.isTask && s.fitsSome l.vf e.asTask then
      { s with conts := s.conts ++ [{ vf := l.vf, die := l.record / 2 ^ 30, num := num, args := args, bad := wordsBad s.spPois (l.record + 8), depth := 1, launch := l.launch, cls := l.cls,
                                      deadline := l.deadline, owner := none, cstat := if recWord s l.record / 2 ^ 16 % 2 == 1 then 2 else 1,
                                      record := l.record }] }
    else s.overRecord l
  | none => s.overRecord l
/-- One step of the loop of R155 for a record. -/
def State.joinStep (s : State) (l : Link) (fault : Bool) : State :=
  let w := recWord s l.record
  let w1 := if w % 2 ^ 16 == 0 then orBit w 17 else w - 1
  let s1 := s.spWrite l.record (leBytes 4 (if fault then orBit w1 16 else w1))
  if w % 2 ^ 16 == 1 then s1.startContinuation l else s1
/-! ### Registration (R157) -/

/-- The future operations that wait in store queues. -/
def State.queuedFutures (s : State) : List QueuedFuture :=
  (s.blocks ++ s.saved).flatMap fun b => b.warps.flatMap fun w => w.storeQ.filterMap (·.fut)
/-- The resolution that waits for a future, if one does: a lane that comes after it fails (R155; assumption 72). -/
def State.claim? (s : State) (f : Nat) : Option FutureKind :=
  (s.queuedFutures.find? fun x => x.kind != .link && x.place == f).map (·.kind)
/-- The entries of the continuation table of a die that links hold, or that are kept for registrations that wait in a queue. -/
def State.linkCount (s : State) (die : Nat) : Nat :=
  (s.links.filter fun l => l.future / 2 ^ 30 == die).length + (s.queuedFutures.filter fun x => x.kind == .link && x.place / 2 ^ 30 == die).length
/-- One lane's registration, by a warp of a core; none while it needs an entry and the table of the future's die is full. -/
def State.register? (s : State) (l : Link) (core : Nat) : Option State :=
  let s0 := s.settle l.future 16
  let st := futState s0 l.future
  if st == 0 then
    if Config.contEntries ≤ s0.linkCount (l.future / 2 ^ 30) then none
    else
      let n := u8 (readBytes s0.sp (l.future + 1) 1) 0
      some { s0.spWrite (l.future + 1) (leBytes 1 (min (n + 1) 255)) (some (core, false)) with links := s0.links ++ [l] }
  else some (s0.joinStep l (st != 1))
/-- The link that a lane of a block registers: a future and a record. -/
def Block.link (b : Block) (x : Nat × Nat) : Link :=
  { future := x.1, record := x.2, vf := b.vf, launch := b.launch, cls := b.cls, deadline := b.deadline }
/-- The lanes' registrations in ascending order, and those that wait for an entry. -/
def State.registerAll (s : State) (b : Block) : List (Nat × Nat) → State × List (Nat × Nat)
  | [] => (s, [])
  | x :: xs =>
    match s.register? (b.link x) b.core with
    | some s1 => s1.registerAll b xs
    | none =>
      let r := s.registerAll b xs
      (r.1, x :: r.2)
/-- Whether a future operation of a warp, a release of package scope, waits in the store queue: an access or a job before it is yet to be performed
(R174, R181; assumption 72). -/
def State.futureHeld (s : State) (r : WarpRef) (rods : Word) : Bool :=
  s.releaseHeld r || ((s.warp? r).map fun w => !(w.afterIds rods).isEmpty).getD false
/-- A lane's future operation enters its warp's store queue, as number `id`. -/
def State.queueFuture (s : State) (r : WarpRef) (rods : Word) (id : Nat) (f : QueuedFuture) : State :=
  s.mapWarp r fun w => { w with storeQ := w.storeQ ++ [{ space := .scratch, addr := 0, bytes := [], rel := some .pkg, rods := rods, lost := false, seq := id, after := w.afterIds rods, fut := some f }] }
/-- The lanes' registrations that enter the queue, for each of which an entry of its table is kept, and those that wait for an entry. -/
def State.queueLinks (s : State) (r : WarpRef) (rods : Word) (id : Nat) : List (Nat × Nat) → State × List (Nat × Nat)
  | [] => (s, [])
  | x :: xs =>
    if Config.contEntries ≤ s.linkCount (x.1 / 2 ^ 30) then
      let y := s.queueLinks r rods id xs
      (y.1, x :: y.2)
    else (s.queueFuture r rods id { kind := .link, place := x.1, arg := x.2 }).queueLinks r rods id xs
/-- The lanes of a warp register, at once or through the store queue; with the lanes that wait for an entry (R157). -/
def State.registerLanes (s : State) (r : WarpRef) (b : Block) (rods : Word) (xs : List (Nat × Nat)) : State × List (Nat × Nat) :=
  if s.futureHeld r rods then ({ s with nextId := s.nextId + 1 } : State).queueLinks r rods s.nextId xs
  else (s.performWarp r .pkg).registerAll b xs
/-- A run blocked in FREG registers the lanes that now can; it goes on once none is left. -/
def State.feedRun (s : State) (r : WarpRef) (run : Run) : State :=
  match s.block? r.blk, run.wait with
  | some b, some (.freg rods xs) =>
    let x := s.registerLanes r b rods xs
    x.1.mapWarp r fun w =>
      if x.2.isEmpty then w.release (fun y => y == .freg rods xs) run.lanes
      else w.setRun run.lanes fun y => { y with wait := some (.freg rods x.2) }
  | _, _ => s
/-- Entries of the continuation tables may be free: the runs blocked in FREG look again. -/
def State.feedTables (s : State) : State :=
  (s.blocks.flatMap fun b => (b.warps.zip (List.range b.warps.length)).flatMap fun x =>
    (x.1.runs.filter fun r => match r.wait with
      | some (.freg ..) => true
      | _ => false).map fun r => ((⟨b.id, x.2⟩ : WarpRef), r)).foldl (fun t x => t.feedRun x.1 x.2) s
/-- Resolve a future at its home; none where it is not EMPTY, or a resolution waits for it (R155). `core` is that of the warp that resolves it. -/
def State.resolve? (s : State) (f : Nat) (value : DWord) (fault : Bool) (tag : Nat) (core : Option Nat := none) : Option State :=
  let s0 := s.settle f 16
  let b := readBytes s0.sp f 16
  if u8 b 0 % 4 != 0 || (s.claim? f).isSome then none
  else
    let w := leBytes 1 (u8 b 0 + (if fault then 2 else 1)) ++ [((b[1]?).getD 0)] ++ leBytes 2 tag
    let s1 := s0.spWrite f (w ++ (b.drop 4).take 4 ++ leBytes 8 value.toNat) (core.map fun c => (c, false))
    let ls := s1.links.filter fun l => l.future == f
    some (ls.foldl (fun (t : State) l => t.joinStep l fault) ({ s1 with links := s1.links.filter fun l => l.future != f } : State)).feedTables

/-- The STATE that a lane of a warp finds in a future (R155, Table 9-6), the waiting resolutions counted. -/
def State.futureFound (s : State) (r : WarpRef) (f : Nat) : Nat :=
  match s.claim? f with
  | some .fault => 2
  | some _ => 1
  | none => min 2 (u8 ((s.settle f 16).warpView r f 1) 0 % 4)
/-- A lane's resolution of a future enters its warp's store queue, if the future is EMPTY. -/
def State.queueResolve? (s : State) (r : WarpRef) (rods : Word) (id f : Nat) (value : DWord) (fault : Bool) : Option State :=
  if s.futureFound r f == 0 then some (s.queueFuture r rods id { kind := if fault then .fault else .full, place := f, arg := value.toNat }) else none
/-- A future operation that has waited acts at the future's home, behind what a release comes after (R155, R157, R181); a registration that finds it
resolved takes no entry of the table after all. -/
def State.leaveFuture (s : State) (r : WarpRef) (e : StoreEntry) (f : QueuedFuture) : State :=
  match s.block? r.blk with
  | none => s
  | some b =>
    let s1 := s.beforeRelease r e
    match f.kind with
    | .link => ((s1.register? (b.link (f.place, f.arg)) b.core).getD s1).feedTables
    | k => (s1.resolve? f.place (BitVec.ofNat 64 f.arg) (k == .fault) (b.launch % 2 ^ 16) (some b.core)).getD s1
/-- The oldest entry of a warp's queue leaves it, where it may. -/
def State.drainNext (s : State) (r : WarpRef) : State :=
  let s1 := s.makeLoads r
  match s1.warp? r with
  | none => s1
  | some w => match w.storeQ with
    | [] => s1
    | e :: q => match e.fut with
      | some f => if s1.mayLeave r e then (s1.setWarp r { w with storeQ := q }).leaveFuture r e f else s1
      | none => s.drainOne r

/-- Every entry of a warp's queue leaves it, in order, as far as it may. -/
def State.drainWhole (r : WarpRef) : Nat → State → State
  | 0, s => s
  | n + 1, s => State.drainWhole r n (s.drainNext r)

/-! ### The instructions -/

/-- The address of a future, in the scratchpad (R153). -/
def futureAccess (s : State) (c : Ctx) (ad : MAddr) : Access :=
  { scratchAccess s c 3 fun l => (scratchEA c.w ad l).toNat with bad := addrPois ad c.w 2 }
/-- The lanes' resolutions in ascending order: the state, and the first lane that failed with the STATE it found. -/
def resolveLanes (f : State → Nat → Option State) (found : State → Nat → Nat) : List Nat → State → State × Option (Nat × Nat)
  | [], s => (s, none)
  | l :: ls, s =>
    match f s l with
    | some s1 => resolveLanes f found ls s1
    | none =>
      let r := resolveLanes f found ls s
      (r.1, some (l, found s l))
/-- FRES and FFLT: a release of package scope; the instruction completes in every lane, and then traps FDBL if a lane failed (R155, R156, R181).
Where an access or a job before it is yet to be performed, the lanes that find their futures EMPTY resolve them through the store queue
(R17; assumption 72). -/
def resolveOp (i : Instr) (fault : Bool) (d : BitVec 10) (ad : MAddr) (s : State) : Out :=
  issue i s fun c s =>
    let a := futureAccess s c ad
    match a.trap c.live 16 16 with
    | some t => .trap t
    | none =>
      if c.act == 0 then .ok s
      else
        let at_ := fun (l : Nat) => physOf s c.blk.vf (a.ea l)
        let rods := accessRods s c a c.live 16
        let found := fun (s : State) (l : Nat) => s.futureFound c.ref (at_ l)
        let r := if s.futureHeld c.ref rods then
            resolveLanes (fun t l => t.queueResolve? c.ref rods s.nextId (at_ l) (c.w.rv64 l d.toNat) fault) found c.live { s with nextId := s.nextId + 1 }
          else resolveLanes (fun s l => s.resolve? (at_ l) (c.w.rv64 l d.toNat) fault (c.blk.launch % 2 ^ 16) (some c.blk.core)) found c.live (s.performWarp c.ref .pkg)
        .ok (match r.2 with
          | none => r.1
          | some x => r.1.takeTrap c.ref c.run.pc c.run.lanes { cause := causeFdbl, info := BitVec.ofNat 32 (x.1 * 2 ^ 26 + x.2) })
def execFres (h : Hdr) (d : BitVec 10) (ad : MAddr) (s : State) : Out := resolveOp (.fres h d ad) false d ad s
def execFflt (h : Hdr) (d : BitVec 10) (ad : MAddr) (s : State) : Out := resolveOp (.fflt h d ad) true d ad s

/-- Whether a lane's read of a future is an acquire: STATE is FULL or FAULT (R181). -/
def futureRead (bs : List Byte) : Bool := u8 bs 0 % 4 != 0
/-- LDF parks its lanes while their futures are EMPTY (R154). -/
def execLdf (h : Hdr) (wide : Bool) (d : BitVec 10) (ad : MAddr) (s : State) : Out :=
  issue (.ldf h wide d ad) s fun c s =>
    let a := futureAccess s c ad
    match (a.trap c.live 16 16).or (a.poisTrap c.live 16) with
    | some t => .trap t
    | none => .ok (c.waitLoad s a 16 (if wide then 4 else 2) (.future wide d.toNat (accessRods s c a c.live 16) []) fun l => !futureRead (a.view l 16))
/-- FPOLL loads a future in any state (R154). -/
def execFpoll (h : Hdr) (wide : Bool) (d : BitVec 10) (ad : MAddr) (s : State) : Out :=
  issue (.fpoll h wide d ad) s fun c s =>
    let a := futureAccess s c ad
    match (a.trap c.live 16 16).or (a.poisTrap c.live 16) with
    | some t => .trap t
    | none =>
      let ls := c.lanes.filter fun l => c.act.has l || !a.fails l 16 16
      .ok (if c.act == 0 then s
        else s.startLoad c.ref
          { id := 0, kind := .load, writes := c.zeros a d.toNat 16 (if wide then 4 else 2), rods := accessRods s c a c.live 16, poll := true,
            rest := ls.map fun l => waitPart (.future wide d.toNat 0 []) l (physOf s c.blk.vf (a.ea l)) } fun _ => true)

/-- The checks of FREG on both addresses of a lane: the future's, then the record's (R157). -/
def fregTrap (s : State) (c : Ctx) (d : BitVec 10) (a : Access) : Option Trap :=
  let rec_ : Nat → Nat := fun l => (c.w.rv64 l d.toNat).toNat
  match c.live.find? fun l => a.ea l % 16 != 0 || rec_ l % 128 != 0 with
  | some l => some (addrTrap causeAlgn l 3)
  | none => (c.live.find? fun l => a.out l 16 || outOfWindow s c.blk.vf (rec_ l) 128).map fun l => addrTrap causeXbnd l 3
/-- FREG: a release of package scope, through the store queue where an access or a job before it is yet to be performed (R17, R181; assumption
72). The run is blocked while a lane waits for an entry of a full table (R157). -/
def execFreg (h : Hdr) (d : BitVec 10) (ad : MAddr) (s : State) : Out :=
  issue (.freg h d ad) s fun c s =>
    let a := futureAccess s c ad
    match fregTrap s c d a with
    | some t => .trap t
    | none =>
      if c.act == 0 then .ok s
      else
        let rods := accessRods s c a c.live 16
        let x := s.registerLanes c.ref c.blk rods (c.live.map fun l => (physOf s c.blk.vf (a.ea l), physOf s c.blk.vf (c.w.rv64 l d.toNat).toNat))
        .ok (if x.2.isEmpty then x.1 else c.blockRun x.1 (.freg rods x.2))

end Sys2Proof.Machine
end

