-- ==== Sys2Proof/Machine/Sign.lean ====
section
/-!
DEFINITION. The matrix instructions as words (R219, R231, R237, R238) and the steps of the matrix engine. Matrix.lean holds
what a completed signing and an operation do.
-/
namespace Sys2Proof.Machine

/-- What every block's end of step brings about, after a step that no warp issued (R232, R359). -/
def State.settleAll (s : State) : State := s.blocks.foldl (fun t b => t.endStep ⟨b.id, 0⟩ 0) s

/-- The poisoned scalar of a scratchpad or tile pair that a matrix word reads (R228, R229, R324), as the format word of its lowest signing lane
tells it. Operand registers carry their poison into the result (R235). -/
def pairPois (w : Warp) (word : MatWord) (act : Mask) : Option Trap :=
  let l := lowestLane act
  let fmt := w.rv l word.c
  let of := fun (lo field : Nat) => if fw fmt lo 2 == 0 || fw fmt lo 2 == 3 || fieldBad field then [] else [field, field + 1]
  ((of 16 word.a ++ of 18 word.b).find? fun n => w.sPois.contains n).map fun n =>
    { cause := causePois, info := BitVec.ofNat 32 (l * 2 ^ 26 + 4 * 2 ^ 23 + n) }
/-- MMA, MMAS and MMAT: the active live lanes sign and block; a set that is not the warp's live lanes traps MTEAM (R231). -/
def signOp (i : Instr) (word : MatWord) (s : State) : Out :=
  issue i s fun c s =>
    if c.act == 0 then .ok s
    else match pairPois c.w word c.act with
    | some t => .trap t
    | none => if (c.w.jset word.j).member != c.w.live then .trap { cause := causeMteam, info := mteamInfo c.ref.num 1 }
    else .ok (c.block s c.act (.sign word))
def matWord (op : Nat) (st : BitVec 2) (j : BitVec 4) (d a b c : BitVec 10) : MatWord :=
  { op := op, d := d.toNat, a := a.toNat, b := b.toNat, c := c.toNat, st := st.toNat, j := j.toNat }
def execMma (h : Hdr) (st : BitVec 2) (j : BitVec 4) (d a b c : BitVec 10) (s : State) : Out :=
  signOp (.mma h st j d a b c) (matWord opMMA st j d a b c) s
def execMmas (h : Hdr) (st : BitVec 2) (j : BitVec 4) (d a b c : BitVec 10) (s : State) : Out :=
  signOp (.mmas h st j d a b c) (matWord opMMAS st j d a b c) s
def execMmat (h : Hdr) (st : BitVec 2) (j : BitVec 4) (d a b c : BitVec 10) (s : State) : Out :=
  signOp (.mmat h st j d a b c) (matWord opMMAT st j d a b c) s

/-- The team of a warp (R11). -/
def Ctx.team (c : Ctx) : Nat := c.ref.num / c.blk.decl.team
/-- MSYNC blocks the active lanes until the operations its team has issued on the stream have completed (R237). -/
def execMsync (h : Hdr) (st : BitVec 2) (s : State) : Out :=
  issue (.msync h st) s fun c s =>
    let ids := (s.ops.filter fun o => o.blk == c.ref.blk && o.team == c.team && o.st == st.toNat).map (·.id)
    .ok (if ids.isEmpty then s else c.block s c.act (.msync ids))
/-- MCHG: the charge of the team's last operation on the stream, when that operation has completed; 0 where there is none
(R238). -/
def execMchg (h : Hdr) (st : BitVec 2) (d : BitVec 10) (s : State) : Out :=
  issue (.mchg h st d) s fun c s =>
    let t := (c.blk.teams[c.team]?).getD { avg := 0, lastOp := [], charge := [], passed := 0 }
    let last := Sparse.get 0 t.lastOp st.toNat
    let held := last != 0 && (s.op? (last - 1)).isSome
    .ok (c.late s (if held then .opCharge (last - 1) else .plain) 0
      (c.lanes.map fun l => (.v l d.toNat, if held then 0 else Sparse.get 0 t.charge st.toNat)))

/-- MATRIX_OP_START: the core's engine starts the operation it grants next (R233, R239). -/
def execMatrixOpStart (core : Nat) (s : State) : Out := .next (s.startOp core)
/-- MATRIX_OP_COMPLETE: an operation lands (R233, R237); a signing held while four were outstanding may then complete (R314). -/
def execMatrixOpComplete (op : Nat) (s : State) : Out := .next ((s.finishOp op).settleAll)

end Sys2Proof.Machine
end

