-- ==== Sys2Proof/Machine/Transfer.lean ====
section
/-!
DEFINITION. Transfers (R240 to R250): the checks of a descriptor, chunks and their counting, peer copies (R248, R321, R350,
R351), the generations that a transfer raises (R254, R257), and translation faults of chunks (R320).
-/
namespace Sys2Proof.Machine

/-! ### The descriptor (R241, R242) -/

def Side.code (x : Side) : Nat := (x.space.map spaceCode).getD 3
def Side.trap (x : Side) (cause : Nat) : Trap := group5Trap cause x.wh x.code
/-- Whether every byte of a scratchpad range lies in the interface's windows (R136). -/
def Vf.inWindow (v : Vf) (a n : Nat) : Bool :=
  ((List.range (n / Config.sliceBytes + 1)).all fun k => (v.scratch? (a + k * Config.sliceBytes)).isSome) && (v.scratch? (a + n - 1)).isSome
/-- Steps 3 and 4 of R242 for one side. -/
def Side.shOut (x : Side) (shared len : Nat) : Bool :=
  x.space == some .sh && (decide (2 ^ 32 ≤ x.addr) || (decide (0 < x.rows) && decide (0 < len) && decide (shared < x.addr + (x.rows - 1) * x.pitch + len)))
def Side.spOut (x : Side) (v : Vf) (len : Nat) : Bool :=
  x.space == some .sp && decide (0 < len) && (List.range x.rows).any fun i => !v.inWindow (x.addr + i * x.pitch) len
/-- Step 2 of R242: DST, SRC, LEN, SPITCH, DPITCH, in that order. BFILL's SRC is no address; its SPITCH, which has no side, is reported with
the code of its source field (assumption 46). -/
def alignTrap (x : Reach) : Option Trap :=
  let d := x.d
  let bad := fun (n : Nat) (y : Side) => if n % 4 != 0 then some (y.trap causeAlgn) else none
  let none_ : Side := { wh := 1, space := some .mm, addr := 0, pitch := 0, rows := 0 }
  (((((bad d.dst x.dst).or (x.src.bind fun y => bad d.src y)).or (bad d.len x.dst)).or (bad d.spitch (x.src.getD none_)))).or (bad d.dpitch x.dst)
/-- The checks of R242 in order. -/
def descTrap (v : Vf) (shared : Nat) (x : Reach) : Option Trap :=
  let d := x.d
  if d.w4.toNat / 2 ^ 28 != 0 || d.w5.toNat / 2 ^ 27 != 0 || decide (0xFFFFFFFC < d.rows * d.len) then some (illTrap 3 0 0)
  else (alignTrap x).or
    (if x.dst.shOut shared d.len then some (x.dst.trap causeSbnd)
    else match x.src with
      | some y =>
        if y.shOut shared d.len then some (y.trap causeSbnd)
        else if x.dst.spOut v d.len then some (x.dst.trap causeXbnd)
        else if y.spOut v d.len then some (y.trap causeXbnd) else none
      | none => if x.dst.spOut v d.len then some (x.dst.trap causeXbnd) else none)

/-! ### Chunks (R243) -/

/-- Offsets and lengths of the pieces of a row that fall in one aligned 4 KiB block of the destination. -/
def pieces (dst len : Nat) : List (Nat × Nat) :=
  let o := dst % 4096
  (List.range ((o + len + 4095) / 4096)).map fun k =>
    let lo := 4096 * k - o
    (lo, min len (4096 * (k + 1) - o) - lo)
/-- The chunks of a row; a chunk's number gives its row and its piece. -/
def rowChunks (row dst len : Nat) (index : Option Nat) : List Chunk :=
  let ps := pieces dst len
  (ps.zip (List.range ps.length)).map fun x =>
    { id := row * 2 ^ 17 + x.2, row := row, off := x.1.1, len := x.1.2, index := index, sent := false, parked := none, later := false }
/-- The chunks of a job; a row of a scatter is cut when its index has been read (R246). -/
def planChunks (kind : JobKind) (dst len rows dpitch : Nat) : List Chunk :=
  (List.range rows).flatMap fun i =>
    if kind == .scatter then [{ id := i * 2 ^ 17, row := i, off := 0, len := len, index := none, sent := false, parked := none, later := false }]
    else rowChunks i (dst + i * dpitch) len none

/-! ### Issue -/

/-- A transfer as an instruction issues it: where it reaches, its own traps before and after those of R242, and its job but for what
the machine adds. -/
structure XReq where
  reach : Reach
  first : Option Trap := none
  extra : Option Trap := none
  job : Job

/-- A job with no chunk yet. -/
def Ctx.newJob (c : Ctx) (kind : JobKind) (dst src : XSpace) (bar : Nat) (d : XDesc) : Job :=
  { id := 0, vf := c.blk.vf, blk := c.ref.blk, warp := c.ref.num, staging := false, kind := kind, dst := dst, src := src, dstAddr := d.dst,
    srcAddr := d.src, len := d.len, rows := d.rows, sPitch := d.spitch, dPitch := d.dpitch, pattern := d.pattern, bar := bar, list := 0, limit := 0,
    cores := 0, dev := 0, peer := 0, sig := 0, chunks := [], reads := [], writes := [], rods := 0, failed := false }
/-- Start a job: its footprint, its rods and its chunks, and the predicate of a FLAG view (R244, R147, R250). -/
def Ctx.startJob (c : Ctx) (s : State) (x : XReq) (flag : Option Bool) : State :=
  let d := x.reach.d
  let rods := s.rodTags c.blk (x.reach.reads ++ x.reach.writes)
  let j : Job := { x.job with
    id := s.nextId, reads := x.reach.reads, writes := x.reach.writes, rods := rods, after := (c.now s).jobAfter rods,
    chunks := planChunks x.job.kind d.dst d.len d.rows d.dpitch }
  let s1 : State := { s with nextId := s.nextId + 1, jobs := s.jobs ++ [j] }
  match flag with
  | some v => if d.flagp == 7 then s1 else c.late s1 (.job j.id) 0 (c.lanes.map fun l => (.p l d.flagp, if v then 1 else 0))
  | none => s1
/-- Fields of the peer word (Table 13-13). -/
def peerDev (p : Word) : Nat := p.toNat % 256
def peerSig (p : Word) : Bool := p.getLsbD 8
def peerScr (p : Word) : Bool := p.getLsbD 9
def peerVal (p : Word) : Nat := p.toNat / 2 ^ 16
/-- The peer interface that an interface's binding names on a device (R351). -/
def Vf.bound? (v : Vf) (dev : Nat) : Option Nat :=
  let x := Sparse.get 0 v.fbind dev
  if x.getLsbD 7 then some (x.toNat % 128) else none
/-- Whether a peer device is reached: a port is up, and the interface is bound there (R350, R351). -/
def State.reaches (s : State) (vf dev : Nat) : Bool := s.ports != 0 && ((s.vf vf).bound? dev).isSome
/-- The peer interface of a peer copy. -/
def State.peerVf (s : State) (j : Job) : Nat := ((s.vf j.vf).bound? j.dev).getD 0
/-- Whether the end of a job sends a remote signal: a push with SIG set, none of whose rows is undelivered (R248). -/
def Job.signals (j : Job) : Bool := j.kind == .push && peerSig j.peer && !j.failed
/-- The remote signal of a peer copy is sent; one that reaches no peer is undelivered, and the host is told (R248, R350). -/
def State.sendSignal (s : State) (j : Job) : State :=
  if !j.signals then s
  else if s.reaches j.vf j.dev then { s with
    fab := s.fab ++ [.signal j.dev (s.peerVf j) j.sig (peerVal j.peer)]
    signals := s.signals ++ [(j.id, j.vf)] }
  else s.report j.vf 6 0 []
/-- A job is complete: its remote signal is sent (R248), its predicate lands (R250), and its block may end (R193). -/
def State.endJob (s : State) (j : Job) : State :=
  let s1 := ({ s with jobs := s.jobs.filter fun x => x.id != j.id } : State).sendSignal j
  let s2 := s1.mapWarp ⟨j.blk, j.warp⟩ fun w =>
    let done := w.late.filter fun l => l.kind == .job j.id
    { done.foldl (fun w l => w.landWrites l.writes) w with late := w.late.filter fun l => l.kind != .job j.id }
  s2.noteBlock j.blk
/-- The bytes of a view that a transfer may read (R250): none where it moves nothing. -/
def Reach.viewReads (x : Reach) : List Range := if x.d.len == 0 || x.d.rows == 0 then [] else (x.src.map fun y => y.ranges x.d.len).getD []
/-- Issue a transfer: it acts once for its run (R242). A copy of no bytes still sends its signal (R248). -/
def transferOp (i : Instr) (s : State) (req : Ctx → XReq) : Out :=
  issue i s fun c s =>
    if c.act == 0 then .ok s
    else
      let x := req c
      match (x.first.or (descTrap (s.vf c.blk.vf) c.blk.decl.shared x.reach)).or x.extra with
      | some t => .trap t
      | none =>
        let ws := c.run.samples.getD (s.sampleGroups c.blk.vf (s.readGroups c.blk.vf x.reach.viewReads))
        match s.checkViews ws with
        | .trap t => .trap t
        | .wait _ => .hold (c.holdSamples s ws)
        | .pass flag =>
          .ok (if x.reach.d.rows == 0 || x.reach.d.len == 0 then (if x.job.kind == .push then ({ s with nextId := s.nextId + 1 } : State).endJob { x.job with id := s.nextId } else s)
            else c.startJob s x (if ws.any (fun w => s.policy w == 1) then some flag else none))

/-- BCP (R245). -/
def execBcp (h : Hdr) (dst src : XSpace) (bar : BitVec 4) (a : BitVec 7) (s : State) : Out :=
  transferOp (.bcp h dst src bar a) s fun c =>
    let x := copyReach c.w dst src a
    { reach := x, job := c.newJob .copy dst src bar.toNat x.d }
/-- BFILL (R245): the pattern is no address. -/
def execBfill (h : Hdr) (dst : XSpace) (bar : BitVec 4) (a : BitVec 7) (s : State) : Out :=
  transferOp (.bfill h dst bar a) s fun c =>
    let x := fillReach c.w dst a
    { reach := x, job := c.newJob .fill dst .sh bar.toNat x.d }
/-- BPFX (R249). -/
def execBpfx (h : Hdr) (bar : BitVec 4) (a : BitVec 7) (s : State) : Out :=
  transferOp (.bpfx h bar a) s fun c =>
    let x := copyReach c.w .sp .mm a
    { reach := x, job := c.newJob .prefetch .sp .mm bar.toNat x.d }
/-- BMC (R247). -/
def execBmc (h : Hdr) (src : XSpace) (bar : BitVec 4) (a : BitVec 7) (mask : BitVec 4) (s : State) : Out :=
  transferOp (.bmc h src bar a mask) s fun c =>
    let x := copyReach c.w .sh src a
    { reach := x, job := { c.newJob .multicast .sh src bar.toNat x.d with cores := mask } }
/-- The checks on an index list (R246): WHERE 2, in shared memory. -/
def listTrap (shared off rows : Nat) : Option Trap :=
  if off % 4 != 0 then some (group5Trap causeAlgn 2 2)
  else if decide (0 < rows) && decide (shared < off + 4 * rows) then some (group5Trap causeSbnd 2 2) else none
/-- BGA (R246). -/
def execBga (h : Hdr) (dst src : XSpace) (bar : BitVec 4) (a i : BitVec 7) (s : State) : Out :=
  transferOp (.bga h dst src bar a i) s fun c =>
    let x := gatherReach c.w dst src a i
    { reach := x, extra := listTrap c.blk.decl.shared (indexOff c.w i) x.d.rows,
      job := { c.newJob .gather dst src bar.toNat x.d with list := indexOff c.w i, limit := indexLimit c.w i } }
/-- BSC (R246). -/
def execBsc (h : Hdr) (dst src : XSpace) (bar : BitVec 4) (a i : BitVec 7) (s : State) : Out :=
  transferOp (.bsc h dst src bar a i) s fun c =>
    let x := scatterReach c.w dst src a i
    { reach := x, extra := listTrap c.blk.decl.shared (indexOff c.w i) x.d.rows,
      job := { c.newJob .scatter dst src bar.toNat x.d with list := indexOff c.w i, limit := indexLimit c.w i } }
/-- BCPP's ILL, which depends on the peer word: it comes first (R248). That `.pull` names s0 is checked of the word itself (R54, R74). -/
def peerIll (pull : Bool) (g : BitVec 7) (p : Word) : Option Trap :=
  if (!pull && !peerSig p && g != 0) || (pull && peerSig p) then some (illTrap 2 0 0)
  else if p.toNat / 2 ^ 10 % 64 != 0 then some (illTrap 3 0 0) else none
/-- BCPP's own checks after R242: the signal word, then the peer device (R248, Table 13-1). The signal word lies in the peer's scratchpad: its SPACE is
that of the fabric (assumption 83). -/
def peerTrap (v : Vf) (p : Word) (sig : Nat) : Option Trap :=
  if peerSig p && sig % 4 != 0 then some (group5Trap causeAlgn 6 3)
  else if (v.bound? (peerDev p)).isNone then some (group5Trap causeXbnd 5 3) else none
/-- BCPP (R248). -/
def execBcpp (h : Hdr) (pull scr : Bool) (bar : BitVec 4) (a p g : BitVec 7) (s : State) : Out :=
  transferOp (.bcpp h pull scr bar a p g) s fun c =>
    let x := peerReach c.w pull scr a
    let word := c.w.rs p.toNat
    let sig := (c.w.rs64 g.toNat).toNat
    let here : XSpace := if scr then .sp else .mm
    { reach := x, first := peerIll pull g word, extra := peerTrap (s.vf c.blk.vf) word sig,
      job := { c.newJob (if pull then .pull else .push) here here bar.toNat x.d with dev := peerDev word, peer := word, sig := sig } }

/-! ### Bytes of a chunk -/

/-- One aligned word that an engine job of a block reads, and whether it is poisoned; a main-memory word that does not translate gives its
address. A word of which the warp has stores that it has not released takes one of its values (R182). -/
def State.engineWord (s : State) (b : Block) (r : Reader) (x : XSpace) (a : Nat) : Except Nat (List Byte × Bool) :=
  let scratch := fun (p : Nat) => (s.jobWord r .scratch p (s.engineView p 4), s.jobPois r p)
  match x with
  | .mm => match s.translate b.vf false a false false with
    | none => .error a
    | some (.main p) => .ok (readBytes s.mm p 4, s.locPois (.main p))
    | some (.scratch p) => .ok (scratch p)
  | .sp => .ok (scratch (physOf s b.vf a))
  | .sh => .ok (s.jobWord r .shared a (b.sharedRead a 4), b.sharedPois.contains (a / 4) && !s.jobClean r .shared a)
/-- `n` words from an address, with the numbers of the poisoned ones. -/
def State.engineWords (s : State) (b : Block) (r : Reader) (x : XSpace) (a n : Nat) : Except Nat (List Byte × List Nat) :=
  ((List.range n).foldl (fun (acc : Except Nat (List (List Byte) × List Nat)) k =>
    match acc with
    | .error e => .error e
    | .ok (bs, bad) => match s.engineWord b r x ((a + 4 * k) % 2 ^ 64) with
      | .error e => .error e
      | .ok (w, p) => .ok (w :: bs, if p then k :: bad else bad)) (.ok ([], []))).map fun x => (x.1.reverse.flatten, x.2)
/-- Mark words of a written place as poisoned: in main memory, the blocks that hold them (R323). -/
def State.poisonPlace (s : State) (l : Loc) (bad : List Nat) : State :=
  match l with
  | .main p => { s with mmPois := bad.foldl (fun m k => addPois m ((p + 4 * k) / 64)) s.mmPois }
  | .scratch p => { s with spPois := bad.foldl (fun m k => addPois m ((p + 4 * k) / 4)) s.spPois }
/-- Bytes written at a place and performed at package scope, with the poison they carry. -/
def State.writePlace (s : State) (l : Loc) (bs : List Byte) (bad : List Nat) : State :=
  let s1 := match l with
    | .scratch p => s.settle p bs.length
    | .main _ => s
  (s1.locWrite l bs).poisonPlace l bad
/-- Bytes written into a block's shared memory. -/
def Block.writeShared (b : Block) (a : Nat) (bs : List Byte) (bad : List Nat) : Block :=
  let b1 := b.sharedWrite a bs
  { b1 with sharedPois := bad.foldl (fun m k => addPois m (a / 4 + k)) b1.sharedPois }
/-- The blocks that receive a job's bytes: the issuing block, or those of its gang on the cores named (R247). -/
def State.receivers (s : State) (b : Block) (j : Job) : List Block :=
  if j.kind == .multicast then
    s.blocks.filter fun x => x.clu == b.clu && j.cores.getLsbD (x.core % 4) && (x.id == b.id || (x.gang == b.gang && b.gang.isSome))
  else [b]
/-- Write a chunk's bytes at its destination; a destination that does not translate gives its address. -/
def State.writeChunk (s : State) (b : Block) (j : Job) (a : Nat) (bs : List Byte) (bad : List Nat) : Except Nat State :=
  match j.dst with
  | .mm => match s.translate b.vf false (a % 2 ^ 64) true false with
    | none => .error (a % 2 ^ 64)
    | some l => .ok (s.writePlace l bs bad)
  | .sp => .ok (s.writePlace (.scratch (physOf s b.vf a)) bs bad)
  | .sh => .ok ((s.receivers b j).foldl (fun t x => t.mapBlock x.id fun y => y.writeShared a bs bad) s)

/-! ### Generations (R254, R257) -/

/-- The handles whose table entry has VALID set (Table 17-1): the listed bytes of the table's pages that can hold it. -/
def State.handles (s : State) (vf : Nat) : List Nat :=
  let hot := fun (m : Memory) => m.filter fun e => e.1 % 256 == 3 && e.2.msb
  let mm := hot s.mm
  let sc := hot s.sp
  if mm.isEmpty && sc.isEmpty then []
  else
    let v := s.vf vf
    let page := fun (k base : Nat) (m : Memory) =>
      (m.filter fun e => decide (base ≤ e.1) && decide (e.1 < base + 65536)).map fun e => 256 * k + (e.1 - base) / 256
    let at_ := fun (early : Bool) (k : Nat) =>
      match s.translate vf early (v.htab.toNat + 65536 * k) false false with
      | some (.main a) => page k a mm
      | some (.scratch a) => page k a sc
      | none => []
    (List.range 4096).flatMap fun k =>
      (at_ false k).filter (fun h => !v.thEarly h) ++ (if v.earlyTh.isEmpty then [] else (at_ true k).filter v.thEarly)
/-- The master tiles with a byte in the ranges, with the bytes of the tile image that the ranges meet. -/
def State.tilesHit (s : State) (vf : Nat) (rs : List Range) : List (Nat × Nat × Desc × List (Nat × Nat)) :=
  if rs.all fun r => r.space == .sh then []
  else (s.handles vf).flatMap fun h =>
    match s.desc? vf h with
    | some d =>
      if d.view then []
      else (List.range d.tiles).filterMap fun t =>
        match s.record? vf d t with
        | some x =>
          let hits := x.copies.flatMap fun c =>
            (rs.filter fun r => (match c.home with
              | .main _ => r.space == (if d.early then .sp else .mm)
              | .scratch _ => r.space == .sp
              | .peer _ => false) && meets c.addr d.tileBytes r.base r.len).map fun r => (r.base - c.addr, r.base + r.len - c.addr)
          if hits.isEmpty then none else some (h, t, d, hits)
        | none => none
    | none => []
/-- A completed transfer raises the generation of every master tile that its write footprint meets, once; peer copies raise none. -/
def State.raiseFor (s : State) (j : Job) : State :=
  if j.kind == .push || j.kind == .pull then s
  else (s.tilesHit j.vf j.writes).foldl (fun t x =>
    t.rise j.vf x.1 x.2.1 x.2.2.1 fun vd k => x.2.2.2.any fun r => groupReads vd x.2.2.1 k r.1 r.2) s

/-! ### The end of a chunk and of a job -/

/-- A chunk is performed, or done without: the generations rise after the last one, then its bytes are counted (R243, R254). -/
def State.endChunk (s : State) (b : Block) (j : Job) (id n : Nat) (counted : Bool) : State :=
  let rest := j.chunks.filter fun c => c.id != id
  let j1 := { j with chunks := rest }
  let s1 := s.setJob j1
  let s2 := if rest.isEmpty then s1.raiseFor j1 else s1
  let s3 := if counted then (s.receivers b j).foldl (fun t x => t.countBytes x.id j.bar n) s2 else s2
  if rest.isEmpty then s3.endJob j1 else s3
/-- A row that no answer performed: it is not counted, its copy sends no signal, and the host is notified (R248). -/
def State.loseChunk (s : State) (b : Block) (j : Job) (id n : Nat) : State :=
  (s.endChunk b { j with failed := true } id n false).report j.vf 6 b.launch []
/-- A chunk parks on a translation fault (R320). -/
def State.parkChunk (s : State) (b : Block) (j : Job) (id va : Nat) : State :=
  let p := s.park j.vf b.launch va (.chunk j.id id)
  p.2.setJob { j with chunks := mapIf (fun c => c.id == id) (fun c => { c with parked := some p.1, sent := false }) j.chunks }

/-! ### Movement -/

/-- Who reads for a chunk: the warp that issued its job; a staging copy sees no warp's stores before their release. -/
def Job.reader (j : Job) (c : Chunk) : Reader :=
  { ws := if j.staging then [] else [⟨j.blk, j.warp⟩], seq := j.id, free := chunkFree j.id c.id }
/-- The entry of a job's index list for the row of a chunk, read as the job reads any word of shared memory (R182, R246); a poisoned entry is an
index like any other, and passes no poison on (assumption 85). -/
def State.listEntry (s : State) (b : Block) (j : Job) (c : Chunk) : Nat :=
  let a := j.list + 4 * c.row
  leValue (s.jobWord (j.reader c) .shared a (b.sharedRead a 4))
/-- The index of a chunk's row, read with the row's first chunk; the row of a scatter is then cut into its chunks (R246). -/
def Job.withIndex (s : State) (b : Block) (j : Job) (c : Chunk) : Job :=
  if c.index.isSome || !(j.kind == .gather || j.kind == .scatter) then j
  else
    let x := s.listEntry b j c
    if j.kind == .scatter && decide (x < j.limit) then
      { j with chunks := j.chunks.flatMap fun y => if y.id == c.id then rowChunks c.row (j.dstAddr + x * j.dPitch) j.len (some x) else [y] }
    else { j with chunks := mapIf (fun y => y.row == c.row) (fun y => { y with index := some x }) j.chunks }
/-- Where a chunk's bytes come from and go to. -/
def Job.srcAt (j : Job) (c : Chunk) : Nat := j.srcAddr + (if j.kind == .gather then c.index.getD 0 else c.row) * j.sPitch + c.off
def Job.dstAt (j : Job) (c : Chunk) : Nat := j.dstAddr + (if j.kind == .scatter then c.index.getD 0 else c.row) * j.dPitch + c.off
/-- Whether a row's index is at or above LIMIT. -/
def Job.beyond (j : Job) (c : Chunk) : Bool := (j.kind == .gather || j.kind == .scatter) && decide (j.limit ≤ c.index.getD 0)
/-- The bytes of a chunk: a pattern, zeros, or its source. -/
def State.chunkBytes (s : State) (b : Block) (j : Job) (c : Chunk) : Except Nat (List Byte × List Nat) :=
  if j.kind == .fill then .ok ((List.replicate (c.len / 4) (leBytes 4 j.pattern.toNat)).flatten, [])
  else if j.beyond c then .ok (List.replicate c.len 0, [])
  else (s.engineWords b (j.reader c) j.src (j.srcAt c) ((c.len + 3) / 4)).map fun x => (x.1.take c.len, x.2)
def Job.ranges (x : XSpace) (a n : Nat) : Range :=
  ⟨match x with
    | .mm => .mm
    | .sp => .sp
    | .sh => .sh, a, n⟩
/-- Earlier stores of the issuing warp that are still queued toward bytes of a chunk's destination: they come before the job's write in the
warp's order of that location (R167, R182). -/
def State.queuedFor (s : State) (j : Job) (rs : List Range) : Bool :=
  !j.staging && (((s.warp? ⟨j.blk, j.warp⟩).map (·.storeQ)).getD []).any fun e => decide (e.seq < j.id) && e.places.any fun x => rs.any fun r =>
    match e.space with
    | .shared => r.space == .sh && meets x.1 x.2 r.base r.len
    | .scratch => r.space == .sp && meets x.1 x.2 (physOf s j.vf r.base) r.len
/-- The bytes that a chunk writes and reads. -/
def Job.chunkWrites (j : Job) (c : Chunk) : List Range :=
  if j.kind == .push then [] else if j.kind == .scatter then j.writes else [Job.ranges j.dst (j.dstAt c) c.len]
def Job.chunkReads (j : Job) (c : Chunk) : List Range :=
  if j.kind == .pull || j.kind == .fill then [] else if j.kind == .gather then j.reads
  else [Job.ranges j.src (j.srcAt c) c.len] ++ j.reads.filter fun r => j.kind == .scatter && r.space == .sh
/-- Whether an earlier job or operation of the block, of those that two tests select, keeps a chunk from moving (R180). -/
def State.chunkBehind (s : State) (j : Job) (c : Chunk) (job : Job → Bool) (op : MatOp → Bool) : Bool :=
  let wr := j.chunkWrites c
  let rd := j.chunkReads c
  (s.jobs.any fun e => job e && e.blk == j.blk && decide (e.id < j.id) && (rangesMeet e.writes rd || rangesMeet e.reads wr || rangesMeet e.writes wr))
    || s.ops.any fun o => op o && o.blk == j.blk && decide (o.id < j.id) && rangesMeet o.reads wr
/-- What keeps a chunk from moving: earlier jobs of the block (R180), the commit of a view that it reads (R259), and stores toward its
destination. -/
def State.chunkHeld (s : State) (j : Job) (c : Chunk) : Bool :=
  s.commitHeld j.vf (j.chunkReads c) || s.queuedFor j (j.chunkWrites c) || s.chunkBehind j c (fun _ => true) fun _ => true
/-- Whether a chunk may move now: what its job's warp has to read first has been read (R174, R179). -/
def State.chunkFree (s : State) (j : Job) (c : Chunk) : Bool :=
  !c.sent && c.parked.isNone && !c.later && s.loadsDone [⟨j.blk, j.warp⟩] j.after && !s.chunkHeld j c
def State.coreJobs (s : State) (core : Nat) : List Job := s.jobs.filter fun j => match s.block? j.blk with
  | some b => b.core == core
  | none => false
/-- Rows of a core that wait for their receivers (R321). -/
def State.replayRows (s : State) (core : Nat) : Nat := ((s.coreJobs core).map fun j => (j.chunks.filter (·.later)).length).foldl (· + ·) 0
/-- A row goes to the fabric (R350); where no port is up, or the interface is bound there no more, it is undelivered. -/
def State.sendRow (s : State) (b : Block) (j : Job) (c : Chunk) (m : FabMsg) : State :=
  if !s.reaches j.vf j.dev then s.loseChunk b j c.id c.len
  else { s.setJob { j with chunks := mapIf (fun x => x.id == c.id) (fun x => { x with sent := true, later := false }) j.chunks } with fab := s.fab ++ [m] }
/-- Send a row of a peer copy (R248). -/
def State.sendChunk (s : State) (b : Block) (j : Job) (c : Chunk) : State :=
  let main := !peerScr j.peer
  if j.kind == .pull then s.sendRow b j c (.read j.dev (s.peerVf j) j.id c.id main (j.srcAt c) c.len)
  else match s.chunkBytes b j c with
    | .error va => s.parkChunk b j c.id va
    | .ok (bs, bad) => s.sendRow b j c (.write j.dev (s.peerVf j) j.id c.id main (j.dstAt c) bs bad)
/-- Put a chunk's bytes in place and count it, or park it (R243, R320); a prefetch never parks (R249). -/
def State.placeChunk (s : State) (b : Block) (j : Job) (c : Chunk) (r : Except Nat (List Byte × List Nat)) : State :=
  match r with
  | .error va => if j.kind == .prefetch then s.endChunk b j c.id c.len true else s.parkChunk b j c.id va
  | .ok (bs, bad) =>
    if j.kind == .scatter && j.beyond c then s.endChunk b j c.id c.len true
    else match s.writeChunk b j (j.dstAt c) bs bad with
      | .error va => if j.kind == .prefetch then s.endChunk b j c.id c.len true else s.parkChunk b j c.id va
      | .ok s1 => s1.endChunk b j c.id c.len true
/-- Whether a transfer may serve a chunk: a prefetch gives way to every other waiting job of its core (R249), and a full
replay queue holds new rows toward its receivers (R321). -/
def State.served (s : State) (b : Block) (j : Job) : Bool :=
  (j.kind != .prefetch || !(s.coreJobs b.core).any fun e => e.kind != .prefetch && e.chunks.any fun c => s.chunkFree e c)
    && (!(j.kind == .push || j.kind == .pull) || decide (s.replayRows b.core < Config.replayRows)
      || !(s.coreJobs b.core).any fun e => e.dev == j.dev && e.chunks.any (·.later))
/-- TRANSFER_CHUNK: one chunk of a job moves (R243). -/
def execTransferChunk (job chunk : Nat) (s : State) : Out :=
  .next (match s.job? job with
    | none => s
    | some j0 =>
      match s.block? j0.blk, j0.chunks.find? fun c => c.id == chunk with
      | some b, some c0 =>
        let j := j0.withIndex s b c0
        match j.chunks.find? fun c => c.id == chunk with
        | none => s
        | some c =>
          if !s.chunkFree j c || !s.served b j then s
          else
            let j1 := { j with begun := true }
            let s1 := s.setJob j1
            if j.kind == .push || j.kind == .pull then s1.sendChunk b j1 c else s1.placeChunk b j1 c (s1.chunkBytes b j1 c)
      | _, _ => s)
/-- FRESP answers a parked chunk: it moves again, or is ended (R320, Table 19-7). -/
def State.answerChunk (s : State) (job chunk : Nat) (abort : Bool) : State :=
  match s.job? job with
  | none => s
  | some j0 =>
    let j := { j0 with chunks := mapIf (fun c => c.id == chunk) (fun c => { c with parked := none }) j0.chunks }
    let s1 := s.setJob j
    match s1.block? j.blk, j.chunks.find? fun c => c.id == chunk with
    | some b, some c =>
      if !abort then s1
      else if j.kind == .push then
        s1.sendRow b j c (.write j.dev (s1.peerVf j) j.id c.id (!peerScr j.peer) (j.dstAt c) (List.replicate c.len 0) (List.range (c.len / 4)))
      else if j.kind == .pull then s1.endChunk b j c.id c.len true
      else match s1.chunkBytes b j c with
        | .ok _ => s1.endChunk b j c.id c.len true
        | .error _ => match s1.writeChunk b j (j.dstAt c) (List.replicate c.len 0) (List.range (c.len / 4)) with
          | .error _ => s1.endChunk b j c.id c.len true
          | .ok s2 => s2.endChunk b j c.id c.len true
    | _, _ => s1

/-! ### The fabric (R248, R321, R350, R351) -/

/-- The receiver is ready, and a parked row of a peer copy is sent again (R321); a row of a suspended block is sent once the block is back
(R316). -/
def State.resendRow (s : State) (job row : Nat) : State :=
  match s.job? job with
  | none => s
  | some j => match s.block? j.blk, j.chunks.find? fun c => c.id == row with
    | some b, some c => if c.later then s.sendChunk b j c else s
    | none, some _ => s.setJob { j with chunks := mapIf (fun c => c.id == row) (fun c => { c with later := false }) j.chunks }
    | _, none => s
/-- A peer's answer to a row of a peer copy (R248, R321). A row that waits for its receiver is undelivered once that receiver's host aborts it,
also while its block is suspended. -/
def State.answerRow (s : State) (job row : Nat) (a : FabAnswer) : State :=
  match s.job? job with
    | none => s
    | some j => match (s.block? j.blk).or (s.saved.find? fun b => b.id == j.blk), j.chunks.find? fun c => c.id == row with
      | some b, some c =>
        if !c.sent && !(c.later && a == .refused) then s
        else match a with
          | .refused => s.loseChunk b j c.id c.len
          | .later => s.setJob { j with chunks := mapIf (fun x => x.id == row) (fun x => { x with sent := false, later := true }) j.chunks }
          | .ack data bad =>
            if j.kind == .push then s.endChunk b j c.id c.len true
            else if data.length != c.len then s
            else s.placeChunk b j c (.ok (data, bad.filter fun k => decide (4 * k < c.len)))
      | _, _ => s
/-- A receiver has answered a remote signal: where it refused it, the sender's host is told too (R351; assumption 81). -/
def State.answerSignal (s : State) (job : Nat) (vf : Nat) (a : FabAnswer) : State :=
  let s1 : State := { s with signals := s.signals.filter fun x => x.1 != job }
  match a with
  | .refused => s1.report vf 6 0 []
  | .later => s
  | .ack _ _ => s1
/-- The binding accepts a request from a peer's interface (R351). -/
def State.accepts (s : State) (vf dev peerVf : Nat) : Bool := (s.vf vf).bound? dev == some peerVf
/-- REMOTE_SIGNAL: the add32 of a peer copy's signal (R248), which leaves a word as it is that the writes before it leave poisoned (R323, R324). The binding may refuse it (R351); a word outside the window is not written, and the host is told. -/
def execRemoteSignal (vf dev peerVf addr : Nat) (val : BitVec 16) (s : State) : Out :=
  .next (if !s.accepts vf dev peerVf then ({ s with fab := s.fab ++ [.answer dev peerVf .refused] } : State).report vf 6 0 []
    else if addr % 4 != 0 || outOfWindow s vf addr 4 then s.report vf 6 0 []
    else
      let s1 := s.settle (physOf s vf addr) 4
      if s1.spPois.contains (physOf s vf addr / 4) then s1
      else (s1.rmwScratch (physOf s vf addr) 4 fun m => (m + val.toNat) % 2 ^ 32).2)
def State.answer (s : State) (dev peerVf : Nat) (a : FabAnswer) : State := { s with fab := s.fab ++ [.answer dev peerVf a] }
/-- Offsets and lengths of the pieces of a row in aligned blocks of 64 bytes, the unit of poison of main memory (R323). -/
def linePieces (addr len : Nat) : List (Nat × Nat) :=
  let o := addr % 64
  ((List.range ((o + len + 63) / 64)).map fun k => (64 * k - o, min len (64 * (k + 1) - o) - (64 * k - o))).filter fun x => decide (0 < x.2)
/-- The words of a list that lie in a piece, numbered from its start. -/
def wordsIn (bad : List Nat) (off n : Nat) : List Nat :=
  (bad.filter fun k => decide (off ≤ 4 * k) && decide (4 * k < off + n)).map fun k => (4 * k - off) / 4
/-- FABRIC_REQUEST: a peer's row arrives (R351): refused, performed at package scope, or put off on a page fault (R321). -/
def execFabricRequest (vf dev peerVf : Nat) (r : FabRequest) (s : State) : Out :=
  let refuse := (s.answer dev peerVf .refused).report vf 6 0 []
  let put := fun (a : Nat) => (s.park vf 0 a (.peer dev peerVf)).2.answer dev peerVf .later
  .next (if !s.accepts vf dev peerVf then refuse
    else match r with
    | .read addr main len =>
      let words := (List.range (len / 4)).map fun k => (addr.toNat + 4 * k) % 2 ^ 64
      if main then
        match words.find? fun a => (s.translate vf false a false false).isNone with
        | some a => put a
        | none =>
          let ls := words.filterMap fun a => s.translate vf false a false false
          s.answer dev peerVf (.ack (ls.flatMap fun l => s.locBytes l 4) ((List.range ls.length).filter fun k => (ls[k]?.map fun l => s.locPois l).getD false))
      else if !(s.vf vf).inWindow addr.toNat len then refuse
      else s.answer dev peerVf (.ack (words.flatMap fun a => readBytes s.sp (physOf s vf a) 4)
        ((List.range words.length).filter fun k => s.spPois.contains (physOf s vf (addr.toNat + 4 * k) / 4)))
    | .write addr main bytes bad =>
      let ps := linePieces addr.toNat bytes.length
      let at_ := fun (x : Nat × Nat) => (addr.toNat + x.1) % 2 ^ 64
      let one := fun (t : State) (x : Nat × Nat) (l : Loc) => t.writePlace l ((bytes.drop x.1).take x.2) (wordsIn bad x.1 x.2)
      if main then
        match ps.find? fun x => (s.translate vf false (at_ x) true false).isNone with
        | some x => put (at_ x)
        | none => (ps.foldl (fun t x => match t.translate vf false (at_ x) true false with
            | some l => one t x l
            | none => t) s).answer dev peerVf (.ack [] [])
      else if !(s.vf vf).inWindow addr.toNat bytes.length then refuse
      else (ps.foldl (fun t x => one t x (.scratch (physOf s vf (at_ x)))) s).answer dev peerVf (.ack [] []))
/-- The host answers a page fault of a peer's row: the receiver signals ready, or the row is undelivered and both hosts are
told (R321). -/
def State.answerPeer (s : State) (vf dev peerVf : Nat) (abort : Bool) : State :=
  if abort then (s.answer dev peerVf .refused).report vf 6 0 [] else { s with fab := s.fab ++ [.ready dev peerVf] }
/-- A port fails: rows under way go on another port; where none is left they are undelivered (R350). -/
def State.portDown (s : State) (port : Nat) : State :=
  let s1 := { s with ports := s.ports &&& ~~~(BitVec.ofNat 18 (2 ^ port)) }
  if s1.ports != 0 then s1
  else (s.jobs.flatMap fun j => (j.chunks.filter fun c => c.sent || c.later).map fun c => (j.id, c)).foldl (fun t x =>
    match t.job? x.1 with
    | some j => (match t.block? j.blk with
      | some b => t.loseChunk b j x.2.id x.2.len
      | none => t)
    | none => t) s1
/-- FABRIC_PORT_TRAINED (R350). -/
def execFabricPortTrained (port : Nat) (s : State) : Out := .next { s with ports := s.ports ||| BitVec.ofNat 18 (2 ^ port) }

end Sys2Proof.Machine
end

