-- ==== Sys2Proof/Machine/Views.lean ====
section
/-!
DEFINITION. Derived views: the view instructions (R266 to R270), refreshes and their failures (R258, R259, R263 to R265), and
the registration of views (R251 to R253).
-/
namespace Sys2Proof.Machine

/-! ### Fresh groups and the lanes that wait for them (R269) -/

/-- A predicate result of a view instruction, in every lane of a mask (R266). -/
def predWrites (m : Mask) (pd : Nat) (v : Bool) : List (RegId × Word) := (m.lanes 64).map fun l => (.p l pd, if v then 1 else 0)
/-- Lanes of a run blocked in VWAIT look again after a commit: they go on, which is an acquire, trap VPOIS, or, at trap level, issue again
later. -/
def State.wakeRun (s : State) (r : WarpRef) (run : Run) : State :=
  match s.warp? r, run.wait with
  | some w, some (.view pd act cur rest) =>
    let set := fun (x : Option Wait) => s.setWarp r { w with runs := mapIf (fun y => y.lanes == run.lanes) (fun y => { y with wait := x }) w.runs }
    match s.walkGroups cur.vf (some cur) rest with
    | .wait next rest => set (some (.view pd act next rest))
    | .trap g =>
      let t1 := set none
      if w.trap.isSome && !run.handler then t1 else t1.takeTrap r run.pc run.lanes (groupTrap causeVpois g)
    | .done =>
      let got : Late := { id := s.nextId, kind := .plain, writes := predWrites (act &&& (w.live ||| w.helpers)) pd true, rods := 0 }
      (({ s with nextId := s.nextId + 1 } : State).setWarp r
        (({ w with late := w.late ++ [got] } : Warp).release (fun x => x == Wait.view pd act cur rest) run.lanes)).observe r
  | _, _ => s
/-- After stamps have changed: every lane that waits on views looks again, and held signings may complete. -/
def State.wakeViews (s : State) : State :=
  let rs := s.blocks.flatMap fun b => (List.range b.warps.length).map fun n => (⟨b.id, n⟩ : WarpRef)
  (rs.foldl (fun t r => match t.warp? r with
    | some w => w.runs.foldl (fun t run => t.wakeRun r run) t
    | none => t) s).settleAll

/-! ### The instructions (R266) -/

/-- The handle and the group number that two scalar registers give. -/
def viewHandle (x : Word) : Nat := x.toNat % 2 ^ 20
def viewGroup (x y : Word) : Nat := x.toNat / 2 ^ 20 * 2 ^ 32 + y.toNat
/-- The registered view a handle names, with its descriptor. -/
def State.viewDesc? (s : State) (vf h : Nat) : Option (View × Desc) :=
  match s.view? vf h, s.desc? vf h with
  | some v, some d => some (v, d)
  | _, _ => none
/-- Whether a number names a group of a view (R256). -/
def Desc.hasGroup (d : Desc) (g : Nat) : Bool := decide (groupTile g < d.tiles) && decide (groupBand g < d.bands)
/-- The groups that VWAIT and VREFR name; none: the first line of R269 fails. -/
def State.named? (s : State) (c : Ctx) (all : Bool) (a b : BitVec 7) : Option (List (Nat × Nat)) :=
  let x := c.w.rs a.toNat
  let h := viewHandle x
  match s.viewDesc? c.blk.vf h with
  | none => none
  | some (_, d) =>
    let g := viewGroup x (c.w.rs b.toNat)
    if all then some ((allGroups d).map fun k => (h, k)) else if d.hasGroup g then some [(h, g)] else none

/-- VMARK (R267): its jobs are complete (R17) and its accesses are performed before the generation rises. -/
def execVmark (h : Hdr) (pd : BitVec 3) (a b : BitVec 7) (s : State) : Out :=
  issue (.vmark h pd a b) s fun c s =>
    if c.act == 0 then .ok s
    else
      let s1 := s.performWarp c.ref .pkg
      let hd := viewHandle (c.w.rs a.toNat)
      let tile := (c.w.rs b.toNat).toNat
      .ok (match s1.desc? c.blk.vf hd with
        | some d =>
          if !d.view && decide (tile < d.tiles) then
            c.late (s1.rise c.blk.vf hd tile d fun _ _ => true) .plain 0 (predWrites c.all pd.toNat true)
          else c.late s1 .plain 0 (predWrites c.all pd.toNat false)
        | none => c.late s1 .plain 0 (predWrites c.all pd.toNat false))
/-- The generation of a group's source tile. -/
def State.sourceGen (s : State) (v : View) (d : Desc) (g : Nat) : Word :=
  match s.desc? v.vf v.master with
  | some m => s.gen v.vf v.master (sourceTile d m g)
  | none => 0
/-- What VSTAMP reads (R268). -/
def State.stampRead (s : State) (vf h g : Nat) (gen : Bool) : Word × Word :=
  match s.viewDesc? vf h with
  | some (v, d) =>
    if !d.hasGroup g then (0, 0x80000000)
    else if gen then (s.sourceGen v d g, 0) else ((v.stamp g).gen, if (v.stamp g).pois then 1 else 0)
  | none => (0, 0x80000000)
/-- VSTAMP (R268). -/
def execVstamp (h : Hdr) (gen : Bool) (d : BitVec 10) (a b : BitVec 7) (s : State) : Out :=
  issue (.vstamp h gen d a b) s fun c s =>
    let x := c.w.rs a.toNat
    let r := s.stampRead c.blk.vf (viewHandle x) (viewGroup x (c.w.rs b.toNat)) gen
    .ok (if c.act == 0 then s
      else c.late s .plain 0 (c.lanes.flatMap fun l => [(.v l d.toNat, r.1), (.v l (d.toNat + 1), r.2)]))
/-- VWAIT (R269). -/
def execVwait (h : Hdr) (all : Bool) (pd : BitVec 3) (a b : BitVec 7) (s : State) : Out :=
  issue (.vwait h all pd a b) s fun c s =>
    if c.act == 0 then .ok s
    else match s.named? c all a b with
      | none => .ok (c.late s .plain 0 (predWrites c.all pd.toNat false))
      | some gs =>
        match s.walkGroups c.blk.vf none gs with
        | .done => .ok ((c.late s .plain 0 (predWrites c.all pd.toNat true)).observe c.ref)
        | .trap g => .trap (groupTrap causeVpois g)
        | .wait w rest => .ok (c.blockRun s (.view pd.toNat c.all w rest))
/-- VREFR (R270): the groups come ahead of the engine's other dirty groups. -/
def execVrefr (h : Hdr) (all : Bool) (pd : BitVec 3) (a b : BitVec 7) (s : State) : Out :=
  issue (.vrefr h all pd a b) s fun c s =>
    if c.act == 0 then .ok s
    else match s.named? c all a b with
      | none => .ok (c.late s .plain 0 (predWrites c.all pd.toNat false))
      | some gs => .ok (c.late (gs.reverse.foldl (fun t x => t.markDirty c.blk.vf x.1 x.2 true) s) .plain 0 (predWrites c.all pd.toNat true))

/-! ### Refresh (R258) -/

/-- What building a group gives: the writes of each step of its commit (R258), or a failure. -/
inductive Build where
  | fault
  | bad
  | ok (steps : List (List (Nat × List Byte)))
  deriving DecidableEq, Repr

/-- A list cut into parts of eight. -/
def eights {α : Type} (xs : List α) : List (List α) := (List.range ((xs.length + 7) / 8)).map fun i => (xs.drop (8 * i)).take 8
/-- Two-element bytes of a row of HF4 elements. -/
def nibbles (xs : List Nat) : List Byte :=
  (List.range ((xs.length + 1) / 2)).map fun i => BitVec.ofNat 8 ((xs[2 * i]?).getD 0 + 16 * (xs[2 * i + 1]?).getD 0)
/-- The writes of one HF4 band (Table 5-3): its scale, its block scales, its elements; none where the band is INVALID. `val` gives the value of a
view element. -/
def bandWrites (v : Desc) (g : Nat) (val : Nat → Nat → Num) : Option ((Nat × List Byte) × List (Nat × List Byte) × List (Nat × List Byte)) :=
  let q := { v with kind := 1 }
  let rows := groupRows q g
  let cols := groupCols q g
  let c0 := (cols.head?).getD 0
  let C := v.tileCols
  match quantiseBand (rows.map fun r => eights (cols.map fun c => val r c)) with
  | none => none
  | some (S, scales, els) =>
    some ((v.tileElems * 5 / 8 + 2 * groupBand g, leBytes 2 S),
      (rows.zip scales).map (fun x => (v.tileElems / 2 + x.1 * (C / 8) + c0 / 8, x.2.map fun n => BitVec.ofNat 8 n)),
      (rows.zip els).map (fun x => ((x.1 * C + c0) / 2, nibbles x.2.flatten)))
/-- Build a group from its source elements: code, block scale, band scale and poison (R253, R258). -/
def buildGroup (v m : Desc) (g : Nat) (elem : Nat → Option (Nat × Nat × Nat × Bool)) : Build :=
  let at_ := fun (r c : Nat) => elem (masterIdx m (masterElem v (groupTile g) r c))
  let cells := (groupRows v g).flatMap fun r => (groupCols v g).map fun c => (r, c)
  let es := cells.map fun x => at_ x.1 x.2
  if es.any (·.isNone) then .fault
  else if es.any (fun e => (e.map (·.2.2.2)).getD false) then .bad
  else if v.fmt == 6 then
    let val := fun (r c : Nat) => match at_ r c with
      | some e => elemValue m.fmt e.1 e.2.1 e.2.2.1
      | none => .nan false
    let bands := if v.kind % 2 == 1 then [g] else (List.range (bandCount v.tileRows v.tileCols)).map fun b => groupNum (groupTile g) b
    match allSome (bands.map fun b => bandWrites v b val) with
    | some ws => .ok [ws.map (·.1), ws.flatMap (·.2.1), ws.flatMap (·.2.2)]
    | none => .bad
  else
    let n := fmtBits v.fmt / 8
    let conv := fun (x : Nat) => if v.kind % 2 == 1 then (cvtFloat (fmtOf m.fmt) (fmtOf v.fmt) .rn (v.fmt == 4) x).1 else x
    .ok [(cells.zip es).map fun x => ((x.1.1 * v.tileCols + x.1.2) * n, leBytes n (conv ((x.2.map (·.1)).getD 0)))]
/-- Set the stamp of a group, and let those that wait on it go on. -/
def State.stampGroup (s : State) (vf h g : Nat) (x : Stamp) : State :=
  match s.view? vf h with
  | some v => (s.setView { v with stamps := Sparse.set Stamp.zero v.stamps g x }).wakeViews
  | none => s
/-- A refresh fails (R265): a record of KIND 4, the content left in place. -/
def State.failGroup (s : State) (vf h g : Nat) (gen : Word) : State :=
  (s.stampGroup vf h g { pois := true, gen := gen }).report vf 4 0 (leBytes 4 h ++ leBytes 8 g)
/-- Take a group off the dirty list. -/
def State.undirty (s : State) (vf h g : Nat) : State := { s with dirty := s.dirty.filter fun x => !(x.vf == vf && x.handle == h && x.group == g) }
/-- The number of a row that a refresh sends. -/
def FabMsg.row : FabMsg → Nat
  | .write _ _ _ row _ _ _ _ => row
  | .read _ _ _ row _ _ _ => row
  | _ => 0
def State.setCommit (s : State) (c : Commit) : State := { s with commits := mapIf (fun x => x.id == c.id) (fun _ => c) s.commits }
def State.dropCommit (s : State) (c : Commit) : State := { s with commits := s.commits.filter fun x => x.id != c.id }
/-- Cut the writes of a step of a commit into parts of at most 4 KiB (R258). -/
def cutParts : List (Nat × List Byte) → List (Nat × List Byte) → Nat → List (List (Nat × List Byte))
  | [], [], _ => []
  | [], acc, _ => [acc.reverse]
  | x :: xs, acc, n =>
    if acc.isEmpty || decide (n + x.2.length ≤ 4096) then cutParts xs (x :: acc) (n + x.2.length)
    else acc.reverse :: cutParts xs [x] x.2.length
/-- Writes of a step that lie one behind the other, as one (R258). -/
def joinWrites : List (Nat × List Byte) → List (Nat × List Byte)
  | [] => []
  | x :: xs => match joinWrites xs with
    | [] => [x]
    | y :: ys => if x.1 + x.2.length == y.1 then (x.1, x.2 ++ y.2) :: ys else x :: y :: ys
/-- The same bytes in pieces that lie in aligned blocks of 64 bytes of the tile. -/
def linedWrites (ws : List (Nat × List Byte)) : List (Nat × List Byte) :=
  (joinWrites ws).flatMap fun x => (linePieces x.1 x.2.length).map fun p => (x.1 + p.1, (x.2.drop p.1).take p.2)
/-- The pieces of writes to a copy, each in one aligned block of 64 bytes. -/
def Copy.pieces (c : Copy) (ws : List (Nat × List Byte)) : List (Nat × List Byte) :=
  ws.flatMap fun x => (linePieces (c.addr + x.1) x.2.length).map fun p => (x.1 + p.1, (x.2.drop p.1).take p.2)
/-- Write some bytes of a view tile at one of its copies; none: a translation fault. -/
def State.putCopy (s : State) (vf : Nat) (d : Desc) (c : Copy) (ws : List (Nat × List Byte)) : Option State :=
  (c.pieces ws).foldl (fun (acc : Option State) x =>
    acc.bind fun t => (t.copyLoc vf d.early c x.1 true).map fun l => t.writePlace l x.2 []) (some s)
/-- What a copy holds where writes would go, with its poisoned words; none: a translation fault. -/
def State.heldCopy (s : State) (vf : Nat) (d : Desc) (c : Copy) (ws : List (Nat × List Byte)) : Option (List (Nat × List Byte × List Nat)) :=
  allSome ((c.pieces ws).map fun x => (s.copyLoc vf d.early c x.1 false).map fun l =>
    (x.1, s.locBytes l x.2.length, (List.range ((x.2.length + 3) / 4)).filter fun k => ((s.copyLoc vf d.early c (x.1 + 4 * k) false).map s.locPois).getD false))
/-- Write at a copy again what it held, where it translates. -/
def State.restoreCopy (s : State) (vf : Nat) (d : Desc) (c : Copy) (xs : List (Nat × List Byte × List Nat)) : State :=
  xs.foldl (fun t x => match t.copyLoc vf d.early c x.1 true with
    | some l => t.writePlace l x.2.1 x.2.2
    | none => t) s
def Copy.peerDev? (c : Copy) : Option Nat :=
  match c.home with
  | .peer dev => some dev
  | _ => none
/-- The copies of a view tile on this device. -/
def Rec.near (r : Rec) : List Copy := r.copies.filter fun x => x.peerDev?.isNone
/-- The content that the parts of a commit written so far have replaced on this device is put back (R265). -/
def State.restoreNear (s : State) (c : Commit) : State :=
  match s.desc? c.vf c.handle with
  | none => s
  | some d => match s.record? c.vf d (groupTile c.group) with
    | some r => r.near.foldl (fun t x => t.restoreCopy c.vf d x (c.old.take (c.old.length - c.near.length)).flatten) s
    | none => s
/-- A refresh in progress fails: the content that was committed before it is left in place (R265). -/
def State.failCommit (s : State) (c : Commit) : State := ((s.restoreNear c).dropCommit c).failGroup c.vf c.handle c.group c.gen
/-- A commit that has begun fails: once the peers have answered its rows, what they held is sent back, and then the refresh has failed (R265;
assumption 69). -/
def State.undoCommit (s : State) (c : Commit) : State :=
  let c1 := { c with stage := .undo }
  if !c.rows.isEmpty then s.setCommit c1
  else
    let sent := c.back.filter fun m => !c.far.any fun ms => ms.any fun y => y.row == m.row
    if sent.isEmpty || s.ports == 0 then s.failCommit c
    else { s.setCommit { c1 with back := [], rows := sent.map fun m => (m.row, m) } with fab := s.fab ++ sent }
/-- The rows that ask peers for what they hold where rows would write. -/
def FabMsg.probe : FabMsg → FabMsg
  | .write dev vf job row main addr bytes _ => .read dev vf job row main addr bytes.length
  | m => m
/-- The row that writes back what a peer has answered. -/
def FabMsg.writeBack (data : List Byte) (bad : List Nat) : FabMsg → FabMsg
  | .read dev vf job row main addr _ => .write dev vf job row main addr data bad
  | m => m
/-- The built content of a group is ready to commit at the copies of its view tile. A home out of reach, or a translation fault there, fails the
refresh with nothing written (R264, R265). Peers are written first (assumption 69). The view tile's own record is held to the same states as the
source tile's: FAULTED or ABSENT fails the refresh (assumption 86). -/
def State.beginCommit (s : State) (c : Commit) (d : Desc) (steps : List (List (Nat × List Byte))) : State :=
  match s.record? c.vf d (groupTile c.group) with
  | none => s.failCommit c
  | some r =>
    let far := r.copies.filterMap fun x => x.peerDev?.map fun dev => (dev, x.addr)
    if r.state == .faulted || r.state == .absent || far.any (fun f => !s.reaches c.vf f.1) || r.near.any (fun x => (s.putCopy c.vf d x steps.flatten).isNone) then s.failCommit c
    else
      let msgs := fun (ws : List (Nat × List Byte)) (n : Nat) =>
        let ms := far.flatMap fun f => ws.map fun x => (f, x)
        (ms.zip (List.range ms.length)).map fun y =>
          FabMsg.write y.1.1.1 (((s.vf c.vf).bound? y.1.1.1).getD 0) c.id (n * 2 ^ 32 + y.2) true (y.1.1.2 + y.1.2.1) y.1.2.2 []
      let full := (steps.zip (List.range steps.length)).filter fun x => !x.1.isEmpty
      s.setCommit { c with
        stage := .ready
        rows := []
        far := if far.isEmpty then [] else full.map fun x => msgs x.1 x.2
        near := if r.near.isEmpty then [] else full.flatMap fun x => cutParts x.1 [] 0 }
/-- The source of a refresh has been read: its content is built and is ready to commit. -/
def State.rebuild (s : State) (c : Commit) (d m : Desc) (elem : Nat → Option (Nat × Nat × Nat × Bool)) (onFault : State) : State :=
  match buildGroup d m c.group elem with
  | .fault => onFault
  | .bad => s.failCommit c
  | .ok steps => s.beginCommit c d (steps.map linedWrites)
/-- Whether a view tile's own record is MOVING: its refresh waits, as for its source tile's (assumption 86). -/
def State.tileMoving (s : State) (v : View) (d : Desc) (t : Nat) : Bool :=
  ((s.record? v.vf d t).map (·.state == .moving)).getD false
/-- Whether an engine read of a group has begun and is not complete: its commit waits (R259). -/
def State.groupInUse (s : State) (c : Commit) : Bool :=
  s.jobs.any fun j => j.begun && j.vf == c.vf && (s.readGroups c.vf j.reads).contains (c.handle, c.group)
/-- The address at which the source of a refresh does not translate. -/
def State.sourceFault (s : State) (vf : Nat) (d m : Desc) (g addr : Nat) : Nat :=
  ((groupRows d g).findSome? fun r => (groupCols d g).findSome? fun c =>
    s.tileFault vf m.early (!m.early) addr (elemBytes m (masterIdx m (masterElem d (groupTile g) r c)))).getD addr
/-- Park a refresh on a translation fault of its source (R258, R320). -/
def State.parkCommit (s : State) (c : Commit) (va : Nat) : State :=
  let p := s.park c.vf 0 va (.view c.handle c.group)
  p.2.setCommit { c with parked := some p.1 }
/-- The next step of a refresh in progress: its source is read and its content built; what its homes hold is read, so that a commit that fails can be
taken back (R265); then it is committed part by part, then stamped. -/
def State.advanceCommit (s : State) (c : Commit) (v : View) (d m : Desc) : State :=
  match c.stage with
  | .fetch => s
  | .source =>
    let t := sourceTile d m c.group
    match s.record? c.vf m t with
    | none => s.parkCommit c (m.ptab + 64 * t)
    | some r =>
      if r.state == .moving || s.tileMoving v d (groupTile c.group) then s
      else match r.state, r.copies.head? with
        | .resident, some x =>
          (match x.home with
          | .peer dev =>
            if !s.reaches c.vf dev then s.failCommit c
            else
              let msg := FabMsg.read dev (((s.vf c.vf).bound? dev).getD 0) c.id 0 true x.addr m.tileBytes
              { s.setCommit { c with stage := .fetch, rows := [(0, msg)] } with fab := s.fab ++ [msg] }
          | .main _ => s.rebuild c d m (fun i => s.readTileElem {} c.vf m true x.addr none i) (s.parkCommit c (s.sourceFault c.vf d m c.group x.addr))
          | .scratch _ => s.rebuild c d m (fun i => s.readTileElem {} c.vf m false x.addr none i) s)
        | _, _ => s.failCommit c
  | .ready =>
    if s.groupInUse c then s
    else match s.record? c.vf d (groupTile c.group) with
      | none => s.failCommit c
      | some r =>
        if r.near.any (fun x => (s.putCopy c.vf d x c.near.flatten).isNone) then s.failCommit c
        else match allSome (c.near.map fun ws => ((r.near.head?).map fun x => s.heldCopy c.vf d x ws).getD (some [])) with
        | none => s.failCommit c
        | some old =>
          let asks := c.far.flatten.map fun m => (m.row, m.probe)
          { s.setCommit { c with stage := if asks.isEmpty then .commit else .probe, rows := asks, old := old } with fab := s.fab ++ asks.map (·.2) }
  | .probe => if c.rows.isEmpty then s.setCommit { c with stage := .commit } else s
  | .undo => s
  | .commit =>
    if !c.rows.isEmpty then s
    else match c.far, c.near with
      | ms :: far, _ => { s.setCommit { c with far := far, rows := ms.map fun y => (FabMsg.row y, y) } with fab := s.fab ++ ms }
      | [], ws :: near =>
        (match (s.record? c.vf d (groupTile c.group)).bind fun r => r.near.foldl (fun (acc : Option State) x => acc.bind fun t => t.putCopy c.vf d x ws) (some s) with
        | some t => t.setCommit { c with near := near }
        | none => s.undoCommit c)
      | [], [] => (s.dropCommit c).stampGroup c.vf c.handle c.group { pois := false, gen := c.gen }
/-- The die whose view engine refreshes a group: that of its home, or the affinity die of a main-memory home; none for a peer's (R256, R258). -/
def State.groupDie (s : State) (vf h g : Nat) : Option Nat :=
  match s.desc? vf h with
  | none => none
  | some d => ((s.record? vf d (groupTile g)).bind fun r => r.copies.head?).bind fun c => match c.home with
    | .main k => some k
    | .scratch k => some (k / 16)
    | .peer _ => none
/-- Whether a dirty group must let others go first: a group of its view and die that is being refreshed or became dirty before it (R258), or one
that VREFR has put ahead on its die (R270). -/
def State.dirtyHeld (s : State) (x : Dirty) : Bool :=
  let die := s.groupDie x.vf x.handle x.group
  (s.commits.any fun c => c.vf == x.vf && c.handle == x.handle && (c.group == x.group || (c.parked.isNone && s.groupDie c.vf c.handle c.group == die)))
    || (s.dirty.takeWhile fun y => y != x).any fun y => s.groupDie y.vf y.handle y.group == die && (y.ahead || (y.vf == x.vf && y.handle == x.handle))
/-- Whether a refresh in progress may make its next step: nothing parks it, no row of it is under way, its tiles are not MOVING, and no engine
read that has begun holds its commit (R258, R259). -/
def State.commitMoves (s : State) (c : Commit) (v : View) (d m : Desc) : Bool :=
  c.parked.isNone && c.rows.isEmpty && match c.stage with
    | .source => !(((s.record? c.vf m (sourceTile d m c.group)).map (·.state == .moving)).getD false || s.tileMoving v d (groupTile c.group))
    | .fetch | .undo => false
    | .ready => !s.groupInUse c
    | .probe | .commit => true
/-- The view engine is pre-empted before a commit begins: the build is discarded, and its group is dirty again (R258). -/
def State.discardBuild (s : State) (c : Commit) : State := (s.dropCommit c).markDirty c.vf c.handle c.group false
/-- The next step of a refresh. Whether the engine is pre-empted before the commit begins, the manual leaves open: a free value says so
(assumption 74). -/
def State.stepCommit (s : State) (c : Commit) (v : View) (d m : Desc) : State :=
  let s1 : State := { s with fresh := s.fresh + 1 }
  if (c.stage == .source || c.stage == .ready) && (Config.freeWord ((s.fresh + 1) * 2 ^ 48)).getLsbD 0 then s1.discardBuild c else s1.advanceCommit c v d m
/-- VIEW_REFRESH: the view engine makes one step for a view: it goes on with a refresh in progress, or starts the next dirty group at the present
generation of its source tile (R258). -/
def execViewRefresh (vf handle : Nat) (s : State) : Out :=
  .next (match s.view? vf handle, s.desc? vf handle, (s.view? vf handle).bind fun v => s.desc? vf v.master with
    | some v, some d, some m =>
      (match s.commits.find? fun c => c.vf == vf && c.handle == handle && s.commitMoves c v d m with
      | some c => s.stepCommit c v d m
      | none => match s.dirty.find? fun x => x.vf == vf && x.handle == handle && !s.dirtyHeld x with
        | none => s
        | some x =>
          let c : Commit := { id := s.nextId, vf := vf, handle := handle, group := x.group, gen := s.sourceGen v d x.group, stage := .source,
                              parked := none, rows := [], far := [], near := [] }
          { s.undirty vf handle x.group with
            nextId := s.nextId + 1
            commits := s.commits ++ [c] })
    | _, _, _ => s)
/-- FRESP answers a parked refresh (Table 19-7): it runs again, or fails. -/
def State.answerView (s : State) (vf handle g : Nat) (abort : Bool) : State :=
  match s.commits.find? fun c => c.vf == vf && c.handle == handle && c.group == g && c.parked.isSome with
  | some c => if abort then s.failCommit c else s.setCommit { c with parked := none }
  | none => s
/-- The source of a refresh has come from a peer (R258). -/
def State.fetched (s : State) (c : Commit) (data : List Byte) (bad : List Nat) : State :=
  match s.desc? c.vf c.handle, (s.view? c.vf c.handle).bind fun v => s.desc? c.vf v.master with
  | some d, some m =>
    let img := writeBytes [] 0 data
    let get := fun (i : Nat) => (s.readTileElem {} c.vf m false 0 (some (img, 0)) i).map fun e =>
      (e.1, e.2.1, e.2.2.1, (elemBytes m i).any fun y => bad.any fun k => meets (4 * k) 4 y.1 y.2)
    s.rebuild c d m get (s.dropCommit c)
  | _, _ => s.dropCommit c
/-- A peer's answer to a row of a refresh (R186, R264, Table 19-7): a page fault at the source waits and is replayed; at the view's home it fails the
refresh, as a refusal does. -/
def State.answerCommit (s : State) (c : Commit) (row : Nat) (a : FabAnswer) : State :=
  match c.rows.find? fun x => x.1 == row with
  | none => s
  | some x =>
    let left := { c with rows := c.rows.filter fun y => y.1 != row }
    match c.stage, a with
    | .fetch, .later => s
    | .fetch, .ack data bad => s.fetched c data bad
    | .probe, .ack data bad => s.setCommit { left with back := c.back ++ [x.2.writeBack data bad] }
    | .commit, .ack _ _ => s.setCommit left
    | .commit, _ | .undo, _ => s.undoCommit left
    | _, _ => s.failCommit c
/-- A row of a refresh is sent again when its receiver is ready (R321). -/
def State.resendCommit (s : State) (c : Commit) (row : Nat) : State :=
  match c.rows.find? fun x => x.1 == row with
  | some x => { s with fab := s.fab ++ [x.2] }
  | none => s

/-! ### Registration (R251 to R253) -/

/-- Write bytes at a virtual address, performed at package scope, each piece in one aligned block of 64 bytes (R323); none: a translation fault. -/
def State.vaWrite (s : State) (vf : Nat) (early : Bool) (va : Nat) (bs : List Byte) : Option State :=
  (linePieces va bs.length).foldl (fun (acc : Option State) x => acc.bind fun t =>
    (t.translate vf early (va + x.1) true false).map fun l => t.writePlace l ((bs.drop x.1).take x.2) []) (some s)
/-- The bytes of a descriptor (Table 17-1). -/
def Desc.bytes (d : Desc) : List Byte :=
  leBytes 4 (2 ^ 31 + (if d.view then 2 ^ 30 else 0) + 256 * d.layout + 16 * d.fmt + d.rank) ++ leBytes 4 d.tiles
    ++ ((List.range 4).flatMap fun k => leBytes 4 (d.extent k)) ++ leBytes 4 d.tshape ++ leBytes 4 0 ++ leBytes 8 d.ptab
    ++ ((List.range 4).flatMap fun k => leBytes 4 ((d.vlist[k]?).getD 0)) ++ leBytes 4 d.master
    ++ leBytes 4 (256 * d.policy + 16 * d.qfmt + (if d.transpose then 8 else 0) + d.kind) ++ List.replicate 192 0
/-- Whether a tile shape fits Table 17-1 for a rank. -/
def tshapeOk (rank tshape : Nat) : Bool :=
  let f := fun (k : Nat) => tshape / 2 ^ (12 - 4 * k) % 16
  decide (tshape < 2 ^ 16) && (List.range 4).all (fun k => if k < rank then decide (f k ≤ 12) else f k == 0) && decide (f 0 + f 1 + f 2 + f 3 ≤ 22)
/-- The descriptor that a registration asks for (Table 15-1). -/
def viewDesc (m : Desc) (early : Bool) (master parm tshape place : Nat) : Desc :=
  let kind := parm % 8
  let rel := kind / 2 % 2 == 1
  let tr := rel && parm / 8 % 2 == 1
  let sh := if rel then tshape else m.tshape
  let d : Desc := {
    view := true, layout := 0, fmt := if kind % 2 == 1 then parm / 16 % 16 else m.fmt, rank := m.rank, tiles := 0,
    ext := swapLast m.rank tr ((List.range m.rank).map m.extent) ++ List.replicate (4 - m.rank) 1, tshape := sh,
    ptab := if kind / 4 == 1 then place else 0, vlist := [], master := master, policy := parm / 256 % 4, qfmt := parm / 16 % 16,
    transpose := tr, kind := kind, early := early, handle := 0 }
  { d with tiles := (List.range d.rank).foldl (fun p k => p * d.grid k) 1 }
/-- Whether every home that a placement record names is one that the interface can reach. -/
def State.placeReach (s : State) (vf : Nat) (bs : List Byte) : Bool :=
  let n := u8 bs 4 / 16 % 4
  n != 0 && (List.range n).all fun k => match s.home? vf (u16 bs (8 + 16 * k)) (u64 bs (16 + 16 * k)) with
    | some c => (c.peerDev?.map fun dev => ((s.vf vf).bound? dev).isSome).getD true
    | none => false
/-- The cases of R252 in which registration is refused. -/
def State.viewRefused (s : State) (vf : Nat) (m d : Desc) (parm : Nat) : Bool :=
  let q := d.kind % 2 == 1
  let reach := (List.range d.tiles).all fun t => ((s.vaRead vf d.early (d.ptab + 64 * t) 64).map (s.placeReach vf)).getD false
  m.view || decide (4 ≤ m.vlist.length) || decide (65536 ≤ s.views.length) || d.kind == 0 || d.policy == 3 || parm / 2 ^ 10 != 0
    || (q && !(decide (m.fmt ≤ 3) && [2, 4, 5, 6].contains d.fmt)) || (d.fmt == 6 && decide (d.tileCols < 8)) || !tshapeOk d.rank d.tshape
    || (List.range d.rank).any (fun k => ((swapLast m.rank d.transpose ((List.range m.rank).map m.text))[k]?).getD 1 % d.text k != 0)
    || (d.ptab != 0 && (d.ptab % 64 != 0 || !reach))
/-- The home code of a copy's home, as the interface numbers it (Table 17-3). -/
def State.codeOf (s : State) (vf : Nat) (h : Home) : Nat :=
  match h with
  | .main d => (s.vf vf).dieNum d * 2 ^ 11
  | .scratch k => s.homeCode vf k
  | .peer dev => 2 ^ 15 + dev * 2 ^ 6
/-- Where the tiles of a view without a placement table are homed (Table 15-1): each at the primary home of its source tile, at the
address that the device gives it (assumption 26); a source tile without a home gives none, marked by a code that names no home. None: an
address that does not lie in the home. -/
def State.viewHomes (s : State) (vf : Nat) (m d : Desc) (addrs : List Nat) : Option (List (Nat × Nat)) :=
  if d.ptab != 0 then some []
  else if addrs.length != d.tiles then none
  else allSome ((addrs.zip (List.range d.tiles)).map fun x =>
    match (s.record? vf m (sourceTile d m (groupNum x.2 0))).bind fun r => r.copies.head? with
    | none => some (0xFFFF, x.1)
    | some c => (s.home? vf (s.codeOf vf c.home) x.1).bind fun h => match h.home with
      | .scratch k =>
        let off := x.1 % 2 ^ 30 % Config.sliceBytes
        if Config.sliceBytes < off + d.tileBytes
            || (s.blocks ++ s.saved).any (fun b => b.clu == k && meets b.region b.regionLen off d.tileBytes) then none
        else some (s.codeOf vf c.home, x.1)
      | _ => some (s.codeOf vf c.home, x.1))
/-- What a registration comes to: refused; not yet, for want of addresses; or registered. -/
inductive Registering where
  | refused
  | waits
  | ok (s : State)
/-- Register a view under a handle: its descriptor, the master's list, and every group dirty (R251, R253). -/
def State.registerView (s : State) (vf q handle : Nat) (bs : List Byte) (addrs : List Nat) : Registering :=
  let v := s.vf vf
  let master := u32 bs 0
  match s.desc? vf master with
  | none => .refused
  | some m =>
    let d := viewDesc m (s.level != 2) master (u32 bs 4) (u32 bs 8) (u64 bs 16)
    if s.viewRefused vf m d (u32 bs 4) then .refused
    else match s.viewHomes vf m d addrs with
      | none => .waits
      | some homes =>
        let s1 := (s.vaWrite vf false (v.htab.toNat + 256 * handle) d.bytes).bind fun t =>
          (t.rewritten vf handle).vaWrite vf (v.thEarly master) (v.htab.toNat + 256 * master) ({ m with vlist := m.vlist ++ [handle] } : Desc).bytes
        match s1 with
        | none => .refused
        | some t => .ok ((allGroups d).foldl (fun t g => t.markDirty vf handle g false)
            { t with views := t.views ++ [({ vf := vf, handle := handle, master := master, stamps := [], homes := homes, reg := some q } : View)] })
/-- Remove a view: its descriptor, its place in the master's list, its stamps (R253). -/
def State.dropView (s : State) (vf handle : Nat) : State :=
  let v := s.vf vf
  match s.view? vf handle with
  | none => s
  | some x =>
    let s1 := (s.vaWrite vf (v.thEarly handle) (v.htab.toNat + 256 * handle) (List.replicate 256 0)).getD s
    let s2 := match s1.desc? vf x.master with
      | some m => (s1.vaWrite vf (v.thEarly x.master) (v.htab.toNat + 256 * x.master) ({ m with vlist := m.vlist.filter (· != handle) } : Desc).bytes).getD s1
      | none => s1
    { s2 with
      views := s2.views.filter (fun y => !(y.vf == vf && y.handle == handle))
      dirty := s2.dirty.filter (fun y => !(y.vf == vf && y.handle == handle)) }

end Sys2Proof.Machine
end

