-- ==== Sys2Proof/Machine/Launch.lean ====
section
/-!
DEFINITION. Launches: submission (R278), the walk (R280 to R290), leaves, staging and the creation of blocks and gangs (R282 to
R287, R297, R298), the end of blocks and the completion of launches (R291 to R296, R163, R165, R193, R326).
-/
namespace Sys2Proof.Machine

/-! ### Completion entries (R291, R339) -/

/-- Queue an entry for a completion ring: a queue's, or the interface's device-side ring. -/
def State.post (s : State) (vf : Nat) (q : Option Nat) (p : Posting) : State :=
  match q with
  | some n => let x := (s.vf vf).queue n; s.setQueue vf n { x with posts := x.posts ++ [p] }
  | none => let v := s.vf vf; s.setVf vf { v with dev := { v.dev with posts := v.dev.posts ++ [p] } }
/-- A tile completion entry (Table 17-7). -/
def tileEntry (l : Launch) (t : Nat) (d : TileDone) : List Byte :=
  leBytes 4 t ++ leBytes 4 (d.stat * 2 ^ 16 + l.num % 2 ^ 16) ++ leBytes 2 d.ranAt ++ leBytes 2 (d.spill * 2 ^ 12) ++ leBytes 4 d.version
/-- A launch completion entry (Table 17-8). -/
def launchEntry (l : Launch) : List Byte :=
  leBytes 4 l.num ++ leBytes 4 l.status ++ leBytes 4 l.created ++ leBytes 4 l.countWord
    ++ leBytes 8 (if l.cls == .deadline then l.stamp.toNat else 0) ++ leBytes 8 l.doneAt.toNat
/-- Whether a ring posts tile entries: a queue's unless NOTILE is set (Table 21-4), the device-side ring always (Table 21-1). -/
def State.postsTiles (s : State) (vf : Nat) (q : Option Nat) : Bool :=
  match q with
  | some n => !((s.vf vf).queue n).qcfg.getLsbD 30
  | none => true
/-- EN of QCFG, or of HX_DRCFG, as it reads: 0 while a size field lies outside 4 to 15 (Table 21-4); HX_DRCFG has no command slots. -/
def ringEn (device : Bool) (c : Word) : Bool := c.getLsbD 31 && sizeOk (lrsz c) && sizeOk (trsz c) && (device || sizeOk (qsz c))
/-- Resolve the DONE future of a launch (R165); one that is not EMPTY, or at no legal address, is left, and the host is told. -/
def State.resolveDone (s : State) (l : Launch) : State :=
  match l.opts.done with
  | none => s
  | some a =>
    let note := s.report l.vf 6 l.num (leBytes 8 a)
    if a % 16 != 0 || outOfWindow s l.vf a 16 then note
    else (s.resolve? (physOf s l.vf a) (pairWord (BitVec.ofNat 32 l.created) (BitVec.ofNat 32 l.status)) (l.status != 0) (l.num % 2 ^ 16)).getD note
/-- The sub-launches of a launch's bundle, itself included (R296). -/
def State.members (s : State) (l : Launch) : List Launch :=
  match l.bundle with
  | none => [l]
  | some b => s.launches.filter fun x => x.vf == l.vf && x.bundle == some b
/-- Retire launches: their dependants may start and their DONE futures are resolved (R165, R296). -/
def State.retire (s : State) (ls : List Launch) : State :=
  ls.foldl (fun t x => match t.launch? x.vf x.num with
    | some l => (t.setLaunch { l with retired := true }).resolveDone l
    | none => t) s
/-- A launch completes with a status (R291, R295); a bundle retires when its last sub-launch completes. -/
def State.finish (s : State) (l : Launch) (status : Nat) : State :=
  let l1 := { l with phase := .done, status := status, doneAt := BitVec.ofNat 64 s.time }
  let s1 := (s.setLaunch l1).post l.vf l.queue { tile := false, bytes := launchEntry l1, irq := !l.noirq }
  if (s1.members l1).all (·.phase == .done) then s1.retire (s1.members l1) else s1
/-- The tiles below this number have completed (R291). -/
def prefixFrom (done : List (Nat × TileDone)) (p : Nat) : Nat → Nat
  | 0 => p
  | k + 1 => if done.any fun x => x.1 == p then prefixFrom done (p + 1) k else p
/-- The status of a launch whose tiles have all completed (R295). -/
def Launch.endStatus (l : Launch) : Nat :=
  if l.aborted then 4 else if l.tileDone.any fun x => x.2.stat == 1 || x.2.stat == 4 then 1 else 0
/-- Whether every tile has been walked. -/
def Launch.walkedAll (l : Launch) : Bool := l.phase == .walked || (l.phase == .walking && decide (l.tiles ≤ l.next) && l.deferred.isEmpty && l.handing.isNone)
/-- The completed prefix advances, its tile entries are posted in order, and the launch completes at its end (R291); while the dispatch
core is halted, a launch that it ended does not (R327). -/
def State.advance (s : State) (vf num : Nat) : State :=
  match s.launch? vf num with
  | none => s
  | some l =>
    if l.phase == .done || l.phase == .waiting then s
    else
      let p := prefixFrom l.tileDone l.completed (l.tiles - l.completed)
      let fresh := (List.range (p - l.completed)).map fun i => l.completed + i
      let l1 := { l with completed := p, posted := p }
      let s1 := fresh.foldl (fun t i => match l.tileDone.find? fun x => x.1 == i with
        | some x => if t.postsTiles vf l.queue then t.post vf l.queue { tile := true, bytes := tileEntry l i x.2, irq := !l.noirq, launch := num } else t
        | none => t) (s.setLaunch l1)
      if p == l.tiles && l1.walkedAll && !(s.coreHalted && l.aborted) then s1.finish l1 l1.endStatus else s1
/-- The blocks that ended at or above the completion window and now lie below it (R292). -/
def State.windowed (s : State) (l : Launch) : List Block :=
  s.blocks.filter fun b => b.vf == l.vf && b.launch == l.num && !b.task && b.parked && decide (b.tile < l.completed + Config.window)
/-- A gang ends with its last block. -/
def State.pruneGangs (s : State) : State := { s with gangs := s.gangs.filter fun g => (s.blocks ++ s.saved).any fun b => b.gang == some g.id }
/-- A tile completes; blocks that waited for the window give up what they hold (R291, R292). -/
def State.tileEnd (s : State) (vf num : Nat) : List (Nat × TileDone) → Nat → State
  | ds, 0 => match s.launch? vf num with
    | some l => (s.setLaunch { l with tileDone := l.tileDone ++ ds }).advance vf num
    | none => s
  | ds, k + 1 =>
    match s.launch? vf num with
    | none => s
    | some l =>
      let s1 := (s.setLaunch { l with tileDone := l.tileDone ++ ds }).advance vf num
      match s1.launch? vf num with
      | none => s1
      | some l1 =>
        let bs := s1.windowed l1
        if bs.isEmpty then s1
        else
          let s2 := ({ s1 with blocks := s1.blocks.filter fun b => !bs.any fun x => x.id == b.id } : State).pruneGangs
          s2.tileEnd vf num (bs.map fun b => (b.tile, { stat := 0, ranAt := s2.homeCode vf b.clu, spill := b.spill, version := b.version })) k
/-- Tiles complete without a block (R281). -/
def State.tilesDone (s : State) (vf num : Nat) (ds : List (Nat × TileDone)) : State := s.tileEnd vf num ds (s.blocks.length + 1)
def noBlock (stat version : Nat) : TileDone := { stat := stat, ranAt := 0, spill := 0, version := version }

/-! ### Submission (R278) -/

/-- Whether a barrier set is one that `.barriers` declares: b0 to b(n−1), and b15 (Table 3-3). -/
def barSetOk (m : BitVec 16) : Bool := (List.range 16).any fun n => m == BitVec.ofNat 16 (2 ^ n - 1 + 2 ^ 15)
/-- Whether rods 8 to 15 name scratchpad ranges, or none (Table 3-3, Table 21-2). -/
def CodeEntry.rodsOk (e : CodeEntry) : Bool :=
  e.rods.all fun x => x.2 == 0 || (decide (x.1.toNat + x.2.toNat ≤ 2 ^ 33) && decide (x.1.toNat % 2 ^ 30 + x.2.toNat ≤ Config.dieBytes))
/-- The limits of Table 3-3 on a kernel's entry. -/
def CodeEntry.limitsOk (e : CodeEntry) : Bool :=
  e.width != 0 && decide (1 ≤ e.warps) && decide (e.warps ≤ 16) && decide (1 ≤ e.threads) && decide (e.threads ≤ e.warps * e.width)
    && decide (1 ≤ e.team) && decide (e.team ≤ 8) && e.warps % e.team == 0 && decide (8 ≤ e.regs) && decide (e.regs ≤ 1024) && e.regs % 8 == 0
    && decide (e.shared ≤ 2 ^ 20) && decide (e.scratch ≤ Config.sliceBytes) && decide (e.stack ≤ 2 ^ 20) && e.stack % 16 == 0
    && decide (1 ≤ e.cluster) && decide (e.cluster ≤ 4) && decide (e.spawnres ≤ 64) && e.maps.all (fun m => decide (m ≤ 4))
    && e.rodsOk && barSetOk e.bars
/-- The operands of an entry: number, handle and map. -/
def CodeEntry.ops (e : CodeEntry) : List (Nat × Nat × Nat) :=
  ((List.range 8).map fun k => (k, (e.operands[k]?).getD 0, (e.maps[k]?).getD 4)).filter fun x => x.2.1 != 0
/-- How many tiles a map stages at most (Table 17-5). -/
def Desc.mapCount (d : Desc) (map : Nat) : Nat :=
  if map == 0 then 1 else if map == 1 then d.grid (d.rank - 1) else if map == 2 && decide (2 ≤ d.rank) then d.grid (d.rank - 2)
  else if map == 4 then 0 else d.tiles
/-- Whether a launch number has been assigned. -/
def State.assigned (s : State) (vf n : Nat) : Bool := n != 0 && (decide (n ≤ (s.vf vf).lastLaunch) || (s.launch? vf n).isSome)
/-- The cases of R278 in which a launch is refused. -/
def State.refused (s : State) (vf : Nat) (e : CodeEntry) (o : LaunchOpts) : Bool :=
  match s.desc? vf e.overTh with
  | none => true
  | some d =>
    let ops := e.ops.map fun x => (x.2.2, s.desc? vf x.2.1)
    !e.limitsOk || ops.any (fun x => x.2.isNone)
      || ops.any (fun x => decide (x.1 ≤ 2) && (x.2.map fun y => y.rank != d.rank).getD true)
      || decide (Config.sliceBytes < d.tileBytes + e.scratch + (ops.map fun x => (x.2.map fun y => y.mapCount x.1 * y.tileBytes).getD 0).foldl (· + ·) 0)
      || (o.count.map fun a => a % 4 != 0 || outOfWindow s vf a 4).getD false
      || (o.pred.map fun n => !s.assigned vf n).getD false || (o.pfx.map fun n => !s.assigned vf n).getD false
/-- Submit a launch (R278): it takes the next number; a refused one completes at once. -/
def State.submit (s : State) (vf : Nat) (e : CodeEntry) (bad : Bool) (q : Option Nat) (noirq : Bool) (cls : QClass) (deadline : DWord) (stamp : DWord)
    (arrival : Nat) (o : LaunchOpts) (bundle : Option (Nat × Nat)) : Nat × State :=
  let v := s.vf vf
  let num := if v.lastLaunch ≥ 0xFFFFFFFF then 1 else v.lastLaunch + 1
  let tiles := ((s.desc? vf e.overTh).map (·.tiles)).getD 0
  let l : Launch := {
    vf := vf, num := num, kernel := e, queue := q, noirq := noirq, cls := cls, deadline := deadline, stamp := stamp, arrival := arrival, opts := o,
    phase := .waiting, tiles := tiles, countWord := tiles, next := 0, deferred := [], clusters := [], handing := none, tileDone := [], completed := 0,
    posted := 0, created := 0, status := 0, suspended := false, aborted := false, bundle := bundle, parkedRec := none, lostRecs := [], doneAt := 0, retired := false,
    quantumFired := false, started := 0, bind := 0 }
  let s1 : State := { s.setVf vf { v with lastLaunch := num } with launches := (s.launches.filter fun x => !(x.vf == vf && x.num == num)) ++ [l] }
  (num, if bad || s.refused vf e o then s1.finish l 3 else s1)

/-! ### The start of a walk (R289, R290, R293, R296) -/

/-- How many launches of the interface have been submitted after number `n`; numbers wrap from 2³² − 1 to 1 (R278). -/
def launchAge (last n : Nat) : Nat := if n ≤ last then last - n else last + (2 ^ 32 - 1) - n
/-- What a launch that another names as PRED has come to: none where it is too old to be kept (R293). -/
def State.named (s : State) (vf n : Nat) : Option Launch :=
  if 65536 ≤ launchAge (s.vf vf).lastLaunch n then none else s.launch? vf n
/-- Whether a predecessor has completed, and whether its fault stops the dependant. -/
def State.predMet (s : State) (l : Launch) : Bool :=
  match l.opts.pred.bind (s.named l.vf) with
  | some p => p.phase == .done && p.retired
  | none => true
def State.predFault (s : State) (l : Launch) : Bool :=
  match l.opts.pred.bind (s.named l.vf) with
  | some p => p.status != 0 && !p.opts.cont
  | none => false
/-- A binding word of a queue (Table 21-8). -/
def bindEn (b : Word) : Bool := b.getLsbD 31 && b.toNat / 2 ^ 29 % 4 != 3
def bindGroup (b : Word) : Nat := b.toNat / 2 ^ 26 % 8
def bindQuantum (b : Word) : Nat := b.toNat / 2 ^ 16 % 2 ^ 10
def bindClass (b : Word) : QClass := if b.toNat / 2 ^ 29 % 4 == 0 then .deadline else if b.toNat / 2 ^ 29 % 4 == 1 then .interactive else .bulk
/-- Every physical cluster an interface holds, in order. -/
def Vf.clusters (v : Vf) : List Nat := v.dies.flatMap fun d => (v.clustersOn d).map fun c => 16 * d + c
/-- The physical clusters of an engine group (R343): its mask numbers them as the interface does. -/
def Vf.groupClusters (v : Vf) (g : Nat) : List Nat :=
  let m := (v.egrp[g]?).getD 0
  v.clusters.filter fun k => m.getLsbD (16 * v.dieNum (k / 16) + v.cluNum k)
/-- The clusters a launch may use: those of its queue's group, or all of the interface's (R288). -/
def State.launchClusters (s : State) (l : Launch) : List Nat :=
  let v := s.vf l.vf
  match l.queue with
  | some q => v.groupClusters (bindGroup (v.queue q).bind)
  | none => v.clusters
/-- A launch, spawn or continuation that waits for full service (R355). -/
def State.deferredUse (s : State) (e : CodeEntry) : Bool := s.level != 2 && (e.main || e.mat || e.f64p)
/-- Whether the queue of a launch is served (R334): enabled and bound; a launch of LNCH has none. -/
def State.queueServes (s : State) (l : Launch) : Bool :=
  match l.queue with
  | some q => let x := (s.vf l.vf).queue q; ringEn false x.qcfg && bindEn x.bind && !x.halted
  | none => true
/-- Whether a launch may begin its walk: the predecessors of its bundle are met, but for members that have ended (R293, R296, R334, R343,
R355, R356). -/
def State.mayWalk (s : State) (l : Launch) : Bool :=
  decide (1 ≤ s.level) && s.admitting && !s.coreHalted && l.phase == .waiting && (s.members l).all fun x =>
    x.phase == .done || (x.phase == .waiting && !x.suspended && s.drained x.after && s.covered x.cover && s.predMet x && s.queueServes x && !s.deferredUse x.kernel && !(s.launchClusters x).isEmpty)
/-- A launch takes its queue's binding when it starts: its class, and with it its entry's deadline and its stamp, its group and its quantum
(R343, R346). -/
def State.bound (s : State) (l : Launch) : Launch :=
  match l.queue with
  | some q => let b := ((s.vf l.vf).queue q).bind; { l with cls := bindClass b, bind := b }
  | none => l
/-- The walk of one launch begins. -/
def State.beginWalk (s : State) (l0 : Launch) : State :=
  let l := s.bound l0
  let n := match l.opts.count with
    | some a => (readWord s.sp (physOf s l.vf a)).toNat
    | none => l.tiles
  let tiles := min n l.tiles
  let l1 := { l with phase := .walking, tiles := tiles, countWord := n, clusters := s.launchClusters l, started := s.clock }
  let s1 := s.setLaunch l1
  if s.predFault l then
    let ds := (List.range tiles).map fun t => (t, noBlock 4 0)
    let l2 := { l1 with phase := .walked, tileDone := ds, completed := tiles, posted := tiles }
    let s2 := ds.foldl (fun t x => if t.postsTiles l.vf l.queue then t.post l.vf l.queue { tile := true, bytes := tileEntry l x.1 x.2, irq := !l.noirq, launch := l.num } else t) (s1.setLaunch l2)
    s2.finish l2 2
  else if tiles == 0 then s1.finish { l1 with phase := .walked } 0 else s1
/-- WALK_START (R293): the launches of a bundle start together. -/
def execWalkStart (vf num : Nat) (s : State) : Out :=
  .next (match s.launch? vf num with
    | none => s
    | some l => if s.mayWalk l then ((s.members l).filter (·.phase == .waiting)).foldl (fun t x => match t.launch? x.vf x.num with
        | some y => t.beginWalk y
        | none => t) s
      else s)

/-! ### The walk (R280, R281, R287, R288, R297) -/

/-- Blocks queued at a leaf: accepted and not yet created (R281). -/
def State.queued (s : State) (k : Nat) : Nat := (((s.leaf k).queue.filter (·.resume.isNone)).map (·.tiles.length)).foldl (· + ·) 0
/-- The cluster whose leaf has the fewest queued blocks; the first of equals. -/
def State.least (s : State) (ks : List Nat) : Option Nat :=
  ks.foldl (fun (b : Option Nat) k => match b with
    | none => some k
    | some x => if s.queued k < s.queued x then some k else some x) none
/-- The leaf of a copy (Table 17-4). -/
def State.copyLeaf (s : State) (vf : Nat) (c : Copy) : Option Nat :=
  match c.home with
  | .scratch k => some k
  | .main d => s.least (((s.vf vf).clustersOn d).map fun c => 16 * d + c)
  | .peer _ => s.least (s.vf vf).clusters
def Copy.isPeer (c : Copy) : Bool :=
  match c.home with
  | .peer _ => true
  | _ => false
/-- The copy a RESIDENT tile runs at (R281): none where only a peer's is left under `peer=skip`. -/
def State.chooseCopy (s : State) (l : Launch) (r : Rec) : Option Copy :=
  if l.opts.nearest then
    (r.copies.filter fun c => l.opts.fetch || !c.isPeer).foldl (fun (b : Option Copy) c => match b with
      | none => some c
      | some x => match s.copyLeaf l.vf x, s.copyLeaf l.vf c with
        | some i, some j => if s.queued j < s.queued i then some c else some x
        | _, _ => some x) none
  else match r.copies.head? with
    | some c => if c.isPeer && !l.opts.fetch then none else some c
    | none => none
/-- Where a tile goes: a leaf with the spill code of Table 17-7, or a status without a block. -/
inductive Placing where
  | leaf (k code : Nat)
  | status (stat : Nat)
  deriving DecidableEq, Repr
/-- Apply the spill option and the engine group to a chosen leaf (R287, R288). -/
def State.spillTo (s : State) (l : Launch) (tile k : Nat) (peer : Bool) : Placing :=
  let v := s.vf l.vf
  let thresh := v.spillth.toNat % 256
  let own := if peer then 3 else 0
  if !l.clusters.contains k then
    match s.least l.clusters with
    | some x => .leaf x 2
    | none => .leaf k own
  else if decide (s.queued k ≤ thresh) || decide (l.completed + Config.window ≤ tile) || l.opts.spill == 0 then .leaf k own
  else
    let near := if l.opts.spill == 1 then l.clusters.filter fun x => x / 16 == k / 16 else l.clusters
    match s.least near with
    | some x => if x != k && decide (s.queued x ≤ thresh) then .leaf x (if l.opts.spill == 1 then 1 else 2) else .leaf k own
    | none => .leaf k own
/-- `place` (R281), for a record that is not MOVING. A RESIDENT tile that no leaf can take, since its affinity die holds no cores of the interface,
has status TILEFAULT: the manual names none (R1, Table 17-4; assumption 79). -/
def State.placeTile (s : State) (l : Launch) (tile : Nat) (r : Rec) : Placing :=
  match r.state with
  | .faulted => .status 1
  | .absent => .status 3
  | _ => match s.chooseCopy l r with
    | none => .status 2
    | some c => match s.copyLeaf l.vf c with
      | none => .status 1
      | some k => s.spillTo l tile k c.isPeer
/-- The tiles of one unit of the walk: a tile, or the gang that starts with it (R297). -/
def Launch.unit (l : Launch) (t : Nat) : List Nat :=
  let g := l.kernel.cluster
  if g < 2 then [t] else (List.range g).map (fun i => t / g * g + i) |>.filter fun x => decide (x < l.tiles)
/-- Whether the bundle's order lets a launch take its next tile (R296). -/
def State.bundleTurn (s : State) (l : Launch) (t : Nat) : Bool :=
  (s.members l).all fun x => x.num == l.num || (x.handing.isNone && (x.phase != .walking || decide (x.tiles ≤ x.next)
    || decide (t < x.next) || (x.next == t && decide (launchAge (s.vf l.vf).lastLaunch x.num < launchAge (s.vf l.vf).lastLaunch l.num))))
/-- The unit has been decided: tiles without a block complete, and the others go to one leaf, that of the lowest of them, from which they are
spilled only where all of them may be (R281, R287, R297). -/
def State.decideUnit (s : State) (l : Launch) (recs : List (Nat × Rec)) : State :=
  let top := recs.foldl (fun m x => match s.placeTile l x.1 x.2 with
    | .leaf _ _ => max m x.1
    | .status _ => m) 0
  let ps := recs.map fun x => (x.1, x.2, s.placeTile l top x.2)
  let done := ps.filterMap fun x => match x.2.2 with
    | .status n => some (x.1, noBlock n x.2.1.version)
    | .leaf _ _ => none
  let placed := ps.filterMap fun x => match x.2.2 with
    | .leaf k c => some (x.1, x.2.1, k, c)
    | .status _ => none
  let s1 := match placed.head? with
    | none => s.setLaunch l
    | some x =>
      let k := x.2.2.1
      let code := x.2.2.2
      let far := fun (r : Rec) => ((s.chooseCopy l r).map Copy.isPeer).getD false
      let ts := placed.map fun (y : Nat × Rec × Nat × Nat) => (y.1, y.2.1.version, if code == 1 || code == 2 then code else if far y.2.1 then 3 else 0)
      let s0 : State := { s with pinned := s.pinned ++ placed.map fun (y : Nat × Rec × Nat × Nat) => (l.vf, l.kernel.overTh, y.1) }
      s0.setLaunch { l with handing := some (k, ts) }
  s1.tilesDone l.vf l.num done
/-- Where the walk stands: a tile still to be walked, or the first deferred one; the launch once it is taken. -/
def Launch.take (l : Launch) : Option (Nat × Bool × Launch) :=
  if l.next < l.tiles then
    some (l.next, false, { l with next := min l.tiles (l.next + (l.unit l.next).length) })
  else match l.deferred with
    | t :: rest => some (t, true, { l with deferred := rest })
    | [] => none
/-- The walk parks at a tile on a translation fault (R320). -/
def State.parkWalk (s : State) (l : Launch) (tile va : Nat) : State :=
  let p := s.park l.vf l.num va (.walk l.num tile)
  p.2.setLaunch { l with parkedRec := some p.1 }
/-- WALK_TILE (R280): a MOVING tile is deferred, with its gang; a translation fault, of the descriptor or of a record, parks the walk, and once the
host has aborted it the record is treated as FAULTED (Table 19-7). -/
def execWalkTile (vf num : Nat) (s : State) : Out :=
  .next (match s.launch? vf num with
    | none => s
    | some l =>
      if l.phase != .walking || l.handing.isSome || l.suspended || s.coreHalted || l.parkedRec.isSome then s
      else match l.take, s.desc? vf l.kernel.overTh with
        | some (t, again, l1), some d =>
          if !again && !s.bundleTurn l t then s
          else
            let bad : Rec := { state := .faulted, version := 0, copies := [] }
            let rs := (l.unit t).map fun x => (x, if l.lostRecs.contains x then some bad else s.record? vf d x)
            (match rs.find? fun x => x.2.isNone with
            | some x => s.parkWalk l x.1 (d.ptab + 64 * x.1)
            | none =>
              let recs := rs.filterMap fun x => x.2.map fun r => (x.1, r)
              if recs.any fun x => x.2.state == .moving then
                if again then s else s.setLaunch { l1 with deferred := l1.deferred ++ [t] }
              else s.decideUnit l1 recs)
        | some (t, again, l1), none =>
          if !again && !s.bundleTurn l t then s
          else match s.handleFault vf l.kernel.overTh with
            | some va =>
              if l.lostRecs.contains t then (s.setLaunch l1).tilesDone vf num ((l.unit t).map fun x => (x, noBlock 1 0)) else s.parkWalk l t va
            | none => (s.setLaunch l1).tilesDone vf num ((l.unit t).map fun x => (x, noBlock 1 0))
        | none, _ => s)
/-- FRESP answers a parked walk: it reads again, or the record is treated as FAULTED (Table 19-7). -/
def State.answerWalk (s : State) (vf num tile : Nat) (abort : Bool) : State :=
  match s.launch? vf num with
  | none => s
  | some l => s.setLaunch { l with parkedRec := none, lostRecs := if abort then l.lostRecs ++ [tile] else l.lostRecs }
/-- A launch whose last tile has been decided has been walked, and may be complete. -/
def State.settleWalk (s : State) (vf num : Nat) : State :=
  match s.launch? vf num with
  | some l => if l.walkedAll && l.phase == .walking then (s.setLaunch { l with phase := .walked }).advance vf num else s
  | none => s
/-- TILE_HANDOFF: the walker spends a permit of the leaf's link (R282). -/
def execTileHandoff (vf num : Nat) (s : State) : Out :=
  .next (match s.launch? vf num with
    | none => s
    | some l => match l.handing with
      | none => s
      | some (k, ts) =>
        let f := s.leaf k
        if Config.linkPermits ≤ f.incoming.length then s
        else
          let e : LeafEntry := { vf := vf, launch := num, tiles := ts, gang := decide (2 ≤ l.kernel.cluster), cls := l.cls, deadline := l.deadline,
                                 resume := none, accepted := 0 }
          ((s.setLeaf k { f with incoming := f.incoming ++ [e] }).setLaunch { l with handing := none }).settleWalk vf num)

/-! ### Leaves (R282, R283, R298) -/

/-- DEADLINE entries stand ahead of the rest, in deadline order; suspended blocks stand at the head (R283, R316). -/
def enqueue (e : LeafEntry) : List LeafEntry → List LeafEntry
  | [] => [e]
  | x :: xs =>
    if e.cls == .deadline && x.resume.isNone && (x.cls != .deadline || decide (e.deadline.toNat < x.deadline.toNat)) then e :: x :: xs
    else x :: enqueue e xs
/-- Whether an entry of a leaf's queue comes before another by class and deadline (R283). -/
def LeafEntry.urgent (x e : LeafEntry) : Bool := x.cls == .deadline && (e.cls != .deadline || decide (x.deadline.toNat < e.deadline.toNat))
/-- Whether a tile of a launch with PREFIX must wait for its producer (R294, R296), however many launches lie between them. -/
def State.prefixWaits (s : State) (l : Launch) (t : Nat) : Bool :=
  match l.opts.pfx.bind (s.launch? l.vf) with
  | some p => if p.bundle.isSome then !p.retired else !(decide (t < p.completed) || p.phase == .done)
  | none => false
/-- Whether a producer tile at or below gives the tile DEPFAULT (R294). -/
def State.prefixFault (s : State) (l : Launch) (t : Nat) : Bool :=
  match l.opts.pfx.bind (s.launch? l.vf) with
  | some p => !p.opts.cont && p.tileDone.any fun x => decide (x.1 ≤ t) && (x.2.stat == 1 || x.2.stat == 4)
  | none => false
/-- Whether an entry of its leaf's queue stands behind one of its launch with a lower tile (R283). -/
def lowerQueued (q : List LeafEntry) (e : LeafEntry) : Bool :=
  e.resume.isNone && q.any fun x => x.vf == e.vf && x.launch == e.launch && x.resume.isNone && x.tiles.any fun t => e.tiles.all fun u => decide (t.1 < u.1)
/-- Whether an entry waits for what is none of its leaf's doing, so that the entries behind it are taken (R283; assumption 70): its launch is
suspended, a tile waits for its producer, or a lower tile of its launch has been accepted behind it. -/
def State.entryWaits (s : State) (k : Nat) (e : LeafEntry) : Bool :=
  lowerQueued (s.leaf k).queue e || (match s.launch? e.vf e.launch with
    | some l => l.suspended || (e.resume.isNone && e.tiles.any fun x => s.prefixWaits l x.1)
    | none => false)
/-- The entry that stands first among those that do not wait begins to wait there, if it is a gang (R298). -/
def State.noteHead (s : State) (k : Nat) : State :=
  let f := s.leaf k
  match f.queue.find? fun e => !s.entryWaits k e with
  | some e =>
    if e.gang && e.headSince.isNone then
      s.setLeaf k { f with queue := mapIf (fun x => x.accepted == e.accepted) (fun x => { x with headSince := some s.clock }) f.queue }
    else s
  | none => s
/-- The entries that stand first in the queues of the leaves begin to wait there (R298). -/
def State.noteHeads (s : State) : State := s.leaves.foldl (fun t x => t.noteHead x.1) s
/-- LEAF_ACCEPT: the leaf takes a hand-off into its queue and returns the permit. -/
def execLeafAccept (leaf : Nat) (s : State) : Out :=
  let f := s.leaf leaf
  .next (match f.incoming with
    | [] => s
    | e :: rest =>
      if Config.leafQueue < s.queued leaf + e.tiles.length then s
      else ({ s with nextId := s.nextId + 1 }.setLeaf leaf { f with incoming := rest, queue := enqueue { e with accepted := s.nextId } f.queue }).noteHead leaf)
/-- Whether a gang that has come to the head has waited longer than AGE there; with AGE 0, from the start (R298). -/
def State.pastAge (s : State) (e : LeafEntry) : Bool :=
  let age := (s.vf e.vf).gangage.toNat % 2 ^ 16
  match e.headSince with
  | some t => age == 0 || decide (age * s.mhz < s.clock - t)
  | none => false
/-- GANG_AGE_EXPIRY: a gang that has come to the head has waited longer than AGE, and holds others back until it is placed, whatever AGE becomes
(R298). -/
def execGangAgeExpiry (leaf : Nat) (s0 : State) : Out :=
  let s := s0.noteHead leaf
  let f := s.leaf leaf
  .next (if f.queue.any fun e => s.pastAge e && !e.aged then s.setLeaf leaf { f with queue := mapIf s.pastAge (fun e => { e with aged := true }) f.queue } else s)
/-- The clusters that could host a head gang (R298). -/
def State.gangReach (s : State) (k : Nat) (e : LeafEntry) : List Nat :=
  match s.launch? e.vf e.launch with
  | some l => if l.opts.spill == 0 || e.resume.isSome then [k] else if l.opts.spill == 1 then l.clusters.filter fun x => x / 16 == k / 16 else l.clusters
  | none => [k]
/-- The gangs of a leaf's queue past their age (R298); under AGE 0 the gang that has just come to the head is one. -/
def State.agedGangs (s0 : State) (k : Nat) : List LeafEntry :=
  let s := s0.noteHead k
  (s.leaf k).queue.filter fun e => e.gang && (e.aged || s.pastAge e)
/-- Whether one entry of a queue stands before another. -/
def standsBefore (q : List LeafEntry) (g e : LeafEntry) : Bool := (q.takeWhile fun x => x.accepted != e.accepted).any fun x => x.accepted == g.accepted
/-- Whether an aged gang holds back an entry of leaf `k` that stands behind it: in its own queue, or, at another leaf that could host it,
accepted after it (R298). -/
def State.heldBack (s : State) (k : Nat) (e : LeafEntry) : Bool :=
  (List.range 128).any fun j => (s.agedGangs j).any fun g =>
    (if j == k then standsBefore (s.leaf k).queue g e else decide (g.accepted < e.accepted)) && g.vf == e.vf && (s.gangReach j g).contains k
      && !e.urgent g

/-! ### Room on a core (R9, R25, R31, R163, R283) -/

/-- Warps of a declaration on quadrant `q` when its first is on `q0`. -/
def CodeEntry.warpsOn (d : CodeEntry) (q0 q : Nat) : Nat := ((List.range d.created).filter fun w => (q0 + w) % 4 == q).length
/-- Blocks resident on a core, those kept by the completion window included. -/
def State.resident (s : State) (core : Nat) : List Block := s.blocks.filter fun b => b.core == core
def sumOf (xs : List Nat) : Nat := xs.foldl (· + ·) 0
/-- Pending entries of a die in use or set aside (R162, R163). -/
def State.pendUsed (s : State) (die : Nat) : Nat :=
  (s.tasks.filter fun t => t.die == die).length + sumOf (((s.blocks ++ s.saved).filter fun b => b.die == die).map (·.reserve))
/-- Room on a core but for the place of the staging region. -/
def State.roomOn (s : State) (vf : Nat) (d : CodeEntry) (core q0 regionLen : Nat) : Bool :=
  let bs := s.resident core
  let clu := (s.blocks ++ s.saved).filter fun b => b.clu == core / 4
  (s.vf vf).vfclu.getLsbD (core / 4) && !(s.vf vf).coreless.getLsbD (core / 4) && !s.idling.contains core && decide (core < 512) && decide (q0 < 4) && decide (bs.length < 16)
    && decide (sumOf (bs.map fun b => b.warps.length) + d.created ≤ 64)
    && (List.range 4).all (fun q =>
      decide (sumOf (bs.map fun b => b.decl.warpsOn b.q0 q) + d.warpsOn q0 q ≤ 16)
        && decide (sumOf (bs.map fun b => b.decl.warpsOn b.q0 q * b.decl.warpWords) + d.warpsOn q0 q * d.warpWords ≤ Config.quadWords))
    && decide (sumOf (bs.map fun b => roundTo b.decl.shared 1024) + roundTo d.shared 1024 ≤ 2 ^ 20)
    && decide (sumOf (clu.map fun b => b.regionLen + b.decl.stackBytes) + regionLen + d.stackBytes ≤ Config.sliceBytes)
    && decide (s.pendUsed (core / 64) + d.spawnres ≤ Config.taskEntries)
/-- Whether a place takes a block: its staging region meets no other block's (R284). -/
def State.fits (s : State) (vf : Nat) (d : CodeEntry) (pl : Place) (regionLen : Nat) : Bool :=
  s.roomOn vf d pl.core pl.q0 regionLen && pl.region % 256 == 0 && decide (pl.region + regionLen ≤ Config.sliceBytes)
    && !((s.blocks ++ s.saved).any fun b => b.clu == pl.core / 4 && meets b.region b.regionLen pl.region regionLen)
/-- Pacing (R303): whether a die may start `n` blocks in its interval. A gang of more blocks than STEP, which are created in one step (R10), starts in
an interval of its own, and those after it are charged for it (assumption 70). -/
def rampStep (r : Word) : Nat := max 1 (r.toNat / 256 % 256)
def State.rampOk (s : State) (die n : Nat) : Bool :=
  let k := Sparse.get 0 s.starts die
  !s.ramp.getLsbD 31 || decide (k + n ≤ rampStep s.ramp) || (k == 0 && decide (rampStep s.ramp < n))
/-- Whether `n` blocks may be created on a die: firmware stops them on die 0 while it enters full service (R356). -/
def State.mayCreate (s : State) (die n : Nat) : Bool := decide (1 ≤ s.level) && (s.admitting || die != 0) && s.rampOk die n
def State.countStart (s : State) (die : Nat) : State := if s.ramp.getLsbD 31 then { s with starts := Sparse.set 0 s.starts die (Sparse.get 0 s.starts die + 1) } else s
/-- The end of a block is a stop of its die: beyond STEP in the interval, its core idles (R303). -/
def State.countEnd (s : State) (core : Nat) : State :=
  let die := core / 64
  let n := Sparse.get 0 s.ends die
  if !s.ramp.getLsbD 31 then s
  else { s with
    ends := Sparse.set 0 s.ends die (n + 1)
    idling := if rampStep s.ramp ≤ n then s.idling ++ [core] else s.idling }
/-- HX_RAMP takes a value: as pacing is turned on, an interval of every die begins; while it is off, no core idles (R303). -/
def State.setRamp (s : State) (w : Word) : State :=
  if !w.getLsbD 31 then { s with ramp := w, idling := [] }
  else if s.ramp.getLsbD 31 then { s with ramp := w }
  else { s with ramp := w, starts := [], ends := [], rampAt := (List.range 8).foldl (fun m d => Sparse.set 0 m d s.clock) [] }
/-- Whether the pacing interval of a die has elapsed (R303). -/
def State.rampDue (s : State) (die : Nat) : Bool :=
  s.ramp.getLsbD 31 && decide ((max 1 (s.ramp.toNat % 256)) * s.mhz ≤ (s.clock - Sparse.get 0 s.rampAt die) * 10)
/-- RAMP_INTERVAL: a pacing interval of a die elapses (R303); the next admits up to STEP of the stops that its cores idle for. -/
def execRampInterval (die : Nat) (s : State) : Out :=
  let step := rampStep s.ramp
  let mine := s.idling.filter fun c => c / 64 == die
  .next (if s.rampDue die then { s with
      starts := Sparse.set 0 s.starts die (Sparse.get 0 s.starts die - step)
      ends := Sparse.set 0 s.ends die (min step mine.length)
      rampAt := Sparse.set 0 s.rampAt die s.clock
      idling := (s.idling.filter fun c => c / 64 != die) ++ mine.drop step }
    else s)

/-! ### Warps and blocks at their start (R13, R26, R32, R204) -/

/-- Warp `n` of a block at its start. Its stack is undefined (R32): `tag` numbers its free bytes. -/
def newWarp (d : CodeEntry) (n : Nat) (args : List Word) (bad : List Nat) (tag : Nat) : Warp :=
  let W := d.width
  let live := Mask.ofLanes ((List.range W).filter fun l => decide (n * W + l < d.threads))
  let run : Run := { pc := d.code, lanes := live, age := 0, yieldEnd := none, notBefore := 0, wait := none, held := false, handler := false, samples := none }
  ({ live := live, helpers := (Mask.below W).diff live, runs := [run], v := [],
     s := (List.range 16).foldl (fun m k => Sparse.set 0 m k ((args[k]?).getD 0)) [],
     p := [], sets := [], queues := [], depth := [], sp := [], stack := [], stackTag := some tag, reach := [], arrived := [],
     trec := { cause := 0, pc := 0, mask := 0, info := 0, infx := 0 }, trap := none, pend := [], late := [], storeQ := [], vPois := [], sPois := bad,
     stackPois := [], halted := false, ended := false, endedNow := false, heldTeam := none, picked := 0 } : Warp).endHelpers
/-- The barriers of a block at its start: `staged` bytes are expected at b15, `here` of them counted already (R204, R286). -/
def newBars (staged here : Nat) : List Barrier :=
  List.replicate 15 Barrier.uninit ++ [
    if staged == 0 then { ready := true, phase := 1, expW := 0, arrW := 0, expB := 0, arrB := 0, lost := false }
    else { ready := true, phase := 0, expW := 0, arrW := 0, expB := staged, arrB := here, lost := false }]
/-- The lowest free slot of a core. -/
def State.freeSlot (s : State) (core : Nat) : Nat :=
  let used := (s.resident core).map (·.slot)
  ((List.range 16).find? fun k => !used.contains k).getD 0
def newTeams (d : CodeEntry) : List Team := List.replicate (d.warps / d.team) { avg := 0, lastOp := [], charge := [], passed := 0 }
/-- Rods 8 to 15 of an entry (R147). -/
def entryRod (x : DWord × Word) : List Range := if x.2 == 0 then [] else [⟨.sp, x.1.toNat, x.2.toNat⟩]

/-! ### Staging (R284 to R286) -/

/-- The tiles that an operand map stages for coordinates (Table 17-5), in tile-index order. -/
def Desc.mapTiles (d : Desc) (map : Nat) (c : List Nat) : List Nat :=
  let vary := fun (k : Nat) => (List.range (d.grid k)).filterMap fun j => d.tileAt (c.take k ++ [j] ++ c.drop (k + 1))
  if map == 0 then (d.tileAt c).toList
  else if map == 1 then vary (d.rank - 1)
  else if map == 2 && decide (2 ≤ d.rank) then vary (d.rank - 2)
  else if map == 4 then [] else List.range d.tiles
/-- One tile to stage: operand number (none: the own tile), handle, descriptor, tile, whether it may be staged in place. -/
structure ToStage where
  op : Option Nat
  handle : Nat
  desc : Desc
  tile : Nat
  inPlace : Bool
  deriving DecidableEq, Repr
/-- One staged tile: its address, whether it is copied, and the copy it is read from. -/
structure Staged where
  what : ToStage
  copied : Bool
  addr : Nat
  src : Copy
  deriving DecidableEq, Repr
def State.toStage (s : State) (l : Launch) (tile code : Nat) : List ToStage :=
  match s.desc? l.vf l.kernel.overTh with
  | none => []
  | some d =>
    { op := none, handle := l.kernel.overTh, desc := d, tile := tile, inPlace := code != 1 && code != 2 } ::
      l.kernel.ops.flatMap fun x => match s.desc? l.vf x.2.1 with
        | some e => (e.mapTiles x.2.2 (d.coords tile)).map fun t => { op := some x.1, handle := x.2.1, desc := e, tile := t, inPlace := x.2.2 == 0 && code != 1 && code != 2 }
        | none => []
/-- What keeps a block from being staged, or its copies. Under `peer=skip` an operand tile at a peer is not usable (R285); the own tile's primary copy
is read wherever it lies (R284). -/
inductive Source where
  | moving
  | unusable
  | fault (va : Nat)
  | ok (c : Copy)
  deriving DecidableEq, Repr
def State.stageSource (s : State) (l : Launch) (die : Nat) (lost : Nat → Bool) (x : ToStage) : Source :=
  let va := x.desc.ptab + 64 * x.tile
  match s.record? l.vf x.desc x.tile with
  | none => if lost va then .unusable else .fault va
  | some r => match r.state with
    | .moving => .moving
    | .resident => (match r.use die with
      | some c => if c.isPeer && !l.opts.fetch && x.op.isSome then .unusable else .ok c
      | none => .unusable)
    | _ => .unusable
/-- Lay out a block's staging region (R284): staged tiles, and the end of the copied ones. -/
def State.layStage (s : State) (vf clu region : Nat) : List (ToStage × Copy) → Nat → List Staged × Nat
  | [], off => ([], off)
  | (x, c) :: rest, off =>
    let home := match c.home with
      | .scratch k => k == clu
      | _ => false
    if x.inPlace && home then
      let r := s.layStage vf clu region rest off
      ({ what := x, copied := false, addr := c.addr, src := c } :: r.1, r.2)
    else
      let at_ := roundTo off 256
      let r := s.layStage vf clu region rest (at_ + x.desc.tileBytes)
      ({ what := x, copied := true, addr := (s.vf vf).scratchAddr clu (region + at_), src := c } :: r.1, r.2)
/-- Start the copy of one staged tile as a job of the block, its earliest (R286). -/
def State.stageCopy (s : State) (b : Block) (x : Staged) : State :=
  let n := x.what.desc.tileBytes
  let dev := match x.src.home with
    | .peer d => d
    | _ => 0
  let space : XSpace := match x.src.home with
    | .scratch _ => .sp
    | _ => if x.what.desc.early then .sp else .mm
  let kind : JobKind := if x.src.isPeer then .pull else .copy
  let reads : List Range := if x.src.isPeer then [] else [⟨if space == .sp then .sp else .mm, x.src.addr, n⟩]
  let j : Job := {
    id := s.nextId, vf := b.vf, blk := b.id, warp := 0, staging := true, kind := kind, dst := .sp, src := space, dstAddr := x.addr, srcAddr := x.src.addr,
    len := n, rows := 1, sPitch := 0, dPitch := 0, pattern := 0, bar := 15, list := 0, limit := 0, cores := 0, dev := dev, peer := 0, sig := 0,
    chunks := planChunks kind x.addr n 1 0, reads := reads, writes := [⟨.sp, x.addr, n⟩], rods := s.rodTags b (reads ++ [⟨.sp, x.addr, n⟩]), failed := false,
    pin := x.what.op.map fun _ => (x.what.handle, x.what.tile) }
  { s with
    nextId := s.nextId + 1
    jobs := s.jobs ++ [j] }
/-- Engine groups that hold a cluster have work again (R299). -/
def State.wakeGroups (s : State) (clu : Nat) : State :=
  { s with vfs := s.vfs.map fun x =>
      let busy := (List.range 8).filter fun g => x.2.idle.getLsbD g && (x.2.groupClusters g).contains clu
      (x.1, { x.2 with idle := busy.foldl (fun m g => m &&& ~~~(BitVec.ofNat 8 (2 ^ g))) x.2.idle }) }
/-- Create a block at a place, with its staged tiles (R283 to R286). -/
def State.createBlock (s : State) (l : Launch) (t : Nat × Nat × Nat) (pl : Place) (gang : Option Nat) (st : List Staged) (regionLen sbase : Nat) : State :=
  let d := l.kernel
  let id := s.nextId
  let tag := fun (n : Nat) => (s.fresh + n) * 2 ^ 32
  let addrOf := fun (k : Option Nat) => ((st.find? fun x => x.what.op == k).map (·.addr)).getD 0
  let total := sumOf (st.map fun x => x.what.desc.tileBytes)
  let here := sumOf ((st.filter fun x => !x.copied).map fun x => x.what.desc.tileBytes)
  let coords := ((s.desc? l.vf d.overTh).map fun o => o.coords t.1).getD []
  let rods := ((List.range 8).map fun k => (st.filter fun x => x.what.op == some k).map fun x => (⟨.sp, x.addr, x.what.desc.tileBytes⟩ : Range))
    ++ ((List.range 8).map fun k => ((d.rods[k]?).map entryRod).getD []) ++ List.replicate 16 []
  let b : Block := {
    id := id, vf := l.vf, launch := l.num, task := false, core := pl.core, slot := s.freeSlot pl.core, q0 := pl.q0, decl := d, depth := 0, cls := l.cls,
    deadline := l.deadline, tile := t.1, coords := coords, tcnt := l.tiles, version := t.2.1, spill := t.2.2,
    tbase := BitVec.ofNat 64 (addrOf none), obase := (List.range 8).map fun k => BitVec.ofNat 64 (addrOf (some k)),
    sbase := if d.scratch == 0 then 0 else BitVec.ofNat 64 sbase, region := pl.region, regionLen := regionLen, cstat := 0,
    warps := (List.range d.created).map fun n => { newWarp d n l.opts.args l.opts.bad (tag n) with picked := s.clock, floor := s.nextId }, bars := newBars total here, gang := gang, rods := rods,
    shared := [], sharedTag := tag d.created, sharedPois := [], teams := newTeams d, reserve := d.spawnres, futures := [], pins := (st.take 1).map fun x => (x.what.handle, x.what.tile),
    preempt := .none, parked := false }
  let s1 : State := { s with
    nextId := id + 1
    fresh := s.fresh + d.created + 1
    blocks := s.blocks ++ [b] }
  let s2 := (st.filter (·.copied)).foldl (fun u x => u.stageCopy b x) (s1.checkPhase id 15)
  let s3 := (s2.countStart b.die).wakeGroups b.clu
  match s3.launch? l.vf l.num with
  | some l1 => s3.setLaunch { l1 with created := l1.created + 1 }
  | none => s3
/-- Remove one element. -/
def removeOne {α : Type} [DecidableEq α] (x : α) : List α → List α
  | [] => []
  | y :: ys => if x = y then ys else y :: removeOne x ys
/-- Unpin tiles (R277). -/
def State.unpin (s : State) (vf : Nat) (ps : List (Nat × Nat)) : State :=
  { s with pinned := ps.foldl (fun m p => removeOne (vf, p.1, p.2) m) s.pinned }
/-- What a leaf finds for a tile it would create. -/
inductive Ready where
  | wait
  | status (stat : Nat)
  | fault (va : Nat)
  | ok (xs : List (ToStage × Copy))
  deriving DecidableEq, Repr
/-- Whether a tile's block can be staged on a die (R283, R285, R294); `lost`: the host has aborted the fault at an address, and what would be read
there is treated as FAULTED (R320). -/
def State.tileReady (s : State) (l : Launch) (die tile code : Nat) (lost : Nat → Bool) : Ready :=
  if s.prefixWaits l tile then .wait
  else if s.prefixFault l tile then .status 4
  else
    match (l.kernel.overTh :: l.kernel.ops.map fun x => x.2.1).findSome? (s.handleFault l.vf) with
    | some va => if lost va then .status 1 else .fault va
    | none =>
    let xs := (s.toStage l tile code).map fun x => (x, s.stageSource l die lost x)
    let fault := xs.findSome? fun x => match x.2 with
      | .fault va => some va
      | _ => none
    if xs.isEmpty || xs.any fun x => x.2 == .unusable then .status 1
    else match fault with
    | some va => .fault va
    | none =>
      if xs.any fun x => x.2 == .moving then .wait
      else .ok (xs.filterMap fun x => match x.2 with
        | .ok c => some (x.1, c)
        | _ => none)
/-- The layout of a ready tile at a place: staged tiles, the region's length, %sbase. -/
def State.layout (s : State) (l : Launch) (pl : Place) (xs : List (ToStage × Copy)) : List Staged × Nat × Nat :=
  let r := s.layStage l.vf (pl.core / 4) pl.region xs 0
  let sOff := roundTo r.2 256
  (r.1, if l.kernel.scratch == 0 then r.2 else sOff + l.kernel.scratch, (s.vf l.vf).scratchAddr (pl.core / 4) (pl.region + sOff))
/-- Entry `n` leaves a leaf's queue. -/
def dropAt {α : Type} : List α → Nat → List α
  | [], _ => []
  | _ :: xs, 0 => xs
  | x :: xs, n + 1 => x :: dropAt xs n
def State.leaveLeaf (s : State) (k n : Nat) : State :=
  let f := s.leaf k
  (s.setLeaf k { f with queue := dropAt f.queue n }).noteHead k
/-- Tiles that take a status at their leaf: unpinned and complete. -/
def State.leafStatus (s : State) (l : Launch) (ts : List (Nat × Nat × Nat)) (stat : Nat → Nat) : State :=
  (s.unpin l.vf (ts.map fun t => (l.kernel.overTh, t.1))).tilesDone l.vf l.num (ts.map fun t => (t.1, noBlock (stat t.1) t.2.1))
/-- The fault that the staging of a leaf's entry has parked on at an address, and whether the host has aborted it. -/
def State.stageFault (s : State) (k : Nat) (e : LeafEntry) (va : Nat) : Option ParkedFault := s.faults.find? fun f => f.what == Parked.stage k e.accepted va
def Parked.ofStage (k accepted : Nat) (p : Parked) : Bool :=
  match p with
  | .stage j a _ => j == k && a == accepted
  | _ => false
def State.clearStage (s : State) (k : Nat) (e : LeafEntry) : State := { s with faults := s.faults.filter fun f => !f.what.ofStage k e.accepted }
def State.stageLost (s : State) (k : Nat) (e : LeafEntry) (va : Nat) : Bool := ((s.stageFault k e va).map fun x => x.abort == some true).getD false
/-- The staging of an entry parks on a fault that it has not parked on yet (R320). -/
def State.parkStage (s : State) (k : Nat) (e : LeafEntry) (va : Nat) : State :=
  if (s.stageFault k e va).isSome then s else (s.park e.vf e.launch va (.stage k e.accepted va)).2
/-- Whether a gang of a kernel whose `.cluster` is 2 or more is resident on a cluster: one other than `own` with a block there (R204, R297). -/
def State.gangHere (s : State) (clu : Nat) (own : Option Nat) : Bool :=
  s.gangs.any fun g => g.cluster == clu && own != some g.id && s.blocks.any fun b => b.gang == some g.id

/-! ### What can be placed (R283, R298) -/

/-- Where staging regions of a cluster may begin in the device's own search: at the start of the slice, or behind a region (assumption 70). -/
def State.regionStarts (s : State) (clu : Nat) : List Nat :=
  0 :: ((s.blocks ++ s.saved).filter fun b => b.clu == clu).map fun b => roundTo (b.region + b.regionLen) 256
/-- A place that takes a block on a core of a cluster, outside the cores already used. -/
def State.findPlace (s : State) (vf : Nat) (d : CodeEntry) (clu : Nat) (used : List Nat) (regionLen : Nat) : Option Place :=
  ((List.range 4).filter fun c => !used.contains (4 * clu + c)).findSome? fun c => (List.range 4).findSome? fun q =>
    (s.regionStarts clu).findSome? fun r => if s.fits vf d ⟨4 * clu + c, q, r⟩ regionLen then some ⟨4 * clu + c, q, r⟩ else none
/-- Whether the blocks of ready tiles can be placed on a cluster, each on a core of its own. -/
def State.placeAll (s : State) (l : Launch) (clu : Nat) (gang : Option Nat) : List ((Nat × Nat × Nat) × List (ToStage × Copy)) → List Nat → Bool
  | [], _ => true
  | (t, xs) :: rest, used =>
    match s.findPlace l.vf l.kernel clu used (s.layout l ⟨4 * clu, 0, 0⟩ xs).2.1 with
    | none => false
    | some pl =>
      let y := s.layout l pl xs
      (s.createBlock l t pl gang y.1 y.2.1 y.2.2).placeAll l clu gang rest (pl.core :: used)
/-- The saved blocks that resume together (R316). -/
def State.savedUnit (s : State) (b : Block) : List Block := s.saved.filter fun x => x.id == b.id || (b.gang.isSome && x.gang == b.gang)
/-- Whether a core takes a suspended block back; its staging region has stayed where it is (R313). -/
def State.takesBack (s : State) (b : Block) (core q0 : Nat) : Bool :=
  core / 4 == b.clu && ({ s with saved := s.saved.filter fun x => x.id != b.id } : State).roomOn b.vf { b.decl with spawnres := b.reserve } core q0 b.regionLen
/-- Whether suspended blocks can return to cores of their cluster, each to one of its own. -/
def State.placeBack (s : State) : List Block → List Nat → Bool
  | [], _ => true
  | b :: rest, used =>
    (List.range 4).any fun c => (List.range 4).any fun q =>
      !used.contains (4 * b.clu + c) && s.takesBack b (4 * b.clu + c) q
        && ({ s with saved := s.saved.filter (fun x => x.id != b.id), blocks := s.blocks ++ [{ b with core := 4 * b.clu + c, q0 := q }] } : State).placeBack rest
          ((4 * b.clu + c) :: used)
/-- What a leaf finds for the tiles of an entry: those that are ready, unless one waits or is parked on a fault. -/
def State.readyTiles (s : State) (l : Launch) (k : Nat) (e : LeafEntry) : Option (List ((Nat × Nat × Nat) × List (ToStage × Copy))) :=
  let rs := e.tiles.map fun t => (t, s.tileReady l (k / 16) t.1 t.2.2 (s.stageLost k e))
  if rs.any fun x => (match x.2 with
      | .wait | .fault _ => true
      | _ => false) then none
  else some (rs.filterMap fun x => match x.2 with
    | .ok xs => some (x.1, xs)
    | _ => none)
/-- Whether an entry of a leaf's queue can be placed now. -/
def State.placeable (s : State) (k : Nat) (e : LeafEntry) : Bool :=
  match e.resume with
  | some id => (match s.saved.find? fun b => b.id == id with
    | some b => s.placeBack (s.savedUnit b) [] && !(b.gang.isSome && s.gangHere k b.gang)
    | none => true)
  | none => match s.launch? e.vf e.launch with
    | some l => (match s.readyTiles l k e with
      | some xs => s.placeAll l k none xs [] && !(e.gang && s.gangHere k none)
      | none => false)
    | none => true
/-- Whether the order of a leaf's queue lets entry `n` be created (R283, R298, R300). Ahead of it stand only entries that wait, entries that
come after it by class and deadline, or, while the head gang cannot be placed, entries that cannot be placed either. -/
def State.orderOk (s : State) (k n : Nat) (e : LeafEntry) : Bool :=
  let q := (s.leaf k).queue
  let ahead := (q.take n).filter fun x => !s.entryWaits k x && !e.urgent x
  !lowerQueued q e && !s.heldBack k e && (match ahead with
    | [] => true
    | h :: _ => h.gang && e.resume.isNone && (!e.gang || decide (e.tiles.length < h.tiles.length) || e.vf != h.vf || e.launch != h.launch)
        && ahead.all fun x => !s.placeable k x)
/-- BLOCK_CREATE: a leaf creates the block of an entry at a place, or gives its tile a status (R283 to R286). -/
def execBlockCreate (leaf n : Nat) (pl : Place) (s : State) : Out :=
  .next (match (s.leaf leaf).queue[n]? with
    | none => s
    | some e => match s.launch? e.vf e.launch, e.tiles with
      | some l, [t] =>
        if e.gang || e.resume.isSome || l.suspended || !s.orderOk leaf n e || !s.mayCreate (leaf / 16) 1 || pl.core / 4 != leaf then s
        else
          (match s.tileReady l (leaf / 16) t.1 t.2.2 (s.stageLost leaf e) with
          | .wait => s
          | .fault va => s.parkStage leaf e va
          | .status x => ((s.clearStage leaf e).leaveLeaf leaf n).leafStatus l [t] fun _ => x
          | .ok xs =>
            let y := s.layout l pl xs
            if s.fits e.vf l.kernel pl y.2.1 then ((s.clearStage leaf e).leaveLeaf leaf n).createBlock l t pl none y.1 y.2.1 y.2.2 else s)
      | _, _ => s)
/-- Create the blocks of a gang one after another; none where one does not fit. -/
def State.createGang (s : State) (l : Launch) (gang : Nat) : List ((Nat × Nat × Nat) × Place × List (ToStage × Copy)) → Option State
  | [] => some s
  | (t, pl, xs) :: rest =>
    let y := s.layout l pl xs
    if s.fits l.vf l.kernel pl y.2.1 then (s.createBlock l t pl (some gang) y.1 y.2.1 y.2.2).createGang l gang rest else none
/-- Whether no two places name one core. -/
def distinctCores : List Place → Bool
  | [] => true
  | p :: ps => !ps.any (fun q => q.core == p.core) && distinctCores ps
/-- GANG_PLACE: all blocks of a gang are created in one step on the leaf's cluster (R10, R297). -/
def execGangPlace (leaf n : Nat) (pls : List Place) (s : State) : Out :=
  .next (match (s.leaf leaf).queue[n]? with
    | none => s
    | some e => match s.launch? e.vf e.launch with
      | none => s
      | some l =>
        if !e.gang || e.resume.isSome || l.suspended || !s.orderOk leaf n e || s.gangHere leaf none || pls.any (fun p => p.core / 4 != leaf) || !distinctCores pls then s
        else
          let rs := e.tiles.map fun t => (t, s.tileReady l (leaf / 16) t.1 t.2.2 (s.stageLost leaf e))
          let faults := rs.filterMap fun x => match x.2 with
            | .fault va => some va
            | _ => none
          (match faults with
          | _ :: _ => faults.foldl (fun t va => t.parkStage leaf e va) s
          | [] =>
            if rs.any fun x => x.2 == .wait then s
            else
              let bad := rs.filter fun x => match x.2 with
                | .status _ => true
                | _ => false
              let stat := fun (t : Nat) => (bad.findSome? fun x => match x.2 with
                | .status k => if x.1.1 == t then some k else none
                | _ => none).getD 1
              let good := rs.filterMap fun x => match x.2 with
                | .ok xs => some (x.1, xs)
                | _ => none
              if good.length != pls.length || !s.mayCreate (leaf / 16) good.length then s
              else
                let id := s.nextId
                let bar0 : Barrier := { ready := true, phase := 0, expW := good.length * l.kernel.created, arrW := 0, expB := 0, arrB := 0, lost := false }
                let g : Gang := { id := id, cluster := leaf, created := good.length * l.kernel.created, bars := List.replicate 4 bar0 }
                let s0 := (s.clearStage leaf e).leaveLeaf leaf n
                let s1 : State := { s0 with nextId := id + 1 }
                let s2 : State := if good.isEmpty then s1 else { s1 with gangs := s1.gangs ++ [g] }
                (match s2.createGang l id ((good.zip pls).map fun x => (x.1.1, x.2, x.1.2)) with
                | none => s
                | some s3 => if bad.isEmpty then s3 else s3.leafStatus l (bad.map (·.1)) stat)))

/-! ### The end of a block (R163, R193, R291, R292, R326) -/

/-- A task's owned futures that are still EMPTY are resolved by FFLT (R326). -/
def State.failOwned (s : State) (b : Block) : State :=
  let cause := ((b.warps.head?).map fun w => w.trec.cause).getD 0
  b.futures.foldl (fun t f => (t.resolve? f (pairWord 0xFFFFFFFF cause) true (b.launch % 2 ^ 16)).getD t) s
/-- Every access of a warp that has ended is performed at package scope (R193, R291). -/
def State.finishWarp (s : State) (r : WarpRef) : State :=
  (State.drainWhole r (((s.warp? r).map (·.storeQ.length)).getD 0) s).performWarp r .pkg
/-- BLOCK_END: every access of the block is performed at package scope, what it held is freed, and its tile completes. A lost store is never
performed, and its block stays until the host ends the launch (R176, R325). -/
def execBlockEnd (blk : Nat) (s : State) : Out :=
  .next (match s.block? blk with
    | none => s
    | some b =>
      if !b.over || s.jobs.any (fun j => j.blk == blk) || s.ops.any (fun o => o.blk == blk) || b.parked then s
      else
        let s1 := (List.range b.warps.length).foldl (fun t n => t.finishWarp ⟨blk, n⟩) s
        let s2 := (if b.task then s1.failOwned b else s1).unpin b.vf b.pins
        let s3 := s2.countEnd b.core
        let gone : State := ({ s3 with blocks := s3.blocks.filter fun x => x.id != blk } : State).pruneGangs
        if b.task then gone
        else match s2.launch? b.vf b.launch with
          | some l =>
            if l.completed + Config.window ≤ b.tile then s3.mapBlock blk fun x => { x with parked := true, reserve := 0, pins := [] }
            else gone.tilesDone b.vf b.launch [(b.tile, { stat := 0, ranAt := s2.homeCode b.vf b.clu, spill := b.spill, version := b.version })]
          | none => gone)

/-! ### Aborts (R295) -/

/-- Entries of a launch in its leaves' queues, but for suspended blocks. -/
def LeafEntry.ofLaunch (vf num : Nat) (e : LeafEntry) : Bool := e.vf == vf && e.launch == num && e.resume.isNone
/-- The tiles of a launch that have no block yet and no status; `queued`: those handed to a leaf count too. -/
def State.unstarted (s : State) (l : Launch) (queued : Bool) : List Nat :=
  let inLeaf := s.leaves.flatMap fun x => ((x.2.incoming ++ x.2.queue).filter (LeafEntry.ofLaunch l.vf l.num)).flatMap fun e => e.tiles.map (·.1)
  (List.range l.tiles).filter fun t => !l.tileDone.any (fun x => x.1 == t)
    && !((s.blocks ++ s.saved).any fun b => b.vf == l.vf && b.launch == l.num && !b.task && b.tile == t)
    && (queued || !inLeaf.contains t)
/-- A launch is ended: its tiles that have not started take ABORTED, and it ends ABORTED when its running blocks have finished. Under
`queued`, tiles handed to a leaf are ended too (R295, R327). -/
def State.abortLaunch (s : State) (vf num : Nat) (queued : Bool) : State :=
  match s.launch? vf num with
  | none => s
  | some l =>
    if l.phase == .done then s
    else
      let ts := s.unstarted l queued
      let ends := fun (e : LeafEntry) => queued && e.ofLaunch vf num
      let gone := (s.leaves.flatMap fun x => ((x.2.incoming ++ x.2.queue).filter ends).flatMap (·.tiles)) ++ (l.handing.map (·.2)).getD []
      let keep := fun (es : List LeafEntry) => es.filter fun e => !ends e
      let s0 : State := { s with leaves := s.leaves.map fun x => (x.1, { x.2 with incoming := keep x.2.incoming, queue := keep x.2.queue }) }
      let s1 := s0.noteHeads.unpin vf (gone.map fun t => (l.kernel.overTh, t.1))
      let l1 := { l with phase := .walked, next := l.tiles, deferred := [], handing := none, aborted := true, parkedRec := none }
      (s1.setLaunch l1).tilesDone vf num (ts.map fun t => (t, noBlock 5 0))

/-! ### Posting (R339) -/

/-- The ring sizes and the areas of a completion ring. -/
def State.ring (s : State) (vf : Nat) (q : Option Nat) : Queue × Word × DWord × Word :=
  let v := s.vf vf
  match q with
  | some n => (v.queue n, (v.queue n).qcfg, (v.queue n).qcomp, (v.queue n).qcrd)
  | none => (v.dev, v.drcfg, v.drbase, v.drrd)
def State.setRing (s : State) (vf : Nat) (q : Option Nat) (x : Queue) : State :=
  match q with
  | some n => s.setQueue vf n x
  | none => s.setVf vf { s.vf vf with dev := x }
/-- Free slots of a ring against its consumed index (R339). -/
def ringFree (wr rd size : Nat) : Bool := decide ((wr + 2 ^ 16 - rd % 2 ^ 16) % 2 ^ 16 < size)
/-- COMPLETION_POST: the oldest entry that waits is written, then its index word, then the vector is raised; queue 32 stands for
the device-side ring. -/
def execCompletionPost (vf q : Nat) (s : State) : Out :=
  let qo := if q < 32 then some q else none
  let r := s.ring vf qo
  .next (match r.1.posts with
    | [] => s
    | p :: rest =>
      let lslots := 2 ^ lrsz r.2.1
      let tslots := 2 ^ trsz r.2.1
      let base := r.2.2.1.toNat
      let crd := r.2.2.2.toNat
      let ok := ringEn qo.isNone r.2.1 && (if p.tile then ringFree r.1.twr.toNat (crd / 2 ^ 16) tslots else ringFree r.1.lwr.toNat (crd % 2 ^ 16) lslots)
      if !ok then s
      else
        let slot := if p.tile then base + 64 + 32 * lslots + 16 * (r.1.twr.toNat % tslots) else base + 64 + 32 * (r.1.lwr.toNat % lslots)
        let x := if p.tile then { r.1 with posts := rest, twr := r.1.twr + 1 } else { r.1 with posts := rest, lwr := r.1.lwr + 1 }
        let s1 := (s.hostWrite slot p.bytes).hostWrite (base + (if p.tile then 4 else 0)) (leBytes 4 (if p.tile then x.twr else x.lwr).toNat)
        let s2 := s1.setRing vf qo x
        if p.irq then s2.irq (some vf) (4 + if qo.isNone then 0 else r.2.1.toNat / 2 ^ 28 % 4) else s2)

end Sys2Proof.Machine
end

