-- ==== Sys2Proof/Machine/Spawn.lean ====
section
/-!
DEFINITION. SPAWN, LNCH (R161 to R164) and the start of tasks and continuations (R12, R159, R162, R163, R326).
-/
namespace Sys2Proof.Machine

/-! ### SPAWN and LNCH -/

/-- The results of SPAWN and LNCH (R161): a predicate per active lane, and sr. -/
def Ctx.spawnResult (c : Ctx) (s : State) (pd : BitVec 3) (sr : BitVec 7) (ok : Bool) (x : Nat) : State :=
  c.late s .plain 0 ((c.lanes.map fun l => (RegId.p l pd.toNat, if ok then 1 else 0)) ++ [(.s sr.toNat, BitVec.ofNat 32 x)])
/-- Whether a block address fails R135 or R136 (Table 9-8, reason 5). -/
def blockBad (s : State) (vf addr n : Nat) : Bool := addr % 16 != 0 || outOfWindow s vf addr n
/-- Bytes of a block that SPAWN or LNCH reads, as the issuing warp sees them behind its release: a store of its own that the release still waits
for is among them (R161, R167, R181). -/
def State.blockBytes (s : State) (r : WarpRef) (core p n : Nat) : List Byte := s.spView core (((s.warp? r).map (·.storeQ)).getD []) p n
/-- The words of bytes. -/
def wordsOf (bs : List Byte) : List Word := (List.range (bs.length / 4)).map fun k => BitVec.ofNat 32 (u32 bs (4 * k))
/-- The reason for which a SPAWN fails, 0 for success, in the order of R161. -/
def State.spawnReason (s : State) (b : Block) (noargs : Bool) (num addr : Nat) : Nat :=
  if (s.vf b.vf).devHalted then 6
  else if !noargs && blockBad s b.vf addr 64 then 5
  else match s.codeEntry? b.vf num with
  | some e =>
    if !e.isTask then 4
    else if 8 < b.depth + 1 then 2
    else if !s.fitsSome b.vf e.asTask then 3
    else if b.reserve == 0 && decide (Config.taskEntries ≤ s.pendUsed b.die) then 1 else 0
  | none => 4
/-- What the release of a SPAWN or LNCH covers and has not been performed when it issues (R176, R181). -/
def State.coverOf (s : State) (r : WarpRef) : Cover := if ((s.warp? r).map fun w => w.accessDue s.nextId).getD false then .stores r s.nextId else .none
/-- Queue a task (R162): the entry is one set aside for the issuer while any remains (R163); `after`, `cover`: the engine jobs and the accesses that
the release of its issuer covers, which its start waits for (R181, R182). -/
def State.enqueueTask (s : State) (b : Block) (num : Nat) (args : List Word) (bad after : List Nat) (cover : Cover) : State :=
  let t : PendTask := { vf := b.vf, die := b.die, num := num, args := args, bad := bad, depth := b.depth + 1, launch := b.launch, cls := b.cls,
                        deadline := b.deadline, owner := if b.reserve == 0 then none else some b.id, cstat := 0, record := 0, after := after, cover := cover }
  let s1 := s.mapBlock b.id fun x => { x with reserve := x.reserve - 1 }
  { s1 with tasks := s1.tasks ++ [t] }
/-- SPAWN acts once for its run: a release of package scope, then the block is read and the task queued (R161, R162, R181). -/
def execSpawn (h : Hdr) (noargs : Bool) (pd : BitVec 3) (a b c : BitVec 7) (s : State) : Out :=
  issue (.spawn h noargs pd a b c) s fun x s =>
    if x.act == 0 then .ok s
    else
      let num := (x.w.rs a.toNat).toNat
      let addr := (x.w.rs64 b.toNat).toNat
      let s1 := s.performWarp x.ref .pkg
      let p := physOf s1 x.blk.vf addr
      let r := s1.spawnReason x.blk noargs num addr
      .ok (if r == 0 then
          x.spawnResult (s1.enqueueTask x.blk num (if noargs then List.replicate 16 0 else wordsOf (s1.blockBytes x.ref x.blk.core p 64))
            (if noargs then [] else wordsBad s1.spPois p) (s1.jobIds x.ref) (s1.coverOf x.ref)) pd c true 0
        else x.spawnResult s1 pd c false r)

/-- The options of a launch block at a physical scratchpad address (Table 9-9). -/
def launchOpts (bs : List Byte) (bad : List Nat) : LaunchOpts :=
  let o := u32 bs 64
  let on := fun (k : Nat) => o / 2 ^ k % 2 == 1
  { args := (List.range 16).map fun k => BitVec.ofNat 32 (u32 bs (4 * k)), bad := bad, spill := o % 4, nearest := on 2, cont := on 3, fetch := on 4,
    count := if on 5 then some (u64 bs 72) else none, pfx := if on 6 then some (u32 bs 68) else none,
    done := if on 7 then some (u64 bs 88) else none, pred := if on 8 then some (u32 bs 80) else none }
/-- Whether a launch block sets a reserved option bit or value. -/
def optsBad (bs : List Byte) : Bool := u32 bs 64 / 2 ^ 9 != 0 || u32 bs 64 % 4 == 3
/-- The reason for which a LNCH fails, 0 for success, in the order of R161; `bs`: the bytes of its block. -/
def State.lnchReason (s : State) (b : Block) (num addr : Nat) (bs : List Byte) : Nat :=
  if (s.vf b.vf).devHalted then 6
  else if blockBad s b.vf addr 128 || optsBad bs then 5
  else match s.codeEntry? b.vf num with
  | some e =>
    if e.kind != 1 then 4
    else if !s.fitsSome b.vf e then 3
    else if Config.deviceLaunches ≤ (s.launches.filter fun l => l.vf == b.vf && l.queue.isNone && l.phase == .waiting).length then 1 else 0
  | none => 4
/-- A launch of LNCH starts behind the engine jobs and the accesses that the release of its issuer covers (R181, R182). -/
def State.launchAfter (s : State) (vf num : Nat) (ids : List Nat) (cover : Cover) : State :=
  match s.launch? vf num with
  | some l => s.setLaunch { l with after := ids, cover := cover }
  | none => s
/-- LNCH submits a launch that takes the issuer's class and deadline (R164, R181, R279). -/
def execLnch (h : Hdr) (pd : BitVec 3) (a b c : BitVec 7) (s : State) : Out :=
  issue (.lnch h pd a b c) s fun x s =>
    if x.act == 0 then .ok s
    else
      let num := (x.w.rs a.toNat).toNat
      let addr := (x.w.rs64 b.toNat).toNat
      let s1 := s.performWarp x.ref .pkg
      let p := physOf s1 x.blk.vf addr
      let bs := s1.blockBytes x.ref x.blk.core p 128
      let r := s1.lnchReason x.blk num addr bs
      .ok (match r, s1.codeEntry? x.blk.vf num with
        | 0, some e =>
          let y := s1.submit x.blk.vf e false none false x.blk.cls x.blk.deadline 0 s1.clock
            (launchOpts bs (wordsBad s1.spPois p)) none
          x.spawnResult (y.2.launchAfter x.blk.vf y.1 (s1.jobIds x.ref) (s1.coverOf x.ref)) pd c true y.1
        | _, _ => x.spawnResult s1 pd c false r)

/-! ### Starting tasks -/

/-- Whether some core of the interface that `on` admits has room for a task. -/
def State.anyRoom (s : State) (vf : Nat) (d : CodeEntry) (on : Nat → Bool) : Bool :=
  (s.vf vf).clusters.any fun k => on k && (List.range 4).any fun c => (List.range 4).any fun q => s.roomOn vf d (4 * k + c) q (roundTo d.scratch 256)
/-- Whether a place takes a task: a core of its die, or of another die where none of its own has room (R159, R162). -/
def State.taskPlace (s : State) (t : PendTask) (d : CodeEntry) (pl : Place) : Bool :=
  s.fits t.vf d pl (roundTo d.scratch 256) && s.mayCreate (pl.core / 64) 1
    && (pl.core / 64 == t.die || !s.anyRoom t.vf d fun k => k / 16 == t.die)
/-- The physical addresses of the futures a task owns (R326): those in s12:s13 and s14:s15, but for 0. -/
def ownedFutures (s : State) (vf : Nat) (args : List Word) : List Nat :=
  [12, 14].filterMap fun k =>
    let a := (pairWord ((args[k + 1]?).getD 0) ((args[k]?).getD 0)).toNat
    if a == 0 || a % 16 != 0 || outOfWindow s vf a 16 then none else some (physOf s vf a)
/-- Create the block of one warp that a task runs as (R12, R13, R26, R204). -/
def State.createTask (s : State) (t : PendTask) (d : CodeEntry) (pl : Place) : State :=
  let base := BitVec.ofNat 64 (if d.scratch == 0 then 0 else (s.vf t.vf).scratchAddr (pl.core / 4) pl.region)
  let b : Block := {
    id := s.nextId, vf := t.vf, launch := t.launch, task := true, core := pl.core, slot := s.freeSlot pl.core, q0 := pl.q0, decl := d, depth := t.depth,
    cls := t.cls, deadline := t.deadline, tile := 0xFFFFFFFF, coords := [], tcnt := 0, version := 0, spill := 0, tbase := base,
    obase := List.replicate 8 0, sbase := base, region := pl.region, regionLen := roundTo d.scratch 256, cstat := t.cstat,
    warps := [{ newWarp d 0 t.args t.bad (s.fresh * 2 ^ 32) with picked := s.clock, floor := s.nextId }], bars := newBars 0 0, gang := none, rods := List.replicate 32 [], shared := [],
    sharedTag := (s.fresh + 1) * 2 ^ 32, sharedPois := [], teams := newTeams d, reserve := d.spawnres, futures := ownedFutures s t.vf t.args, pins := [], preempt := .none, parked := false }
  (({ s with
    nextId := s.nextId + 1
    fresh := s.fresh + 2
    blocks := s.blocks ++ [b] } : State).countStart (pl.core / 64)).wakeGroups (pl.core / 4)
/-- An entry set aside returns to its issuer, resident or saved, when the task starts (R163). -/
def State.returnEntry (s : State) (owner : Option Nat) : State :=
  match owner with
  | none => s
  | some id =>
    { s with
      blocks := mapIf (fun b => b.id == id && !b.parked) (fun b => { b with reserve := b.reserve + 1 }) s.blocks
      saved := mapIf (fun b => b.id == id) (fun b => { b with reserve := b.reserve + 1 }) s.saved }
/-- Start a queued task at a place, if its entry names a task, may run in this level of service and fits there. -/
def State.startTask? (s : State) (t : PendTask) (pl : Place) : Option State :=
  match s.codeEntry? t.vf t.num with
  | some e => if e.isTask && s.drained t.after && s.covered t.cover && !s.deferredUse e && !(((s.launch? t.vf t.launch).map (·.suspended)).getD false) && s.taskPlace t e.asTask pl then some (s.createTask t e.asTask pl) else none
  | none => none
/-- TASK_START (R162): the interface's pending task `n`. -/
def execTaskStart (vf n : Nat) (pl : Place) (s : State) : Out :=
  .next (match s.tasks[n]? with
    | none => s
    | some t =>
      if t.vf != vf then s
      else
        let s0 : State := ({ s with tasks := dropAt s.tasks n } : State).returnEntry t.owner
        (s0.startTask? t pl).getD s)
/-- CONTINUATION_START (R159): ready continuations of a die start in order. -/
def execContinuationStart (vf n : Nat) (pl : Place) (s : State) : Out :=
  .next (match s.conts[n]? with
    | none => s
    | some t =>
      if t.vf != vf || (s.conts.take n).any (fun x => x.die == t.die && x.vf == vf) then s
      else (({ s with conts := dropAt s.conts n } : State).startTask? t pl).getD s)

end Sys2Proof.Machine
end

