-- ==== Sys2Proof/Machine/Events.lean ====
section
/-!
DEFINITION. Issue opportunities (R18, R20 to R22, R302, R309), the passing of a cycle and what falls due with it (R67, R68, R194),
stores that drain (R167), pre-emption (R312 to R317) and errors (R322 to R328).
-/
namespace Sys2Proof.Machine

/-! ### Safe points (R48, R49, R313) -/

/-- One entry of a pre-emption point table (Table 3-8): its PC and its live state. -/
structure SafePoint where
  pc : Nat
  plive : Nat
  qlive : Nat
  jlive : Nat
  /-- First register and count of each live range. -/
  ranges : List (Nat × Nat)
  deriving DecidableEq, Repr
/-- Entry `k` of a table whose code begins at `base`. -/
def safePoint (base : Nat) (bs : List Byte) : SafePoint :=
  let w := u16 bs 4
  { pc := base + u32 bs 0, plive := w % 128, qlive := w / 2 ^ 7 % 4, jlive := u16 bs 6,
    ranges := (List.range 4).filterMap fun k =>
      let r := u32 bs (8 + 4 * k)
      if r / 2 ^ 10 % 2 ^ 11 == 0 then none else some (r % 2 ^ 10, r / 2 ^ 10 % 2 ^ 11) }
/-- The entry of a pre-emption point table for a PC, if the table can be read and has one (Tables 3-7 and 3-8). -/
def State.safePoint? (s : State) (vf : Nat) (e : CodeEntry) (pc : DWord) : Option SafePoint :=
  match s.vaRead vf e.early e.ppt.toNat 16 with
  | none => none
  | some h =>
    (List.range (u32 h 0)).findSome? fun k => match s.vaRead vf e.early (e.ppt.toNat + 16 + 32 * k) 32 with
      | some bs => if u64 h 8 + u32 bs 0 == pc.toNat then some (safePoint (u64 h 8) bs) else none
      | none => none
/-- Hold the ready runs of a warp that stand at safe points. -/
def State.holdWarp (s : State) (b : Block) (n : Nat) (w : Warp) : Warp :=
  { w with runs := w.runs.map fun r =>
      if s.runReady b n w r && (s.safePoint? b.vf (runEntry b w r) r.pc).isSome then { r with held := true } else r }
/-- In every block whose pre-emption is requested, runs at safe points are held (R313). -/
def State.holdRequested (s : State) : State :=
  let hold : Block → Block := fun b => { b with warps := (b.warps.zip (List.range b.warps.length)).map fun x => s.holdWarp b x.2 x.1 }
  { s with blocks := mapIf (fun b => b.preempt == .requested) hold s.blocks }

/-! ### Issue opportunities -/

def Run.yielding (r : Run) (now : Nat) : Bool :=
  match r.yieldEnd with
  | some t => decide (now < t)
  | none => false
/-- The class of a ready run (R20): a counter of 64, not yielding, yielding. -/
def Run.class (r : Run) (now : Nat) : Nat := if 64 ≤ r.age then 0 else if r.yielding now then 2 else 1
/-- Whether a ready run ranks before another (R20): its class, then its PC. Runs of equal class and PC, which R20 does not order, rank by
their lowest lane (assumption 66). -/
def Run.ranksBefore (now : Nat) (a b : Run) : Bool :=
  let ca := a.class now
  let cb := b.class now
  decide (ca < cb) || (ca == cb && (decide (a.pc.toNat < b.pc.toNat) || (a.pc == b.pc && decide (lowestLane a.lanes < lowestLane b.lanes))))
/-- The first run in the order of R20. -/
def firstRun (now : Nat) (rs : List Run) : Option Run :=
  rs.foldl (fun b r => match b with
    | none => some r
    | some x => if r.ranksBefore now x then some r else some x) none
/-- The ready runs of a warp. -/
def State.readyRuns (s : State) (b : Block) (n : Nat) (w : Warp) : List Run := w.runs.filter (s.runReady b n w)
/-- Growth at the start of an issue opportunity (R22): a ready run that is not yielding ages, up to 64. -/
def State.ageRuns (s : State) (b : Block) (n : Nat) (w : Warp) : Warp :=
  { w with runs := w.runs.map fun r => if s.runReady b n w r && !r.yielding s.clock then { r with age := min 64 (r.age + 1) } else r }
/-- Whether decoder 1 may issue a run beside the head run (R20, R21): not beside one whose fetch faults, which issues no word (assumption 18). -/
def State.pairs (s : State) (b : Block) (w : Warp) (r0 r1 : Run) : Bool :=
  !r1.yielding s.clock && (match s.fetch b w r0, s.fetch b w r1 with
    | .word i0, .word i1 => !decoder1Idle i0 i1
    | .fault, _ => false
    | _, _ => true)
/-- The runs that an opportunity of a warp selects: the head run and, where it may issue, the next. -/
def State.selectRuns (s : State) (b : Block) (n : Nat) (w : Warp) : Option (Run × Option Run) :=
  let rs := s.readyRuns b n w
  (firstRun s.clock rs).map fun r0 =>
    (r0, (firstRun s.clock (rs.filter fun r => r.lanes != r0.lanes)).filter fun r1 => s.pairs b w r0 r1)
/-- The engine that the next instruction of a run targets (R302); a word that is none targets the vector ALU. -/
def State.runEngine (s : State) (b : Block) (w : Warp) (r : Run) : Nat :=
  match s.fetch b w r with
  | .word i => i.engine
  | _ => 0
/-- A candidate of the warp picker: its warp, the cycle it was last picked, and the cycle its next engine was last used. -/
structure Pick where
  ref : WarpRef
  picked : Nat
  used : Nat
  deriving DecidableEq, Repr
/-- Age is the order of creation (R302). -/
def Pick.older (a b : Pick) : Bool := decide (a.ref.blk < b.ref.blk) || (a.ref.blk == b.ref.blk && decide (a.ref.num < b.ref.num))
def bestPick (less : Pick → Pick → Bool) (ps : List Pick) : Option Pick :=
  ps.foldl (fun b p => match b with
    | none => some p
    | some x => if less p x then some p else some x) none
/-- The ready warps of a quadrant. -/
def State.candidates (s : State) (q : Nat) : List Pick :=
  s.blocks.flatMap fun b =>
    if b.core != q / 4 then []
    else (b.warps.zip (List.range b.warps.length)).filterMap fun x =>
      if b.quadOf x.2 != q then none
      else (firstRun s.clock (s.readyRuns b x.2 x.1)).map fun r =>
        { ref := ⟨b.id, x.2⟩, picked := x.1.picked, used := Sparse.get 0 (s.quad q).used (s.runEngine b x.1 r) }
/-- The warp that the picker selects (R302). -/
def State.pickWarp (s : State) (q : Nat) : Option WarpRef :=
  let ps := s.candidates q
  match bestPick Pick.older (ps.filter fun p => decide (p.picked + 448 ≤ s.clock)) with
  | some p => some p.ref
  | none => (bestPick (fun a b => decide (a.used < b.used) || (a.used == b.used && a.older b)) ps).map (·.ref)
/-- Whether a quadrant may take an issue opportunity in this cycle; a core that idles for pacing takes none (R303). -/
def State.quadFree (s : State) (q : Nat) : Bool := s.issue.isNone && !s.idling.contains (q / 4) && decide ((s.quad q).busy ≤ s.clock) && decide ((s.quad q).last ≤ s.clock)
/-- ISSUE_OPPORTUNITY: the picker selects a warp, its ready runs age, and its decoders take the runs they issue. -/
def execIssueOpportunity (q : Nat) (s : State) : Out :=
  .next (if !s.quadFree q then s
    else
      let s0 := s.holdRequested
      match s0.pickWarp q with
      | none => s0
      | some ref => match s0.block? ref.blk, s0.warp? ref with
        | some b, some w =>
          let w1 := { s0.ageRuns b ref.num w with picked := s.clock }
          (match s0.selectRuns b ref.num w1 with
          | none => s0
          | some (r0, r1) =>
            let x := s0.quad q
            let used := Sparse.set 0 x.used (s0.runEngine b w1 r0) (s.clock + 1)
            let used1 := match r1 with
              | some r => Sparse.set 0 used (s0.runEngine b w1 r) (s.clock + 1)
              | none => used
            let s1 := (s0.setWarp ref w1).setQuad q { busy := s.clock + b.cycles, last := s.clock + 1, used := used1 }
            { s1 with issue := some { ref := ref, d0 := r0.lanes, d1 := r1.map (·.lanes) } })
        | _, _ => s0)

/-- What stands at the latched run's PC: a word to issue, or the state after a PC that gives none. -/
inductive Latched where
  | word (i : Instr)
  | other (s : State)
/-- Fetch for the latched run (R190): an illegal word traps ILL (R73), a poisoned one POIS (R324), and a translation fault blocks the
run (R320). -/
def State.latched (s : State) (l : Latch) : Latched :=
  match s.block? l.ref.blk, s.warp? l.ref with
  | some b, some w =>
    match w.runs.find? fun r => r.lanes == l.d0 && r.wait.isNone with
    | none => .other s
    | some r =>
      let w' := w.landDue s.clock
      match s.fetch b w' r with
      | .word i => .word i
      | .ill x => .other (s.trapWord l.ref r.pc r.lanes w' (illTrap x.why x.loc x.detail))
      | .pois => .other (s.trapWord l.ref r.pc r.lanes w' { cause := causePois, info := BitVec.ofNat 32 (lowestLane r.lanes * 2 ^ 26 + 5 * 2 ^ 23) })
      | .fault =>
        let p := s.park b.vf b.launch r.pc.toNat (.fetch l.ref)
        .other (p.2.setWarp l.ref (w'.setRun r.lanes fun x => { x with wait := some (.fetch p.1) }))
  | _, _ => .other s
/-- Merge ready runs at equal PCs (R18): the larger counter, and yielding only where both are, until the earlier window ends. Samples that
one of them holds stay with the merged run (R261; assumption 19). -/
def mergeRun (now : Nat) (ok : Run → Bool) (r : Run) : List Run → List Run
  | [] => [r]
  | x :: xs =>
    if ok x && ok r && x.pc == r.pc && x.handler == r.handler then
      { x with
        lanes := x.lanes ||| r.lanes
        age := max x.age r.age
        notBefore := max x.notBefore r.notBefore
        yieldEnd := if x.yielding now && r.yielding now then joinYield x.yieldEnd r.yieldEnd else none
        samples := x.samples.or r.samples } :: xs
    else x :: mergeRun now ok r xs
/-- The end of an issue opportunity of a warp: its ready runs merge. -/
def State.mergeRuns (s : State) (ref : WarpRef) : State :=
  match s.block? ref.blk, s.warp? ref with
  | some b, some w =>
    let t : State := { s with clock := s.clock + b.cycles }
    let ok := t.runReady b ref.num w
    s.setWarp ref { w with runs := w.runs.foldl (fun acc r => mergeRun t.clock ok r acc) [] }
  | _, _ => s
/-- The latch after a word: decoder 1's run comes next, unless a trap has nullified it (R309). -/
def State.afterWord (s : State) (l : Latch) : State :=
  match s.issue, l.d1 with
  | some _, some m => { s with issue := some { ref := l.ref, d0 := m, d1 := none } }
  | _, _ => ({ s with issue := none } : State).mergeRuns l.ref

/-! ### What falls due -/

/-- YIELD_WINDOW_END (R22). -/
def execYieldWindowEnd (r : WarpRef) (s : State) : Out :=
  .next (s.mapWarp r fun w => { w with runs := w.runs.map fun x => if x.yielding s.clock then x else { x with yieldEnd := none } })
/-- NAP_WAKE (R194): each run wakes by itself, its counter unchanged. -/
def execNapWake (r : WarpRef) (s : State) : Out :=
  .next (s.mapWarp r fun w => { w with runs := w.runs.map fun x => match x.wait with
    | some (.nap t) => if t ≤ s.clock then { x with wait := none, pc := x.pc + 8 } else x
    | _ => x })
/-- STALL_EXPIRY (R67). -/
def execStallExpiry (r : WarpRef) (s : State) : Out :=
  .next (s.mapWarp r fun w => { w with runs := w.runs.map fun x => if x.notBefore ≤ s.clock then { x with notBefore := 0 } else x })
/-- A signing that waited for its operands to land may complete (R68, R99). -/
def State.resumeSigning (s : State) (r : WarpRef) : State :=
  if ((s.warp? r).map (·.signed)).getD 0 == 0 then s else s.endStep r 0
/-- FIXED_LATENCY_LANDING (R67). -/
def execFixedLatencyLanding (r : WarpRef) (s : State) : Out := .next ((s.mapWarp r fun w => w.landDue s.clock).resumeSigning r)
/-- Whether a warp awaits a result of this number that waits for no engine. -/
def State.landsAlone (s : State) (r : WarpRef) (id : Nat) : Bool :=
  match s.warp? r with
  | some w => w.late.any fun l => l.id == id && (l.kind == .load || l.kind == .plain)
  | none => false
/-- RESULT_LANDING (R68): a result that waits for no engine lands. -/
def execResultLanding (r : WarpRef) (id : Nat) (s : State) : Out :=
  .next ((if s.landsAlone r id then ((s.landResult r id).retryArrivals r).rewake r else s).resumeSigning r)
/-- STORE_DRAIN (R167): at core scope, the oldest entry of the warp's queue leaves it, if it may, behind the loads before it; at a wider scope, the warp's write `n` in flight is performed there. -/
def execStoreDrain (r : WarpRef) (sc : Scope) (n : Nat) (s : State) : Out :=
  .next (match sc with
    | .core => ((s.drainNext r).retryArrivals r).rewake r
    | _ => (match s.flight[n]? with
      | some f => if f.blk == r.blk && f.warp == r.num then s.perform (fun g => g == f) sc else s
      | none => s))

/-! ### Engine groups at work (R299, R304) -/

/-- Whether a queue keeps its commands (R334): enabled and not halted, on an enabled interface. -/
def State.queueUp (s : State) (vf q : Nat) : Bool :=
  let v := s.vf vf
  let x := v.queue q
  decide (q < 32) && decide (1 ≤ s.level) && v.vfctl.getLsbD 0 && ringEn false x.qcfg && !x.halted
/-- Whether a queue is served (R334): it is bound too, and the dispatch core runs (R327). -/
def State.queueOn (s : State) (vf q : Nat) : Bool := s.queueUp vf q && !s.coreHalted && bindEn ((s.vf vf).queue q).bind
/-- The binding that the command at the head of a queue follows: that under which it has started (R343). -/
def Queue.binding (x : Queue) : Word := if x.started then x.startBind else x.bind
/-- Whether commands of a queue that have arrived wait to start: submitted launches, and commands behind the one in progress (R299, R304). While the
dispatch core is halted they stay in the queue (R327). -/
def State.queueWaits (s : State) (vf q : Nat) : Bool :=
  let x := (s.vf vf).queue q
  s.queueUp vf q && bindEn x.bind && ((!x.held && decide ((if x.started then 1 else 0) < (x.qwr - x.qrd).toNat))
    || s.launches.any fun l => l.vf == vf && l.queue == some q && l.phase == .waiting)
/-- Whether an engine group has work (Table 21-7): a block resident on its clusters, or a command of its queues that waits or is in progress. -/
def State.groupBusy (s : State) (vf g : Nat) : Bool :=
  let v := s.vf vf
  let ks := v.groupClusters g
  s.blocks.any (fun b => b.vf == vf && ks.contains b.clu)
    || (List.range 32).any fun q => (bindGroup (v.queue q).bind == g && s.queueWaits vf q)
      || (bindGroup (v.queue q).binding == g && (v.queue q).started && s.queueUp vf q)
/-- The groups of an interface that have work have not fallen idle (R299). -/
def State.noteBusy (s : State) (vf : Nat) : State :=
  let v := s.vf vf
  let busy := (List.range 8).filter fun g => v.idle.getLsbD g && s.groupBusy vf g
  if busy.isEmpty then s else s.setVf vf { v with idle := busy.foldl (fun m g => m &&& ~~~(BitVec.ofNat 8 (2 ^ g))) v.idle }
/-- Whether firmware may not hold a queue's commands any longer (R304): its tolerance has passed, its group is not idle, or it is DEADLINE. -/
def State.holdOver (s : State) (vf q : Nat) : Bool :=
  let x := (s.vf vf).queue q
  let since := (x.arrivals.head?.map fun a => a.2.1).getD 0
  bindClass x.bind == .deadline || s.groupBusy vf (bindGroup x.bind) || decide (x.bind.toNat % 2 ^ 16 * s.mhz ≤ s.clock - since)
/-- The queues whose held commands are due. -/
def State.dueHolds (s : State) : List Instr :=
  s.vfs.flatMap fun v => (v.2.queues.filter fun x => x.2.held && s.holdOver v.1 x.1).map fun x => .commandHoldRelease v.1 x.1

/-- What the cycle that begins brings about for a warp. -/
def dueOf (now : Nat) (ref : WarpRef) (w : Warp) : List Instr :=
  (if w.pend.any fun p => decide (p.due ≤ now) then [.fixedLatencyLanding ref] else [])
    ++ (if w.runs.any fun r => (match r.wait with
        | some (.nap t) => decide (t ≤ now)
        | _ => false) then [.napWake ref] else [])
    ++ (if w.runs.any fun r => r.yieldEnd.isSome && !r.yielding now then [.yieldWindowEnd ref] else [])
    ++ (if w.runs.any fun r => r.notBefore != 0 && decide (r.notBefore ≤ now) then [.stallExpiry ref] else [])
def State.due (s : State) : List Instr :=
  ((List.range 8).filter s.rampDue).map Instr.rampInterval ++ s.blocks.flatMap fun b => (b.warps.zip (List.range b.warps.length)).flatMap fun x => dueOf s.clock ⟨b.id, x.2⟩ x.1
/-- %time runs freely once it is set; it slews by 1 ns for each 1,000 ns that have run since it last did, no faster than one part in 1,000 (R345). -/
def State.passTime (s : State) : State :=
  if !s.timeRuns then s
  else
    let step := (s.clock + 1) * 1000 / s.mhz - s.clock * 1000 / s.mhz
    let run := s.slewRun + step
    let slew : Int := if run < 1000 then 0 else if 0 < s.timeSlew then 1 else if s.timeSlew < 0 && 0 < step then -1 else 0
    { s with time := (s.time + step + slew).toNat, timeSlew := s.timeSlew - slew, slewRun := if slew == 0 then min run 1000 else 0 }
/-- The first quadrant that can issue in this cycle. -/
def State.readyQuad (s : State) : Option Nat :=
  (((s.blocks.flatMap fun b => (List.range 4).map fun k => b.core * 4 + k).eraseDups).find? fun q => s.quadFree q && (s.pickWarp q).isSome)
/-- A cycle passes: in each, every quadrant with a ready warp first issues (R302); then the clock counts, and what falls due with the
new cycle comes about at once. `rest`: the agenda behind this move. -/
def State.tick (s : State) (rest : List Move) : State :=
  match s.readyQuad with
  | some q => { s with agenda := .act (.issueOpportunity q) :: .tick :: rest }
  | none =>
    let s1 := s.noteHeads.passTime
    let s2 : State := { s1 with clock := s.clock + 1 }
    { s2 with agenda := (s2.due ++ s2.dueHolds).map .act ++ rest }

/-! ### Pre-emption (R312 to R317) -/

/-- The resident blocks that are pre-empted with a block: those of its gang that have not ended (R292). -/
def State.unitOf (s : State) (b : Block) : List Block := s.blocks.filter fun x => x.id == b.id || (b.gang.isSome && x.gang == b.gang && !x.parked)
/-- Whether a DEADLINE entry of the cluster's queue, ready to be created or to return, can be placed nowhere on it (R300, R312). -/
def State.deadlineStuck (s : State) (clu : Nat) : Bool :=
  (s.leaf clu).queue.any fun e => e.cls == .deadline && !s.entryWaits clu e && (e.resume.isSome || (match s.launch? e.vf e.launch with
    | some l => (s.readyTiles l clu e).isSome
    | none => false)) && !s.placeable clu e
/-- The state as it will be once the pre-emptions requested so far have freed what they free. -/
def State.freed (s : State) : State :=
  let out := fun (b : Block) => b.preempt == .requested
  { s with blocks := s.blocks.filter (fun b => !out b), saved := s.saved ++ s.blocks.filter out }
/-- Whether a block may be pre-empted: its launch is suspended, or it is the most recently created block on its cluster that is not
DEADLINE, and a DEADLINE entry needs more room than the requests made so far will free (R300, R312). -/
def State.mayPreempt (s : State) (b : Block) : Bool :=
  (match s.launch? b.vf b.launch with
    | some l => l.suspended
    | none => false)
  || (s.freed.deadlineStuck b.clu && b.cls != .deadline
      && s.blocks.all fun x => x.clu != b.clu || x.cls == .deadline || x.parked || x.preempt == .requested || decide (x.id ≤ b.id))
/-- PREEMPT_REQUEST: of a block, or of the whole of its gang. -/
def State.requestPreempt (s : State) (b : Block) : State :=
  let us := (s.unitOf b).map (·.id)
  ({ s with blocks := mapIf (fun x => us.contains x.id && !x.parked) (fun x => { x with preempt := .requested }) s.blocks } : State).holdRequested
def execPreemptRequest (blk : Nat) (s : State) : Out :=
  .next (match s.block? blk with
    | some b => if s.mayPreempt b && !b.parked then s.requestPreempt b else s
    | none => s)
/-- Whether a run is held, blocked or paused (R313): a run that only waits for results goes on when they have landed. -/
def State.runStopped (s : State) (b : Block) (n : Nat) (w : Warp) (r : Run) : Bool :=
  r.held || r.wait.isSome || (w.trap.isSome && !r.handler) || (decide (r.notBefore ≤ s.clock) && !s.runReady b n w r)
/-- The jobs and operations of a block that a translation fault parks, and those that stand behind one of `ids` (R180, R235). -/
def State.stuckStep (s : State) (blk : Nat) (ids : List Nat) : List Nat :=
  let job := fun (j : Job) => j.chunks.any fun c => c.parked.isSome
    || s.chunkBehind j c (fun e => ids.contains e.id) (fun o => ids.contains o.id)
  let op := fun (o : MatOp) => o.parked.isSome || (!o.started && ((s.jobs.any fun j => ids.contains j.id && o.behind j)
    || s.ops.any fun p => ids.contains p.id && o.follows p))
  ((s.jobs.filter fun j => j.blk == blk && job j).map (·.id)) ++ (s.ops.filter fun o => o.blk == blk && op o).map (·.id)
def State.stuckIn (s : State) (blk : Nat) : Nat → List Nat
  | 0 => []
  | n + 1 => s.stuckStep blk (s.stuckIn blk n)
/-- Whether an operation cannot complete before its block is saved: a translation fault parks it, or what it stands behind (R236, R314;
assumption 73). -/
def State.opStuck (s : State) (o : MatOp) : Bool := (s.stuckIn o.blk (s.jobs.length + s.ops.length)).contains o.id
/-- Whether a result waits for such an operation. -/
def State.onParked (s : State) (k : LateKind) : Bool :=
  match k with
  | .op id | .opFlag id | .opCharge id => ((s.op? id).map s.opStuck).getD false
  | _ => false
/-- Whether a warp may be saved: every run stopped, its store queue drained, its results landed. -/
def State.warpStopped (s : State) (b : Block) (n : Nat) (w : Warp) : Bool :=
  w.storeQ.isEmpty && !w.halted && (w.ended || (w.pend.isEmpty && w.late.all (fun l => s.onParked l.kind) && w.runs.all (s.runStopped b n w)))
/-- Whether a block may be saved (R313, R314): its operations are complete or cannot complete, and no chunk is in flight. -/
def State.blockStopped (s : State) (b : Block) : Bool :=
  b.preempt == .requested && (b.warps.zip (List.range b.warps.length)).all (fun x => s.warpStopped b x.2 x.1)
    && s.ops.all (fun o => o.blk != b.id || s.opStuck o) && s.jobs.all (fun j => j.blk != b.id || j.chunks.all fun c => !c.sent)
/-- The address of a block's save record (R315). -/
def State.saveAddr (s : State) (b : Block) : Nat :=
  let v := s.vf b.vf
  v.savebase.toNat / 2 ^ 16 % 2 ^ 32 * 2 ^ 16
    + (((v.dieNum b.die * 64 + v.cluNum b.clu * 4 + b.core % 4) * 16 + b.slot) * Config.saveRecord)
/-- The first page of a save record that does not translate. -/
def State.saveFault (s : State) (b : Block) (write : Bool) : Option Nat :=
  let a := s.saveAddr b
  ((List.range 36).map fun k => if k == 0 then a else a / 2 ^ 16 * 2 ^ 16 + k * 2 ^ 16).find? fun p =>
    decide (p < a + Config.saveRecord) && (s.translate b.vf (s.level != 2) p write false).isNone
/-- The pages of a save record, each with the bytes of an image that lie in it. -/
def State.recordPages (s : State) (b : Block) (n : Nat) : List (Nat × List Byte) :=
  let img := Config.saveImage n
  ((List.range (Config.saveRecord / 2 ^ 16)).map fun k => (s.saveAddr b + k * 2 ^ 16, (img.drop (k * 2 ^ 16)).take (2 ^ 16))).filter fun p => !p.2.isEmpty
/-- An image is written over a block's save record (R315). -/
def State.writeRecord (s : State) (b : Block) (n : Nat) : State :=
  (s.recordPages b n).foldl (fun t p => match t.translate b.vf (s.level != 2) p.1 true false with
    | some l => t.writePlace l p.2 []
    | none => t) s
/-- The poisoned data of a record's page (R323). -/
def State.pagePois (s : State) (l : Loc) (n : Nat) : Bool :=
  match l with
  | .main a => s.mmPois.any fun x => decide (a < 64 * x + 64) && decide (64 * x < a + n)
  | .scratch a => s.spPois.any fun x => decide (a < 4 * x + 4) && decide (4 * x < a + n)
/-- The device's own check of a record at restore (R315; assumption 24): its bytes are those written, without poison. -/
def State.recordKept (s : State) (b : Block) : Bool :=
  match b.record with
  | none => true
  | some n => (s.recordPages b n).all fun p => match s.translate b.vf (s.level != 2) p.1 false false with
    | some l => s.locBytes l p.2.length == p.2 && !s.pagePois l p.2.length
    | none => false
/-- A free predicate, and a free queue, for state that was not saved (R50; assumption 13). -/
def freeBool (n : Nat) : Bool := (Config.freeWord n).getLsbD 0
def freeQueue (n : Nat) : List QEntry := (List.range ((Config.freeWord n).toNat % 9)).map fun k => { val := Config.freeWord (n + k + 1), filled := true }
/-- What the lanes of a held run, and the helper lanes bound to them (R14), keep (R50, R313, R316): vector registers outside the saved ranges read 0; predicates and queues that
are not live are free. -/
def Warp.keepLive (w : Warp) (p : SafePoint) (lanes : Mask) (fresh : Nat) : Warp :=
  let ls := lanes.lanes 64
  let live := fun (key : Nat) => !lanes.has (key / 1024) || p.ranges.any fun r => decide (r.1 ≤ key % 1024) && decide (key % 1024 < r.1 + r.2)
  { w with
    v := w.v.filter fun e => live e.1
    vPois := w.vPois.filter live
    p := ls.foldl (fun m l => (List.range 7).foldl (fun m k => if p.plive / 2 ^ k % 2 == 1 then m else Sparse.set false m (8 * l + k) (freeBool (fresh + 1024 * l + k))) m) w.p
    queues := ls.foldl (fun m l => (List.range 2).foldl (fun m k =>
      if p.qlive / 2 ^ k % 2 == 1 then m else Sparse.set [] m (2 * l + k) (freeQueue (fresh + 1024 * l + 16 + 16 * k))) m) w.queues }
/-- A warp as its record holds it: at trap level, or in a blocked run, everything is saved; sets are dropped to free contents only
where every run is held and none has them live. -/
def State.savedWarp (s : State) (b : Block) (w : Warp) (fresh : Nat) : Warp :=
  if w.trap.isSome || w.ended then w
  else
    let held := w.runs.filterMap fun r => if r.held then (s.safePoint? b.vf b.decl r.pc).map fun p => (r, p) else none
    let w1 := held.foldl (fun w x => w.keepLive x.2 (x.1.lanes ||| w.helpersOf x.1.lanes) fresh) w
    if w.runs.any fun r => !r.held then w1
    else (List.range 16).foldl (fun w j =>
      if held.any fun x => x.2.jlive / 2 ^ j % 2 == 1 then w
      else
        let m : Mask := w.live &&& (Config.freeWord (fresh + 2 ^ 17 + 2 * j) ++ Config.freeWord (fresh + 2 ^ 17 + 2 * j + 1))
        w.setJset j { member := m, arrived := 0, depth := if m == 0 then 0 else (Config.freeWord (fresh + 2 ^ 17 + 64 + j)).toNat % 65536 }) w1
/-- The save of one block: its wait-table entries are dropped (R142), and its record is written; a suspended block whose record that
one replaces is not checked any more (R315; assumption 24). -/
def State.saveBlock (s : State) (b : Block) : State :=
  let ws := (b.warps.zip (List.range b.warps.length)).map fun x => s.savedWarp b x.1 ((s.fresh + x.2) * 2 ^ 32)
  let s1 := s.perform (fun f => f.blk == b.id) .pkg
  let sameRecord : Block → Bool := fun x => x.vf == b.vf && s.saveAddr x == s.saveAddr b
  ({ s1 with
    fresh := s.fresh + b.warps.length
    waitTab := s1.waitTab.filter fun e => e.ref.blk != b.id
    blocks := s1.blocks.filter fun x => x.id != b.id
    saved := mapIf sameRecord (fun x => { x with record := none }) s1.saved ++ [{ b with warps := ws, preempt := .none, record := some s.fresh }] } : State).writeRecord b s.fresh
/-- A suspended unit stands at the head of its leaf's queue (R316). -/
def State.requeue (s : State) (b : Block) : State :=
  let f := s.leaf b.clu
  let e : LeafEntry := { vf := b.vf, launch := b.launch, tiles := [], gang := b.gang.isSome, cls := b.cls, deadline := b.deadline, resume := some b.id,
                         accepted := s.nextId }
  ({ s with nextId := s.nextId + 1 } : State).setLeaf b.clu { f with queue := e :: f.queue }
/-- PREEMPT_SAVE (R313 to R316): the block, or its whole gang, is saved and frees its cores; unless its launch is suspended, it returns to
its leaf's queue. A translation fault of the record parks the save. -/
def execPreemptSave (blk : Nat) (s0 : State) : Out :=
  let s := s0.holdRequested
  .next (match s.block? blk with
    | none => s
    | some b =>
      let us := s.unitOf b
      if !us.all s.blockStopped || s.faults.any (fun f => f.what == .save blk) then s
      else match us.findSome? fun x => s.saveFault x true with
        | some va => (s.park b.vf b.launch va (.save blk)).2
        | none =>
          let s1 := us.foldl (fun t x => t.saveBlock x) s
          let suspended := ((s.launch? b.vf b.launch).map (·.suspended)).getD false
          if suspended then s1 else s1.requeue b)
/-- A run on resumption (R316): a held run is ready with its counter 0 and no yield, and a NAP ends. -/
def Run.resumed (r : Run) : Run :=
  let r1 : Run := { r with notBefore := 0 }
  if r.held then { r1 with held := false, age := 0, yieldEnd := none }
  else match r.wait with
    | some (.nap _) => { r1 with wait := none, pc := r.pc + 8 }
    | _ => r1
/-- FRESP answers a parked save or restore: it is tried again, and finds what the host has repaired (R315, R320). -/
def State.answerSave (s : State) (blk : Nat) : State := { s with faults := s.faults.filter fun f => f.what != .save blk }
/-- An instruction-fetch fault is answered: the word is fetched again, or every live lane of the warp exits with no trap delivered. -/
def State.answerFetch (s : State) (r : WarpRef) (recno : Nat) (abort : Bool) : State :=
  match s.warp? r with
  | none => s
  | some w =>
    if abort then ((s.exitLanes r w.live).mapWarp r Warp.leaveTrap).endStep r 0
    else s.setWarp r { w with runs := w.runs.map fun x => if x.wait == some (.fetch recno) then { x with wait := none } else x }
/-- The block whose access a fault parked. -/
def State.faultBlock (s : State) (f : ParkedFault) : Option Nat :=
  match f.what with
  | .chunk j _ => (s.job? j).map (·.blk)
  | .fetch w => some w.blk
  | .op id => (s.op? id).map (·.blk)
  | .sign blk _ => some blk
  | _ => none
/-- The answer for what a fault parked; that of a suspended block takes effect when the block resumes (R316). -/
def State.answerFault (s : State) (f : ParkedFault) (abort : Bool) : State :=
  let keep : State := { s with faults := mapIf (fun x => x.vf == f.vf && x.recno == f.recno) (fun x => { x with abort := some abort }) s.faults }
  let gone : State := { s with faults := s.faults.filter fun x => !(x.vf == f.vf && x.recno == f.recno) }
  if ((s.faultBlock f).map fun k => (s.block? k).isNone && s.saved.any fun b => b.id == k).getD false then keep
  else match f.what with
  | .chunk j c => gone.answerChunk j c abort
  | .fetch w => gone.answerFetch w f.recno abort
  | .op id => (match gone.op? id with
    | some o => gone.setOp { o with parked := none, aborted := abort }
    | none => gone)
  | .sign blk team => if abort then keep.completeSigning blk team else gone.completeSigning blk team
  | .view h g => gone.answerView f.vf h g abort
  | .walk n t => gone.answerWalk f.vf n t abort
  | .stage .. => if abort then keep else gone
  | .save blk => gone.answerSave blk
  | .peer dev u => gone.answerPeer f.vf dev u abort
/-- Take the places of the wait table again, after the parked lanes have read their words (R142, R316). -/
def State.waitAgain (s : State) (r : WarpRef) : State :=
  let s1 := s.reread r fun _ _ => true
  match s1.warp? r with
  | none => s1
  | some w => w.runs.foldl (fun t run => match run.wait with
      | some (.word wide _ _ _ xs) => xs.foldl (fun t x => t.waitOn r x.2 (if wide then 8 else 4)) t
      | some (.future _ _ _ xs) => xs.foldl (fun t x => t.waitOn r x.2 16) t
      | _ => t) s1
/-- What came about for a block while it was suspended takes effect (R316, R320): the host's answers to its faults, commits that its views wait
for, the end of its last job. -/
def State.catchUp (s : State) (blk : Nat) : State :=
  let mine := s.faults.filter fun f => f.abort.isSome && s.faultBlock f == some blk
  ((mine.foldl (fun t f => t.answerFault f (f.abort.getD false)) s).wakeViews).noteBlock blk
/-- Restore one block at a place of its cluster; its staging region stays where it is. What the warp had read comes before its next reads (R173),
and a run blocked in FREG looks again for an entry (R157). -/
def State.restoreBlock (s : State) (b : Block) (pl : Place) : Option State :=
  let s1 : State := { s with saved := s.saved.filter fun x => x.id != b.id }
  if s.takesBack b pl.core pl.q0 then
    let ws := b.warps.map fun w => { w.seeAll s.nextId with picked := s.clock, runs := w.runs.map Run.resumed }
    let b1 := { b with core := pl.core, slot := s1.freeSlot pl.core, q0 := pl.q0, warps := ws, record := none }
    let s2 : State := { s1 with
      blocks := s1.blocks ++ [b1]
      ops := mapIf (fun o => o.blk == b.id) (fun o => { o with core := pl.core }) s1.ops }
    some (((((List.range ws.length).foldl (fun t n => t.waitAgain ⟨b.id, n⟩) s2).catchUp b.id).feedTables).wakeGroups b.clu)
  else none
def State.restoreAll (s : State) : List (Block × Place) → Option State
  | [] => some s
  | (b, pl) :: rest => (s.restoreBlock b pl).bind fun t => t.restoreAll rest
/-- A block whose record fails the check (R315): its launch ends ABORTED, a record of KIND 3 is reported, and its lanes exit. -/
def State.failRecord (s : State) (b : Block) : State :=
  (List.range b.warps.length).foldl (fun t n => match t.warp? ⟨b.id, n⟩ with
    | some w => ((t.exitLanes ⟨b.id, n⟩ w.live).mapWarp ⟨b.id, n⟩ Warp.leaveTrap).endStep ⟨b.id, n⟩ 0
    | none => t) ((s.report b.vf 3 b.launch []).abortLaunch b.vf b.launch true)
/-- Whether the order of a leaf's queue lets a suspended unit return (R283, R300, R316): only others of its kind stand before it, and no entry that
is due comes first by class and deadline. -/
def State.resumeOk (s : State) (k n : Nat) (e : LeafEntry) : Bool :=
  let q := (s.leaf k).queue
  (q.take n).all (fun x => x.resume.isSome || e.urgent x) && q.all (fun x => s.entryWaits k x || !x.urgent e)
/-- BLOCK_RESUME: a suspended block, or gang, resumes at places of its cluster, from the head of its leaf's queue; a block whose record
fails the check ends (R315, R316). -/
def execBlockResume (blk : Nat) (pls : List Place) (s : State) : Out :=
  .next (match s.saved.find? fun b => b.id == blk with
    | none => s
    | some b =>
      let f := s.leaf b.clu
      match (f.queue.zip (List.range f.queue.length)).find? fun x => x.1.resume == some blk with
      | none => s
      | some (e, n) =>
        let us := s.savedUnit b
        if us.length != pls.length || !distinctCores pls || !s.resumeOk b.clu n e || (b.gang.isSome && s.gangHere b.clu b.gang)
            || s.faults.any (fun x => x.what == .save blk) then s
        else match us.findSome? fun x => s.saveFault x false with
          | some va => (s.park b.vf b.launch va (.save blk)).2
          | none => match (s.leaveLeaf b.clu n).restoreAll (us.zip pls) with
            | none => s
            | some t => (us.filter fun x => !s.recordKept x).foldl State.failRecord t)

/-! ### Errors (R322 to R328) -/

/-- SOFT_ERROR: counted, and without any other effect (R322, Table 21-12). -/
def execSoftError (s : State) : Out := .next { s with cecnt := satInc s.cecnt }
/-- The interface that holds the cluster of a physical scratchpad address. -/
def State.ownerOf (s : State) (a : Nat) : Option Nat :=
  let k := a / 2 ^ 30 * 16 + a % 2 ^ 30 / Config.sliceBytes
  (s.vfs.find? fun x => x.2.vfclu.getLsbD k).map (·.1)
/-- Count an uncorrectable error and report it to the fault ring of its interface, or of the physical function (R323, R342). -/
def State.errorReport (s : State) (vf : Option Nat) (launch : Nat) : State :=
  let s1 : State := { s with uecnt := satInc s.uecnt }
  match vf with
  | some n => s1.report n 3 launch []
  | none => s1.reportPf 3
def State.blockError (s : State) (blk : Nat) : State :=
  match s.block? blk with
  | some b => s.errorReport (some b.vf) b.launch
  | none => s
/-- UNCORRECTABLE_ERROR: the data is marked as poisoned and the error is reported (R323). -/
def execUncorrectableError (t : ErrTarget) (s : State) : Out :=
  .next (match t with
    | .scratch a => ({ s with spPois := addPois s.spPois (a / 4) } : State).errorReport (s.ownerOf a) 0
    | .main a => ({ s with mmPois := addPois s.mmPois (a / 64) } : State).errorReport none 0
    | .shared blk a => (s.mapBlock blk fun b => { b with sharedPois := addPois b.sharedPois (a / 4) }).blockError blk
    | .stack r l a => (s.mapWarp r fun w => { w with stackPois := addPois w.stackPois (stackKey l a / 4) }).blockError r.blk
    | .vreg r l n => (s.mapWarp r fun w => { w with vPois := addPois w.vPois (vKey l n) }).blockError r.blk
    | .sreg r n => (s.mapWarp r fun w => { w with sPois := addPois w.sPois n }).blockError r.blk
    | .unowned => s.errorReport none 0)
/-- STORE_QUEUE_LOSS: the warp halts, and nothing behind the lost entry leaves its queue (R325). -/
def execStoreQueueLoss (r : WarpRef) (n : Nat) (s : State) : Out :=
  .next (match s.block? r.blk, s.warp? r with
    | some b, some w =>
      if n < w.storeQ.length then
        let q := (w.storeQ.zip (List.range w.storeQ.length)).map fun x => if x.2 == n then { x.1 with lost := true } else x.1
        ({ s.setWarp r { w with storeQ := q, halted := true } with uecnt := satInc s.uecnt } : State).report b.vf 7 b.launch []
      else s
    | _, _ => s)
/-- Raise FATAL in every enabled interface and in the physical function (Tables 21-7, 21-13; R332). -/
def State.fatal (s : State) : State :=
  let s1 := (List.range 128).foldl (fun t n =>
    let v := t.vf n
    let t1 := t.setVf n { v with devHalted := true, event := if v.vfctl.getLsbD 0 then v.event ||| 1 else v.event }
    if v.vfctl.getLsbD 0 then t1.irq (some n) 0 else t1) s
  ({ s1 with pfevent := s1.pfevent ||| 1 } : State).irq none 0
/-- DISPATCH_CORE_ERROR: the front end and the walker halt; tiles not handed off take ABORTED (R327). -/
def execDispatchCoreError (s : State) : Out :=
  let s1 : State := { s with coreHalted := true, uecnt := satInc s.uecnt }
  let open_ := s.launches.filter fun l => l.phase == .waiting || l.phase == .walking
  .next ((open_.foldl (fun t l => t.abortLaunch l.vf l.num false) s1).reportPf 3).fatal
/-- QUEUE_TABLE_ERROR: the queue halts with its read index frozen, and the error is reported (R323, R328); a launch of it that has not started is
ended (R295), those started complete. -/
def execQueueTableError (vf q : Nat) (s : State) : Out :=
  let x := (s.vf vf).queue q
  let s0 := s.setQueue vf q { x with halted := true, arrivals := [] }
  let mine := s0.launches.filter fun l => l.vf == vf && l.queue == some q && l.phase == .waiting
  let s1 := (mine.foldl (fun t l => t.abortLaunch vf l.num true) s0).report vf 3 0 []
  let v := s1.vf vf
  .next (({ s1.setVf vf { v with event := v.event ||| 8 } with uecnt := satInc s1.uecnt } : State).irq (some vf) 2)

end Sys2Proof.Machine
end

