-- ==== Sys2Proof/Machine/Firmware.lean ====
section
/-!
DEFINITION. What the boot ROM and the firmware complex compute (R352, R353): SHA-384, ECDSA on the curve brainpoolP384r1 of RFC 5639, the
verification of an image and the signing of an attestation report. The functions are those of the standards that R352 names (assumption 14).
-/
namespace Sys2Proof.Machine

/-! ### SHA-384 -/

/-- The round constants. -/
def shaK : List (BitVec 64) :=
  [0x428A2F98D728AE22, 0x7137449123EF65CD, 0xB5C0FBCFEC4D3B2F, 0xE9B5DBA58189DBBC, 0x3956C25BF348B538]
    ++ [0x59F111F1B605D019, 0x923F82A4AF194F9B, 0xAB1C5ED5DA6D8118, 0xD807AA98A3030242, 0x12835B0145706FBE]
    ++ [0x243185BE4EE4B28C, 0x550C7DC3D5FFB4E2, 0x72BE5D74F27B896F, 0x80DEB1FE3B1696B1, 0x9BDC06A725C71235]
    ++ [0xC19BF174CF692694, 0xE49B69C19EF14AD2, 0xEFBE4786384F25E3, 0x0FC19DC68B8CD5B5, 0x240CA1CC77AC9C65]
    ++ [0x2DE92C6F592B0275, 0x4A7484AA6EA6E483, 0x5CB0A9DCBD41FBD4, 0x76F988DA831153B5, 0x983E5152EE66DFAB]
    ++ [0xA831C66D2DB43210, 0xB00327C898FB213F, 0xBF597FC7BEEF0EE4, 0xC6E00BF33DA88FC2, 0xD5A79147930AA725]
    ++ [0x06CA6351E003826F, 0x142929670A0E6E70, 0x27B70A8546D22FFC, 0x2E1B21385C26C926, 0x4D2C6DFC5AC42AED]
    ++ [0x53380D139D95B3DF, 0x650A73548BAF63DE, 0x766A0ABB3C77B2A8, 0x81C2C92E47EDAEE6, 0x92722C851482353B]
    ++ [0xA2BFE8A14CF10364, 0xA81A664BBC423001, 0xC24B8B70D0F89791, 0xC76C51A30654BE30, 0xD192E819D6EF5218]
    ++ [0xD69906245565A910, 0xF40E35855771202A, 0x106AA07032BBD1B8, 0x19A4C116B8D2D0C8, 0x1E376C085141AB53]
    ++ [0x2748774CDF8EEB99, 0x34B0BCB5E19B48A8, 0x391C0CB3C5C95A63, 0x4ED8AA4AE3418ACB, 0x5B9CCA4F7763E373]
    ++ [0x682E6FF3D6B2B8A3, 0x748F82EE5DEFB2FC, 0x78A5636F43172F60, 0x84C87814A1F0AB72, 0x8CC702081A6439EC]
    ++ [0x90BEFFFA23631E28, 0xA4506CEBDE82BDE9, 0xBEF9A3F7B2C67915, 0xC67178F2E372532B, 0xCA273ECEEA26619C]
    ++ [0xD186B8C721C0C207, 0xEADA7DD6CDE0EB1E, 0xF57D4F7FEE6ED178, 0x06F067AA72176FBA, 0x0A637DC5A2C898A6]
    ++ [0x113F9804BEF90DAE, 0x1B710B35131C471B, 0x28DB77F523047D84, 0x32CAAB7B40C72493, 0x3C9EBE0A15C9BEBC]
    ++ [0x431D67C49C100D4C, 0x4CC5D4BECB3E42B6, 0x597F299CFC657E2A, 0x5FCB6FAB3AD6FAEC, 0x6C44198C4A475817]
/-- The initial hash words. -/
def shaInit : List (BitVec 64) :=
  [0xCBBB9D5DC1059ED8, 0x629A292A367CD507, 0x9159015A3070DD17, 0x152FECD8F70E5939] ++
  [0x67332667FFC00B31, 0x8EB44A8768581511, 0xDB0C2E0D64F98FA7, 0x47B5481DBEFA4FA4]
/-- A number from bytes, the most significant first, and its bytes. -/
def beValue (bs : List Byte) : Nat := bs.foldl (fun n b => 256 * n + b.toNat) 0
def beBytes (n x : Nat) : List Byte := (List.range n).map fun k => BitVec.ofNat 8 (x / 256 ^ (n - 1 - k))
/-- The padded message. -/
def shaPad (bs : List Byte) : List Byte :=
  bs ++ [0x80] ++ List.replicate ((239 - bs.length % 128) % 128) 0 ++ beBytes 16 (8 * bs.length)
/-- The next word of the message schedule, from those before it, newest first. -/
def shaNext (w : List (BitVec 64)) : BitVec 64 :=
  let at_ := fun (k : Nat) => (w[k]?).getD 0
  let x := at_ 14
  let y := at_ 1
  at_ 15 + (x.rotateRight 1 ^^^ x.rotateRight 8 ^^^ (x >>> 7)) + at_ 6 + (y.rotateRight 19 ^^^ y.rotateRight 61 ^^^ (y >>> 6))
/-- The schedule of a block: 80 words. -/
def shaSchedule (block : List Byte) : List (BitVec 64) :=
  let first := (List.range 16).map fun k => BitVec.ofNat 64 (beValue ((block.drop (8 * k)).take 8))
  ((List.range 64).foldl (fun w _ => shaNext w :: w) first.reverse).reverse
/-- The eight working variables. -/
structure ShaVars where
  a : BitVec 64
  b : BitVec 64
  c : BitVec 64
  d : BitVec 64
  e : BitVec 64
  f : BitVec 64
  g : BitVec 64
  h : BitVec 64
  deriving DecidableEq, Repr
def shaRound (v : ShaVars) (k w : BitVec 64) : ShaVars :=
  let t1 := v.h + (v.e.rotateRight 14 ^^^ v.e.rotateRight 18 ^^^ v.e.rotateRight 41) + ((v.e &&& v.f) ^^^ (~~~v.e &&& v.g)) + k + w
  let t2 := (v.a.rotateRight 28 ^^^ v.a.rotateRight 34 ^^^ v.a.rotateRight 39) + ((v.a &&& v.b) ^^^ (v.a &&& v.c) ^^^ (v.b &&& v.c))
  { a := t1 + t2, b := v.a, c := v.b, d := v.c, e := v.d + t1, f := v.e, g := v.f, h := v.g }
/-- One block of 128 bytes. -/
def shaBlock (hash : List (BitVec 64)) (block : List Byte) : List (BitVec 64) :=
  let at_ := fun (k : Nat) => (hash[k]?).getD 0
  let v0 : ShaVars := { a := at_ 0, b := at_ 1, c := at_ 2, d := at_ 3, e := at_ 4, f := at_ 5, g := at_ 6, h := at_ 7 }
  let v := (shaK.zip (shaSchedule block)).foldl (fun v x => shaRound v x.1 x.2) v0
  [at_ 0 + v.a, at_ 1 + v.b, at_ 2 + v.c, at_ 3 + v.d, at_ 4 + v.e, at_ 5 + v.f, at_ 6 + v.g, at_ 7 + v.h]
/-- SHA-384 of a message: 48 bytes. -/
def sha384 (bs : List Byte) : List Byte :=
  let m := shaPad bs
  (((List.range (m.length / 128)).foldl (fun h k => shaBlock h ((m.drop (128 * k)).take 128)) shaInit).take 6).flatMap fun w => beBytes 8 w.toNat

/-! ### brainpoolP384r1 (RFC 5639) and ECDSA -/

/-- The prime of the field, the coefficients of the curve, the base point and its order. -/
def curveP : Nat := 0x8CB91E82A3386D280F5D6F7E50E641DF152F7109ED5456B412B1DA197FB71123ACD3A729901D1A71874700133107EC53
def curveA : Nat := 0x7BC382C63D8C150C3C72080ACE05AFA0C2BEA28E4FB22787139165EFBA91F90F8AA5814A503AD4EB04A8C7DD22CE2826
def curveB : Nat := 0x04A8C7DD22CE28268B39B55416F0447C2FB77DE107DCD2A62E880EA53EEB62D57CB4390295DBC9943AB78696FA504C11
def curveG : Nat × Nat :=
  (0x1D1C64F068CF45FFA2A63A81B7C13F6B8847A3E77EF14FE3DB7FCAFE0CBD10E8E826E03436D646AAEF87B2E247D4AF1E,
   0x8ABE1D7520F9C2A45CB1EB8E95CFD55262B70B29FEEC5864E19C054FF99129280E4646217791811142820341263C5315)
def curveQ : Nat := 0x8CB91E82A3386D280F5D6F7E50E641DF152F7109ED5456B31F166E6CAC0425A7CF3AB6AF6B7FC3103B883202E9046565
/-- `x ^ e` modulo `m`, by the low `n` bits of `e`. -/
def powMod (m : Nat) : Nat → Nat → Nat → Nat
  | 0, _, _ => 1 % m
  | n + 1, x, e => (if e % 2 == 1 then x else 1) * powMod m n (x * x % m) (e / 2) % m
/-- The inverse modulo a prime of 384 bits. -/
def invMod (m x : Nat) : Nat := powMod m 384 (x % m) (m - 2)
/-- A point of the curve; none: the point at infinity. -/
abbrev Point := Option (Nat × Nat)
def onCurve (p : Nat × Nat) : Bool :=
  decide (p.1 < curveP) && decide (p.2 < curveP) && p.2 * p.2 % curveP == (p.1 * p.1 * p.1 + curveA * p.1 + curveB) % curveP
def subP (x y : Nat) : Nat := (x + curveP - y % curveP) % curveP
/-- The sum of two points. -/
def pointAdd (a b : Point) : Point :=
  match a, b with
  | none, q => q
  | p, none => p
  | some p, some q =>
    if p.1 == q.1 && (p.2 + q.2) % curveP == 0 then none
    else
      let l := (if p == q then (3 * p.1 * p.1 + curveA) * invMod curveP (2 * p.2) else subP q.2 p.2 * invMod curveP (subP q.1 p.1)) % curveP
      let x := subP (l * l) (p.1 + q.1)
      some (x, subP (l * subP p.1 x) p.2)
/-- A multiple of a point, by the low `n` bits of `k`. -/
def pointMul : Nat → Nat → Point → Point
  | 0, _, _ => none
  | n + 1, k, p => pointAdd (if k % 2 == 1 then p else none) (pointMul n (k / 2) (pointAdd p p))
/-- Whether `(r, s)` is a signature of a hash under a public key. -/
def ecdsaOk (key : Nat × Nat) (hash : List Byte) (sig : Nat × Nat) : Bool :=
  let (r, t) := sig
  let w := invMod curveQ t
  onCurve key && decide (1 ≤ r) && decide (r < curveQ) && decide (1 ≤ t) && decide (t < curveQ)
    && (match pointAdd (pointMul 384 (beValue hash * w % curveQ) (some curveG)) (pointMul 384 (r * w % curveQ) (some key)) with
      | some x => x.1 % curveQ == r
      | none => false)
/-- A signature of a hash under a private key, with the number `k` that the signer chooses. -/
def ecdsaSign (key k : Nat) (hash : List Byte) : Nat × Nat :=
  let r := ((pointMul 384 k (some curveG)).map fun x => x.1 % curveQ).getD 0
  (r, invMod curveQ k * (beValue hash + r * key) % curveQ)

/-! ### Images and reports -/

/-- Whether the boot ROM accepts an image (R352): its key is the one whose hash is fused, its signature verifies over the hash of its body, and
its version is not below the fused minimum. -/
def imageOk (img : List Byte) : Bool :=
  sha384 (Config.imageKey img) == Config.fusedKeyHash
    && ecdsaOk (Config.keyPoint (Config.imageKey img)) (sha384 (Config.imageBody img)) (Config.imageSig img)
    && decide (Config.fusedMinVersion ≤ Config.imageVersion img)
/-- The attestation report number `n` (R353): hash and version of the running image, HX_FABID and the nonce, signed with the identity key under
SHA-384. -/
def attestReport (hash : List Byte) (version : Nat) (fabid : BitVec 8) (nonce : BitVec 384) (n : Nat) : List Byte :=
  let body := Config.reportBody hash version fabid nonce
  let sig := ecdsaSign Config.identityKey (Config.signingNumber n) (sha384 body)
  Config.reportBytes body sig.1 sig.2

end Sys2Proof.Machine
end

