-- ==== Sys2Proof/Machine/System.lean ====
section
/-!
DEFINITION. The host (R329 to R346): command queues and their commands, the BARs and their registers; virtual interfaces (R347 to
R349); firmware, service levels and power (R352 to R358); time (R345); peers' answers (R350, R351).
-/
namespace Sys2Proof.Machine

/-! ### Command queues (R299, R334 to R338) -/

def Queue.slots (x : Queue) : Nat := 2 ^ qsz x.qcfg
def Queue.entryAddr (x : Queue) (i : Word) : Nat := x.qbase.toNat + 256 * (i.toNat % x.slots)
/-- The bytes of the command with an index. -/
def State.entry (s : State) (vf q : Nat) (i : Word) : List Byte := readBytes s.host (((s.vf vf).queue q).entryAddr i) 256
/-- The arrival of a command (R346): the cycle, and %time as its stamp. -/
def Queue.arrival (x : Queue) (i : Word) : Nat × DWord :=
  match x.arrivals.find? fun a => a.1 != i && !(a.1 - i).msb with
  | some a => a.2
  | none => (0, 0)
/-- Whether the command at the head of a queue waits to start: a waiting launch of the queue holds it back (R299, R338). -/
def State.headReady (s : State) (vf q : Nat) : Bool :=
  let x := (s.vf vf).queue q
  s.queueOn vf q && !x.held && x.qrd != x.qwr && !x.started
    && !s.launches.any fun l => l.vf == vf && l.queue == some q && l.phase == .waiting
def classNum (c : QClass) : Nat :=
  match c with
  | .deadline => 0
  | .interactive => 1
  | .bulk => 2
def Queue.turnKey (x : Queue) : Nat := 8 * classNum (bindClass x.bind) + bindGroup x.bind
/-- Whether the head of queue `p` is taken before the head of queue `q` of the same group (R299). -/
def State.cmdBefore (s : State) (vf p q : Nat) : Bool :=
  let v := s.vf vf
  let x := v.queue p
  let y := v.queue q
  let cx := classNum (bindClass x.bind)
  let cy := classNum (bindClass y.bind)
  if cx != cy then decide (cx < cy)
  else if cx == 0 then
    let dx := u64 (s.entry vf p x.qrd) 8
    let dy := u64 (s.entry vf q y.qrd) 8
    decide (dx < dy) || (dx == dy && decide ((x.arrival x.qrd).1 < (y.arrival y.qrd).1))
  else
    let turn := Sparse.get 0 v.turn x.turnKey
    decide ((p + 32 - turn) % 32 < (q + 32 - turn) % 32)
/-- Whether the dispatch core may take the head of a queue now. -/
def State.mayTake (s : State) (vf q : Nat) : Bool :=
  s.headReady vf q && (List.range 32).all fun p => p == q || !s.headReady vf p
    || bindGroup ((s.vf vf).queue p).bind != bindGroup ((s.vf vf).queue q).bind || !s.cmdBefore vf p q
/-- The read index moves past a command, after its launch number has been written to its entry (R335). -/
def State.passCommand (s : State) (vf q lnum : Nat) : State :=
  let v := s.vf vf
  let x := v.queue q
  let rd := x.qrd + 1
  let x1 : Queue := { x with
    qrd := rd
    started := false
    recent := (lnum :: x.recent).take 32768
    arrivals := x.arrivals.filter fun a => a.1 != rd && !(a.1 - rd).msb }
  (s.hostWrite (x.entryAddr x.qrd + 4) (leBytes 4 lnum)).setVf vf { v with queues := Sparse.set Queue.reset v.queues q x1 }
/-- A queue's command is taken: the turn of its class and group passes to the next queue (R299). -/
def State.takeTurn (s : State) (vf q : Nat) : State :=
  let v := s.vf vf
  s.setVf vf { v with turn := Sparse.set 0 v.turn (v.queue q).turnKey ((q + 1) % 32) }
/-- The launch completion entry of a command that is not a launch (R339), by the binding under which it started (R343). -/
def State.cmdEntry (s : State) (vf q opc status result : Nat) : List Byte :=
  let x := (s.vf vf).queue q
  let stamp := if bindClass x.binding == .deadline then (x.arrival x.qrd).2.toNat else 0
  leBytes 4 0 ++ leBytes 4 status ++ leBytes 4 result ++ leBytes 4 opc ++ leBytes 8 stamp ++ leBytes 8 s.time
/-- A command completes: done with its result, or refused. -/
def State.endCommand (s : State) (vf q : Nat) (bs : List Byte) (status result : Nat) : State :=
  (s.post vf (some q) { tile := false, bytes := s.cmdEntry vf q (u8 bs 0) status result, irq := u32 bs 0 / 2 ^ 16 % 2 == 0 }).passCommand vf q 0
/-- Whether bytes are all zero. -/
def zeros (bs : List Byte) (lo n : Nat) : Bool := ((bs.drop lo).take n).all (· == 0)
/-- Whether a command sets a reserved field (R336, R337). -/
def headerBad (bs : List Byte) : Bool := u32 bs 0 / 2 ^ 18 != 0 || u8 bs 1 != 0 || !zeros bs 192 64
/-- What a command comes to: done with a result, refused, or in progress. -/
inductive CmdRes where
  | done (s : State) (result : Nat)
  | refuse (s : State)
  | wait (s : State)
/-- A command that is not a launch, at the head of a queue (R337, R338): taken in its turn, it starts; it completes, or stays in
progress, whatever its queue's binding becomes (R343). -/
def command (vf q opc : Nat) (s : State) (run : List Byte → State → CmdRes) : Out :=
  let x := (s.vf vf).queue q
  let bs := s.entry vf q x.qrd
  let s1 := if x.started then s else s.takeTurn vf q
  .next (if !((x.started && s.queueUp vf q && !s.coreHalted) || s.mayTake vf q) || u8 bs 0 != opc then s
    else if headerBad bs || !zeros bs 64 128 then s1.endCommand vf q bs 3 0
    else match run bs s1 with
      | .done t r => t.endCommand vf q bs 0 r
      | .refuse t => t.endCommand vf q bs 3 0
      | .wait t => t.setQueue vf q { (t.vf vf).queue q with started := true, startBind := x.binding })
def cmdNum (bs : List Byte) : Nat := u32 bs 16
def cmdAddr (bs : List Byte) : Nat := u64 bs 24
def cmdTile (bs : List Byte) : Nat := u32 bs 32

/-! ### LAUNCH and BUNDLE (R278, R296, R336) -/

/-- Under REL, a count names the launch so many entries back; none where it reaches no launch of the ring (R336). -/
def Queue.back (x : Queue) (recent : List Nat) (k : Nat) : Option Nat :=
  if k == 0 || x.slots - 1 < k then none
  else match recent[k - 1]? with
    | some 0 => none
    | r => r
/-- The launch that a LAUNCH entry asks for: its options, and whether REL or a reserved field refuses it. -/
def Queue.hostOpts (x : Queue) (recent : List Nat) (bs : List Byte) : LaunchOpts × Bool :=
  let b := (bs.drop 64).take 128
  let o := launchOpts b []
  let bad := headerBad bs || optsBad b || !zeros b 84 4 || !zeros b 96 32
  if u32 bs 0 / 2 ^ 17 % 2 == 0 then (o, bad)
  else
    let p := o.pred.map (x.back recent)
    let f := o.pfx.map (x.back recent)
    ({ o with
        pred := p.bind id
        pfx := f.bind id }, bad || p == some none || f == some none)
/-- Submit the launch of an entry; `bad`: refused whatever it asks for. -/
def State.submitEntry (s : State) (vf q : Nat) (recent : List Nat) (bs : List Byte) (i : Word) (bad : Bool) (bundle : Option (Nat × Nat)) : Nat × State :=
  let x := (s.vf vf).queue q
  let cls := bindClass x.bind
  let o := x.hostOpts recent bs
  let e := s.codeEntry? vf (cmdNum bs)
  let known := ((e.map fun y => y.kind == 1)).getD false
  let a := x.arrival i
  s.submit vf (e.getD (CodeEntry.ofBytes false [])) (bad || o.2 || !known) (some q) (u32 bs 0 / 2 ^ 16 % 2 == 1) cls
    (BitVec.ofNat 64 (u64 bs 8)) a.2 a.1 o.1 bundle
/-- LAUNCH, and, at the head of a queue, a command whose OPC names none: it is refused (R337). -/
def execLaunch (vf q : Nat) (s : State) : Out :=
  let x := (s.vf vf).queue q
  let bs := s.entry vf q x.qrd
  .next (if !s.mayTake vf q then s
    else if u8 bs 0 == 0 || 13 < u8 bs 0 then (s.takeTurn vf q).endCommand vf q bs 3 0
    else if u8 bs 0 != 1 then s
    else
      let y := (s.takeTurn vf q).submitEntry vf q x.recent bs x.qrd false none
      y.2.passCommand vf q y.1)
/-- Submit the sub-launches of a bundle in order: their numbers, newest first, and whether one was refused. -/
def State.submitSubs (s : State) (vf q : Nat) (bad : Bool) (bundle : Nat × Nat) : Nat → List Nat → State → List Nat × Bool × State
  | 0, recent, t => (recent, false, t)
  | k + 1, recent, t =>
    let x := (s.vf vf).queue q
    let i := x.qrd + BitVec.ofNat 32 (bundle.2 - k)
    let y := t.submitEntry vf q recent (s.entry vf q i) i bad (some bundle)
    let refused := ((y.2.launch? vf y.1).map fun l => l.phase == .done).getD true
    let r := s.submitSubs vf q bad bundle k (y.1 :: recent) y.2
    (r.1, refused || r.2.1, r.2.2)
/-- BUNDLE (R296): all sub-launches are submitted, or all refused. -/
def execBundle (vf q : Nat) (s0 : State) : Out :=
  let x := (s0.vf vf).queue q
  let bs := s0.entry vf q x.qrd
  let n := cmdNum bs
  let s := s0.takeTurn vf q
  .next (if !s0.mayTake vf q || u8 bs 0 != 2 then s0
    else if headerBad bs || !zeros bs 64 128 || n < 2 || 4 < n then s.endCommand vf q bs 3 0
    else if (x.qwr - x.qrd).toNat ≤ n then s0
    else
      let subs := (List.range n).map fun k => s.entry vf q (x.qrd + BitVec.ofNat 32 (k + 1))
      if subs.any fun e => u8 e 0 != 1 then
        (subs.foldl (fun t e => t.endCommand vf q e 3 0) (s.endCommand vf q bs 3 0))
      else
        let v := s.vf vf
        let id := (if v.lastLaunch ≥ 0xFFFFFFFF then 1 else v.lastLaunch + 1, n)
        let try1 := s.submitSubs vf q false id n (0 :: x.recent) s
        let r := if try1.2.1 then s.submitSubs vf q true id n (0 :: x.recent) s else try1
        let s1 := r.2.2.endCommand vf q bs (if try1.2.1 then 3 else 0) 0
        (r.1.take n).reverse.foldl (fun t k => t.passCommand vf q k) s1)

/-! ### WRDESC and WRREC (R273, R277) -/

/-- Whether the fields of a view, or of a master, are those of Table 17-1: a view names a master and at least one kind, and no views; a view format
under QUANT and a policy are among those of Table 15-1. -/
def Desc.kindBad (d : Desc) : Bool :=
  d.policy == 3 || (if d.view then !d.vlist.isEmpty || d.master == 0 || decide (2 ^ 20 ≤ d.master) || d.kind == 0
      || (d.kind % 2 == 1 && !([2, 4, 5, 6].contains d.qfmt))
    else d.master != 0 || d.vlist.any fun h => decide (2 ^ 20 ≤ h))
/-- The cases in which a descriptor is refused (R81, R273, Table 17-1). -/
def descBad (bs : List Byte) : Bool :=
  let d := Desc.ofBytes false bs
  u32 bs 0 / 2 ^ 12 % 2 ^ 18 != 0 || u32 bs 4 / 2 ^ 24 != 0 || u16 bs 26 != 0 || !zeros bs 28 4 || u32 bs 60 / 2 ^ 10 != 0 || !zeros bs 64 192
    || d.kindBad || d.layout != 0 || decide (7 < d.fmt) || decide (d.rank < 1) || decide (4 < d.rank) || !tshapeOk d.rank d.tshape || d.ptab % 64 != 0
    || (List.range 4).any (fun k => if k < d.rank then d.extent k == 0 || decide (2 ^ 31 < d.extent k) else d.extent k != 1)
    || d.tiles != (List.range d.rank).foldl (fun p k => p * d.grid k) 1 || (d.fmt == 6 && decide (d.tileCols < 8))
/-- Tiles of a descriptor that is created have generation 0 (R254). -/
def State.clearGens (s : State) (vf h : Nat) : State := { s with gens := s.gens.filter fun e => e.1 / 2 ^ 24 != vf * 2 ^ 20 + h }
def execWrdesc (vf q : Nat) (s : State) : Out :=
  command vf q 3 s fun bs s =>
    let h := cmdNum bs
    let d := readBytes s.host (cmdAddr bs) 256
    let v := s.vf vf
    let valid := u32 d 0 / 2 ^ 31 == 1
    if h == 0 || 2 ^ 20 ≤ h || (valid && descBad d) then .refuse s
    else match s.vaWrite vf false (v.htab.toNat + 256 * h) d with
      | some t => .done ((t.rewritten vf h).clearGens vf h) 0
      | none => .refuse s
/-- Whether a tile is pinned: from its walk until its block ends, and while a staging copy reads it (R277). -/
def State.pinnedTile (s : State) (vf h t : Nat) : Bool :=
  s.pinned.contains (vf, h, t) || (s.blocks ++ s.saved).any (fun b => b.vf == vf && b.pins.contains (h, t))
    || s.jobs.any fun j => j.vf == vf && j.pin == some (h, t)
/-- The placement record of a tile, as bytes. -/
def State.recBytes (s : State) (vf : Nat) (d : Desc) (t : Nat) : Option (List Byte) :=
  if d.ptab == 0 || d.tiles ≤ t then none else s.vaRead vf d.early (d.ptab + 64 * t) 64
/-- Whether two records differ in STATE, COPIES, a home or an address. -/
def placeDiffers (a b : List Byte) : Bool :=
  u8 a 4 % 64 != u8 b 4 % 64 || (List.range (u8 a 4 / 16 % 4)).any fun k => u16 a (8 + 16 * k) != u16 b (8 + 16 * k) || u64 a (16 + 16 * k) != u64 b (16 + 16 * k)
def execWrrec (vf q : Nat) (s : State) : Out :=
  command vf q 4 s fun bs s =>
    let new := readBytes s.host (cmdAddr bs) 64
    match s.desc? vf (cmdNum bs) with
    | none => .refuse s
    | some d => match s.recBytes vf d (cmdTile bs) with
      | none => .refuse s
      | some old =>
        if s.pinnedTile vf (cmdNum bs) (cmdTile bs) && placeDiffers old new then .refuse s
        else match s.vaWrite vf d.early (d.ptab + 64 * cmdTile bs) new with
          | some t => .done t.settleAll 0
          | none => .refuse s

/-! ### MIGRATE (R277, Table 21-6) -/

def State.setMig (s : State) (m : Migration) : State := { s with migrating := mapIf (fun x => x.id == m.id) (fun _ => m) s.migrating }
/-- The record of a tile with its STATE, and, on completion, its new home and VERSION. -/
def State.writeRec (s : State) (m : Migration) (state : Nat) (moved : Bool) : State :=
  match s.desc? m.vf m.handle with
  | none => s
  | some d => match s.recBytes m.vf d m.tile with
    | none => s
    | some r =>
      let w := u32 r 4
      let w1 := if moved then ((w / 256 + 1) % 2 ^ 24) * 256 + w % 256 else w
      let slot := if moved then leBytes 2 m.toCode ++ (r.drop (10 + 16 * m.copy)).take 6 ++ leBytes 8 m.toAddr else (r.drop (8 + 16 * m.copy)).take 16
      let at_ := d.ptab + 64 * m.tile
      ((s.vaWrite m.vf d.early (at_ + 4) (leBytes 4 (w1 / 16 * 16 + state))).bind fun t => t.vaWrite m.vf d.early (at_ + 8 + 16 * m.copy) slot).getD s
/-- Words of a copy of a tile at an offset, with the poisoned ones; none: a translation fault. -/
def State.copyWords (s : State) (m : Migration) (c : Copy) (off n : Nat) : Option (List Byte × List Nat) :=
  let ls := (List.range (n / 4)).map fun k => s.copyLoc m.vf m.early c (off + 4 * k) false
  if ls.any (·.isNone) then none
  else
    let xs := ls.filterMap id
    some (xs.flatMap fun l => s.locBytes l 4, (List.range xs.length).filter fun k => (xs[k]?.map s.locPois).getD false)
/-- Write words of a copy of a tile, each piece in one aligned block of 64 bytes (R323); none: a translation fault. -/
def State.putWords (s : State) (m : Migration) (c : Copy) (off : Nat) (bs : List Byte) (bad : List Nat) : Option State :=
  (linePieces (c.addr + off) bs.length).foldl (fun (t : Option State) x => t.bind fun t => (t.copyLoc m.vf m.early c (off + x.1) true).map fun l =>
    t.writePlace l ((bs.drop x.1).take x.2) (wordsIn bad x.1 x.2)) (some s)
/-- The rows of a tile: offsets and lengths of at most 4 KiB. -/
def tileRowsOf (n : Nat) : List (Nat × Nat) := (List.range ((n + 4095) / 4096)).map fun k => (4096 * k, min 4096 (n - 4096 * k))
/-- Send the rows of a migration from a peer, or to one; none: a translation fault, or a device that the interface is not bound on (R351). -/
def State.sendRows (s : State) (m : Migration) (src dst : Copy) : Option (List (Nat × FabMsg)) :=
  match src.home, dst.home with
  | .peer dev, _ => ((s.vf m.vf).bound? dev).map fun u => (tileRowsOf m.len).map fun r => (r.1, FabMsg.read dev u m.id r.1 true (m.fromAddr + r.1) r.2)
  | _, .peer dev => ((s.vf m.vf).bound? dev).bind fun u => (tileRowsOf m.len).foldl (fun (acc : Option (List (Nat × FabMsg))) r => acc.bind fun xs => (s.copyWords m src r.1 r.2).map fun w =>
      xs ++ [(r.1, FabMsg.write dev u m.id r.1 true (m.toAddr + r.1) w.1 w.2)]) (some [])
  | _, _ => some []
/-- MIGRATE: refused when the tile is pinned, with a record of KIND 5 (R277, R341), when its record is not RESIDENT or when a home is
none of the interface's; else the record is MOVING and the engine copies. -/
def execMigrate (vf q : Nat) (s : State) : Out :=
  command vf q 5 s fun bs s =>
    let h := cmdNum bs
    let t := cmdTile bs
    let k := u8 bs 36
    let code := u16 bs 40
    let addr := u64 bs 48
    if s.migrating.any fun m => m.vf == vf && m.queue == q then .wait s
    else match s.desc? vf h with
    | none => .refuse s
    | some d => match s.recBytes vf d t, s.record? vf d t, s.home? vf code addr with
      | some r, some rec_, some dst =>
        (match rec_.state, rec_.copies[k]? with
        | .resident, some src =>
          if s.pinnedTile vf h t then .refuse (s.report vf 5 0 (leBytes 4 h ++ leBytes 4 t))
          else
            let m : Migration := {
              id := s.nextId, vf := vf, queue := q, handle := h, tile := t, copy := k, len := d.tileBytes, fromCode := u16 r (8 + 16 * k),
              fromAddr := src.addr, toCode := code, toAddr := addr, early := d.early, rows := [], failed := false }
            (match s.sendRows m src dst with
            | none => .refuse s
            | some rows =>
              let s1 : State := { s with
                nextId := s.nextId + 1
                fab := s.fab ++ rows.map (·.2)
                migrating := s.migrating ++ [{ m with rows := rows, failed := !rows.isEmpty && s.ports == 0 }] }
              .wait (s1.writeRec m 1 false))
        | _, _ => .refuse s)
      | _, _, _ => .refuse s
/-- A peer's answer to a row of a migration. -/
def State.answerMig (s : State) (m : Migration) (row : Nat) (a : FabAnswer) : State :=
  match m.rows.find? fun x => x.1 == row with
  | none => s
  | some x =>
    let rest := m.rows.filter fun y => y.1 != row
    match a with
    | .later => s
    | .refused => (s.setMig { m with rows := [], failed := true }).report m.vf 6 0 []
    | .ack data bad =>
      match x.2, s.home? m.vf m.toCode m.toAddr with
      | .read .., some dst =>
        (match dst.home with
        | .peer dev => (match (s.vf m.vf).bound? dev with
          | some u =>
            let w := FabMsg.write dev u m.id row true (m.toAddr + row) data bad
            { s.setMig { m with rows := rest ++ [(row, w)] } with fab := s.fab ++ [w] }
          | none => s.setMig { m with rows := [], failed := true })
        | _ => match s.putWords m dst row data bad with
          | some t => t.setMig { m with rows := rest }
          | none => s.setMig { m with rows := [], failed := true })
      | _, _ => s.setMig { m with rows := rest }
/-- MIGRATION_COMPLETE: the tile has been copied, its new home stands in the record, VERSION has risen and STATE is RESIDENT; where
the copy failed, the record is RESIDENT at its old home and the command is refused. -/
def execMigrationComplete (vf handle tile : Nat) (s : State) : Out :=
  .next (match s.migrating.find? fun m => m.vf == vf && m.handle == handle && m.tile == tile with
    | none => s
    | some m =>
      if !m.rows.isEmpty then s
      else
        let x := (s.vf vf).queue m.queue
        let bs := s.entry vf m.queue x.qrd
        let s0 : State := { s with migrating := s.migrating.filter fun y => y.id != m.id }
        let fail := (s0.writeRec m 0 false).settleAll.endCommand vf m.queue bs 3 0
        let good := fun (t : State) => (t.writeRec m 0 true).settleAll.endCommand vf m.queue bs 0 0
        if m.failed then fail
        else match s.home? vf m.fromCode m.fromAddr, s.home? vf m.toCode m.toAddr with
          | some src, some dst =>
            if src.isPeer || dst.isPeer then good s0
            else (match (s0.copyWords m src 0 m.len).bind fun w => s0.putWords m dst 0 w.1 w.2 with
              | some t => good t
              | none => fail)
          | _, _ => fail)

/-- FABRIC_RESPONSE: a peer's answer to a row of a peer copy (R248, R321), of a refresh (R258) or of a migration, or to a remote signal
(R351). -/
def execFabricResponse (job row : Nat) (a : FabAnswer) (s : State) : Out :=
  .next (match s.commits.find? (fun c => c.id == job), s.migrating.find? (fun m => m.id == job), s.signals.find? (fun x => x.1 == job) with
    | some c, _, _ => s.answerCommit c row a
    | none, some m, _ => s.answerMig m row a
    | none, none, some x => s.answerSignal job x.2 a
    | none, none, none => s.answerRow job row a)
/-- PEER_ROW_RESEND: the receiver is ready, and a parked row is sent again (R321). -/
def execPeerRowResend (job row : Nat) (s : State) : Out :=
  .next (match s.commits.find? (fun c => c.id == job), s.migrating.find? (fun m => m.id == job) with
    | some c, _ => s.resendCommit c row
    | none, some m => { s with fab := s.fab ++ (m.rows.filter fun x => x.1 == row).map (·.2) }
    | none, none => s.resendRow job row)
/-- FABRIC_PORT_FAILURE: rows under way go on another port; where none is left they are undelivered (R350), and so fail the migrations and the
refreshes that have rows of a peer under way or to send (R264). -/
def execFabricPortFailure (port : Nat) (s : State) : Out :=
  let s1 := s.portDown port
  .next (if s1.ports != 0 then s1
    else
      let s2 : State := { s1 with migrating := s1.migrating.map fun m => if m.rows.isEmpty then m else { m with rows := [], failed := true } }
      (s2.commits.filter fun c => !c.rows.isEmpty || !c.far.isEmpty).foldl (fun t c => t.failCommit c) s2)

/-! ### VIEWREG, VIEWDEREG, INVAL -/

/-- Whether groups of a view are dirty or being committed. -/
def State.building (s : State) (vf h : Nat) : Bool :=
  s.dirty.any (fun x => x.vf == vf && x.handle == h) || s.commits.any fun c => c.vf == vf && c.handle == h
/-- VIEWREG: the view is created under the device's choice of a free handle, and the command completes when every group has been
built (R251 to R253). -/
def execViewreg (vf q handle : Nat) (addrs : List Nat) (s : State) : Out :=
  command vf q 6 s fun bs s =>
    match s.views.find? fun v => v.vf == vf && v.reg == some q with
    | some v => if s.building vf v.handle then .wait s else .done (s.setView { v with reg := none }) v.handle
    | none =>
      if handle == 0 || 2 ^ 20 ≤ handle || (s.desc? vf handle).isSome || (s.view? vf handle).isSome then .wait s
      else match s.registerView vf q handle (readBytes s.host (cmdAddr bs) 32) addrs with
        | .ok t => .wait (t.clearGens vf handle)
        | .waits => .wait s
        | .refused => .refuse s
/-- Engine reads of a view issued and not complete: transfers that read it and operations with a tile of it (R253). -/
def State.viewReaders (s : State) (vf h : Nat) : Bool :=
  s.jobs.any (fun j => j.vf == vf && (s.tilesHit vf j.reads).any fun x => x.1 == h)
    || s.ops.any fun o => ((s.block? o.blk).map fun b => b.vf == vf).getD false && ([o.srcA, o.srcB].any fun x => match x with
      | .tile _ _ hd _ _ => hd == h
      | _ => false)
/-- VIEWDEREG waits until the builds in progress have committed or failed, and the engine reads issued before it are complete (R253). -/
def execViewdereg (vf q : Nat) (s : State) : Out :=
  command vf q 7 s fun bs s =>
    let h := cmdNum bs
    if (s.view? vf h).isNone then .refuse s
    else if s.commits.any (fun c => c.vf == vf && c.handle == h) || s.viewReaders vf h then .wait s
    else .done (s.dropView vf h).wakeViews 0
/-- INVAL: no cached translation remains (R319); this model caches none. -/
def execInval (vf q : Nat) (s : State) : Out := command vf q 8 s fun _ s => .done s 0

/-! ### SUSPEND, RESUME, ABORT, STATUS -/

/-- The resident blocks of a launch, its tasks included. -/
def State.blocksOf (s : State) (vf num : Nat) : List Block := s.blocks.filter fun b => b.vf == vf && b.launch == num && !b.parked
/-- SUSPEND: the walk pauses and every block of the launch is pre-empted; the command completes when none is resident (R312). -/
def execSuspend (vf q : Nat) (s : State) : Out :=
  command vf q 9 s fun bs s =>
    match s.launch? vf (cmdTile bs) with
    | none => .refuse s
    | some l =>
      let s1 := s.setLaunch { l with suspended := true }
      let bs := s1.blocksOf vf l.num
      if bs.isEmpty then .done s1 0 else .wait (bs.foldl (fun t b => t.requestPreempt b) s1)
/-- RESUME: requests that have not led to a save are withdrawn, suspended blocks return to their leaves, and the walk resumes (R316). -/
def State.resumeLaunch (s : State) (l : Launch) : State :=
  let mine := fun (b : Block) => b.vf == l.vf && b.launch == l.num
  let free : Warp → Warp := fun w => { w with runs := w.runs.map fun r => { r with held := false } }
  let s1 : State := { s.setLaunch { l with suspended := false } with
    blocks := mapIf mine (fun b => { b with preempt := .none, warps := b.warps.map free }) s.blocks }
  let queued := fun (t : State) (b : Block) => (t.savedUnit b).any fun x => (t.leaf b.clu).queue.any fun e => e.resume == some x.id
  (s1.saved.filter mine).foldl (fun t b => if queued t b then t else t.requeue b) s1
def execResume (vf q : Nat) (s : State) : Out :=
  command vf q 10 s fun bs s =>
    match s.launch? vf (cmdTile bs) with
    | none => .refuse s
    | some l => .done (s.resumeLaunch l) 0
/-- A cover some of whose stores are lost: the release is never performed (R176). -/
def Cover.lose (r : WarpRef) (q : List StoreEntry) : Cover → Cover
  | .stores x n => if x == r && q.any (fun e => decide (e.seq < n)) then .never else .stores x n
  | c => c
/-- A warp halted by a lost store ends with its launch: its lanes exit and its queue is dropped, and no release that covers it is performed
(R176, R325); it may have ended before the loss. -/
def State.endHalted (s : State) (r : WarpRef) : State :=
  match s.warp? r with
  | some w =>
    if w.halted then
      let s1 := ((s.setWarp r { w with storeQ := [], halted := false }).exitLanes r w.live).mapWarp r Warp.leaveTrap
      ({ s1 with
        tasks := s1.tasks.map fun t => { t with cover := t.cover.lose r w.storeQ }
        launches := s1.launches.map fun l => { l with cover := l.cover.lose r w.storeQ } } : State).feedTables.noteBlock r.blk
    else s
  | none => s
/-- ABORT (R295): the launch's parked walk is forgotten, and its halted warps end. -/
def execAbort (vf q : Nat) (s : State) : Out :=
  command vf q 11 s fun bs s =>
    match s.launch? vf (cmdTile bs) with
    | none => .refuse s
    | some l =>
      let s1 : State := { s with faults := s.faults.filter fun f => !(f.vf == vf && (match f.what with
        | .walk n _ => n == l.num
        | _ => false)) }
      let s2 := s1.abortLaunch vf l.num true
      .done ((s2.blocksOf vf l.num).foldl (fun t b => (List.range b.warps.length).foldl (fun t n => t.endHalted ⟨b.id, n⟩) t) s2) 0
/-- STATUS: STATUS, P, blocks created and blocks running. -/
def execStatus (vf q : Nat) (s : State) : Out :=
  command vf q 12 s fun bs s =>
    match s.launch? vf (cmdTile bs) with
    | none => .refuse s
    | some l =>
      let running := ((s.blocksOf vf l.num).filter fun b => !b.task).length
      .done (s.hostWrite (cmdAddr bs) (leBytes 4 l.status ++ leBytes 4 l.completed ++ leBytes 4 l.created ++ leBytes 4 running)) 0

/-! ### FRESP (R320, Table 19-7) -/

/-- FRESP: the answer for a translation fault (R320). -/
def execFresp (vf q : Nat) (s : State) : Out :=
  command vf q 13 s fun bs s =>
    match s.faults.find? fun f => f.vf == vf && f.recno == cmdTile bs && f.abort.isNone with
    | some f => if 1 < u8 bs 36 then .refuse s else .done (s.answerFault f (u8 bs 36 == 1)) 0
    | none => .refuse s

/-! ### Queue registers -/

/-- QWR_WRITE: the commands up to the index are pending, with one arrival (R335, R346); while their engine group is idle, those of a
queue with a tolerance are held (R304). -/
def State.writeQwr (s : State) (vf q : Nat) (val : Word) : State :=
  let v := s.vf vf
  let x := v.queue q
  let tol := x.bind.toNat % 2 ^ 16
  let hold := tol != 0 && bindClass x.bind != .deadline && !s.groupBusy vf (bindGroup x.bind)
  let x1 := { x with
    qwr := val
    arrivals := if val == x.qwr then x.arrivals else x.arrivals ++ [(val, s.clock, BitVec.ofNat 64 s.time)]
    held := x.held || hold }
  (s.setVf vf { v with queues := Sparse.set Queue.reset v.queues q x1 }).noteBusy vf
/-- Whether an interface is served at this level (Table 21-10): none from reset, interface 0 in early service; of the 128 there are. -/
def State.serves (s : State) (vf : Nat) : Bool := decide (vf < 128) && (s.level == 2 || (s.level == 1 && vf == 0))
def execQwrWrite (vf q : Nat) (val : BitVec 32) (s : State) : Out := .next (if s.serves vf then s.writeQwr vf q val else s)
/-- COMMAND_HOLD_RELEASE: held commands arrive now (R304): firmware starts them, or may hold them no longer. -/
def execCommandHoldRelease (vf q : Nat) (s : State) : Out :=
  let x := (s.vf vf).queue q
  .next (if x.held then (s.setQueue vf q { x with held := false, arrivals := x.arrivals.map fun a => (a.1, s.clock, BitVec.ofNat 64 s.time) }).noteBusy vf else s)
/-- QCRD_WRITE: the host returns consumed slots (R339). -/
def State.writeQcrd (s : State) (vf q : Nat) (val : Word) : State := s.setQueue vf q { (s.vf vf).queue q with qcrd := val }
def execQcrdWrite (vf q : Nat) (val : BitVec 32) (s : State) : Out := .next (if s.serves vf then s.writeQcrd vf q val else s)
/-- QUANTUM_EXPIRY (R344): a launch of the queue has been walking or running for QUANTUM while a command of another queue of its group
waits to start; GROUP and QUANTUM are those with which the launch started (R343). -/
def execQuantumExpiry (vf q : Nat) (s : State) : Out :=
  let v := s.vf vf
  let waits := fun (l : Launch) => (List.range 32).any fun p => p != q && bindGroup (v.queue p).bind == bindGroup l.bind && s.queueWaits vf p
  .next (match s.launches.find? fun l => l.vf == vf && l.queue == some q && (l.phase == .walking || l.phase == .walked) && !l.quantumFired
      && bindQuantum l.bind != 0 && decide (bindQuantum l.bind * 10 * s.mhz ≤ s.clock - l.started) && waits l with
    | some l => ((s.setLaunch { l with quantumFired := true }).setVf vf { v with
        quant := v.quant ||| BitVec.ofNat 32 (2 ^ q)
        event := v.event ||| 4 }).irq (some vf) 3
    | none => s)
/-- ENGINE_GROUP_IDLE (R299, Table 21-7): a group falls idle. -/
def execEngineGroupIdle (vf g : Nat) (s : State) : Out :=
  let v := s.vf vf
  .next (if 8 ≤ g || v.idle.getLsbD g || s.groupBusy vf g then s
    else (s.setVf vf { v with
      idle := v.idle ||| BitVec.ofNat 8 (2 ^ g)
      event := v.event ||| BitVec.ofNat 32 (2 ^ (8 + g)) }).irq (some vf) 3)

/-! ### Reading registers (R5, R6; Tables 21-1, 21-3, 21-8 to 21-13) -/

/-- The low or the high word of a 64-bit register. -/
def halfOf (x : DWord) (hi : Bool) : Word := if hi then x.extractLsb' 32 32 else x.extractLsb' 0 32
/-- A size and enable register as it reads: EN is 0 while a size field that it uses lies outside 4 to 15 (Table 21-4). -/
def cfgRead (on : Bool) (c : Word) : Word := if on then c else c &&& 0x7FFFFFFF
/-- The word at an offset of a queue register block (Table 21-3). -/
def Queue.regWord (x : Queue) (off : Nat) : Word :=
  if off == 0x00 || off == 0x04 then halfOf x.qbase (off == 0x04)
  else if off == 0x08 || off == 0x0C then halfOf x.qcomp (off == 0x0C)
  else if off == 0x10 then cfgRead (ringEn false x.qcfg) x.qcfg
  else if off == 0x14 then x.qwr
  else if off == 0x18 then x.qrd
  else if off == 0x1C then x.qcrd
  else if off == 0x20 || off == 0x24 then halfOf x.qibase (off == 0x24)
  else if off == 0x28 then x.qilen
  else 0
/-- The word at an offset of BAR0 of a virtual function (Table 21-1); a reserved offset reads 0. -/
def Vf.regWord (v : Vf) (off : Nat) : Word :=
  if 0x1000 ≤ off && decide (off < 0x1800) then (v.queue ((off - 0x1000) / 64)).regWord (off % 64)
  else if off == 0x00 then v.dbgctl
  else if off == 0x04 then v.fpxctl
  else if off == 0x08 then v.spillth
  else if off == 0x0C then v.gangage
  else if off == 0x10 then v.traph
  else if off == 0x14 then v.event
  else if off == 0x18 then v.quant
  else if off == 0x20 || off == 0x24 then halfOf v.savebase (off == 0x24)
  else if off == 0x28 || off == 0x2C then halfOf v.ptroot (off == 0x2C)
  else if off == 0x30 || off == 0x34 then halfOf v.htab (off == 0x34)
  else if off == 0x38 || off == 0x3C then halfOf v.ctab (off == 0x3C)
  else if off == 0x40 || off == 0x44 then halfOf v.frbase (off == 0x44)
  else if off == 0x48 || off == 0x4C then halfOf v.drbase (off == 0x4C)
  else if off == 0x50 then cfgRead (sizeOk (lrsz v.frcfg)) v.frcfg
  else if off == 0x54 then cfgRead (ringEn true v.drcfg) v.drcfg
  else if off == 0x58 then v.frrd
  else if off == 0x5C then v.drrd
  else if off == 0x60 || off == 0x64 then halfOf v.mmwin (off == 0x64)
  else 0
/-- HX_FWSTAT (Table 21-13). -/
def State.fwStat (s : State) : Word := BitVec.ofNat 32 (s.fwFail.toNat * 16 + s.fwRefusal.toNat * 4 + s.level)
/-- The word at an offset of BAR0 of the physical function (Tables 21-8 to 21-13); write-only registers and fields, and reserved offsets,
read 0. STEP and INTERVAL of HX_RAMP read as they were written: that 0 is read as 1 (Table 17-10) is taken of the device's use (assumption 75). -/
def State.pfRegWord (s : State) (off : Nat) : Word :=
  if off < 0x4000 then ((s.vf (off / 128)).queue (off / 4 % 32)).bind
  else if off < 0x8000 then ((((s.vf ((off - 0x4000) / 128)).egrp[(off - 0x4000) / 16 % 8]?).getD 0) >>> (8 * (off % 16))).setWidth 32
  else if off < 0x8800 then ((s.vf ((off - 0x8000) / 16)).vfclu >>> (8 * (off % 16))).setWidth 32
  else if off < 0x8A00 then (s.vf ((off - 0x8800) / 4)).vfctl
  else if 0x10000 ≤ off && decide (off < 0x18000) then
    BitVec.ofNat 32 (leValue ((List.range 4).map fun k => Sparse.get 0 (s.vf ((off - 0x10000) / 256)).fbind (off % 256 + k)))
  else if off == 0xF0000 then s.ramp
  else if off == 0xF0004 then s.pwrlim
  else if off == 0xF0008 then s.fabid.setWidth 32
  else if off == 0xF0018 then s.fwctl
  else if off == 0xF001C then s.fwStat
  else if off == 0xF0020 then s.tpwr
  else if 0xF0024 ≤ off && decide (off < 0xF0044) then (s.tdie[(off - 0xF0024) / 4]?).getD 0
  else if off == 0xF0044 then s.cecnt
  else if off == 0xF0048 then s.uecnt
  else if off == 0xF004C then s.frlost
  else if off == 0xF0200 || off == 0xF0204 then halfOf s.pffrbase (off == 0xF0204)
  else if off == 0xF0208 then cfgRead (sizeOk (lrsz s.pffrcfg)) s.pffrcfg
  else if off == 0xF020C then s.pffrrd
  else if off == 0xF0210 then s.pfevent
  else if off == 0xF0218 || off == 0xF021C then halfOf s.pmwin (off == 0xF021C)
  else 0
/-- The bytes that a host read of BAR0 returns: of an interface, or, for a number of 128 or more, of the physical function. The manual gives
these reads no width; any bytes may be read, each from its register's word (assumption 71). -/
def State.regBytes (s : State) (vf off n : Nat) : List Byte :=
  (List.range n).map fun k =>
    let a := off + k
    let w := if 128 ≤ vf then s.pfRegWord (a / 4 * 4) else (s.vf vf).regWord (a / 4 * 4)
    (w >>> (8 * (a % 4))).setWidth 8

/-! ### BARs (R330) -/

def State.readOut (s : State) (bs : List Byte) : State := { s with hostOut := .readData bs :: s.hostOut }
/-- A host write of aligned words, or parts of words, to the scratchpad; those outside the windows are dropped. -/
def State.hostScratch (s : State) (vf off : Nat) (bs : List Byte) : State :=
  (List.range bs.length).foldl (fun t k => match (t.vf vf).scratch? (off + k), bs[k]? with
    | some p, some b =>
      -- a whole aligned word goes in one piece
      if (off + k) % 4 == 0 && decide (k + 4 ≤ bs.length) then t.writePlace (.scratch p) ((bs.drop k).take 4) []
      else if (off + k) % 4 != 0 && decide ((off + k) % 4 ≤ k) && decide (k - (off + k) % 4 + 4 ≤ bs.length) then t
      else t.writePlace (.scratch p) [b] []
    | _, _ => t) s
/-- The DEADLINE queues whose ingress range holds a write whole (R346). -/
def State.ingress (s : State) (vf off n : Nat) : List Queue :=
  ((List.range 32).map (s.vf vf).queue).filter fun x => x.bind.getLsbD 31 && bindClass x.bind == .deadline && x.qilen != 0
    && decide (x.qibase.toNat + 8 ≤ off) && decide (off + n ≤ x.qibase.toNat + x.qilen.toNat)
/-- HOST_BAR2_WRITE: a posted write, performed at package scope on arrival (R185), then stamped (R346). An interface number of 128 or
more stands for the physical function, whose BAR2 is the staging area. An interface that is not served at this level takes no write
(Table 21-10; assumption 71). -/
def execHostBar2Write (vf off : Nat) (bytes : List Byte) (s : State) : Out :=
  .next (if 128 ≤ vf then (if off + bytes.length ≤ 2 ^ 26 then { s with stagingArea := writeBytes s.stagingArea off bytes } else s)
    else if !s.serves vf then s
    else
      let out := (List.range bytes.length).any fun k => ((s.vf vf).scratch? (off + k)).isNone
      let s1 := s.hostScratch vf off bytes
      let s2 := if out then s1.report vf 6 0 (leBytes 8 off) else s1
      (s2.ingress vf off bytes.length).foldl (fun t x => t.hostScratch vf x.qibase.toNat (leBytes 8 t.time)) s2)
/-- HOST_BAR2_READ: a non-posted read of at most 64 bytes, as every earlier posted write has left them (R185), or of the registers in BAR0 of a
function (R5, R6, R330). An interface that is not served at this level gives all ones (Table 21-10; assumption 71). -/
def execHostBar2Read (bar : HostBar) (off len : Nat) (s : State) : Out :=
  let n := min len 64
  let ones := s.readOut (List.replicate n 0xFF)
  .next (match bar with
    | .regs vf => if 128 ≤ vf || s.serves vf then s.readOut (s.regBytes vf off n) else ones
    | .window vf =>
      if 128 ≤ vf then s.readOut ((List.range n).map fun k => if off + k < 2 ^ 26 then Sparse.get 0 s.stagingArea (off + k) else 0xFF)
      else if !s.serves vf then ones
      else
        let ps := (List.range n).map fun k => (s.vf vf).scratch? (off + k)
        if ps.any (·.isNone) then ones.report vf 6 0 (leBytes 8 off) else s.readOut (ps.map fun p => Sparse.get 0 s.sp (p.getD 0)))
/-- Table entries of interface 0 that the host rewrites in main memory are no objects of early service any more (R355; assumption 37). -/
def State.endEarly (s : State) (p n : Nat) : State :=
  let v := s.vf 0
  let stays := fun (base k : Nat) => !(List.range 64).any fun i => match s.translate 0 false (base + 256 * k + 4 * i) false false with
    | some (.main a) => meets a 4 p n
    | _ => false
  if v.earlyTh.isEmpty && v.earlyCode.isEmpty then s
  else s.setVf 0 { v with earlyTh := v.earlyTh.filter (stays v.htab.toNat), earlyCode := v.earlyCode.filter (stays v.ctab.toNat) }
/-- A host write of physical main memory. -/
def State.hostMain (s : State) (p : Nat) (bs : List Byte) : State := (s.locWrite (.main p) bs).endEarly p bs.length
/-- HOST_BAR4_ACCESS: the interface's main memory through its table, or, for the physical function, physical main memory from
HX_PMWIN; in early service, and outside a window of 4 GiB, or 64 GiB, reads give all ones and writes are dropped (R330, R355). -/
def execHostBar4Access (vf off : Nat) (write : Option (List Byte)) (len : Nat) (s : State) : Out :=
  let n := min len 64
  let size := if 128 ≤ vf then 2 ^ 36 else 2 ^ 32
  .next (if s.level != 2 || decide (size < off + (write.map List.length).getD n) then (match write with
      | some _ => s
      | none => s.readOut (List.replicate n 0xFF))
    else if 128 ≤ vf then
      let a := s.pmwin.toNat + off
      (match write with
      | some bs => if a + bs.length ≤ Config.installed then s.hostMain a bs else s
      | none => s.readOut (if a + n ≤ Config.installed then readBytes s.mm a n else List.replicate n 0xFF))
    else
      let va := (s.vf vf).mmwin.toNat + off
      match write with
      | some bs =>
        let ls := (List.range bs.length).map fun k => s.translate vf false (va + k) true false
        if ls.any (·.isNone) then s.report vf 6 0 (leBytes 8 va)
        else match ls.head? with
          | some (some (.main p)) =>
            if (List.range bs.length).all fun k => ls[k]? == some (some (.main (p + k))) then s.hostMain p bs
            else (List.range bs.length).foldl (fun t k => match ls[k]?, bs[k]? with
              | some (some (Loc.main q)), some b => t.hostMain q [b]
              | _, _ => t) s
          | _ => s
      | none =>
        let ls := (List.range n).map fun k => s.translate vf false (va + k) false false
        if ls.any (·.isNone) then (s.readOut (List.replicate n 0xFF)).report vf 6 0 (leBytes 8 va)
        else s.readOut (ls.flatMap fun l => match l with
          | some x => s.locBytes x 1
          | none => []))
/-- UNSUPPORTED_REQUEST: dropped, or completed with Unsupported Request; either is recorded in the physical function's ring (R329, R342). -/
def execUnsupportedRequest (posted : Bool) (s : State) : Out :=
  let t := s.reportPf 6
  .next (if posted then t else { t with hostOut := .unsupported :: t.hostOut })

/-! ### Time (R345) -/

def State.writeTimeset (s : State) (ns : Nat) : State := { s with timeWritten := some ns }
def execTimesetWrite (ns : BitVec 64) (s : State) : Out := .next (s.writeTimeset ns.toNat)
/-- PPS_PULSE: the first pulse after the first write sets %time; a later one slews it, or steps it forward past 1 ms. -/
def execPpsPulse (s : State) : Out :=
  .next (match s.timeRuns, s.timeWritten, s.timeMark with
    | false, some t, _ => { s with time := t, timeRuns := true, timeMark := some t, timeWritten := none, timeSlew := 0 }
    | false, none, _ => s
    | true, w, m =>
      let mark := w.getD ((m.getD 0) + 1000000000)
      let diff : Int := (mark : Int) - s.time
      let s1 : State := { s with timeMark := some mark, timeWritten := none }
      if 1000000 < diff then { s1 with time := mark, timeSlew := 0 } else { s1 with timeSlew := diff })

/-! ### Virtual interfaces (R347, R349) -/

/-- Firmware sets EN of HX_RAMP while more than one interface is enabled and none holds more than 32 clusters (R357). -/
def State.setPacing (s : State) : State :=
  let on := (s.vfs.map (·.2)).filter fun v => v.vfctl.getLsbD 0
  let en := decide (1 < on.length) && on.all fun v => decide (v.clusters.length ≤ 32)
  s.setRamp (if en then s.ramp ||| 0x80000000 else s.ramp &&& 0x7FFFFFFF)
/-- VFCLU_WRITE (R347): refused unless EN and ZBUSY are 0 and no other interface holds a named cluster; in early service that of interface 0 reads
the clusters of die 0 (R355). Disabled clusters give their slices without cores. -/
def State.writeVfclu (s : State) (vf : Nat) (mask : BitVec 128) : State :=
  let v := s.vf vf
  let taken := s.vfs.any fun x => x.1 != vf && (x.2.vfclu &&& mask) != 0
  if 128 ≤ vf then s
  else if v.vfctl &&& 3 != 0 || taken || (s.level == 1 && vf == 0) then s.setVf vf { v with vfctl := v.vfctl ||| 4 }
  else (s.setVf vf { v with vfclu := mask, coreless := mask &&& ~~~s.enabled }).setPacing
def execVfcluWrite (vf : Nat) (mask : BitVec 128) (s : State) : Out := .next (s.writeVfclu vf mask)
/-- An interface halts (R349): its queues, its warps where they stand, its launches ABORTED with no entries; then ZBUSY is set. -/
def State.haltVf (s : State) (vf : Nat) : State :=
  let v := s.vf vf
  let mine := (s.blocks ++ s.saved).filter fun b => b.vf == vf
  let ids := mine.map (·.id)
  let s1 : State := { s with
    issue := none
    blocks := s.blocks.filter fun b => b.vf != vf
    saved := s.saved.filter fun b => b.vf != vf
    jobs := s.jobs.filter fun j => j.vf != vf
    ops := s.ops.filter fun o => !ids.contains o.blk
    flight := s.flight.filter fun f => !ids.contains f.blk
    waitTab := s.waitTab.filter fun e => !ids.contains e.ref.blk
    links := s.links.filter fun l => l.vf != vf
    tasks := s.tasks.filter fun t => t.vf != vf
    conts := s.conts.filter fun t => t.vf != vf
    migrating := s.migrating.filter fun m => m.vf != vf
    faults := s.faults.filter fun f => f.vf != vf
    pinned := s.pinned.filter fun p => p.1 != vf
    signals := s.signals.filter fun x => x.2 != vf
    leaves := s.leaves.map fun x => (x.1, { x.2 with incoming := x.2.incoming.filter (fun e => e.vf != vf), queue := x.2.queue.filter (fun e => e.vf != vf) })
    launches := s.launches.map fun l => if l.vf == vf && l.phase != .done then { l with phase := .done, status := 4, aborted := true, retired := true } else l }
  let s2 := (s1.commits.filter fun c => c.vf == vf).foldl (fun t c => t.markDirty vf c.handle c.group false)
    { s1 with commits := s1.commits.filter fun c => c.vf != vf }
  let ended := (s.launches.filter fun l => l.vf == vf && l.phase != .done).map (·.num)
  let keep := fun (ps : List Posting) => ps.filter fun p => !(p.tile && ended.contains p.launch)
  let qs := v.queues.map fun x => (x.1, { x.2 with halted := true, started := false, held := false, posts := keep x.2.posts })
  (({ s2 with gangs := s2.gangs.filter fun g => (s2.blocks ++ s2.saved).any fun b => b.gang == some g.id } : State).setVf vf
    { v with queues := qs, dev := { v.dev with posts := keep v.dev.posts }, devHalted := true, vfctl := (v.vfctl &&& 4) ||| 2 }).feedTables
/-- An interface is enabled: its queues run. -/
def State.enableVf (s : State) (vf : Nat) : State :=
  let v := s.vf vf
  let qs := v.queues.map fun x => (x.1, { x.2 with halted := false })
  ((s.setVf vf { v with vfctl := v.vfctl ||| 1, queues := qs, devHalted := s.coreHalted, enWaits := false }).setPacing).noteBusy vf
/-- VFCTL_EN_WRITE: in early service only interface 0 may be enabled (R355); a 1 written under ZBUSY takes effect when it clears. Every 0 halts the
interface and zeroes what it holds, one that is disabled already among them (R349). -/
def State.writeEn (s : State) (vf : Nat) (en : Bool) : State :=
  let v := s.vf vf
  if 128 ≤ vf then s
  else if en then
    if s.level != 2 && vf != 0 then s
    else if v.vfctl.getLsbD 1 then s.setVf vf { v with enWaits := true }
    else if v.vfctl.getLsbD 0 then s else s.enableVf vf
  else
    let s1 := s.haltVf vf
    (s1.setVf vf { s1.vf vf with enWaits := false }).setPacing
def execVfctlEnWrite (vf : Nat) (en : Bool) (s : State) : Out := .next (s.writeEn vf en)
/-- FUNCTION_LEVEL_RESET: as EN 0, and the registers of Table 21-1 return to their reset values when zeroing is done; EN, a register of
the physical function, stays. -/
def execFunctionLevelReset (vf : Nat) (s : State) : Out :=
  let en := (s.vf vf).vfctl &&& 1
  let s1 := s.haltVf vf
  .next (if 128 ≤ vf then s else (s1.setVf vf { s1.vf vf with flr := true, enWaits := en != 0 || (s1.vf vf).enWaits }).setPacing)
/-- Whether a physical scratchpad address lies in the clusters of a mask. -/
def inClusters (m : BitVec 128) (a : Nat) : Bool := m.getLsbD (a / 2 ^ 30 * 16 + a % 2 ^ 30 / Config.sliceBytes)
/-- ZEROING_COMPLETE: every resource of the interface's clusters is zero (R349). -/
def execZeroingComplete (vf : Nat) (s : State) : Out :=
  let v := s.vf vf
  .next (if !v.vfctl.getLsbD 1 then s
    else
      let s1 : State := { s with
        sp := s.sp.filter fun e => !inClusters v.vfclu e.1
        spPois := s.spPois.filter fun w => !inClusters v.vfclu (4 * w) }
      let binds : Sparse Queue := v.queues.filterMap fun x => if x.2.bind == 0 then none else some (x.1, { Queue.reset with bind := x.2.bind })
      let v1 : Vf := if v.flr then { Vf.reset with
          egrp := v.egrp
          vfclu := v.vfclu
          coreless := v.coreless
          vfctl := v.vfctl
          enWaits := v.enWaits
          fbind := v.fbind
          queues := binds
          devHalted := true
          lastLaunch := v.lastLaunch
          records := v.records
        } else { v with earlyTh := [], earlyCode := [] }
      let s2 := s1.setVf vf { v1 with vfctl := v1.vfctl &&& 5, flr := false }
      if v1.enWaits && (s.level == 2 || vf == 0) then s2.enableVf vf else s2)

/-! ### Firmware, service levels and power (R352 to R358) -/

/-- After a reload, an ABORTED entry is posted for each launch whose walk had not finished and whose blocks have ended (R327). -/
def State.recoverCore (s : State) : State :=
  let s1 : State := { s with coreHalted := false, vfs := s.vfs.map fun x => (x.1, { x.2 with devHalted := x.2.devHalted && !x.2.vfctl.getLsbD 0 }) }
  (s1.launches.filter fun l => l.aborted && l.phase != .done).foldl (fun t l => t.advance l.vf l.num) s1
/-- FIRMWARE_LOAD: the ROM verifies the staged image; one that it accepts runs, and from level 0 early service begins, with the
clusters of die 0 in interface 0 (R352, R354, R355); another interface that was given one of them before loses it (R347; assumption 71). -/
def State.loadFirmware (s : State) (len : BitVec 26) : State :=
  let img := readBytes s.stagingArea 0 len.toNat
  if imageOk img then
    let s1 := ({ s with image := some { len := len, hash := sha384 (Config.imageBody img), version := Config.imageVersion img }, fwRefusal := 0 } : State).recoverCore
    if s.level == 0 then
      let s2 : State := { s1 with
        level := 1
        mhz := 1000
        admitting := !s.trained
        vfs := s1.vfs.map fun x => if x.1 == 0 then x else (x.1, { x.2 with vfclu := x.2.vfclu &&& ~~~0xFFFF, coreless := x.2.coreless &&& ~~~0xFFFF }) }
      s2.setVf 0 { s2.vf 0 with vfclu := 0xFFFF, coreless := 0xFFFF &&& ~~~s.enabled }
    else s1
  else ({ s with fwRefusal := Config.refusalCode img } : State).reportPf 6
def execFirmwareLoad (len : BitVec 26) (s : State) : Out := .next (s.loadFirmware len)
/-- ATTEST: the report is written to the start of the staging area (R353). -/
def State.attestNow (s : State) : State :=
  match s.image with
  | some img => { s with
      fresh := s.fresh + 1
      stagingArea := writeBytes s.stagingArea 0 (attestReport img.hash img.version s.fabid s.attn s.fresh) }
  | none => s
def execAttest (s : State) : Out := .next s.attestNow
/-- SELF_TEST_COMPLETE: firmware begins to enter full service, or the failure is named and the device stays where it is (R354, R356). -/
def execSelfTestComplete (failure : BitVec 4) (s : State) : Out :=
  .next (if s.level == 2 then s
    else if failure != 0 then { s with fwFail := failure }
    else { s with fwFail := 0, trained := true, admitting := s.level != 1 })
/-- The entries of a table of an interface that stand in its scratchpad slices of die 0 in early service, by number (R355): those that hold an
object. -/
def State.earlyEntries (s : State) (vf base count : Nat) (holds : List Byte → Bool) : List Nat :=
  let v := s.vf vf
  (s.sp.filterMap fun e =>
    let k := e.1 / 2 ^ 30 * 16 + e.1 % 2 ^ 30 / Config.sliceBytes
    let a := v.scratchAddr k (e.1 % 2 ^ 30 % Config.sliceBytes)
    if v.vfclu.getLsbD k && decide (a < 2 ^ 30) && decide (base ≤ a) && decide (a < base + 256 * count) then some ((a - base) / 256) else none).eraseDups.filter fun n =>
    ((s.vaRead vf true (base + 256 * n) 256).map holds).getD false
/-- What interface 0 has written into its tables in early service keeps that reading (R355; assumption 37). -/
def State.keepEarly (s : State) : State :=
  let v := s.vf 0
  s.setVf 0 { v with
    earlyTh := s.earlyEntries 0 v.htab.toNat (2 ^ 20) fun bs => u32 bs 0 / 2 ^ 31 == 1
    earlyCode := s.earlyEntries 0 v.ctab.toNat 65536 fun bs => (CodeEntry.ofBytes true bs).kind != 0 }
/-- FULL_SERVICE_ENTRY: once die 0 holds no block, the clock rises to 2.6 GHz and waiting launches are admitted (R356). -/
def execFullServiceEntry (s : State) : Out :=
  .next (if s.level == 1 && s.trained && !s.coreHalted && !(s.blocks.any fun b => b.die == 0) then { s.keepEarly with level := 2, mhz := 2600, admitting := true } else s)
def powerLimit (r : Word) : Nat := max 1000 (min 8000 (r.toNat % 2 ^ 16))
/-- POWER_WINDOW: the limiter acts on the power averaged over a window of 100 µs (R357); HX_TPWR gives the average over the last 1 ms, and the
temperature of each die is measured anew, a free value (R358; assumption 80). -/
def execPowerWindow (watts : Nat) (s : State) : Out :=
  let lim := powerLimit s.pwrlim
  let top := if s.level == 2 then 2600 else 1000
  let ws := (watts :: s.watts).take 10
  .next { s with
    watts := ws
    fresh := s.fresh + 1
    tdie := (List.range 8).map fun d => Config.freeWord ((s.fresh + 1) * 2 ^ 48 + d)
    tpwr := BitVec.ofNat 32 (sumOf ws / ws.length)
    pwrlim := if 95 * lim < 100 * watts then s.pwrlim ||| 0x80000000 else s.pwrlim &&& 0x7FFFFFFF
    mhz := if lim < watts then max 1000 (s.mhz - 100) else if 10 * watts < 9 * lim then min top (s.mhz + 100) else s.mhz }
/-- DEVICE_RESET: every register and the service level (R5). What R5 does not say: memories, the firmware staging area among them, keep their bytes
(assumption 44), and what moves next is not the device's. The enabled clusters are the part's. -/
def execDeviceReset (s : State) : Out :=
  .next { State.reset with
    mm := s.mm
    sp := s.sp
    stagingArea := s.stagingArea
    enabled := s.enabled
    host := s.host
    mmPois := s.mmPois
    spPois := s.spPois
    hostOut := s.hostOut
    fab := s.fab
    fresh := s.fresh
    agenda := s.agenda }

/-! ### Registers (R5, R6; Tables 21-1, 21-3, 21-8 to 21-13) -/

/-- Records of translation faults that wait are written once slots of the fault ring free (R341). -/
def State.postRecords (s : State) (vf : Nat) : Nat → State
  | 0 => s
  | k + 1 =>
    match (s.vf vf).frPosts with
    | [] => s
    | r :: rest => match (s.setVf vf { s.vf vf with frPosts := rest }).ringRecord? vf r with
      | some t => t.postRecords vf k
      | none => s
/-- The writable bits of QCFG (Table 21-4). -/
def qcfgMask : Word := 0xF0FFF000
/-- A write to a queue register block (Table 21-3); QRD is read-only. The manual gives register writes no width: a write goes to the one register that
begins at its offset, and the low bits of an address register that must be a multiple are dropped (assumption 71). -/
def State.writeQueueReg (s : State) (vf q off : Nat) (val : Nat) : State :=
  let x := (s.vf vf).queue q
  let w : Word := BitVec.ofNat 32 val
  if off == 0 then s.setQueue vf q { x with qbase := BitVec.ofNat 64 (val % 2 ^ 64 / 4096 * 4096) }
  else if off == 8 then s.setQueue vf q { x with qcomp := BitVec.ofNat 64 (val % 2 ^ 64 / 4096 * 4096) }
  else if off == 0x10 then (s.setQueue vf q { x with qcfg := w &&& qcfgMask }).noteBusy vf
  else if off == 0x14 then s.writeQwr vf q w
  else if off == 0x1C then s.writeQcrd vf q w
  else if off == 0x20 then s.setQueue vf q { x with qibase := BitVec.ofNat 64 (val % 2 ^ 64 / 8 * 8) }
  else if off == 0x28 then s.setQueue vf q { x with qilen := w }
  else s
/-- A write to BAR0 of a virtual function (Table 21-1), of one register at its first offset (assumption 71). HX_FRCFG and HX_DRCFG keep the fields of
QCFG that they do not use (assumption 75). -/
def State.writeVfReg (s : State) (vf off : Nat) (val : Nat) : State :=
  let v := s.vf vf
  let w : Word := BitVec.ofNat 32 val
  if 0x1000 ≤ off && decide (off < 0x1800) then s.writeQueueReg vf ((off - 0x1000) / 64) (off % 64) val
  else if off == 0x00 then s.setVf vf { v with dbgctl := w &&& 1 }
  else if off == 0x04 then s.setVf vf { v with fpxctl := w &&& 0x1F }
  else if off == 0x08 then s.setVf vf { v with spillth := w &&& 0xFF }
  else if off == 0x0C then s.setVf vf { v with gangage := w &&& 0xFFFF }
  else if off == 0x10 then s.setVf vf { v with traph := w &&& 0xFFFF }
  else if off == 0x14 then s.setVf vf { v with event := v.event &&& ~~~w }
  else if off == 0x18 then s.setVf vf { v with quant := v.quant &&& ~~~w }
  else if off == 0x20 then s.setVf vf { v with savebase := BitVec.ofNat 64 (val % 2 ^ 48 / 2 ^ 16 * 2 ^ 16) }
  else if off == 0x28 then s.setVf vf { v with ptroot := BitVec.ofNat 64 (val % 2 ^ 43 / 2 ^ 12 * 2 ^ 12 + val % 2) }
  else if off == 0x30 then s.setVf vf { v with htab := BitVec.ofNat 64 (val % 2 ^ 64 / 2 ^ 16 * 2 ^ 16), earlyTh := [] }
  else if off == 0x38 then s.setVf vf { v with ctab := BitVec.ofNat 64 (val % 2 ^ 64 / 2 ^ 16 * 2 ^ 16), earlyCode := [] }
  else if off == 0x40 then s.setVf vf { v with frbase := BitVec.ofNat 64 val }
  else if off == 0x48 then s.setVf vf { v with drbase := BitVec.ofNat 64 val }
  else if off == 0x50 then (s.setVf vf { v with frcfg := w &&& qcfgMask }).postRecords vf (v.frPosts.length)
  else if off == 0x54 then s.setVf vf { v with drcfg := w &&& qcfgMask }
  else if off == 0x58 then (s.setVf vf { v with frrd := w }).postRecords vf (v.frPosts.length)
  else if off == 0x5C then s.setVf vf { v with drrd := w }
  else if off == 0x60 then s.setVf vf { v with mmwin := BitVec.ofNat 64 (val % 2 ^ 64 / 2 ^ 32 * 2 ^ 32) }
  else s
/-- A write to BAR0 of the physical function (Tables 21-8 to 21-13), of one register at its first offset, or of one byte of HX_FBIND (assumption
71); read-only and reserved offsets are ignored. HX_PFFRCFG keeps the fields that it uses (assumption 75). -/
def State.writePfReg (s : State) (off : Nat) (val : BitVec 128) : State :=
  let n := val.toNat
  let w : Word := val.setWidth 32
  if off < 0x4000 then
    let vf := off / 4 / 32
    let q := off / 4 % 32
    (s.setQueue vf q { (s.vf vf).queue q with bind := w }).noteBusy vf
  else if off < 0x8000 then
    let k := (off - 0x4000) / 16
    let v := s.vf (k / 8)
    (s.setVf (k / 8) { v with egrp := listSet v.egrp (k % 8) val }).noteBusy (k / 8)
  else if off < 0x8800 then s.writeVfclu ((off - 0x8000) / 16) val
  else if off < 0x8A00 then
    let vf := (off - 0x8800) / 4
    let v := s.vf vf
    let s1 := if w.getLsbD 2 then s.setVf vf { v with vfctl := v.vfctl &&& 3 } else s
    s1.writeEn vf (w.getLsbD 0)
  else if 0x10000 ≤ off && decide (off < 0x18000) then
    let vf := (off - 0x10000) / 256
    let v := s.vf vf
    s.setVf vf { v with fbind := Sparse.set 0 v.fbind (off % 256) (BitVec.ofNat 8 n) }
  else if off == 0xF0000 then s.setRamp (w &&& 0x8000FFFF)
  else if off == 0xF0004 then { s with pwrlim := (s.pwrlim &&& 0x80000000) ||| BitVec.ofNat 32 (powerLimit w) }
  else if off == 0xF0008 then { s with fabid := BitVec.ofNat 8 n }
  else if off == 0xF0010 then s.writeTimeset (n % 2 ^ 64)
  else if off == 0xF0018 then
    let s1 := if w.getLsbD 31 then s.loadFirmware (w.setWidth 26) else s
    let s2 : State := { s1 with fwctl := w &&& 0x03FFFFFF }
    if w.getLsbD 30 then s2.attestNow else s2
  else if off == 0xF0100 then { s with attn := (s.attn / 2 ^ 128 * 2 ^ 128) ||| val.setWidth 384 }
  else if off == 0xF0110 then { s with attn := (s.attn &&& ~~~(BitVec.ofNat 384 ((2 ^ 128 - 1) * 2 ^ 128))) ||| (val.setWidth 384 <<< 128) }
  else if off == 0xF0120 then { s with attn := (s.attn &&& BitVec.ofNat 384 (2 ^ 256 - 1)) ||| (val.setWidth 384 <<< 256) }
  else if off == 0xF0200 then { s with pffrbase := BitVec.ofNat 64 n }
  else if off == 0xF0208 then { s with pffrcfg := w &&& 0x80F00000 }
  else if off == 0xF020C then { s with pffrrd := w &&& 0xFFFF }
  else if off == 0xF0210 then { s with pfevent := s.pfevent &&& ~~~w }
  else if off == 0xF0218 then { s with pmwin := BitVec.ofNat 64 (n % 2 ^ 64 / 2 ^ 36 * 2 ^ 36) }
  else s
/-- REGISTER_WRITE: of an interface's BAR0 from service level 1 on, or of the physical function's (R5, R6, R354). -/
def execRegisterWrite (vf : Option Nat) (off : Nat) (val : BitVec 128) (s : State) : Out :=
  .next (match vf with
    | some n => if s.serves n then s.writeVfReg n off val.toNat else s
    | none => s.writePfReg off val)

end Sys2Proof.Machine
end

