-- ==== Sys2Proof/Machine/Dispatch.lean ====
section
/-!
DEFINITION. The meaning of every step of the opcode table: one arm per constructor, one call each.
-/
namespace Sys2Proof.Machine
open Sys2Proof

/-- What a step does to a state. -/
def exec (i : Instr) (s : State) : Host.Outcome State Fault Refusal :=
  match i with
  | .iadd h d a b => Sys2Proof.Machine.execIadd h d a b s
  | .isub h d a b => Sys2Proof.Machine.execIsub h d a b s
  | .iadd3 h d a b c => Sys2Proof.Machine.execIadd3 h d a b c s
  | .imul h d a b => Sys2Proof.Machine.execImul h d a b s
  | .imulh h sg d a b => Sys2Proof.Machine.execImulh h sg d a b s
  | .imad h d a b c => Sys2Proof.Machine.execImad h d a b c s
  | .imadw h sg d a b c => Sys2Proof.Machine.execImadw h sg d a b c s
  | .imin h sg d a b => Sys2Proof.Machine.execImin h sg d a b s
  | .imax h sg d a b => Sys2Proof.Machine.execImax h sg d a b s
  | .iabs h d a => Sys2Proof.Machine.execIabs h d a s
  | .ineg h d a => Sys2Proof.Machine.execIneg h d a s
  | .ishl h d a b => Sys2Proof.Machine.execIshl h d a b s
  | .ishr h d a b => Sys2Proof.Machine.execIshr h d a b s
  | .ishra h d a b => Sys2Proof.Machine.execIshra h d a b s
  | .irot h d a b => Sys2Proof.Machine.execIrot h d a b s
  | .idot4 h sa sb sat d a b c => Sys2Proof.Machine.execIdot4 h sa sb sat d a b c s
  | .iaddi h d a imm => Sys2Proof.Machine.execIaddi h d a imm s
  | .imuli h d a imm => Sys2Proof.Machine.execImuli h d a imm s
  | .lop3 h d a b c tt => Sys2Proof.Machine.execLop3 h d a b c tt s
  | .bfx h sg d a b => Sys2Proof.Machine.execBfx h sg d a b s
  | .bfi h d a b c => Sys2Proof.Machine.execBfi h d a b c s
  | .brev h d a => Sys2Proof.Machine.execBrev h d a s
  | .popc h d a => Sys2Proof.Machine.execPopc h d a s
  | .clz h d a => Sys2Proof.Machine.execClz h d a s
  | .ctz h d a => Sys2Proof.Machine.execCtz h d a s
  | .prmt h d a b c => Sys2Proof.Machine.execPrmt h d a b c s
  | .isetp h cmp sg comb pd a b pc => Sys2Proof.Machine.execIsetp h cmp sg comb pd a b pc s
  | .isetpi h cmp sg pd a imm => Sys2Proof.Machine.execIsetpi h cmp sg pd a imm s
  | .isel h d a b pc => Sys2Proof.Machine.execIsel h d a b pc s
  | .lea h w64 sh d a b => Sys2Proof.Machine.execLea h w64 sh d a b s
  | .mov h d a => Sys2Proof.Machine.execMov h d a s
  | .movi h d imm => Sys2Proof.Machine.execMovi h d imm s
  | .movh h d imm => Sys2Proof.Machine.execMovh h d imm s
  | .movs h d sr => Sys2Proof.Machine.execMovs h d sr s
  | .vrd h d idx => Sys2Proof.Machine.execVrd h d idx s
  | .srd h d idx => Sys2Proof.Machine.execSrd h d idx s
  | .vtos h d a => Sys2Proof.Machine.execVtos h d a s
  | .sadd h d a b => Sys2Proof.Machine.execSadd h d a b s
  | .ssub h d a b => Sys2Proof.Machine.execSsub h d a b s
  | .smul h d a b => Sys2Proof.Machine.execSmul h d a b s
  | .slop3 h d a b c tt => Sys2Proof.Machine.execSlop3 h d a b c tt s
  | .sshl h d a b => Sys2Proof.Machine.execSshl h d a b s
  | .sshr h sg d a b => Sys2Proof.Machine.execSshr h sg d a b s
  | .ssetp h cmp sg comb pd a b pc => Sys2Proof.Machine.execSsetp h cmp sg comb pd a b pc s
  | .smovi h d imm => Sys2Proof.Machine.execSmovi h d imm s
  | .smovh h d imm => Sys2Proof.Machine.execSmovh h d imm s
  | .fadd h r ftz d a b => Sys2Proof.Machine.execFadd h r ftz d a b s
  | .fsub h r ftz d a b => Sys2Proof.Machine.execFsub h r ftz d a b s
  | .fmul h r ftz d a b => Sys2Proof.Machine.execFmul h r ftz d a b s
  | .ffma h r ftz d a b c => Sys2Proof.Machine.execFfma h r ftz d a b c s
  | .fmin h ftz d a b => Sys2Proof.Machine.execFmin h ftz d a b s
  | .fmax h ftz d a b => Sys2Proof.Machine.execFmax h ftz d a b s
  | .fsetp h cmp un comb ftz pd a b pc => Sys2Proof.Machine.execFsetp h cmp un comb ftz pd a b pc s
  | .frnd h r ftz d a => Sys2Proof.Machine.execFrnd h r ftz d a s
  | .fclass h f d a => Sys2Proof.Machine.execFclass h f d a s
  | .fscale h r ftz d a b => Sys2Proof.Machine.execFscale h r ftz d a b s
  | .dadd h r ftz d a b => Sys2Proof.Machine.execDadd h r ftz d a b s
  | .dsub h r ftz d a b => Sys2Proof.Machine.execDsub h r ftz d a b s
  | .dmul h r ftz d a b => Sys2Proof.Machine.execDmul h r ftz d a b s
  | .dfma h r ftz d a b c => Sys2Proof.Machine.execDfma h r ftz d a b c s
  | .dmin h ftz d a b => Sys2Proof.Machine.execDmin h ftz d a b s
  | .dmax h ftz d a b => Sys2Proof.Machine.execDmax h ftz d a b s
  | .dsetp h cmp un comb ftz pd a b pc => Sys2Proof.Machine.execDsetp h cmp un comb ftz pd a b pc s
  | .drnd h r ftz d a => Sys2Proof.Machine.execDrnd h r ftz d a s
  | .hadd2 h r ftz bf d a b => Sys2Proof.Machine.execHadd2 h r ftz bf d a b s
  | .hmul2 h r ftz bf d a b => Sys2Proof.Machine.execHmul2 h r ftz bf d a b s
  | .hfma2 h r ftz bf d a b c => Sys2Proof.Machine.execHfma2 h r ftz bf d a b c s
  | .hmin2 h ftz bf d a b => Sys2Proof.Machine.execHmin2 h ftz bf d a b s
  | .hmax2 h ftz bf d a b => Sys2Proof.Machine.execHmax2 h ftz bf d a b s
  | .hsetp2 h cmp un comb ftz bf pd a b pc => Sys2Proof.Machine.execHsetp2 h cmp un comb ftz bf pd a b pc s
  | .cvt h dst src r sat d a => Sys2Proof.Machine.execCvt h dst src r sat d a s
  | .cvti h dst src r sat d a => Sys2Proof.Machine.execCvti h dst src r sat d a s
  | .qscl h band sat d a b => Sys2Proof.Machine.execQscl h band sat d a b s
  | .qpk4 h d a b => Sys2Proof.Machine.execQpk4 h d a b s
  | .qxp4 h r d a b => Sys2Proof.Machine.execQxp4 h r d a b s
  | .sfq h fn ftz q a => Sys2Proof.Machine.execSfq h fn ftz q a s
  | .qpop h d q => Sys2Proof.Machine.execQpop h d q s
  | .qlen h d q => Sys2Proof.Machine.execQlen h d q s
  | .shfl h mode w64 d a b pl => Sys2Proof.Machine.execShfl h mode w64 d a b pl s
  | .qex h dir w64 d a => Sys2Proof.Machine.execQex h dir w64 d a s
  | .vote h k pd pa => Sys2Proof.Machine.execVote h k pd pa s
  | .ballot h d pa => Sys2Proof.Machine.execBallot h d pa s
  | .matchv h w64 d a => Sys2Proof.Machine.execMatchv h w64 d a s
  | .redux h op d a => Sys2Proof.Machine.execRedux h op d a s
  | .scan h op exc d a => Sys2Proof.Machine.execScan h op exc d a s
  | .topk h k d a => Sys2Proof.Machine.execTopk h k d a s
  | .regrp h desc d a n j => Sys2Proof.Machine.execRegrp h desc d a n j s
  | .elect h pd => Sys2Proof.Machine.execElect h pd s
  | .actm h d => Sys2Proof.Machine.execActm h d s
  | .bra h imm => Sys2Proof.Machine.execBra h imm s
  | .brx h a => Sys2Proof.Machine.execBrx h a s
  | .call h imm => Sys2Proof.Machine.execCall h imm s
  | .callx h a frame => Sys2Proof.Machine.execCallx h a frame s
  | .ret h => Sys2Proof.Machine.execRet h s
  | .exit h => Sys2Proof.Machine.execExit h s
  | .yield h => Sys2Proof.Machine.execYield h s
  | .nap h n => Sys2Proof.Machine.execNap h n s
  | .trap h n => Sys2Proof.Machine.execTrap h n s
  | .bkpt h n => Sys2Proof.Machine.execBkpt h n s
  | .rtt h mode => Sys2Proof.Machine.execRtt h mode s
  | .nop h => Sys2Proof.Machine.execNop h s
  | .jenter h j => Sys2Proof.Machine.execJenter h j s
  | .jquit h j => Sys2Proof.Machine.execJquit h j s
  | .jquitm h mask => Sys2Proof.Machine.execJquitm h mask s
  | .jwait h j => Sys2Proof.Machine.execJwait h j s
  | .jtest h k pd j => Sys2Proof.Machine.execJtest h k pd j s
  | .jmask h part d j => Sys2Proof.Machine.execJmask h part d j s
  | .bari h bar warps b => Sys2Proof.Machine.execBari h bar warps b s
  | .barx h bar b => Sys2Proof.Machine.execBarx h bar b s
  | .bara h d bar => Sys2Proof.Machine.execBara h d bar s
  | .barw h bar b => Sys2Proof.Machine.execBarw h bar b s
  | .bar h bar => Sys2Proof.Machine.execBar h bar s
  | .barq h pd bar b => Sys2Proof.Machine.execBarq h pd bar b s
  | .lds h sz ord d ad => Sys2Proof.Machine.execLds h sz ord d ad s
  | .sts h sz ord d ad => Sys2Proof.Machine.execSts h sz ord d ad s
  | .ldx h sz ord sc d ad => Sys2Proof.Machine.execLdx h sz ord sc d ad s
  | .stx h sz ord sc d ad => Sys2Proof.Machine.execStx h sz ord sc d ad s
  | .ldk h sz d ad => Sys2Proof.Machine.execLdk h sz d ad s
  | .stk h sz d ad => Sys2Proof.Machine.execStk h sz d ad s
  | .ldw h wide ord sc d ad => Sys2Proof.Machine.execLdw h wide ord sc d ad s
  | .atoms h op o d a b c => Sys2Proof.Machine.execAtoms h op o d a b c s
  | .atomx h op o sc d a b c => Sys2Proof.Machine.execAtomx h op o sc d a b c s
  | .redx h op o sc a b => Sys2Proof.Machine.execRedx h op o sc a b s
  | .fence h k sc => Sys2Proof.Machine.execFence h k sc s
  | .fencer h rel all sc dyn mask sA => Sys2Proof.Machine.execFencer h rel all sc dyn mask sA s
  | .roddef h rs k a b => Sys2Proof.Machine.execRoddef h rs k a b s
  | .ldf h wide d ad => Sys2Proof.Machine.execLdf h wide d ad s
  | .fres h d ad => Sys2Proof.Machine.execFres h d ad s
  | .fflt h d ad => Sys2Proof.Machine.execFflt h d ad s
  | .freg h d ad => Sys2Proof.Machine.execFreg h d ad s
  | .fpoll h wide d ad => Sys2Proof.Machine.execFpoll h wide d ad s
  | .spawn h noargs pd a b c => Sys2Proof.Machine.execSpawn h noargs pd a b c s
  | .lnch h pd a b c => Sys2Proof.Machine.execLnch h pd a b c s
  | .mma h st j d a b c => Sys2Proof.Machine.execMma h st j d a b c s
  | .mmas h st j d a b c => Sys2Proof.Machine.execMmas h st j d a b c s
  | .mmat h st j d a b c => Sys2Proof.Machine.execMmat h st j d a b c s
  | .msync h st => Sys2Proof.Machine.execMsync h st s
  | .mchg h st d => Sys2Proof.Machine.execMchg h st d s
  | .bcp h dst src bar a => Sys2Proof.Machine.execBcp h dst src bar a s
  | .bcpp h pull scr bar a p g => Sys2Proof.Machine.execBcpp h pull scr bar a p g s
  | .bmc h src bar a mask => Sys2Proof.Machine.execBmc h src bar a mask s
  | .bga h dst src bar a ix => Sys2Proof.Machine.execBga h dst src bar a ix s
  | .bsc h dst src bar a ix => Sys2Proof.Machine.execBsc h dst src bar a ix s
  | .bfill h dst bar a => Sys2Proof.Machine.execBfill h dst bar a s
  | .bpfx h bar a => Sys2Proof.Machine.execBpfx h bar a s
  | .vmark h pd a b => Sys2Proof.Machine.execVmark h pd a b s
  | .vstamp h gen d a b => Sys2Proof.Machine.execVstamp h gen d a b s
  | .vwait h all pd a b => Sys2Proof.Machine.execVwait h all pd a b s
  | .vrefr h all pd a b => Sys2Proof.Machine.execVrefr h all pd a b s
  | .iaddPaired p => Sys2Proof.Machine.execIaddPaired p s
  | .isubPaired p => Sys2Proof.Machine.execIsubPaired p s
  | .iminPaired p => Sys2Proof.Machine.execIminPaired p s
  | .imaxPaired p => Sys2Proof.Machine.execImaxPaired p s
  | .andPaired p => Sys2Proof.Machine.execAndPaired p s
  | .orPaired p => Sys2Proof.Machine.execOrPaired p s
  | .xorPaired p => Sys2Proof.Machine.execXorPaired p s
  | .andnPaired p => Sys2Proof.Machine.execAndnPaired p s
  | .ishlPaired p => Sys2Proof.Machine.execIshlPaired p s
  | .ishrPaired p => Sys2Proof.Machine.execIshrPaired p s
  | .ishraPaired p => Sys2Proof.Machine.execIshraPaired p s
  | .movPaired p => Sys2Proof.Machine.execMovPaired p s
  | .inegPaired p => Sys2Proof.Machine.execInegPaired p s
  | .iabsPaired p => Sys2Proof.Machine.execIabsPaired p s
  | .popcPaired p => Sys2Proof.Machine.execPopcPaired p s
  | .clzPaired p => Sys2Proof.Machine.execClzPaired p s
  | .brevPaired p => Sys2Proof.Machine.execBrevPaired p s
  | .movsPaired p => Sys2Proof.Machine.execMovsPaired p s
  | .imulPaired p => Sys2Proof.Machine.execImulPaired p s
  | .faddPaired p => Sys2Proof.Machine.execFaddPaired p s
  | .fsubPaired p => Sys2Proof.Machine.execFsubPaired p s
  | .fmulPaired p => Sys2Proof.Machine.execFmulPaired p s
  | .fminPaired p => Sys2Proof.Machine.execFminPaired p s
  | .fmaxPaired p => Sys2Proof.Machine.execFmaxPaired p s
  | .fnegPaired p => Sys2Proof.Machine.execFnegPaired p s
  | .fabsPaired p => Sys2Proof.Machine.execFabsPaired p s
  | .hadd2Paired p => Sys2Proof.Machine.execHadd2Paired p s
  | .hmul2Paired p => Sys2Proof.Machine.execHmul2Paired p s
  | .hmin2Paired p => Sys2Proof.Machine.execHmin2Paired p s
  | .hmax2Paired p => Sys2Proof.Machine.execHmax2Paired p s
  | .issueOpportunity quad => Sys2Proof.Machine.execIssueOpportunity quad s
  | .yieldWindowEnd w => Sys2Proof.Machine.execYieldWindowEnd w s
  | .napWake w => Sys2Proof.Machine.execNapWake w s
  | .stallExpiry w => Sys2Proof.Machine.execStallExpiry w s
  | .fixedLatencyLanding w => Sys2Proof.Machine.execFixedLatencyLanding w s
  | .resultLanding w id => Sys2Proof.Machine.execResultLanding w id s
  | .storeDrain w sc n => Sys2Proof.Machine.execStoreDrain w sc n s
  | .sfqFill w lane q => Sys2Proof.Machine.execSfqFill w lane q s
  | .waitTableWake addr => Sys2Proof.Machine.execWaitTableWake addr s
  | .waitTableReread w lane => Sys2Proof.Machine.execWaitTableReread w lane s
  | .blockEnd blk => Sys2Proof.Machine.execBlockEnd blk s
  | .matrixOpStart core => Sys2Proof.Machine.execMatrixOpStart core s
  | .matrixOpComplete op => Sys2Proof.Machine.execMatrixOpComplete op s
  | .transferChunk job chunk => Sys2Proof.Machine.execTransferChunk job chunk s
  | .remoteSignal vf dev peerVf addr val => Sys2Proof.Machine.execRemoteSignal vf dev peerVf addr val s
  | .peerRowResend job row => Sys2Proof.Machine.execPeerRowResend job row s
  | .taskStart vf n pl => Sys2Proof.Machine.execTaskStart vf n pl s
  | .continuationStart vf n pl => Sys2Proof.Machine.execContinuationStart vf n pl s
  | .viewRefresh vf handle => Sys2Proof.Machine.execViewRefresh vf handle s
  | .walkStart vf num => Sys2Proof.Machine.execWalkStart vf num s
  | .walkTile vf num => Sys2Proof.Machine.execWalkTile vf num s
  | .tileHandoff vf num => Sys2Proof.Machine.execTileHandoff vf num s
  | .leafAccept leaf => Sys2Proof.Machine.execLeafAccept leaf s
  | .blockCreate leaf n pl => Sys2Proof.Machine.execBlockCreate leaf n pl s
  | .gangPlace leaf n pls => Sys2Proof.Machine.execGangPlace leaf n pls s
  | .gangAgeExpiry leaf => Sys2Proof.Machine.execGangAgeExpiry leaf s
  | .completionPost vf q => Sys2Proof.Machine.execCompletionPost vf q s
  | .rampInterval die => Sys2Proof.Machine.execRampInterval die s
  | .commandHoldRelease vf q => Sys2Proof.Machine.execCommandHoldRelease vf q s
  | .quantumExpiry vf q => Sys2Proof.Machine.execQuantumExpiry vf q s
  | .engineGroupIdle vf g => Sys2Proof.Machine.execEngineGroupIdle vf g s
  | .preemptRequest blk => Sys2Proof.Machine.execPreemptRequest blk s
  | .preemptSave blk => Sys2Proof.Machine.execPreemptSave blk s
  | .blockResume blk pls => Sys2Proof.Machine.execBlockResume blk pls s
  | .softError => Sys2Proof.Machine.execSoftError s
  | .uncorrectableError t => Sys2Proof.Machine.execUncorrectableError t s
  | .storeQueueLoss w n => Sys2Proof.Machine.execStoreQueueLoss w n s
  | .dispatchCoreError => Sys2Proof.Machine.execDispatchCoreError s
  | .queueTableError vf q => Sys2Proof.Machine.execQueueTableError vf q s
  | .qwrWrite vf q val => Sys2Proof.Machine.execQwrWrite vf q val s
  | .launch vf q => Sys2Proof.Machine.execLaunch vf q s
  | .bundle vf q => Sys2Proof.Machine.execBundle vf q s
  | .wrdesc vf q => Sys2Proof.Machine.execWrdesc vf q s
  | .wrrec vf q => Sys2Proof.Machine.execWrrec vf q s
  | .migrate vf q => Sys2Proof.Machine.execMigrate vf q s
  | .migrationComplete vf handle tile => Sys2Proof.Machine.execMigrationComplete vf handle tile s
  | .viewreg vf q handle addrs => Sys2Proof.Machine.execViewreg vf q handle addrs s
  | .viewdereg vf q => Sys2Proof.Machine.execViewdereg vf q s
  | .inval vf q => Sys2Proof.Machine.execInval vf q s
  | .suspend vf q => Sys2Proof.Machine.execSuspend vf q s
  | .resume vf q => Sys2Proof.Machine.execResume vf q s
  | .abort vf q => Sys2Proof.Machine.execAbort vf q s
  | .status vf q => Sys2Proof.Machine.execStatus vf q s
  | .fresp vf q => Sys2Proof.Machine.execFresp vf q s
  | .hostBar2Write vf off bytes => Sys2Proof.Machine.execHostBar2Write vf off bytes s
  | .hostBar2Read bar off len => Sys2Proof.Machine.execHostBar2Read bar off len s
  | .hostBar4Access vf off write len => Sys2Proof.Machine.execHostBar4Access vf off write len s
  | .unsupportedRequest posted => Sys2Proof.Machine.execUnsupportedRequest posted s
  | .qcrdWrite vf q val => Sys2Proof.Machine.execQcrdWrite vf q val s
  | .firmwareLoad len => Sys2Proof.Machine.execFirmwareLoad len s
  | .attest => Sys2Proof.Machine.execAttest s
  | .timesetWrite ns => Sys2Proof.Machine.execTimesetWrite ns s
  | .ppsPulse => Sys2Proof.Machine.execPpsPulse s
  | .vfcluWrite vf mask => Sys2Proof.Machine.execVfcluWrite vf mask s
  | .vfctlEnWrite vf en => Sys2Proof.Machine.execVfctlEnWrite vf en s
  | .functionLevelReset vf => Sys2Proof.Machine.execFunctionLevelReset vf s
  | .zeroingComplete vf => Sys2Proof.Machine.execZeroingComplete vf s
  | .registerWrite vf off val => Sys2Proof.Machine.execRegisterWrite vf off val s
  | .deviceReset => Sys2Proof.Machine.execDeviceReset s
  | .selfTestComplete failure => Sys2Proof.Machine.execSelfTestComplete failure s
  | .fullServiceEntry => Sys2Proof.Machine.execFullServiceEntry s
  | .powerWindow watts => Sys2Proof.Machine.execPowerWindow watts s
  | .fabricRequest vf dev peerVf r => Sys2Proof.Machine.execFabricRequest vf dev peerVf r s
  | .fabricPortFailure port => Sys2Proof.Machine.execFabricPortFailure port s
  | .flushingReadComplete vf => Sys2Proof.Machine.execFlushingReadComplete vf s
  | .fabricResponse job row a => Sys2Proof.Machine.execFabricResponse job row a s
  | .fabricPortTrained port => Sys2Proof.Machine.execFabricPortTrained port s

end Sys2Proof.Machine
end

