-- ==== Sys2Proof/Machine/Step.lean ====
section
/-!
DEFINITION. One step of the machine, and the state in which its next step runs a given word.
-/
namespace Sys2Proof.Machine

/-- One step (assumption 3): the runs that an issue opportunity has selected issue first; then the agenda says what moves. An empty
agenda lets a cycle pass. -/
def step (s : State) : Host.Outcome State Fault Refusal :=
  match s.issue with
  | some l =>
    match s.latched l with
    | .word i =>
      match exec i s with
      | .next t => .next (t.afterWord l)
      | .fault f => .fault f
      | .refused r => .refused r
    | .other t => .next (t.afterWord l)
  | none =>
    match s.agenda with
    | [] => .next (s.tick [])
    | .tick :: rest => .next (s.tick rest)
    | .act i :: rest => if i.isWord then .fault .agendaNotStep else exec i { s with agenda := rest }

/-- The entry of the kernel that `withFetchWord` places: one warp of 16 lanes, all registers and barriers, code read as a scratchpad
address (R355), so that no translation table is needed. -/
def fetchEntry : CodeEntry :=
  { code := 0x1000, ppt := 0, kind := 1, check := false, main := false, mat := false, f64p := false, width := 16, regs := 1024,
    threads := 16, warps := 1, team := 1, cluster := 2, spawnres := 0, shared := 65536, scratch := 0, overTh := 0,
    operands := List.replicate 8 0, maps := List.replicate 8 4, rods := List.replicate 8 (0, 0), stack := 65536, bars := 0xFFFF, early := true }
/-- The block that `withFetchWord` places. -/
def fetchBlock (id fresh : Nat) : Block :=
  { id := id, vf := 0, launch := 1, task := false, core := 0, slot := 0, q0 := 0, decl := fetchEntry, depth := 0, cls := .interactive,
    deadline := 0, tile := 0, coords := [0], tcnt := 1, version := 0, spill := 0, tbase := 0, obase := List.replicate 8 0, sbase := 0,
    region := 0, regionLen := 0, cstat := 0, warps := [newWarp fetchEntry 0 [] [] (fresh * 2 ^ 32)], bars := newBars 0 0, gang := none,
    rods := List.replicate 32 [], shared := [], sharedTag := (fresh + 1) * 2 ^ 32, sharedPois := [], teams := newTeams fetchEntry, reserve := 0, futures := [], pins := [],
    preempt := .none, parked := false }
/-- A state whose very next step issues the word (assumption 4): a resident block of interface 0 whose one run stands at the word, in
full service, selected by an issue opportunity. -/
def State.withFetchWord (s : State) (_nbits w : Nat) : State :=
  let v := s.vf 0
  ({ s with
    level := 2
    nextId := s.nextId + 1
    fresh := s.fresh + 2
    blocks := fetchBlock s.nextId s.fresh :: s.blocks
    sp := writeBytes s.sp 0x1000 (leBytes 8 w)
    spPois := clearPois s.spPois 0x1000 8
    issue := some { ref := ⟨s.nextId, 0⟩, d0 := Mask.below 16, d1 := none } } : State).setVf 0 { v with vfclu := v.vfclu ||| 0xFFFF, vfctl := v.vfctl ||| 1 }

end Sys2Proof.Machine
end

