-- ==== Sys2Proof/Safety.lean ====
section
/-!
DEFINITION. The terms that claims use: when a word has its effect, what follows the effect, memories in canonical form, what a
step leaves alone, and the exact arithmetic that results are held to.
-/
namespace Sys2Proof

/-- Words of group 0 and 1 that queue fixed-latency results lane by lane, and of group 2 and 3 that do: their only effect is the
results they queue. -/
def Instr.laneResult : Instr → Bool
  | .iadd .. | .isub .. | .iadd3 .. | .imul .. | .imulh .. | .imad .. | .imadw .. | .imin .. | .imax .. | .iabs .. | .ineg .. | .ishl ..
  | .ishr .. | .ishra .. | .irot .. | .idot4 .. | .iaddi .. | .imuli .. | .lop3 .. | .bfx .. | .bfi .. | .brev .. | .popc .. | .clz ..
  | .ctz .. | .prmt .. | .isetp .. | .isetpi .. | .isel .. | .lea .. | .mov .. | .movi .. | .movh .. | .movs .. | .vrd ..
  | .fadd .. | .fsub .. | .fmul .. | .ffma .. | .fmin .. | .fmax .. | .fsetp .. | .frnd .. | .fclass .. | .fscale ..
  | .dadd .. | .dsub .. | .dmul .. | .dfma .. | .dmin .. | .dmax .. | .dsetp .. | .drnd ..
  | .hadd2 .. | .hmul2 .. | .hfma2 .. | .hmin2 .. | .hmax2 .. | .hsetp2 .. | .cvt .. | .cvti .. | .qscl .. | .qpk4 .. | .qxp4 .. | .qlen ..
  | .shfl .. | .qex .. | .vote .. | .ballot .. | .matchv .. | .redux .. | .scan .. | .topk .. | .elect .. | .actm ..
  | .jtest .. | .jmask .. => true
  | _ => false
/-- Words that queue one result of the warp. -/
def Instr.scalarResult : Instr → Bool
  | .srd .. | .vtos .. | .sadd .. | .ssub .. | .smul .. | .slop3 .. | .sshl .. | .sshr .. | .ssetp .. | .smovi .. | .smovh .. => true
  | _ => false
/-- The other full-form words that have an effect only where a lane is active, but for branches and calls: queues, waits, exits, traps, rejoin sets,
barriers, memory, fences, futures, starts, matrix words, transfers and views (R75). -/
def Instr.needsLane : Instr → Bool
  | .sfq .. | .qpop .. | .vtos .. | .srd .. | .regrp .. | .exit .. | .yield .. | .nap .. | .trap .. | .bkpt .. | .rtt .. | .nop ..
  | .jenter .. | .jquit .. | .jquitm .. | .jwait .. | .bari .. | .barx .. | .bara .. | .barw .. | .bar .. | .barq ..
  | .lds .. | .sts .. | .ldx .. | .stx .. | .ldk .. | .stk .. | .ldw .. | .atoms .. | .atomx .. | .redx .. | .fence .. | .fencer .. | .roddef ..
  | .ldf .. | .fpoll .. | .fres .. | .fflt .. | .freg .. | .spawn .. | .lnch .. | .mma .. | .mmas .. | .mmat .. | .msync .. | .mchg ..
  | .bcp .. | .bfill .. | .bpfx .. | .bmc .. | .bga .. | .bsc .. | .bcpp .. | .vmark .. | .vstamp .. | .vwait .. | .vrefr .. => true
  | _ => false

end Sys2Proof

namespace Sys2Proof.Machine

/-- A word issues from the latched run and has its effect: nothing that R74 checks stands against it, nothing that it waits for (R17,
R68) is outstanding. `c` is what its effect has at hand, `t` the state in which the run has moved on. -/
structure Issues (i : Instr) (s : State) (c : Ctx) (t : State) : Prop where
  /-- The run is latched and not blocked. -/
  latched : ∃ l w0, s.issue = some l ∧ l.ref = c.ref ∧ s.warp? c.ref = some w0
    ∧ (w0.runs.find? fun r => r.lanes == l.d0 && r.wait.isNone) = some c.run ∧ c.w = w0.landDue s.clock
  block : s.block? c.ref.blk = some c.blk
  act : c.act = activeLanes i c.w c.run.lanes
  all : c.all = c.act ||| c.w.helpersOf c.act
  land : c.land = s.clock + c.blk.cycles + i.latency.getD 0
  nextAt : c.nextAt = s.clock + c.blk.cycles + stallOf i
  /-- The word is one that the kernel may run: ILL and PAIR (steps 1 and 2 of R74). -/
  legal : wordTrap s c.blk i = none
  /-- Every scoreboarded operand has landed (R68, R99). -/
  landed : scoreWait c.w i.isMatrix (i.laneUses c.w (c.blk.width == 64) c.run.lanes) = false
  /-- STALL, where scoreboard checking is on (R69). -/
  stall : s.checking c.blk c.w c.run = true →
    stallCheck c.w (checkedUses i (i.laneUses c.w (c.blk.width == 64) c.run.lanes)) (i.latency.map fun k => s.clock + c.blk.cycles + k) = none
  /-- POIS (R324). -/
  clean : poisCheck c.w (readBy i c.w c.blk.width c.act (i.laneUses c.w (c.blk.width == 64) c.run.lanes)) = none
  /-- SPDEP (R308). -/
  level : c.w.trap.isSome = true → instrSpdep i = true → c.act = 0
  /-- The instruction's own waits. -/
  ready : ownWait (s.setWarp c.ref c.w) c.blk c.w c.ref i c.act c.all (c.run.samples == some []) = false
  moved : t = (s.setWarp c.ref (c.w.setRun c.run.lanes fun x => x.advance s.clock c.blk.cycles (stallOf i) (yieldOf i))).beforeAccess c.ref i c.act

/-- What ends the step of a word: signing, regrouping and the conditions of R359. -/
def Ctx.after (c : Ctx) (s : State) : State := s.endStep c.ref c.run.lanes
/-- A word whose effect is to queue fixed-latency results. -/
def Ctx.gives (c : Ctx) (t : State) (ws : List (RegId × Word)) : State := c.after (c.fixed t ws)
/-- A vector register, and a vector pair, as the word reads them in a lane. -/
def Ctx.v (c : Ctx) (l : Nat) (r : BitVec 10) : Word := c.w.rv l r.toNat
def Ctx.v64 (c : Ctx) (l : Nat) (r : BitVec 10) : DWord := c.w.rv64 l r.toNat
/-- A scalar register. -/
def Ctx.s (c : Ctx) (r : BitVec 7) : Word := c.w.rs r.toNat
/-- A result in one vector register of every active lane. -/
def Ctx.each (c : Ctx) (d : BitVec 10) (f : Nat → Word) : List (RegId × Word) := c.lanes.map fun l => (.v l d.toNat, f l)
/-- A result in a pair of every active lane. -/
def Ctx.each64 (c : Ctx) (d : BitVec 10) (f : Nat → DWord) : List (RegId × Word) :=
  c.lanes.flatMap fun l => [(.v l d.toNat, loWord (f l)), (.v l (d.toNat + 1), hiWord (f l))]
/-- A predicate of every active lane. -/
def Ctx.eachP (c : Ctx) (pd : Nat) (f : Nat → Bool) : List (RegId × Word) := c.lanes.map fun l => (.p l pd, if f l then 1 else 0)

/-- No participant raises an exception that the interface's HX_FPXCTL enables (R85, R100), where `f` gives the exceptions of a lane. -/
def Ctx.NoFpx (c : Ctx) (t : State) (f : Nat → Flags) : Prop := ∀ l ∈ c.live, f l &&& (t.vf c.blk.vf).fpxctl.setWidth 5 = 0

/-- The memories of a state have their canonical form. -/
def State.MemOk (s : State) : Prop := s.mm.wf = true ∧ s.sp.wf = true ∧ s.host.wf = true ∧ s.stagingArea.wf = true

/-- A warp at which nothing is completed by the end of a step: it owes no arrival at a barrier, and some live lane has not signed and some run is not
blocked, or the warp has ended. -/
def Warp.Quiet (w : Warp) : Prop :=
  w.endedNow = false ∧ w.heldTeam = none ∧ (∀ k < 20, w.arrivalDue k = false)
    ∧ ((w.live = 0 ∧ w.runs = []) ∨ (w.live.sub w.signed = false ∧ ∃ r ∈ w.runs, r.wait = none))
/-- A block at whose warps the end of a step completes nothing. -/
def Block.Quiet (b : Block) : Prop := ∀ w ∈ b.warps, w.Quiet

/-- The registers that a word names as destinations (Table 3-21 and the entries), over the lanes of its warp. -/
def writtenBy (i : Instr) (c : Ctx) : List RegId :=
  (i.uses (c.blk.width == 64)).flatMap fun u => if u.wr then (List.range u.cnt).flatMap fun k => match u.cls with
    | .v => c.lanes.map fun l => RegId.v l (u.num + k)
    | .s => [RegId.s (u.num + k)]
    | .p => (if u.all then (c.w.live ||| c.w.helpers).lanes 64 else c.lanes).map fun l => RegId.p l (u.num + k)
    else []

/-- Every byte of the machine's memories, and of the shared memory and stacks of its blocks, reads as before; so do the store queues and
the writes in flight. -/
structure SameMemory (s t : State) : Prop where
  mm : ∀ a, Sparse.get 0 t.mm a = Sparse.get 0 s.mm a
  sp : ∀ a, Sparse.get 0 t.sp a = Sparse.get 0 s.sp a
  host : ∀ a, Sparse.get 0 t.host a = Sparse.get 0 s.host a
  staging : ∀ a, Sparse.get 0 t.stagingArea a = Sparse.get 0 s.stagingArea a
  flight : t.flight = s.flight
  shared : ∀ id b, s.block? id = some b → ∃ b', t.block? id = some b' ∧ ∀ a, b'.sharedByte a = b.sharedByte a
  warps : ∀ r w, s.warp? r = some w → ∃ w', t.warp? r = some w' ∧ w'.storeQ = w.storeQ ∧ ∀ l a, w'.stackByte l a = w.stackByte l a

/-- Every register of a warp reads as before: vector, scalar and predicate registers, queues, sets, call depths, %sp, the trap record
and trap level. -/
structure SameRegs (w w' : Warp) : Prop where
  v : ∀ l n, w'.rv l n = w.rv l n
  s : ∀ n, w'.rs n = w.rs n
  p : ∀ l n, w'.rp l n = w.rp l n
  queues : w'.queues = w.queues
  sets : w'.sets = w.sets
  depth : w'.depth = w.depth
  sp : w'.sp = w.sp
  trec : w'.trec = w.trec
  trap : w'.trap = w.trap
  live : w'.live = w.live
  late : w'.late = w.late
  barriers : w'.reach = w.reach ∧ w'.arrived = w.arrived

/-! ### Exact values -/

/-- The exact value of a finite number (R76); 0 of the others. -/
def Num.val : Num → ℚ
  | .fin neg m e => (if neg then -(m : ℚ) else m) * 2 ^ e
  | _ => 0
def Num.isFin : Num → Bool
  | .fin _ _ _ => true
  | _ => false
/-- The numeric order of numbers that are not NaN: −0 and +0 are equal. -/
def Num.Le : Num → Num → Prop
  | .inf n, b => n = true ∨ b = .inf false
  | .fin _ _ _, .inf n => n = false
  | .fin n m e, .fin k p g => (Num.fin n m e).val ≤ (Num.fin k p g).val
  | _, _ => False
/-- The numbers with a significand of `bits` bits, and an exponent that has a least value or none, and no largest. -/
def Grid (bits : Nat) (least : Option ℤ) (q : ℚ) : Prop :=
  ∃ (m j : ℤ), |m| < 2 ^ bits ∧ (∀ k ∈ least, k ≤ j) ∧ q = m * 2 ^ j
/-- `q` is `v` rounded in a mode to the numbers of a grid, among which `even` are the even ones (R82). -/
def RoundsTo (grid even : ℚ → Prop) (rm : Rnd) (v q : ℚ) : Prop :=
  grid q ∧ match rm with
    | .rn => (∀ g, grid g → |q - v| ≤ |g - v|) ∧ ∀ g, grid g → g ≠ q → |g - v| = |q - v| → even q
    | .rz => 0 ≤ q * v ∧ |q| ≤ |v| ∧ ∀ g, grid g → |g| ≤ |v| → |g| ≤ |q|
    | .ru => v ≤ q ∧ ∀ g, grid g → v ≤ g → q ≤ g
    | .rd => q ≤ v ∧ ∀ g, grid g → g ≤ v → g ≤ q
/-- `t` is `v` rounded to an integer. -/
def RoundsToInt (rm : Rnd) (v : ℚ) (t : ℤ) : Prop := RoundsTo (fun q => ∃ n : ℤ, q = n) (fun q => ∃ n : ℤ, q = 2 * n) rm v t
/-- `q` is `v` rounded to the precision of a format, its exponent unbounded above: a number whose last bit is 0 is one with a significand
shorter by a bit. -/
def Fmt.RoundsTo (f : Fmt) (rm : Rnd) (v q : ℚ) : Prop :=
  Machine.RoundsTo (Grid (f.frac + 1) (some (1 - (f.bias : ℤ) - f.frac))) (Grid f.frac (some (2 - (f.bias : ℤ) - f.frac))) rm v q
/-- The smallest normal number, and the largest finite one (Table 5-1). -/
def Fmt.tiny (f : Fmt) : ℚ := 2 ^ (1 - (f.bias : ℤ))
def Fmt.max (f : Fmt) : ℚ := (f.decode f.maxCode).val
/-- What an exact finite result `v` delivers, its sign being `neg` where it is zero: the code and the exceptions (R82, R83, R85, R86). -/
def Fmt.Delivers (f : Fmt) (rm : Rnd) (ftz sat neg : Bool) (v : ℚ) (x : Nat × Flags) : Prop :=
  let minus := if v = 0 then neg else decide (v < 0)
  let sb := if minus then f.signBit else 0
  -- rounded to the format, and rounded with an exponent that has no least value
  ∃ q u, f.RoundsTo rm v q ∧ Machine.RoundsTo (Grid (f.frac + 1) none) (Grid f.frac none) rm v u ∧
    if f.max < |q| then
      x = if sat then (sb + f.maxCode, fNX) else
        ((if rm = .rz ∨ (rm = .ru ∧ v < 0) ∨ (rm = .rd ∧ 0 < v) then sb + f.maxCode else if f.hasInf then sb + f.infCode else f.nan), fOF ||| fNX)
    else if ftz = true ∧ q ≠ 0 ∧ |q| < f.tiny then x = (sb, fUF ||| fNX)
    else (∃ k, k ≤ f.maxCode ∧ x.1 = sb + k ∧ (f.decode k).val = |q|)
      ∧ x.2 = (if q = v then 0 else fNX) ||| (if q ≠ v ∧ |u| < f.tiny then fUF else 0)

/-! ### Ranking -/

/-- A value of TOPK ranks above another, or equal to it (R130). -/
def RanksFrom (x y : Word) : Prop :=
  let a := Fmt.f32.decode x.toNat
  let b := Fmt.f32.decode y.toNat
  b.isNan = true ∨ (a.isNan = false ∧ b.Le a)

end Sys2Proof.Machine
end

