-- ==== Sys2Proof/Certificates/Slice0/Obligations.lean ====
section
/-!
DEFINITION. The statements for the provers.
-/
open Sys2Proof Sys2Proof.Machine

/-- O1. For every instruction that is a word and is well-formed, with every operand at every value the encoding admits, the decoder reads exactly that instruction from the word the encoder writes for it, in full and in paired form. (spec/03_assembly_encoding.md, Instruction words (R51 to R66); spec/03_assembly_encoding.md, Table 3-21; spec/03_assembly_encoding.md, Table 3-16) -/
def Obligations.EncodeThenDecode : Prop :=
  ∀ i : Instr, i.isWord = true → i.wf = true → decode (encode i) = .ok i

/-- O2. For every 64-bit word that the decoder accepts, the instruction it reads is an instruction word and its encoding is that word: each word has one meaning, and no bit of an accepted word is dropped. (spec/03_assembly_encoding.md, Instruction words (R51 to R66)) -/
def Obligations.DecodedWordsEncodeBack : Prop :=
  ∀ (w : BitVec 64) (i : Instr), decode w = .ok i → i.isWord = true ∧ encode i = w

/-- O3. Words of every group whose bits the manual writes out (integer, floating-point, cross-lane, control, memory, matrix and transfer, views) and one paired word decode to the instructions they stand for. (spec/03_assembly_encoding.md, Instruction words (R51 to R66); spec/07_isa_compute.md, FP32 and FP64 (example word); spec/07_isa_compute.md, Cross-lane instructions (R126); spec/13_isa_matrix_transfer.md (example words); spec/15_views.md (example words); spec/03_assembly_encoding.md, Table 3-21) -/
def Obligations.SpecWordsDecode : Prop :=
  decode 0x0390C06008030101 = .ok (.ffma ⟨0, false, false, 7⟩ .rz false 6 2 (.v 3) 4)
  ∧ decode 0x3383C0400402036A = .ok (.lop3 ⟨3, false, false, 7⟩ 4 1 2 3 0x6A)
  ∧ decode 0x03A400200C050063 = .ok (.shfl ⟨0, false, false, 7⟩ .xor false 2 3 (.s 5) 1)
  ∧ decode 0x03C080302200040A = .ok (.ldx ⟨0, false, false, 7⟩ .b4 true .pkg 3 ⟨false, 8, 16⟩)
  ∧ decode 0x00B0000003FFFFFF = .ok (.bra ⟨0, false, false, 1⟩ (-1))
  ∧ decode 0x03B8000000140060 = .ok (.bari ⟨0, false, false, 7⟩ ⟨false, 0⟩ 1 (.s 20))
  ∧ decode 0x03D0000080301000 = .ok (.mma ⟨0, false, false, 7⟩ 0 0 0 32 48 64)
  ∧ decode 0x03D4000040000002 = .ok (.bcp ⟨0, false, false, 7⟩ .sh .mm 0 16)
  ∧ decode 0x03D8404020090021 = .ok (.vstamp ⟨0, false, false, 7⟩ true 4 8 9)
  ∧ decode 0x8002005C120A0570 = .ok (.iaddPaired ⟨0, ⟨8, 1, false, 7, .rn, false⟩, .fmul, ⟨10, 5, false, 7, .rn, false⟩⟩)

/-- O4. A full-form word whose OP is not assigned in Table 3-21 is refused with WHY 1, LOC 0 and its OP as the detail; a paired word whose first slot names an unassigned paired opcode (0x1E to 0x3F) is refused with WHY 1 and WHERE 1, and one whose second slot alone does so with WHERE 2. For IADD, ISUB, IMUL, ISHL, ISHR, ISHRA and IROT, a word that sets any bit of C or of M[4:0], or that names a scalar register above s127, is refused with WHY 2, whatever its other fields hold. (spec/03_assembly_encoding.md, Instruction words (R54, R55); spec/03_assembly_encoding.md, Table 3-21; spec/03_assembly_encoding.md, Table 3-22 (R73); spec/07_isa_compute.md, Table 7-1) -/
def Obligations.IllFormedWordsAreRejected : Prop :=
  (∀ w : BitVec 64,
    (w.getLsbD 63 = false → opAssigned (w.extractLsb' 46 9).toNat = false →
      decode w = .error ⟨1, 0, (w.extractLsb' 46 9).toNat⟩)
    ∧ (w.getLsbD 63 = true → 0x1E ≤ (w.extractLsb' 54 6).toNat → decode w = .error ⟨1, 1, (w.extractLsb' 54 6).toNat⟩)
    ∧ (w.getLsbD 63 = true → (w.extractLsb' 54 6).toNat < 0x1E → 0x1E ≤ (w.extractLsb' 24 6).toNat →
        decode w = .error ⟨1, 2, (w.extractLsb' 24 6).toNat⟩))
  ∧ ∀ (op : BitVec 9) (h : Hdr) (d a b c : BitVec 10) (m : BitVec 6),
    op ∈ [0x000, 0x001, 0x003, 0x00B, 0x00C, 0x00D, 0x00E] →
    (c ≠ 0 ∨ m &&& 0x1F ≠ 0 ∨ (m.getLsbD 5 = true ∧ 128 ≤ b.toNat)) →
    decode (word op h d a b c m) = .error ⟨2, 0, 0⟩

/-- O5. After reset the service level is 0, HX_RAMP is 0x0000_100A and HX_PWRLIM is 8,000; an interface has HX_SPILLTH 8, HX_GANGAGE 20, HX_EGRP0 all ones and HX_EGRP1 to 7 zero, is not enabled; a queue has QCFG and HX_QBIND 0; nothing is resident. That the clock is 1,000 MHz and that an interface holds no cluster is the model's choice (assumption 2), and so is that memory lists nothing, each byte reading 0 (assumption 1). (spec/21_system.md, Tables 21-1, 21-4, 21-8, 21-9 and 21-10; spec/17_launch.md, Tables 17-6 and 17-9; spec/21_system.md, Power (R357)) -/
def Obligations.ResetValues : Prop :=
  State.reset.level = 0 ∧ State.reset.mhz = 1000 ∧ State.reset.ramp = 0x0000100A ∧ State.reset.pwrlim = 8000
  ∧ (∀ n, (State.reset.vf n).spillth = 8 ∧ (State.reset.vf n).gangage = 20
      ∧ (State.reset.vf n).egrp = BitVec.allOnes 128 :: List.replicate 7 0
      ∧ (State.reset.vf n).vfclu = 0 ∧ (State.reset.vf n).vfctl = 0
      ∧ ∀ q, ((State.reset.vf n).queue q).qcfg = 0 ∧ ((State.reset.vf n).queue q).bind = 0)
  ∧ State.reset.blocks = [] ∧ State.reset.launches = [] ∧ State.reset.mm = [] ∧ State.reset.sp = []

/-- O6. If a run is latched and stands at a PC that translates to a place whose eight bytes are not poisoned and decode to the instruction i, then a step is exec of i, followed by what ends the word's turn (afterWord: the second decoder's run comes next, else the latch is empty and ready runs merge). The move of the PC past the word is part of exec. That an issue opportunity latches its runs and then issues them one by one is the model's (assumption 3), and so is that the word is read as performed memory gives it (assumption 58). (spec/11_isa_control.md, Branches (R190); spec/01_machine.md, Runs (R20); spec/03_assembly_encoding.md, Instruction words (R51)) -/
def Obligations.StepRunsTheDecodedWord : Prop :=
  ∀ (s : State) (l : Latch) (b : Block) (w : Warp) (r : Run) (p : Loc) (i : Instr),
    s.issue = some l → s.block? l.ref.blk = some b → s.warp? l.ref = some w →
    (w.runs.find? fun r => r.lanes == l.d0 && r.wait.isNone) = some r →
    s.translate b.vf (runEntry b (w.landDue s.clock) r).early r.pc.toNat false true = some p →
    s.locPois p = false →
    decode (BitVec.ofNat 64 (leValue (s.locBytes p 8))) = .ok i →
    (∀ t, exec i s = .next t → step s = .next (t.afterWord l))
    ∧ (∀ f, exec i s = .fault f → step s = .fault f) ∧ (∀ f, exec i s = .refused f → step s = .refused f)

/-- O7. exec answers a next state for every instruction and every state; a step answers a next state unless no run is latched and the agenda's first move names an instruction word, where it stops with agendaNotStep. With no run latched, a step takes the first move of the agenda: a step that is no instruction word has its effect, a tick lets a cycle pass; with an empty agenda a cycle passes. This order is the model's (assumption 3). (spec/95_what_each_step_holds.md; spec/01_machine.md, Runs (R20); spec/03_assembly_encoding.md, Checks (R74)) -/
def Obligations.EveryStepCompletes : Prop :=
  (∀ (i : Instr) (s : State), ∃ t, exec i s = .next t)
  ∧ (∀ s : State, (∃ t, step s = .next t)
      ∨ (step s = .fault .agendaNotStep ∧ s.issue = none ∧ ∃ i rest, s.agenda = .act i :: rest ∧ i.isWord = true))
  ∧ ∀ s : State, s.issue = none →
    (s.agenda = [] → step s = .next (s.tick []))
    ∧ (∀ rest, s.agenda = .tick :: rest → step s = .next (s.tick rest))
    ∧ (∀ i rest, s.agenda = .act i :: rest → i.isWord = false → step s = exec i { s with agenda := rest })
    ∧ (∀ i rest, s.agenda = .act i :: rest → i.isWord = true → step s = .fault .agendaNotStep)

/-- O8. If main memory, the scratchpad, host memory and the staging area have their canonical form (addresses strictly rising, no entry equal to what an unlisted address reads as) and a step answers a next state, they have it there too, so that equal memories stay equal data. (spec/09_memory.md, Memory spaces (R29, R170); spec/95_what_each_step_holds.md) -/
def Obligations.StepKeepsMemoriesCanonical : Prop :=
  ∀ s t : State, s.MemOk → step s = .next t → t.MemOk

/-- O9. After reset, main memory, the scratchpad, host memory and the staging area have their canonical form. (spec/95_what_each_step_holds.md) -/
def Obligations.ResetMemoriesCanonical : Prop := State.reset.MemOk

/-- O10. After a write of a vector, scalar or predicate register, that register of that lane reads the value written and every other register of every lane reads as before. Writes to p7 are discarded and p7 reads 1. (spec/01_machine.md, Table 1-3; spec/03_assembly_encoding.md, Results and scoreboard (R67)) -/
def Obligations.RegisterReadAfterWrite : Prop :=
  ∀ (w : Warp) (l n k m : Nat) (x : Word), n < 1024 → m < 1024 →
    ((w.put (.v l n) x).rv k m = if k = l ∧ m = n then x else w.rv k m)
    ∧ (w.put (.v l n) x).s = w.s ∧ (w.put (.v l n) x).p = w.p
    ∧ ((w.put (.s n) x).rs m = if m = n then x else w.rs m)
    ∧ (w.put (.s n) x).v = w.v ∧ (w.put (.s n) x).p = w.p
    ∧ (n < 7 → m < 8 → (w.put (.p l n) x).rp k m = if k = l ∧ m = n then x != 0 else w.rp k m)
    ∧ w.put (.p l 7) x = w ∧ w.rp l 7 = true
    ∧ (w.put (.p l n) x).v = w.v ∧ (w.put (.p l n) x).s = w.s

/-- O11. A word queues a result that lands at a cycle. With no other result outstanding, a read before that cycle gives the old value of the register, a read at or after it the result; every other vector and scalar register reads as before. (spec/03_assembly_encoding.md, Results and scoreboard (R67, R68)) -/
def Obligations.FixedLatencyResultsLand : Prop :=
  ∀ (w : Warp) (l n due now : Nat) (x : Word), w.pend = [] → n < 1024 →
    let u : Warp := { w with pend := addPend w.pend ⟨.v l n, x, due⟩ }
    let z : Warp := { w with pend := addPend w.pend ⟨.s n, x, due⟩ }
    ((u.landDue now).rv l n = if due ≤ now then x else w.rv l n)
    ∧ (∀ k m, m < 1024 → ¬(k = l ∧ m = n) → (u.landDue now).rv k m = w.rv k m)
    ∧ (∀ m, (u.landDue now).rs m = w.rs m)
    ∧ ((z.landDue now).rs n = if due ≤ now then x else w.rs n)
    ∧ (∀ m, m ≠ n → (z.landDue now).rs m = w.rs m)
    ∧ (now < due → (u.landDue now).pend = u.pend) ∧ (due ≤ now → (u.landDue now).pend = [])

/-- O12. After a run of bytes is written to a memory, each of its addresses reads the byte written there and every other address reads as before; for shared memory and for a lane's stack likewise, and bytes of other lanes' stacks are unchanged. (spec/09_memory.md, Table 9-1; spec/09_memory.md, Loads and stores (R139, R140)) -/
def Obligations.MemoryReadAfterWrite : Prop :=
  (∀ (m : Memory) (a : Nat) (bs : List Byte) (k : Nat),
    Sparse.get 0 (writeBytes m a bs) k = if h : a ≤ k ∧ k - a < bs.length then bs[k - a]'h.2 else Sparse.get 0 m k)
  ∧ (∀ (b : Block) (a : Nat) (bs : List Byte) (k : Nat),
    (b.sharedWrite a bs).sharedByte k = if h : a ≤ k ∧ k - a < bs.length then bs[k - a]'h.2 else b.sharedByte k)
  ∧ (∀ (w : Warp) (l a : Nat) (bs : List Byte) (j k : Nat), a + bs.length ≤ 2 ^ 20 → k < 2 ^ 20 →
    (w.stackWrite l a bs).stackByte j k = if h : j = l ∧ a ≤ k ∧ k - a < bs.length then bs[k - a]'h.2.2 else w.stackByte j k)

/-- O13. When it issues, each integer arithmetic instruction of Table 7-1 completes and queues, for every active lane, the table's result: sums, differences and products modulo 2^32 (2^64 for IMADW), the high product word of IMULH, minimum and maximum and absolute value by the sign group, shifts and rotates by b[4:0], IDOT4 with and without saturation. (R101) -/
def Obligations.IntegerArithmetic : Prop :=
  ∀ (h : Hdr) (sg sb : Sign) (sat : Bool) (d a : BitVec 10) (b : BSrc) (e : BitVec 10) (imm : BitVec 26) (s : State) (c : Ctx) (t : State),
    (Issues (.iadd h d a b) s c t → exec (.iadd h d a b) s = .next (c.gives t (c.each d fun l => c.v l a + bval c.w b l)))
    ∧ (Issues (.isub h d a b) s c t → exec (.isub h d a b) s = .next (c.gives t (c.each d fun l => c.v l a - bval c.w b l)))
    ∧ (Issues (.iadd3 h d a b e) s c t → exec (.iadd3 h d a b e) s = .next (c.gives t (c.each d fun l => c.v l a + bval c.w b l + c.v l e)))
    ∧ (Issues (.imul h d a b) s c t → exec (.imul h d a b) s = .next (c.gives t (c.each d fun l => c.v l a * bval c.w b l)))
    ∧ (Issues (.imulh h sg d a b) s c t → exec (.imulh h sg d a b) s = .next (c.gives t (c.each d fun l => BitVec.ofInt 32 (extInt sg (c.v l a) * extInt sg (bval c.w b l) / 2 ^ 32))))
    ∧ (Issues (.imad h d a b e) s c t → exec (.imad h d a b e) s = .next (c.gives t (c.each d fun l => c.v l a * bval c.w b l + c.v l e)))
    ∧ (Issues (.imadw h sg d a b e) s c t → exec (.imadw h sg d a b e) s = .next (c.gives t (c.each64 d fun l => BitVec.ofInt 64 (extInt sg (c.v l a) * extInt sg (bval c.w b l)) + c.v64 l e)))
    ∧ (Issues (.imin h sg d a b) s c t → exec (.imin h sg d a b) s = .next (c.gives t (c.each d fun l => if extInt sg (c.v l a) ≤ extInt sg (bval c.w b l) then c.v l a else bval c.w b l)))
    ∧ (Issues (.imax h sg d a b) s c t → exec (.imax h sg d a b) s = .next (c.gives t (c.each d fun l => if extInt sg (c.v l a) ≥ extInt sg (bval c.w b l) then c.v l a else bval c.w b l)))
    ∧ (Issues (.iabs h d a) s c t → exec (.iabs h d a) s = .next (c.gives t (c.each d fun l => if (c.v l a).toInt < 0 then -c.v l a else c.v l a)))
    ∧ (Issues (.ineg h d a) s c t → exec (.ineg h d a) s = .next (c.gives t (c.each d fun l => 0 - c.v l a)))
    ∧ (Issues (.ishl h d a b) s c t → exec (.ishl h d a b) s = .next (c.gives t (c.each d fun l => c.v l a <<< ((bval c.w b l).toNat % 32))))
    ∧ (Issues (.ishr h d a b) s c t → exec (.ishr h d a b) s = .next (c.gives t (c.each d fun l => c.v l a >>> ((bval c.w b l).toNat % 32))))
    ∧ (Issues (.ishra h d a b) s c t → exec (.ishra h d a b) s = .next (c.gives t (c.each d fun l => (c.v l a).sshiftRight ((bval c.w b l).toNat % 32))))
    ∧ (Issues (.irot h d a b) s c t → exec (.irot h d a b) s = .next (c.gives t (c.each d fun l => (c.v l a).rotateLeft ((bval c.w b l).toNat % 32))))
    ∧ (Issues (.idot4 h sg sb sat d a b e) s c t → exec (.idot4 h sg sb sat d a b e) s = .next (c.gives t (c.each d fun l => 
      let x : Int := (c.v l e).toInt + byteInt sg (c.v l a) 0 * byteInt sb (bval c.w b l) 0 + byteInt sg (c.v l a) 1 * byteInt sb (bval c.w b l) 1
        + byteInt sg (c.v l a) 2 * byteInt sb (bval c.w b l) 2 + byteInt sg (c.v l a) 3 * byteInt sb (bval c.w b l) 3
      BitVec.ofInt 32 (if sat then max (-2 ^ 31) (min (2 ^ 31 - 1) x) else x))))
    ∧ (Issues (.iaddi h d a imm) s c t → exec (.iaddi h d a imm) s = .next (c.gives t (c.each d fun l => c.v l a + imm.signExtend 32)))
    ∧ (Issues (.imuli h d a imm) s c t → exec (.imuli h d a imm) s = .next (c.gives t (c.each d fun l => c.v l a * imm.signExtend 32)))

/-- O14. When it issues, each instruction of Table 7-2 completes and queues, for every active lane, its bit function (lop3Of, bfxOf, bfiOf, brevOf, popcOf, clzOf, ctzOf, prmtOf) of its operands in the order of the table. What those functions are, bit by bit, other statements say. (spec/07_isa_compute.md, Table 7-2) -/
def Obligations.BitInstructionsWriteTheirFunction : Prop :=
  ∀ (h : Hdr) (sg : Sign) (d a : BitVec 10) (b : BSrc) (e b' : BitVec 10) (c' : BitVec 8) (tt : BitVec 8) (s : State) (c : Ctx) (t : State),
    (Issues (.lop3 h d a b' c' tt) s c t → exec (.lop3 h d a b' c' tt) s = .next (c.gives t (c.each d fun l => lop3Of tt (c.v l a) (c.v l b') (c.v l (c'.setWidth 10)))))
    ∧ (Issues (.bfx h sg d a b) s c t → exec (.bfx h sg d a b) s = .next (c.gives t (c.each d fun l => bfxOf sg (c.v l a) (bval c.w b l))))
    ∧ (Issues (.bfi h d a b e) s c t → exec (.bfi h d a b e) s = .next (c.gives t (c.each d fun l => bfiOf (c.v l a) (bval c.w b l) (c.v l e))))
    ∧ (Issues (.brev h d a) s c t → exec (.brev h d a) s = .next (c.gives t (c.each d fun l => brevOf (c.v l a))))
    ∧ (Issues (.popc h d a) s c t → exec (.popc h d a) s = .next (c.gives t (c.each d fun l => popcOf (c.v l a))))
    ∧ (Issues (.clz h d a) s c t → exec (.clz h d a) s = .next (c.gives t (c.each d fun l => clzOf (c.v l a))))
    ∧ (Issues (.ctz h d a) s c t → exec (.ctz h d a) s = .next (c.gives t (c.each d fun l => ctzOf (c.v l a))))
    ∧ (Issues (.prmt h d a b e) s c t → exec (.prmt h d a b e) s = .next (c.gives t (c.each d fun l => prmtOf (c.v l a) (bval c.w b l) (c.v l e))))

/-- O15. Bit i of LOP3 and SLOP3 is bit 4a_i + 2b_i + c_i of the truth table. With lo = b[4:0] and hi = b[12:8]: BFX gives 0 for an empty field, else the bits a[hi:lo] at the bottom, the bits above filled with a[hi] under .s and with zero under .u; BFI gives c, with bits hi to lo replaced by the low bits of a where the field is not empty. Bit i of BREV is bit 31 − i of a. POPC is the number of bits of a that are 1. CLZ and CTZ are 32 for 0; else the bit that CLZ leading zeros, or CTZ trailing zeros, end at is 1 and every bit beyond it is 0. (spec/07_isa_compute.md, Table 7-2; spec/07_isa_compute.md, Logic, bit fields and bytes) -/
def Obligations.BitFunctionsByBits : Prop :=
  ∀ (tt : BitVec 8) (sg : Sign) (a b c : Word),
    (∀ i, i < 32 →
      let lo := (b.extractLsb' 0 5).toNat
      let hi := (b.extractLsb' 8 5).toNat
      ((lop3Of tt a b c).getLsbD i = tt.getLsbD (4 * (a.getLsbD i).toNat + 2 * (b.getLsbD i).toNat + (c.getLsbD i).toNat))
      ∧ ((bfxOf sg a b).getLsbD i =
        if hi < lo then false
        else if lo + i ≤ hi then a.getLsbD (lo + i)
        else sg == .s && a.getLsbD hi)
      ∧ ((bfiOf a b c).getLsbD i = if lo ≤ i ∧ i ≤ hi then a.getLsbD (i - lo) else c.getLsbD i)
      ∧ (brevOf a).getLsbD i = a.getLsbD (31 - i))
    ∧ (popcOf a).toNat = ((Finset.range 32).filter fun i => a.getLsbD i = true).card
    ∧ (a = 0 → clzOf a = 32 ∧ ctzOf a = 32)
    ∧ (a ≠ 0 → (clzOf a).toNat < 32 ∧ a.getLsbD (31 - (clzOf a).toNat) = true ∧ ∀ i, i < (clzOf a).toNat → a.getLsbD (31 - i) = false)
    ∧ (a ≠ 0 → (ctzOf a).toNat < 32 ∧ a.getLsbD (ctzOf a).toNat = true ∧ ∀ i, i < (ctzOf a).toNat → a.getLsbD i = false)

/-- O16. Byte i of PRMT: with k the control byte i of c and y the byte k[2:0] of the eight bytes of a and b, mode k[4:3] gives y, 0x00, 0xFF or 0x00 by the sign of y, or 0xFF. Bits [7:5] of k are ignored. (R104) -/
def Obligations.PermuteBytes : Prop :=
  ∀ (a b c : Word) (i : Nat), i < 4 →
    let k : BitVec 8 := c.extractLsb' (8 * i) 8
    let x : BitVec 64 := b ++ a
    let y : BitVec 8 := x.extractLsb' (8 * (k.extractLsb' 0 3).toNat) 8
    (prmtOf a b c).extractLsb' (8 * i) 8 =
      match (k.extractLsb' 3 2).toNat with
      | 0 => y
      | 1 => 0x00
      | 2 => if y.msb then 0xFF else 0x00
      | _ => 0xFF

/-- O17. When it issues, each completes and queues for every active lane: ISETP and ISETPI the compare of the operands as signed or unsigned integers, combined with p[pc] as the combine group says; ISEL a where p[pc] holds, else b; LEA a plus b shifted left by sh, in 32 bits, or in 64 bits with b zero-extended. (spec/07_isa_compute.md, Compare, select and address) -/
def Obligations.ComparesAndSelects : Prop :=
  ∀ (h : Hdr) (cmp : Cmp) (sg : Sign) (cb : Comb) (pd pc sh : BitVec 3) (d a : BitVec 10) (b : BSrc) (imm : BitVec 26) (s : State) (c : Ctx) (t : State),
    let cmpOf : Int → Int → Bool := fun x y => match cmp with
      | .eq => decide (x = y)
      | .ne => decide (x ≠ y)
      | .lt => decide (x < y)
      | .le => decide (x ≤ y)
      | .gt => decide (x > y)
      | .ge => decide (x ≥ y)
    let comb : Bool → Nat → Bool := fun r l => match cb with
      | .none => r
      | .and => r && c.w.rp l pc.toNat
      | .or => r || c.w.rp l pc.toNat
      | .andn => r && !c.w.rp l pc.toNat
    (Issues (.isetp h cmp sg cb pd a b pc) s c t → exec (.isetp h cmp sg cb pd a b pc) s
      = .next (c.gives t (c.eachP pd.toNat fun l => comb (cmpOf (extInt sg (c.v l a)) (extInt sg (bval c.w b l))) l)))
    ∧ (Issues (.isetpi h cmp sg pd a imm) s c t → exec (.isetpi h cmp sg pd a imm) s
      = .next (c.gives t (c.eachP pd.toNat fun l => cmpOf (extInt sg (c.v l a)) (extInt sg (imm.signExtend 32)))))
    ∧ (Issues (.isel h d a b pc) s c t → exec (.isel h d a b pc) s
      = .next (c.gives t (c.each d fun l => if c.w.rp l pc.toNat = true then c.v l a else bval c.w b l)))
    ∧ (Issues (.lea h false sh d a b) s c t → exec (.lea h false sh d a b) s
      = .next (c.gives t (c.each d fun l => c.v l a + bval c.w b l <<< sh.toNat)))
    ∧ (Issues (.lea h true sh d a b) s c t → exec (.lea h true sh d a b) s
      = .next (c.gives t (c.each64 d fun l => c.v64 l a + (bval c.w b l).setWidth 64 <<< sh.toNat)))

/-- O18. When it issues, each of MOV, MOVI, MOVH, MOVS, VRD, SRD and VTOS completes and queues its result: a, the sign-extended immediate, the immediate above d[15:0], the scalar register, the special register as special reads it (a pair for a 64-bit one), in every active lane; SRD and VTOS write the scalar register once, VTOS from the lowest-numbered active live lane, and neither writes anything where the run has no active lane. (spec/07_isa_compute.md, Table 7-3; spec/07_isa_compute.md, Moves and special registers (R108); spec/01_machine.md, Table 1-4) -/
def Obligations.Moves : Prop :=
  ∀ (h : Hdr) (d a : BitVec 10) (imm : BitVec 26) (k : BitVec 16) (sr sd : BitVec 7) (x : BitVec 6) (s : State) (c : Ctx) (t : State),
    (Issues (.mov h d a) s c t → exec (.mov h d a) s = .next (c.gives t (c.each d fun l => c.v l a)))
    ∧ (Issues (.movi h d imm) s c t → exec (.movi h d imm) s = .next (c.gives t (c.each d fun _ => imm.signExtend 32)))
    ∧ (Issues (.movh h d k) s c t → exec (.movh h d k) s
      = .next (c.gives t (c.each d fun l => (k.setWidth 32 <<< 16) ||| (c.v l d &&& 0xFFFF))))
    ∧ (Issues (.movs h d sr) s c t → exec (.movs h d sr) s = .next (c.gives t (c.each d fun _ => c.s sr)))
    ∧ (Issues (.vrd h d x) s c t → exec (.vrd h d x) s
      = .next (c.gives t (c.lanes.flatMap fun l =>
          (.v l d.toNat, loWord (special t c.blk c.ref.num c.w x.toNat l))
            :: if specialWide x then [(.v l (d.toNat + 1), hiWord (special t c.blk c.ref.num c.w x.toNat l))] else [])))
    ∧ (Issues (.srd h sd x) s c t → exec (.srd h sd x) s
      = .next (if c.act = 0 then c.after t
          else c.gives t ((.s sd.toNat, loWord (special t c.blk c.ref.num c.w x.toNat 0))
            :: if specialWide x then [(.s (sd.toNat + 1), hiWord (special t c.blk c.ref.num c.w x.toNat 0))] else [])))
    ∧ (Issues (.vtos h sd a) s c t → exec (.vtos h sd a) s
      = .next (if c.act = 0 then c.after t else c.gives t [(.s sd.toNat, c.v ((c.act.lanes 64).headD 0) a)]))

/-- O19. A read of a special register gives what Table 1-4 names: the lane and quad, the warp and its team, the block's warps, width, tile coordinates, tile index and tile count, the core of its cluster and the cluster and die in the interface's numbering, the launch number and the interface, the clock, the time, the operand, task and scratch bases (bits [35:0]), %sp and its limit, the continuation status and the five trap registers. (spec/01_machine.md, Table 1-4; spec/01_machine.md, Special registers (R28)) -/
def Obligations.SpecialRegisters : Prop :=
  ∀ (s : State) (b : Block) (n : Nat) (w : Warp) (l : Nat),
    let rd : Nat → DWord := fun x => special s b n w x l
    rd 0x00 = BitVec.ofNat 64 l ∧ rd 0x01 = BitVec.ofNat 64 (l / 4) ∧ rd 0x02 = BitVec.ofNat 64 n
    ∧ rd 0x03 = BitVec.ofNat 64 b.decl.warps ∧ rd 0x04 = BitVec.ofNat 64 b.decl.width ∧ rd 0x05 = BitVec.ofNat 64 (n / b.decl.team)
    ∧ (∀ k, k < 4 → rd (0x08 + k) = BitVec.ofNat 64 ((b.coords.reverse[k]?).getD 0))
    ∧ rd 0x0C = BitVec.ofNat 64 b.tile ∧ rd 0x0D = BitVec.ofNat 64 b.tcnt ∧ rd 0x10 = BitVec.ofNat 64 (b.core % 4)
    ∧ rd 0x11 = BitVec.ofNat 64 ((s.vf b.vf).cluNum (b.core / 4)) ∧ rd 0x12 = BitVec.ofNat 64 ((s.vf b.vf).dieNum (b.core / 64))
    ∧ rd 0x13 = BitVec.ofNat 64 b.launch ∧ rd 0x14 = BitVec.ofNat 64 b.vf
    ∧ rd 0x18 = BitVec.ofNat 64 s.clock ∧ rd 0x19 = BitVec.ofNat 64 s.time
    ∧ rd 0x20 = (b.tbase.setWidth 36).setWidth 64
    ∧ (∀ k, k < 8 → rd (0x21 + k) = (((b.obase[k]?).getD 0).setWidth 36).setWidth 64)
    ∧ rd 0x29 = (b.sbase.setWidth 36).setWidth 64 ∧ rd 0x30 = (w.sp1 l).setWidth 64 ∧ rd 0x31 = BitVec.ofNat 64 b.decl.stack
    ∧ rd 0x38 = b.cstat.setWidth 64 ∧ rd 0x3B = w.trec.infx.setWidth 64 ∧ rd 0x3C = w.trec.cause.setWidth 64
    ∧ rd 0x3D = w.trec.pc ∧ rd 0x3E = w.trec.mask ∧ rd 0x3F = w.trec.info.setWidth 64

/-- O20. When it issues, each of SADD, SSUB, SMUL, SLOP3, SSHL, SSHR, SMOVI and SMOVH completes and queues one write of its scalar destination, with the table's result of the scalar operands: whatever lanes the run has, it is performed once. (spec/07_isa_compute.md, Table 7-4; spec/07_isa_compute.md, Scalar instructions (R109)) -/
def Obligations.ScalarInstructions : Prop :=
  ∀ (h : Hdr) (d a b e : BitVec 7) (tt : BitVec 8) (imm : BitVec 26) (k : BitVec 16) (s : State) (c : Ctx) (t : State),
    (Issues (.sadd h d a b) s c t → exec (.sadd h d a b) s = .next (c.gives t [(.s d.toNat, c.s a + c.s b)]))
    ∧ (Issues (.ssub h d a b) s c t → exec (.ssub h d a b) s = .next (c.gives t [(.s d.toNat, c.s a - c.s b)]))
    ∧ (Issues (.smul h d a b) s c t → exec (.smul h d a b) s = .next (c.gives t [(.s d.toNat, c.s a * c.s b)]))
    ∧ (Issues (.slop3 h d a b e tt) s c t → exec (.slop3 h d a b e tt) s = .next (c.gives t [(.s d.toNat, lop3Of tt (c.s a) (c.s b) (c.s e))]))
    ∧ (Issues (.sshl h d a b) s c t → exec (.sshl h d a b) s = .next (c.gives t [(.s d.toNat, c.s a <<< ((c.s b).toNat % 32))]))
    ∧ (Issues (.sshr h .s d a b) s c t → exec (.sshr h .s d a b) s = .next (c.gives t [(.s d.toNat, (c.s a).sshiftRight ((c.s b).toNat % 32))]))
    ∧ (Issues (.sshr h .u d a b) s c t → exec (.sshr h .u d a b) s = .next (c.gives t [(.s d.toNat, c.s a >>> ((c.s b).toNat % 32))]))
    ∧ (Issues (.smovi h d imm) s c t → exec (.smovi h d imm) s = .next (c.gives t [(.s d.toNat, imm.signExtend 32)]))
    ∧ (Issues (.smovh h d k) s c t → exec (.smovh h d k) s = .next (c.gives t [(.s d.toNat, (k.setWidth 32 <<< 16) ||| (c.s d &&& 0xFFFF))]))

/-- O21. When SSETP issues it completes: it computes one compare of the scalar operands, and every live lane and every helper lane of the warp combines that result with its own p[pc] and writes its own p[pd], lanes of other runs too. (R110) -/
def Obligations.ScalarCompareWritesEveryLane : Prop :=
  ∀ (h : Hdr) (cmp : Cmp) (sg : Sign) (cb : Comb) (pd pc : BitVec 3) (a b : BitVec 7) (s : State) (c : Ctx) (t : State),
    Issues (.ssetp h cmp sg cb pd a b pc) s c t →
    let x := extInt sg (c.s a)
    let y := extInt sg (c.s b)
    let r := match cmp with
      | .eq => decide (x = y)
      | .ne => decide (x ≠ y)
      | .lt => decide (x < y)
      | .le => decide (x ≤ y)
      | .gt => decide (x > y)
      | .ge => decide (x ≥ y)
    exec (.ssetp h cmp sg cb pd a b pc) s = .next (c.gives t (((c.w.live ||| c.w.helpers).lanes 64).map fun l =>
      (.p l pd.toNat, if (match cb with
        | .none => r
        | .and => r && c.w.rp l pc.toNat
        | .or => r || c.w.rp l pc.toNat
        | .andn => r && !c.w.rp l pc.toNat) = true then 1 else 0)))

/-- O22. When it issues and raises no enabled exception in an active live lane, each of FADD, FSUB, FMUL, FFMA, FMIN, FMAX, FRND and FSCALE completes and queues, for every active lane, the FP32 result of its operation on its operands, rounded once in the instruction's mode, with flush as written (FSCALE takes b as a signed integer); DADD, DSUB, DMUL, DFMA, DMIN, DMAX and DRND the two words of the FP64 result; HADD2, HMUL2, HFMA2, HMIN2 and HMAX2 one register whose halves are the results on the halves of the operands, in FP16 or BF16, an exception of either half being one of the lane. That z flushes packed BF16 too is the model's choice (assumption 77), as is that FSCALE works in FP32 (assumption 82). (spec/07_isa_compute.md, Table 7-5; spec/07_isa_compute.md, Table 7-7; spec/07_isa_compute.md, Packed 16-bit (R116); spec/05_numbers.md, Exceptions (R85)) -/
def Obligations.FloatResults : Prop :=
  ∀ (h : Hdr) (r : Rnd) (z bf : Bool) (d a : BitVec 10) (b : BSrc) (e : BitVec 10) (s : State) (c : Ctx) (t : State),
    (Issues (.fadd h r z d a b) s c t →
      let x : Nat → Nat × Flags := fun l => Fmt.f32.fadd r z (c.v l a).toNat (bval c.w b l).toNat
      c.NoFpx t (fun l => (x l).2) → exec (.fadd h r z d a b) s = .next (c.gives t (c.each d fun l => BitVec.ofNat 32 (x l).1)))
    ∧ (Issues (.fsub h r z d a b) s c t →
      let x : Nat → Nat × Flags := fun l => Fmt.f32.fsub r z (c.v l a).toNat (bval c.w b l).toNat
      c.NoFpx t (fun l => (x l).2) → exec (.fsub h r z d a b) s = .next (c.gives t (c.each d fun l => BitVec.ofNat 32 (x l).1)))
    ∧ (Issues (.fmul h r z d a b) s c t →
      let x : Nat → Nat × Flags := fun l => Fmt.f32.fmul r z (c.v l a).toNat (bval c.w b l).toNat
      c.NoFpx t (fun l => (x l).2) → exec (.fmul h r z d a b) s = .next (c.gives t (c.each d fun l => BitVec.ofNat 32 (x l).1)))
    ∧ (Issues (.ffma h r z d a b e) s c t →
      let x : Nat → Nat × Flags := fun l => Fmt.f32.ffma r z (c.v l a).toNat (bval c.w b l).toNat (c.v l e).toNat
      c.NoFpx t (fun l => (x l).2) → exec (.ffma h r z d a b e) s = .next (c.gives t (c.each d fun l => BitVec.ofNat 32 (x l).1)))
    ∧ (Issues (.fmin h z d a b) s c t →
      let x : Nat → Nat × Flags := fun l => Fmt.f32.minmax false z (c.v l a).toNat (bval c.w b l).toNat
      c.NoFpx t (fun l => (x l).2) → exec (.fmin h z d a b) s = .next (c.gives t (c.each d fun l => BitVec.ofNat 32 (x l).1)))
    ∧ (Issues (.fmax h z d a b) s c t →
      let x : Nat → Nat × Flags := fun l => Fmt.f32.minmax true z (c.v l a).toNat (bval c.w b l).toNat
      c.NoFpx t (fun l => (x l).2) → exec (.fmax h z d a b) s = .next (c.gives t (c.each d fun l => BitVec.ofNat 32 (x l).1)))
    ∧ (Issues (.frnd h r z d a) s c t →
      let x : Nat → Nat × Flags := fun l => Fmt.f32.frnd r z (c.v l a).toNat
      c.NoFpx t (fun l => (x l).2) → exec (.frnd h r z d a) s = .next (c.gives t (c.each d fun l => BitVec.ofNat 32 (x l).1)))
    ∧ (Issues (.fscale h r z d a b) s c t →
      let x : Nat → Nat × Flags := fun l => Fmt.f32.fscale r z (c.v l a).toNat (bval c.w b l).toInt
      c.NoFpx t (fun l => (x l).2) → exec (.fscale h r z d a b) s = .next (c.gives t (c.each d fun l => BitVec.ofNat 32 (x l).1)))
    ∧ (Issues (.dadd h r z d a b) s c t →
      let x : Nat → Nat × Flags := fun l => Fmt.f64.fadd r z (c.v64 l a).toNat (bval64 c.w b l).toNat
      c.NoFpx t (fun l => (x l).2) → exec (.dadd h r z d a b) s = .next (c.gives t (c.each64 d fun l => BitVec.ofNat 64 (x l).1)))
    ∧ (Issues (.dsub h r z d a b) s c t →
      let x : Nat → Nat × Flags := fun l => Fmt.f64.fsub r z (c.v64 l a).toNat (bval64 c.w b l).toNat
      c.NoFpx t (fun l => (x l).2) → exec (.dsub h r z d a b) s = .next (c.gives t (c.each64 d fun l => BitVec.ofNat 64 (x l).1)))
    ∧ (Issues (.dmul h r z d a b) s c t →
      let x : Nat → Nat × Flags := fun l => Fmt.f64.fmul r z (c.v64 l a).toNat (bval64 c.w b l).toNat
      c.NoFpx t (fun l => (x l).2) → exec (.dmul h r z d a b) s = .next (c.gives t (c.each64 d fun l => BitVec.ofNat 64 (x l).1)))
    ∧ (Issues (.dfma h r z d a b e) s c t →
      let x : Nat → Nat × Flags := fun l => Fmt.f64.ffma r z (c.v64 l a).toNat (bval64 c.w b l).toNat (c.v64 l e).toNat
      c.NoFpx t (fun l => (x l).2) → exec (.dfma h r z d a b e) s = .next (c.gives t (c.each64 d fun l => BitVec.ofNat 64 (x l).1)))
    ∧ (Issues (.dmin h z d a b) s c t →
      let x : Nat → Nat × Flags := fun l => Fmt.f64.minmax false z (c.v64 l a).toNat (bval64 c.w b l).toNat
      c.NoFpx t (fun l => (x l).2) → exec (.dmin h z d a b) s = .next (c.gives t (c.each64 d fun l => BitVec.ofNat 64 (x l).1)))
    ∧ (Issues (.dmax h z d a b) s c t →
      let x : Nat → Nat × Flags := fun l => Fmt.f64.minmax true z (c.v64 l a).toNat (bval64 c.w b l).toNat
      c.NoFpx t (fun l => (x l).2) → exec (.dmax h z d a b) s = .next (c.gives t (c.each64 d fun l => BitVec.ofNat 64 (x l).1)))
    ∧ (Issues (.drnd h r z d a) s c t →
      let x : Nat → Nat × Flags := fun l => Fmt.f64.frnd r z (c.v64 l a).toNat
      c.NoFpx t (fun l => (x l).2) → exec (.drnd h r z d a) s = .next (c.gives t (c.each64 d fun l => BitVec.ofNat 64 (x l).1)))
    ∧ (Issues (.hadd2 h r z bf d a b) s c t →
      let x : Nat → Nat × Flags := fun l => (((if bf then Fmt.bf16 else Fmt.f16).fadd r z ((c.v l a).extractLsb' 0 16).toNat ((bval c.w b l).extractLsb' 0 16).toNat).1 + 2 ^ 16 * ((if bf then Fmt.bf16 else Fmt.f16).fadd r z ((c.v l a).extractLsb' 16 16).toNat ((bval c.w b l).extractLsb' 16 16).toNat).1, ((if bf then Fmt.bf16 else Fmt.f16).fadd r z ((c.v l a).extractLsb' 0 16).toNat ((bval c.w b l).extractLsb' 0 16).toNat).2 ||| ((if bf then Fmt.bf16 else Fmt.f16).fadd r z ((c.v l a).extractLsb' 16 16).toNat ((bval c.w b l).extractLsb' 16 16).toNat).2)
      c.NoFpx t (fun l => (x l).2) → exec (.hadd2 h r z bf d a b) s = .next (c.gives t (c.each d fun l => BitVec.ofNat 32 (x l).1)))
    ∧ (Issues (.hmul2 h r z bf d a b) s c t →
      let x : Nat → Nat × Flags := fun l => (((if bf then Fmt.bf16 else Fmt.f16).fmul r z ((c.v l a).extractLsb' 0 16).toNat ((bval c.w b l).extractLsb' 0 16).toNat).1 + 2 ^ 16 * ((if bf then Fmt.bf16 else Fmt.f16).fmul r z ((c.v l a).extractLsb' 16 16).toNat ((bval c.w b l).extractLsb' 16 16).toNat).1, ((if bf then Fmt.bf16 else Fmt.f16).fmul r z ((c.v l a).extractLsb' 0 16).toNat ((bval c.w b l).extractLsb' 0 16).toNat).2 ||| ((if bf then Fmt.bf16 else Fmt.f16).fmul r z ((c.v l a).extractLsb' 16 16).toNat ((bval c.w b l).extractLsb' 16 16).toNat).2)
      c.NoFpx t (fun l => (x l).2) → exec (.hmul2 h r z bf d a b) s = .next (c.gives t (c.each d fun l => BitVec.ofNat 32 (x l).1)))
    ∧ (Issues (.hfma2 h r z bf d a b e) s c t →
      let x : Nat → Nat × Flags := fun l => (((if bf then Fmt.bf16 else Fmt.f16).ffma r z ((c.v l a).extractLsb' 0 16).toNat ((bval c.w b l).extractLsb' 0 16).toNat ((c.v l e).extractLsb' 0 16).toNat).1 + 2 ^ 16 * ((if bf then Fmt.bf16 else Fmt.f16).ffma r z ((c.v l a).extractLsb' 16 16).toNat ((bval c.w b l).extractLsb' 16 16).toNat ((c.v l e).extractLsb' 16 16).toNat).1, ((if bf then Fmt.bf16 else Fmt.f16).ffma r z ((c.v l a).extractLsb' 0 16).toNat ((bval c.w b l).extractLsb' 0 16).toNat ((c.v l e).extractLsb' 0 16).toNat).2 ||| ((if bf then Fmt.bf16 else Fmt.f16).ffma r z ((c.v l a).extractLsb' 16 16).toNat ((bval c.w b l).extractLsb' 16 16).toNat ((c.v l e).extractLsb' 16 16).toNat).2)
      c.NoFpx t (fun l => (x l).2) → exec (.hfma2 h r z bf d a b e) s = .next (c.gives t (c.each d fun l => BitVec.ofNat 32 (x l).1)))
    ∧ (Issues (.hmin2 h z bf d a b) s c t →
      let x : Nat → Nat × Flags := fun l => (((if bf then Fmt.bf16 else Fmt.f16).minmax false z ((c.v l a).extractLsb' 0 16).toNat ((bval c.w b l).extractLsb' 0 16).toNat).1 + 2 ^ 16 * ((if bf then Fmt.bf16 else Fmt.f16).minmax false z ((c.v l a).extractLsb' 16 16).toNat ((bval c.w b l).extractLsb' 16 16).toNat).1, ((if bf then Fmt.bf16 else Fmt.f16).minmax false z ((c.v l a).extractLsb' 0 16).toNat ((bval c.w b l).extractLsb' 0 16).toNat).2 ||| ((if bf then Fmt.bf16 else Fmt.f16).minmax false z ((c.v l a).extractLsb' 16 16).toNat ((bval c.w b l).extractLsb' 16 16).toNat).2)
      c.NoFpx t (fun l => (x l).2) → exec (.hmin2 h z bf d a b) s = .next (c.gives t (c.each d fun l => BitVec.ofNat 32 (x l).1)))
    ∧ (Issues (.hmax2 h z bf d a b) s c t →
      let x : Nat → Nat × Flags := fun l => (((if bf then Fmt.bf16 else Fmt.f16).minmax true z ((c.v l a).extractLsb' 0 16).toNat ((bval c.w b l).extractLsb' 0 16).toNat).1 + 2 ^ 16 * ((if bf then Fmt.bf16 else Fmt.f16).minmax true z ((c.v l a).extractLsb' 16 16).toNat ((bval c.w b l).extractLsb' 16 16).toNat).1, ((if bf then Fmt.bf16 else Fmt.f16).minmax true z ((c.v l a).extractLsb' 0 16).toNat ((bval c.w b l).extractLsb' 0 16).toNat).2 ||| ((if bf then Fmt.bf16 else Fmt.f16).minmax true z ((c.v l a).extractLsb' 16 16).toNat ((bval c.w b l).extractLsb' 16 16).toNat).2)
      c.NoFpx t (fun l => (x l).2) → exec (.hmax2 h z bf d a b) s = .next (c.gives t (c.each d fun l => BitVec.ofNat 32 (x l).1)))

/-- O23. When it issues and raises no enabled exception in an active live lane, FSETP and DSETP complete and queue, for every active lane, the compare of the operands combined with p[pc]; HSETP2 queues p[2n] and p[2n+1] from the compares of the two halves; FCLASS queues the class mask of its operand in the format it names and raises nothing. That z flushes packed BF16 too is the model's choice (assumption 77). (spec/07_isa_compute.md, Table 7-5; spec/07_isa_compute.md, FP32 and FP64 (R113, R114); spec/07_isa_compute.md, Table 7-7) -/
def Obligations.FloatCompares : Prop :=
  ∀ (h : Hdr) (cmp : Cmp) (un : Bool) (cb : Comb) (z bf : Bool) (f : ClassFmt) (pd pc : BitVec 3) (n : BitVec 2) (d a : BitVec 10) (b : BSrc)
    (s : State) (c : Ctx) (t : State),
    let comb : Bool → Nat → Bool := fun r l => match cb with
      | .none => r
      | .and => r && c.w.rp l pc.toNat
      | .or => r || c.w.rp l pc.toNat
      | .andn => r && !c.w.rp l pc.toNat
    (Issues (.fsetp h cmp un cb z pd a b pc) s c t →
      let x : Nat → Bool × Flags := fun l => floatCmp Fmt.f32 cmp un z (c.v l a).toNat (bval c.w b l).toNat
      c.NoFpx t (fun l => (x l).2) → exec (.fsetp h cmp un cb z pd a b pc) s = .next (c.gives t (c.eachP pd.toNat fun l => comb (x l).1 l)))
    ∧ (Issues (.dsetp h cmp un cb z pd a b pc) s c t →
      let x : Nat → Bool × Flags := fun l => floatCmp Fmt.f64 cmp un z (c.v64 l a).toNat (bval64 c.w b l).toNat
      c.NoFpx t (fun l => (x l).2) → exec (.dsetp h cmp un cb z pd a b pc) s = .next (c.gives t (c.eachP pd.toNat fun l => comb (x l).1 l)))
    ∧ (Issues (.hsetp2 h cmp un cb z bf n a b pc) s c t →
      let x : Nat → Nat → Bool × Flags := fun k l =>
        floatCmp (if bf then Fmt.bf16 else Fmt.f16) cmp un z ((c.v l a).extractLsb' (16 * k) 16).toNat ((bval c.w b l).extractLsb' (16 * k) 16).toNat
      c.NoFpx t (fun l => (x 0 l).2 ||| (x 1 l).2) → exec (.hsetp2 h cmp un cb z bf n a b pc) s
        = .next (c.gives t (c.lanes.flatMap fun l =>
            [(.p l (2 * n.toNat), if comb (x 0 l).1 l = true then 1 else 0), (.p l (2 * n.toNat + 1), if comb (x 1 l).1 l = true then 1 else 0)])))
    ∧ (Issues (.fclass h f d a) s c t → exec (.fclass h f d a) s = .next (c.gives t (c.each d fun l => BitVec.ofNat 32 (match f with
      | .f32 => Fmt.f32.classOf (c.v l a).toNat
      | .f64 => Fmt.f64.classOf (c.v64 l a).toNat
      | .f16 => Fmt.f16.classOf ((c.v l a).extractLsb' 0 16).toNat
      | .bf16 => Fmt.bf16.classOf ((c.v l a).extractLsb' 0 16).toNat))))

/-- O24. When it issues and raises no enabled exception in an active live lane, each completes and queues, for every active lane: CVT and CVTI the converted value, in a pair where the destination format has 64 bits, read from a pair where the source has; QSCL the scale of R119; QPK4 the eight elements of its eight registers; QXP4 eight registers, one per element. What the results are, RoundedResults and NansAreCanonical say; corner cases are those of assumptions 50 and 67. (spec/07_isa_compute.md, Conversion and quantisation (R117 to R120)) -/
def Obligations.Conversions : Prop :=
  ∀ (h : Hdr) (dst src : CvtFmt) (r : Rnd) (sat band : Bool) (d a : BitVec 10) (b : BSrc) (s : State) (c : Ctx) (t : State),
    let y : Nat → Nat × Flags := fun l => convert dst src r sat (if src.wide then (c.v64 l a).toNat else (c.v l a).toNat)
    let w : List (RegId × Word) := if dst.wide then c.each64 d fun l => BitVec.ofNat 64 (y l).1 else c.each d fun l => BitVec.ofNat 32 (y l).1
    (Issues (.cvt h dst src r sat d a) s c t → c.NoFpx t (fun l => (y l).2) → exec (.cvt h dst src r sat d a) s = .next (c.gives t w))
    ∧ (Issues (.cvti h dst src r sat d a) s c t → c.NoFpx t (fun l => (y l).2) → exec (.cvti h dst src r sat d a) s = .next (c.gives t w))
    ∧ (Issues (.qscl h band sat d a b) s c t →
      let x : Nat → Nat × Flags := fun l => qsclOf band sat (c.v l a) (bval c.w b l)
      c.NoFpx t (fun l => (x l).2) → exec (.qscl h band sat d a b) s = .next (c.gives t (c.each d fun l => BitVec.ofNat 32 (x l).1)))
    ∧ (Issues (.qpk4 h d a b) s c t →
      let x : Nat → Nat × Flags := fun l => qpk4Of ((List.range 8).map fun j => c.w.rv l (a.toNat + j)) (bval c.w b l)
      c.NoFpx t (fun l => (x l).2) → exec (.qpk4 h d a b) s = .next (c.gives t (c.each d fun l => BitVec.ofNat 32 (x l).1)))
    ∧ (Issues (.qxp4 h r d a b) s c t →
      let x : Nat → Nat → Nat × Flags := fun l j =>
        qxp4Of r ((c.v l a).extractLsb' (4 * j) 4).toNat ((bval c.w b l).extractLsb' 0 8).toNat ((bval c.w b l).extractLsb' 16 16).toNat
      c.NoFpx t (fun l => (x l 0).2 ||| (x l 1).2 ||| (x l 2).2 ||| (x l 3).2 ||| (x l 4).2 ||| (x l 5).2 ||| (x l 6).2 ||| (x l 7).2) →
      exec (.qxp4 h r d a b) s
        = .next (c.gives t (c.lanes.flatMap fun l => (List.range 8).map fun j => (.v l (d.toNat + j), BitVec.ofNat 32 (x l j).1))))

/-- O25. When a word that raises floating-point exceptions issues and an active live lane raises one that the interface's HX_FPXCTL enables, the warp takes FPX (cause 0x17) at the word with the whole run, %tinfo giving the raised and the enabled exceptions, on the state before the word: nothing is queued. So do FADD, FSUB, FMUL, FFMA, FMIN, FMAX, FRND, FSCALE and FSETP, DADD, DSUB, DMUL, DFMA, DMIN, DMAX, DRND and DSETP, HADD2, HMUL2, HFMA2, HMIN2, HMAX2 and HSETP2, CVT and CVTI, QSCL, QPK4 and QXP4, and a paired word, whose raised exceptions are those of its operations FADD, FSUB, FMUL, FMIN, FMAX, HADD2, HMUL2, HMIN2 and HMAX2 in either slot, each in the lanes of its own guard. In packed BF16 under .ftz they are those of flushed operands and results, which is the model's choice (assumption 77); FSCALE works in FP32, which is its choice too (assumption 82), as are the corner cases of QSCL, QPK4 and QXP4 of assumptions 50 and 67. (spec/05_numbers.md, Exceptions (R85), Tables 5-5 and 5-6; spec/07_isa_compute.md, Table 7-6; spec/03_assembly_encoding.md, Paired words (R64)) -/
def Obligations.EnabledExceptionsTrapFpx : Prop :=
  (∀ (h : Hdr) (r : Rnd) (z bf un sat band : Bool) (cmp : Cmp) (cb : Comb) (dst src : CvtFmt) (pd pc : BitVec 3) (n : BitVec 2) (d a : BitVec 10) (b : BSrc) (e : BitVec 10)
    (s : State) (c : Ctx) (t : State),
    let traps : Instr → (Nat → Flags) → Prop := fun i f =>
      let raised := c.live.foldl (fun x l => x ||| f l) 0
      let cause := raised &&& (t.vf c.blk.vf).fpxctl.setWidth 5
      Issues i s c t → cause ≠ 0 → exec i s
        = .next (s.trapWord c.ref c.run.pc c.run.lanes c.w { cause := 0x17, info := BitVec.ofNat 32 (32 * raised.toNat + cause.toNat) })
    traps (.fadd h r z d a b) (fun l => (Fmt.f32.fadd r z (c.v l a).toNat (bval c.w b l).toNat).2)
    ∧ traps (.fsub h r z d a b) (fun l => (Fmt.f32.fsub r z (c.v l a).toNat (bval c.w b l).toNat).2)
    ∧ traps (.fmul h r z d a b) (fun l => (Fmt.f32.fmul r z (c.v l a).toNat (bval c.w b l).toNat).2)
    ∧ traps (.ffma h r z d a b e) (fun l => (Fmt.f32.ffma r z (c.v l a).toNat (bval c.w b l).toNat (c.v l e).toNat).2)
    ∧ traps (.fmin h z d a b) (fun l => (Fmt.f32.minmax false z (c.v l a).toNat (bval c.w b l).toNat).2)
    ∧ traps (.fmax h z d a b) (fun l => (Fmt.f32.minmax true z (c.v l a).toNat (bval c.w b l).toNat).2)
    ∧ traps (.frnd h r z d a) (fun l => (Fmt.f32.frnd r z (c.v l a).toNat).2)
    ∧ traps (.fscale h r z d a b) (fun l => (Fmt.f32.fscale r z (c.v l a).toNat (bval c.w b l).toInt).2)
    ∧ traps (.dadd h r z d a b) (fun l => (Fmt.f64.fadd r z (c.v64 l a).toNat (bval64 c.w b l).toNat).2)
    ∧ traps (.dsub h r z d a b) (fun l => (Fmt.f64.fsub r z (c.v64 l a).toNat (bval64 c.w b l).toNat).2)
    ∧ traps (.dmul h r z d a b) (fun l => (Fmt.f64.fmul r z (c.v64 l a).toNat (bval64 c.w b l).toNat).2)
    ∧ traps (.dfma h r z d a b e) (fun l => (Fmt.f64.ffma r z (c.v64 l a).toNat (bval64 c.w b l).toNat (c.v64 l e).toNat).2)
    ∧ traps (.dmin h z d a b) (fun l => (Fmt.f64.minmax false z (c.v64 l a).toNat (bval64 c.w b l).toNat).2)
    ∧ traps (.dmax h z d a b) (fun l => (Fmt.f64.minmax true z (c.v64 l a).toNat (bval64 c.w b l).toNat).2)
    ∧ traps (.drnd h r z d a) (fun l => (Fmt.f64.frnd r z (c.v64 l a).toNat).2)
    ∧ traps (.hadd2 h r z bf d a b) (fun l => ((((if bf then Fmt.bf16 else Fmt.f16).fadd r z ((c.v l a).extractLsb' 0 16).toNat ((bval c.w b l).extractLsb' 0 16).toNat).1 + 2 ^ 16 * ((if bf then Fmt.bf16 else Fmt.f16).fadd r z ((c.v l a).extractLsb' 16 16).toNat ((bval c.w b l).extractLsb' 16 16).toNat).1, ((if bf then Fmt.bf16 else Fmt.f16).fadd r z ((c.v l a).extractLsb' 0 16).toNat ((bval c.w b l).extractLsb' 0 16).toNat).2 ||| ((if bf then Fmt.bf16 else Fmt.f16).fadd r z ((c.v l a).extractLsb' 16 16).toNat ((bval c.w b l).extractLsb' 16 16).toNat).2)).2)
    ∧ traps (.hmul2 h r z bf d a b) (fun l => ((((if bf then Fmt.bf16 else Fmt.f16).fmul r z ((c.v l a).extractLsb' 0 16).toNat ((bval c.w b l).extractLsb' 0 16).toNat).1 + 2 ^ 16 * ((if bf then Fmt.bf16 else Fmt.f16).fmul r z ((c.v l a).extractLsb' 16 16).toNat ((bval c.w b l).extractLsb' 16 16).toNat).1, ((if bf then Fmt.bf16 else Fmt.f16).fmul r z ((c.v l a).extractLsb' 0 16).toNat ((bval c.w b l).extractLsb' 0 16).toNat).2 ||| ((if bf then Fmt.bf16 else Fmt.f16).fmul r z ((c.v l a).extractLsb' 16 16).toNat ((bval c.w b l).extractLsb' 16 16).toNat).2)).2)
    ∧ traps (.hfma2 h r z bf d a b e) (fun l => ((((if bf then Fmt.bf16 else Fmt.f16).ffma r z ((c.v l a).extractLsb' 0 16).toNat ((bval c.w b l).extractLsb' 0 16).toNat ((c.v l e).extractLsb' 0 16).toNat).1 + 2 ^ 16 * ((if bf then Fmt.bf16 else Fmt.f16).ffma r z ((c.v l a).extractLsb' 16 16).toNat ((bval c.w b l).extractLsb' 16 16).toNat ((c.v l e).extractLsb' 16 16).toNat).1, ((if bf then Fmt.bf16 else Fmt.f16).ffma r z ((c.v l a).extractLsb' 0 16).toNat ((bval c.w b l).extractLsb' 0 16).toNat ((c.v l e).extractLsb' 0 16).toNat).2 ||| ((if bf then Fmt.bf16 else Fmt.f16).ffma r z ((c.v l a).extractLsb' 16 16).toNat ((bval c.w b l).extractLsb' 16 16).toNat ((c.v l e).extractLsb' 16 16).toNat).2)).2)
    ∧ traps (.hmin2 h z bf d a b) (fun l => ((((if bf then Fmt.bf16 else Fmt.f16).minmax false z ((c.v l a).extractLsb' 0 16).toNat ((bval c.w b l).extractLsb' 0 16).toNat).1 + 2 ^ 16 * ((if bf then Fmt.bf16 else Fmt.f16).minmax false z ((c.v l a).extractLsb' 16 16).toNat ((bval c.w b l).extractLsb' 16 16).toNat).1, ((if bf then Fmt.bf16 else Fmt.f16).minmax false z ((c.v l a).extractLsb' 0 16).toNat ((bval c.w b l).extractLsb' 0 16).toNat).2 ||| ((if bf then Fmt.bf16 else Fmt.f16).minmax false z ((c.v l a).extractLsb' 16 16).toNat ((bval c.w b l).extractLsb' 16 16).toNat).2)).2)
    ∧ traps (.hmax2 h z bf d a b) (fun l => ((((if bf then Fmt.bf16 else Fmt.f16).minmax true z ((c.v l a).extractLsb' 0 16).toNat ((bval c.w b l).extractLsb' 0 16).toNat).1 + 2 ^ 16 * ((if bf then Fmt.bf16 else Fmt.f16).minmax true z ((c.v l a).extractLsb' 16 16).toNat ((bval c.w b l).extractLsb' 16 16).toNat).1, ((if bf then Fmt.bf16 else Fmt.f16).minmax true z ((c.v l a).extractLsb' 0 16).toNat ((bval c.w b l).extractLsb' 0 16).toNat).2 ||| ((if bf then Fmt.bf16 else Fmt.f16).minmax true z ((c.v l a).extractLsb' 16 16).toNat ((bval c.w b l).extractLsb' 16 16).toNat).2)).2)
    ∧ traps (.fsetp h cmp un cb z pd a b pc) (fun l => (floatCmp Fmt.f32 cmp un z (c.v l a).toNat (bval c.w b l).toNat).2)
    ∧ traps (.dsetp h cmp un cb z pd a b pc) (fun l => (floatCmp Fmt.f64 cmp un z (c.v64 l a).toNat (bval64 c.w b l).toNat).2)
    ∧ traps (.hsetp2 h cmp un cb z bf n a b pc) (fun l => (floatCmp (if bf then Fmt.bf16 else Fmt.f16) cmp un z ((c.v l a).extractLsb' 0 16).toNat ((bval c.w b l).extractLsb' 0 16).toNat).2 ||| (floatCmp (if bf then Fmt.bf16 else Fmt.f16) cmp un z ((c.v l a).extractLsb' 16 16).toNat ((bval c.w b l).extractLsb' 16 16).toNat).2)
    ∧ traps (.cvt h dst src r sat d a) (fun l => (convert dst src r sat (if src.wide then (c.v64 l a).toNat else (c.v l a).toNat)).2)
    ∧ traps (.cvti h dst src r sat d a) (fun l => (convert dst src r sat (if src.wide then (c.v64 l a).toNat else (c.v l a).toNat)).2)
    ∧ traps (.qscl h band sat d a b) (fun l => (qsclOf band sat (c.v l a) (bval c.w b l)).2)
    ∧ traps (.qpk4 h d a b) (fun l => (qpk4Of ((List.range 8).map fun j => c.w.rv l (a.toNat + j)) (bval c.w b l)).2)
    ∧ traps (.qxp4 h r d a b) (fun l => (List.range 8).foldl (fun x j => x ||| (qxp4Of r ((c.v l a).extractLsb' (4 * j) 4).toNat ((bval c.w b l).extractLsb' 0 8).toNat ((bval c.w b l).extractLsb' 16 16).toNat).2) 0))
  ∧ ∀ (op : PairOp) (p : Pair) (s : State) (c : Ctx) (t : State),
    let i := pairInstr op p
    -- the exceptions of an operation in a lane
    let raises : PairOp → Slot → Nat → Flags := fun o x l =>
      let a := c.w.rv l x.d.toNat
      let b := c.w.rv l x.s.toNat
      let two : (Nat → Nat → Nat × Flags) → Flags := fun g =>
        (g (a.extractLsb' 0 16).toNat (b.extractLsb' 0 16).toNat).2 ||| (g (a.extractLsb' 16 16).toNat (b.extractLsb' 16 16).toNat).2
      match o with
      | .fadd => (Fmt.f32.fadd x.rnd x.ftz a.toNat b.toNat).2
      | .fsub => (Fmt.f32.fsub x.rnd x.ftz a.toNat b.toNat).2
      | .fmul => (Fmt.f32.fmul x.rnd x.ftz a.toNat b.toNat).2
      | .fmin => (Fmt.f32.minmax false x.ftz a.toNat b.toNat).2
      | .fmax => (Fmt.f32.minmax true x.ftz a.toNat b.toNat).2
      | .hadd2 => two fun u v => Fmt.f16.fadd x.rnd x.ftz u v
      | .hmul2 => two fun u v => Fmt.f16.fmul x.rnd x.ftz u v
      | .hmin2 => two fun u v => Fmt.f16.minmax false x.ftz u v
      | .hmax2 => two fun u v => Fmt.f16.minmax true x.ftz u v
      | _ => 0
    let slot : PairOp → Slot → Flags := fun o x =>
      ((if isNullSlot o x then 0 else guardMask c.w x.n x.g c.run.lanes).lanes 64).foldl (fun y l => y ||| raises o x l) 0
    let raised := slot op p.slot0 ||| slot p.op1 p.slot1
    let cause := raised &&& (t.vf c.blk.vf).fpxctl.setWidth 5
    Issues i s c t → cause ≠ 0 → exec i s
      = .next (s.trapWord c.ref c.run.pc c.run.lanes c.w { cause := 0x17, info := BitVec.ofNat 32 (32 * raised.toNat + cause.toNat) })

/-- O26. In FP16, BF16, FP32 and FP64: addition, subtraction, multiplication and fused multiply-add with a NaN operand in any position give the format's canonical NaN, whatever its payload and sign, and raise invalid where an operand is signalling, in whatever position, and no other exception (a quiet NaN added to ∞ × 0 may raise invalid: assumption 25); FRND and FSCALE of a NaN give it too, minimum and maximum where both operands are NaN; a compare raises invalid for a signalling operand alone. A conversion of a NaN gives the canonical NaN of every destination that has NaN codes, E4M3 and E5M2 among them, invalid for a signalling NaN and for E4M3 under .nsat. QSCL of a NaN gives 0x7FC0 or 0xFF and raises invalid; QXP4 under a NaN scale, a special function of a NaN, a floating-point REDUX or SCAN that ends in NaN (a first value that is NaN counts canonically: assumption 27) give 0x7FC00000. In the matrix engine a NaN operand makes the partial sum NaN, and a NaN sum gives the accumulator format's canonical NaN. (spec/05_numbers.md, NaN (R84), Table 5-4; spec/05_numbers.md, Exceptions (R85); spec/05_numbers.md, Table 5-7; spec/05_numbers.md, Matrix arithmetic (R94); spec/07_isa_compute.md, FP32 and FP64 (R112, R113); spec/07_isa_compute.md, Conversion and quantisation (R118 to R120); spec/07_isa_compute.md, Tables 7-9 and 7-11) -/
def Obligations.NansAreCanonical : Prop :=
  (∀ (F : Fmt) (r : Rnd) (z : Bool) (x y k : Nat), F ∈ [Fmt.f16, Fmt.bf16, Fmt.f32, Fmt.f64] →
    let nan : Nat → Prop := fun x => (F.decode x).isNan = true
    let sig : Nat → Prop := fun x => F.decode x = .nan true
    let quiet : Nat × Flags := (F.nan, 0)
    let invalid : Nat × Flags := (F.nan, fIV)
    (nan x ∨ nan y →
      (sig x ∨ sig y → F.fadd r z x y = invalid ∧ F.fsub r z x y = invalid ∧ F.fmul r z x y = invalid)
      ∧ (¬ sig x → ¬ sig y → F.fadd r z x y = quiet ∧ F.fsub r z x y = quiet ∧ F.fmul r z x y = quiet)
      ∧ ∀ c un, (sig x ∨ sig y → (floatCmp F c un z x y).2 = fIV) ∧ (¬ sig x → ¬ sig y → (floatCmp F c un z x y).2 = 0))
    ∧ (nan x ∨ nan y ∨ nan k →
      (sig x ∨ sig y ∨ sig k → F.ffma r z x y k = invalid) ∧ (F.ffma r z x y k = quiet ∨ F.ffma r z x y k = invalid))
    ∧ (nan x ∨ nan y → ¬ sig x → ¬ sig y → ¬ sig k → F.ffma r z x y k = quiet)
    ∧ (sig k → F.frnd r z k = invalid ∧ ∀ b, F.fscale r z k b = invalid)
    ∧ (nan k → ¬ sig k → F.frnd r z k = quiet ∧ ∀ b, F.fscale r z k b = quiet)
    ∧ (∀ mx, nan x → nan y → F.minmax mx z x y = if F.decode x = .nan true ∨ F.decode y = .nan true then invalid else quiet)
    ∧ (∀ mx, nan x → ¬ nan y → (F.minmax mx z x y).2 = (if F.decode x = .nan true then fIV else 0)
        ∧ (F.minmax mx z y x).2 = if F.decode x = .nan true then fIV else 0)
    ∧ (∀ (c b : Machine.Num) (sat : Bool), (c.isNan = true ∨ (F.decode x).isNan = true ∨ b.isNan = true → (accStep F r c (F.decode x) b).isNan = true)
        ∧ ∀ q, accFinish F r sat (.nan q) = F.nan))
  ∧ (∀ (dst : CvtFmt) (G : Fmt) (src : CvtFmt) (F : Fmt) (r : Rnd) (sat : Bool) (x : Nat),
    (dst, G) ∈ [(CvtFmt.f64, Fmt.f64), (.f32, .f32), (.bf16, .bf16), (.f16, .f16), (.e4m3, .e4m3), (.e5m2, .e5m2)] →
    (src, F) ∈ [(CvtFmt.f64, Fmt.f64), (.f32, .f32), (.bf16, .bf16), (.f16, .f16), (.e4m3, .e4m3), (.e5m2, .e5m2)] → x < 2 ^ (1 + F.exp + F.frac) →
    (F.decode x).isNan = true →
      convert dst src r sat x = (G.nan, if F.decode x = .nan true ∨ (dst = .e4m3 ∧ sat = false) then fIV else 0))
  ∧ (∀ (r : Rnd) (z sat : Bool) (fn : SfuFn) (a b : Word) (e sc S : Nat), (Fmt.f32.decode a.toNat).isNan = true →
    qsclOf true sat a b = (0x7FC0, fIV) ∧ qsclOf false sat a b = (0xFF, fIV) ∧ sfuResult fn z a = 0x7FC00000
    ∧ (sc = 0xFF ∨ (Fmt.bf16.decode S).isNan = true → (qxp4Of r e sc S).1 = 0x7FC00000))
  ∧ (∀ (op : RedOp) (xs : List Word), op ∈ [RedOp.fadd, .fmin, .fmax] → (Fmt.f32.decode (redFold op xs).toNat).isNan = true → redFold op xs = 0x7FC00000)

/-- O27. In FP16, BF16, FP32 and FP64, for finite operands, a subnormal one read as a zero of its sign under flush: the sum, the difference, the product, the fused multiply-add and a × 2^b deliver the exact value rounded once in the mode to the destination (to nearest with ties to the even code, toward 0, +∞ or −∞), an exact zero with the sign that R82 gives it, a value beyond the largest finite one as the mode overflows, under flush a subnormal result as a zero of its sign, with the exceptions OF, UF and NX of R85 and no other. FRND gives the integral value of the mode and the sign of the operand and raises nothing; infinities add and multiply as IEEE 754 has them, ∞ − ∞ and ∞ × 0 being invalid; minimum and maximum give one of the operands by order, −0 below +0, and the other operand of a NaN; the six compares give the numeric relation, −0 equal to +0, and with a NaN only .ne, or all six under .unord. A conversion between the float formats delivers the rounded value likewise (E2M1 to nearest and saturating; .sat gives the largest finite value and inexact alone), and of an infinity what Table 5-7 and R88 give (between equal formats under .sat the largest finite value: assumption 67); to an integer the rounded value, clamped with invalid, 0 for a NaN; from an integer the rounded value; between integers the truncated or clamped one. QSCL, QPK4 and QXP4 give the scale, the elements and the values of R119 and R120. Codes decode as Tables 5-1 and 5-2 say. That flush serves BF16 (assumption 77) and that QSCL under a zero S of either sign gives 0 (assumption 50) is the model's choice. (spec/05_numbers.md, Formats (R76 to R78), Tables 5-1 and 5-2; spec/05_numbers.md, Rounding, flushing and special values (R82, R83); spec/05_numbers.md, Exceptions (R85); spec/05_numbers.md, Conversion (R86 to R88), Table 5-7; spec/05_numbers.md, Quantisation to HF4 (R90); spec/07_isa_compute.md, Table 7-5; spec/07_isa_compute.md, FP32 and FP64 (R112, R113); spec/07_isa_compute.md, Conversion and quantisation (R117 to R120)) -/
def Obligations.RoundedResults : Prop :=
  let floats : List (CvtFmt × Fmt) := [(.f64, .f64), (.f32, .f32), (.bf16, .bf16), (.f16, .f16), (.e4m3, .e4m3), (.e5m2, .e5m2), (.e2m1, .e2m1)]
  -- integer formats: signed or not, and their bits
  let ints : List (CvtFmt × Bool × Nat) :=
    [(.i32, true, 32), (.n32, false, 32), (.i64, true, 64), (.n64, false, 64), (.i8, true, 8), (.n8, false, 8), (.i16, true, 16), (.n16, false, 16)]
  let lo : Bool → Nat → ℤ := fun sg n => if sg then -2 ^ (n - 1) else 0
  let hi : Bool → Nat → ℤ := fun sg n => if sg then 2 ^ (n - 1) - 1 else 2 ^ n - 1
  let int : Bool → Nat → Nat → ℤ := fun sg n x => if sg ∧ 2 ^ (n - 1) ≤ x % 2 ^ n then ((x % 2 ^ n : Nat) : ℤ) - 2 ^ n else ((x % 2 ^ n : Nat) : ℤ)
  -- an integer as its register or pair holds it
  let enc : Nat → ℤ → Nat := fun n t => (t % 2 ^ (if n = 64 then 64 else 32)).toNat
  -- the largest finite value and the smallest subnormal one
  (∀ p ∈ [(Fmt.f64, ((2 : ℚ) - 2 ^ (-52 : ℤ)) * 2 ^ (1023 : ℤ), (2 : ℚ) ^ (-1074 : ℤ)), (.f32, (2 - 2 ^ (-23 : ℤ)) * 2 ^ (127 : ℤ), 2 ^ (-149 : ℤ)),
      (.f16, 65504, 2 ^ (-24 : ℤ)), (.bf16, (2 - 2 ^ (-7 : ℤ)) * 2 ^ (127 : ℤ), 2 ^ (-133 : ℤ)), (.e4m3, 448, 2 ^ (-9 : ℤ)),
      (.e5m2, 57344, 2 ^ (-16 : ℤ)), (.e2m1, 6, 1 / 2), (.e3m5, 31, 2 ^ (-7 : ℤ))], p.1.max = p.2.1 ∧ (p.1.decode 1).val = p.2.2)
  ∧ ((List.range 8).map fun k => (Fmt.e2m1.decode k).val) = [0, 1 / 2, 1, 3 / 2, 2, 3, 4, 6]
  -- arithmetic
  ∧ (∀ (F : Fmt) (r : Rnd) (z : Bool) (x y k : Nat), F ∈ [Fmt.f16, Fmt.bf16, Fmt.f32, Fmt.f64] →
    let fin : Nat → Prop := fun x => (F.decode x).isFin = true
    let neg : Nat → Bool := fun x => (F.decode x).isNeg
    let val : Nat → ℚ := fun x => if z = true ∧ |(F.decode x).val| < F.tiny then 0 else (F.decode x).val
    let inf : Bool → Nat × Flags := fun n => (F.infCode + if n then F.signBit else 0, 0)
    let invalid : Nat × Flags := (F.nan, fIV)
    let zero : Bool := r == .rd
    (fin x → fin y →
      F.Delivers r z false (if val x = 0 ∧ val y = 0 ∧ neg x = neg y then neg x else zero) (val x + val y) (F.fadd r z x y)
      ∧ F.Delivers r z false (if val x = 0 ∧ val y = 0 ∧ neg x ≠ neg y then neg x else zero) (val x - val y) (F.fsub r z x y)
      ∧ F.Delivers r z false (neg x != neg y) (val x * val y) (F.fmul r z x y)
      ∧ (fin k → F.Delivers r z false (if val x * val y = 0 ∧ val k = 0 ∧ (neg x != neg y) = neg k then neg k else zero)
          (val x * val y + val k) (F.ffma r z x y k)))
    ∧ (fin x → (∀ b : ℤ, F.Delivers r z false (neg x) (val x * 2 ^ b) (F.fscale r z x b))
      ∧ (F.frnd r z x).2 = 0 ∧ ∃ t n, RoundsToInt r (val x) t ∧ n ≤ F.maxCode ∧ (F.frnd r z x).1 = (if neg x then F.signBit else 0) + n
        ∧ (F.decode n).val = |(t : ℚ)|)
    ∧ (∀ n, F.decode x = .inf n →
      F.frnd r z x = inf n ∧ (∀ b, F.fscale r z x b = inf n)
      ∧ (fin y → F.fadd r z x y = inf n ∧ F.fadd r z y x = inf n ∧ F.fsub r z x y = inf n ∧ F.fsub r z y x = inf !n
        ∧ F.fmul r z x y = (if val y = 0 then invalid else inf (n != neg y)) ∧ F.fmul r z y x = (if val y = 0 then invalid else inf (n != neg y))
        ∧ (fin k → F.ffma r z x y k = (if val y = 0 then invalid else inf (n != neg y)) ∧ F.ffma r z k y x = inf n))
      ∧ (∀ m, F.decode y = .inf m → F.fadd r z x y = (if n = m then inf n else invalid) ∧ F.fsub r z x y = (if n = m then invalid else inf n)
        ∧ F.fmul r z x y = inf (n != m) ∧ (fin k → val k ≠ 0 → F.ffma r z x k y = if (n != neg k) = m then inf m else invalid)))
    ∧ (let code : Nat → Nat := fun x => if fin x ∧ z = true ∧ |(F.decode x).val| < F.tiny then (if neg x then F.signBit else 0) else x
      x < 2 * F.signBit → y < 2 * F.signBit →
      ((F.decode x).isNan = false → (F.decode y).isNan = false → ∀ mx, (F.minmax mx z x y).2 = 0 ∧ ∃ a b, (a = code x ∧ b = code y ∨ a = code y ∧ b = code x)
        ∧ (F.minmax mx z x y).1 = a ∧ (if mx then (F.decode b).Le (F.decode a) else (F.decode a).Le (F.decode b))
        ∧ ((F.decode a).Le (F.decode b) → (F.decode b).Le (F.decode a) → if mx then neg a = true → neg b = true else neg b = true → neg a = true))
      ∧ ((F.decode x).isNan = true → (F.decode y).isNan = false → ∀ mx, (F.minmax mx z x y).1 = code y ∧ (F.minmax mx z y x).1 = code y)
      ∧ (∀ c un, ((F.decode x).isNan = true ∨ (F.decode y).isNan = true → (floatCmp F c un z x y).1 = (un || c == .ne))
        ∧ ((F.decode x).isNan = false → (F.decode y).isNan = false →
          let le := (F.decode (code x)).Le (F.decode (code y))
          let ge := (F.decode (code y)).Le (F.decode (code x))
          (floatCmp F c un z x y).2 = 0 ∧ ((floatCmp F c un z x y).1 = true ↔ match c with
            | .eq => le ∧ ge
            | .ne => ¬ (le ∧ ge)
            | .lt => ¬ ge
            | .le => le
            | .gt => ¬ le
            | .ge => ge)))))
  -- conversions
  ∧ (∀ (dst : CvtFmt) (G : Fmt) (src : CvtFmt) (F : Fmt) (r : Rnd) (sat : Bool) (x : Nat), (dst, G) ∈ floats → (src, F) ∈ floats → x < 2 * F.signBit →
    ((F.decode x).isFin = true → G.Delivers (if dst = .e2m1 then .rn else r) false (sat || dst == .e2m1) (F.decode x).isNeg (F.decode x).val (convert dst src r sat x))
    ∧ (∀ n, F.decode x = .inf n → convert dst src r sat x =
        if dst = .e2m1 ∨ sat = true then (G.maxCode + (if n then G.signBit else 0), fNX)
        else if dst = .e4m3 then (G.nan, fIV) else (G.infCode + (if n then G.signBit else 0), 0))
    ∧ (dst = .e2m1 → (F.decode x).isNan = true → convert dst src r sat x = (0, fIV)))
  ∧ (∀ (dst : CvtFmt) (sg : Bool) (n : Nat) (src : CvtFmt) (F : Fmt) (r : Rnd) (sat : Bool) (x : Nat), (dst, sg, n) ∈ ints → (src, F) ∈ floats →
    x < 2 * F.signBit →
    ((F.decode x).isFin = true → ∃ t, RoundsToInt r (F.decode x).val t ∧ convert dst src r sat x =
        if t < lo sg n then (enc n (lo sg n), fIV) else if hi sg n < t then (enc n (hi sg n), fIV)
        else (enc n t, if (t : ℚ) = (F.decode x).val then 0 else fNX))
    ∧ (∀ m, F.decode x = .inf m → convert dst src r sat x = (enc n (if m then lo sg n else hi sg n), fIV))
    ∧ ((F.decode x).isNan = true → convert dst src r sat x = (0, fIV)))
  ∧ (∀ (dst : CvtFmt) (G : Fmt) (src : CvtFmt) (sg : Bool) (n : Nat) (r : Rnd) (sat : Bool) (x : Nat), (dst, G) ∈ floats → (src, sg, n) ∈ ints →
    G.Delivers (if dst = .e2m1 then .rn else r) false (sat || dst == .e2m1) false (int sg n x : ℤ) (convert dst src r sat x))
  ∧ (∀ (dst : CvtFmt) (sg : Bool) (n : Nat) (src : CvtFmt) (sg' : Bool) (n' : Nat) (r : Rnd) (sat : Bool) (x : Nat), (dst, sg, n) ∈ ints → (src, sg', n') ∈ ints →
    let t := int sg' n' x
    convert dst src r sat x = (enc n (if sat then max (lo sg n) (min (hi sg n) t) else int sg n (t % 2 ^ n).toNat), 0))
  -- HF4
  ∧ (∀ (sat : Bool) (a b : Word), (Fmt.f32.decode a.toNat).isFin = true →
    let v := |(Fmt.f32.decode a.toNat).val|
    let S := Fmt.bf16.decode (b.toNat % 2 ^ 16)
    (∃ q, Fmt.bf16.RoundsTo .ru (v / 186) q ∧ (qsclOf true sat a b).1 ≤ Fmt.bf16.maxCode ∧ (Fmt.bf16.decode (qsclOf true sat a b).1).val = q
      ∧ (qsclOf true sat a b).2 = if q = v / 186 then 0 else fNX)
    ∧ (S.isFin = false ∨ S.val < 0 → qsclOf false sat a b = (0xFF, fIV))
    ∧ (S.isFin = true → S.val = 0 → qsclOf false sat a b = (0, 0))
    ∧ (S.isFin = true → 0 < S.val → 31 < v / (6 * S.val) → qsclOf false sat a b = if sat then (0xFE, fNX) else (0xFF, fIV))
    ∧ (S.isFin = true → 0 < S.val → v / (6 * S.val) ≤ 31 → ∃ q, Fmt.e3m5.RoundsTo .ru (v / (6 * S.val)) q ∧ (qsclOf false sat a b).1 ≤ 0xFE
      ∧ (Fmt.e3m5.decode (qsclOf false sat a b).1).val = q ∧ (qsclOf false sat a b).2 = if q = v / (6 * S.val) then 0 else fNX))
  ∧ (∀ (xs : List Word) (b : Word), xs.length = 8 →
    let sc := b.toNat % 2 ^ 8
    let S := Fmt.bf16.decode (b.toNat / 2 ^ 16)
    let s := (Fmt.e3m5.decode sc).val
    (sc = 0xFF ∨ S.isFin = false → qpk4Of xs b = (0, fIV))
    ∧ (sc ≠ 0xFF → S.isFin = true → ∃ es : List (Nat × Flags), es.length = 8
      ∧ qpk4Of xs b = (((List.range 8).map fun j => 16 ^ j * ((es[j]?).getD (0, 0)).1).sum, (es.foldl (fun f e => f ||| e.2) 0) &&& 17)
      ∧ ∀ (j : Nat) (x : Word) (e : Nat × Flags), xs[j]? = some x → es[j]? = some e →
        (s = 0 ∨ S.val = 0 → e = (if x.msb then 8 else 0, 0))
        ∧ (s ≠ 0 → S.val ≠ 0 → match Fmt.f32.decode x.toNat with
          | .nan _ => e = (0, fIV)
          | .inf n => e = (if (n != S.isNeg) = true then 15 else 7, fNX)
          | .fin n m k => Fmt.e2m1.Delivers .rn false true (n != S.isNeg) ((Machine.Num.fin n m k).val / (s * S.val)) e)))
  ∧ (∀ (r : Rnd) (e sc : Nat) (S : Nat), e < 16 → sc < 0xFF →
    let E := Fmt.e2m1.decode e
    let s := (Fmt.e3m5.decode sc).val
    let B := Fmt.bf16.decode S
    (B.isFin = true → Fmt.f32.Delivers r false false (E.isNeg != B.isNeg) (E.val * s * B.val) (qxp4Of r e sc S))
    ∧ (∀ n, B = .inf n → qxp4Of r e sc S = if E.val = 0 ∨ s = 0 then (Fmt.f32.nan, fIV) else (Fmt.f32.infCode + (if (n != E.isNeg) = true then Fmt.f32.signBit else 0), 0)))

/-- O28. In FP32 and FP64, for every finite number that is not zero, the sum of it and its negation is a zero whose sign is + in every rounding mode except toward −∞, where it is −, and raises no exception. (spec/05_numbers.md, Rounding (R82)) -/
def Obligations.ExactZeroSums : Prop :=
  ∀ (F : Fmt) (r : Rnd) (x : Nat), F ∈ [Fmt.f32, Fmt.f64] → 0 < x → x ≤ F.maxCode →
    F.fadd r false x (x + F.signBit) = (if r = .rd then F.signBit else 0, 0)
    ∧ F.fsub r false x x = (if r = .rd then F.signBit else 0, 0)

/-- O29. For every code in FP16, BF16, FP32 and FP64, the class mask is one power of two below 2^10. (spec/07_isa_compute.md, FP32 and FP64 (R114)) -/
def Obligations.ClassesAreExclusive : Prop :=
  ∀ (F : Fmt) (x : Nat), F ∈ [Fmt.f16, Fmt.bf16, Fmt.f32, Fmt.f64] → ∃ k, k < 10 ∧ F.classOf x = 2 ^ k

/-- O30. When it issues, SFQ completes by putting, behind the queue of every active lane, an entry that is not filled and holds the function's result; QPOP by taking the oldest entry of every active lane's queue and queueing its value for d, scoreboarded; QLEN by queueing the number of entries. What the function returns within the errors of Table 7-9 is the model's choice (assumption 9). (spec/07_isa_compute.md, Special-function queues (R121, R122)) -/
def Obligations.SpecialFunctionQueues : Prop :=
  ∀ (h : Hdr) (fn : SfuFn) (z q : Bool) (d a : BitVec 10) (s : State) (c : Ctx) (t : State),
    let k : Nat := if q then 1 else 0
    (Issues (.sfq h fn z q a) s c t → exec (.sfq h fn z q a) s = .next (c.after (t.mapWarp c.ref fun w => c.lanes.foldl (fun w l =>
      w.setQueue l k (w.queue l k ++ [{ val := sfuResult fn z (c.v l a), filled := false }])) w)))
    ∧ (Issues (.qpop h d q) s c t → exec (.qpop h d q) s = .next (c.after (c.late
        (t.mapWarp c.ref fun w => c.lanes.foldl (fun w l => w.setQueue l k ((w.queue l k).drop 1)) w) .plain 0
        (c.lanes.filterMap fun l => ((c.w.queue l k).head?).map fun x => (RegId.v l d.toNat, x.val)))))
    ∧ (Issues (.qlen h d q) s c t → exec (.qlen h d q) s
      = .next (c.gives t (c.each d fun l => BitVec.ofNat 32 (c.w.queue l k).length)))

/-- O31. When it issues, each completes and queues for every active lane: SHFL the source lane's register, or 0, and whether the source is live; QEX the quad neighbour's register; VOTE the vote of the participants; BALLOT, MATCH and ACTM lane masks; ELECT true in the lowest participant alone; REDUX the fold of the participants in lane order; SCAN the fold of those up to, or below, the lane, and the identity in a helper lane; TOPK the ranked pairs. A fold of nothing is the identity of Table 7-11, a fold of one value that value (a NaN in its canonical encoding in the floating-point operations: the fold begins at the first value, assumption 27), and each further value takes one step of the table; the ranked pairs are the participants' pairs in descending rank, NaN below −∞, equal ranks by ascending lane. (spec/07_isa_compute.md, Cross-lane instructions (R125 to R130); spec/07_isa_compute.md, Tables 7-10 and 7-11) -/
def Obligations.CrossLaneResults : Prop :=
  ∀ (h : Hdr) (mode : ShflMode) (dir : QexDir) (vk : VoteKind) (op : RedOp) (w64 exc : Bool) (k : BitVec 4) (d a : BitVec 10) (b : BSrc)
    (pd pa : BitVec 3) (s : State) (c : Ctx) (t : State),
    let wide := c.blk.decl.width == 64
    let mask : Nat → Mask → List (RegId × Word) := fun l m => (.v l d.toNat, m.extractLsb' 0 32) :: if wide then [(.v l (d.toNat + 1), m.extractLsb' 32 32)] else []
    let rd : Nat → DWord := fun l => if w64 then c.v64 l a else (c.v l a).setWidth 64
    let wr : Nat → DWord → List (RegId × Word) := fun l x => (.v l d.toNat, x.extractLsb' 0 32) :: if w64 then [(.v l (d.toNat + 1), x.extractLsb' 32 32)] else []
    let held : Nat → DWord := fun l => if (c.w.live ||| c.w.helpers).getLsbD l = true then rd l else 0
    let src : Nat → Nat := fun l => (Int.emod (match mode with
      | .idx => (bval c.w b l).toInt
      | .up => (l : Int) - (bval c.w b l).toInt
      | .down => (l : Int) + (bval c.w b l).toInt
      | .xor => (BitVec.ofNat 32 l ^^^ bval c.w b l).toInt) c.blk.decl.width).toNat
    let nb : Nat → Nat := fun l => 4 * (l / 4) + Nat.xor (l % 4) (match dir with
      | .h => 1
      | .v => 2
      | .d => 3)
    let ps := c.live.map fun l => c.w.rp l pa.toNat
    (Issues (.shfl h mode w64 d a b pd) s c t → exec (.shfl h mode w64 d a b pd) s = .next (c.gives t (c.lanes.flatMap fun l =>
      wr l (held (src l)) ++ [(.p l pd.toNat, if (c.w.live ||| c.w.helpers).getLsbD (src l) && c.w.live.getLsbD (src l) then 1 else 0)])))
    ∧ (Issues (.qex h dir w64 d a) s c t → exec (.qex h dir w64 d a) s = .next (c.gives t (c.lanes.flatMap fun l => wr l (held (nb l)))))
    ∧ (Issues (.vote h vk pd pa) s c t → exec (.vote h vk pd pa) s = .next (c.gives t (c.eachP pd.toNat fun _ => match vk with
      | .all => ps.all id
      | .any => ps.any id
      | .uni => ps.all id || ps.all fun p => !p)))
    ∧ (Issues (.ballot h d pa) s c t → exec (.ballot h d pa) s
      = .next (c.gives t (c.lanes.flatMap fun l => mask l (Mask.ofLanes (c.live.filter fun l => c.w.rp l pa.toNat)))))
    ∧ (Issues (.matchv h w64 d a) s c t → exec (.matchv h w64 d a) s = .next (c.gives t (c.lanes.flatMap fun l =>
      mask l (if c.act.getLsbD l = true then Mask.ofLanes (c.live.filter fun j => rd j == rd l) else 0))))
    ∧ (Issues (.redux h op d a) s c t → exec (.redux h op d a) s
      = .next (c.gives t (c.each d fun _ => redFold op (c.live.map fun l => c.v l a))))
    ∧ (Issues (.scan h op exc d a) s c t → exec (.scan h op exc d a) s = .next (c.gives t (c.each d fun l =>
      if c.act.getLsbD l = true then redFold op ((c.live.filter fun j => if exc then decide (j < l) else decide (j ≤ l)).map fun j => c.v j a)
      else redIdentity op)))
    ∧ (Issues (.topk h k d a) s c t → exec (.topk h k d a) s = .next (c.gives t (c.lanes.flatMap fun l =>
      let L := c.live.foldl (fun acc j => insertRank (c.v j a, j) acc) []
      let x := ((if l < k.toNat then L[l]? else none).map fun p => (p.1, BitVec.ofNat 32 p.2)).getD (0xFF800000, 0xFFFFFFFF)
      [(.v l d.toNat, x.1), (.v l (d.toNat + 1), x.2)])))
    ∧ (Issues (.elect h pd) s c t → exec (.elect h pd) s = .next (c.gives t (c.eachP pd.toNat fun l => c.live.head? == some l)))
    ∧ (Issues (.actm h d) s c t → exec (.actm h d) s = .next (c.gives t (c.lanes.flatMap fun l => mask l c.act)))
    -- the folds and the ranking
    ∧ redFold op [] = (match op with
        | .add => 0
        | .mins => 0x7FFFFFFF
        | .maxs => 0x80000000
        | .minun => 0xFFFFFFFF
        | .maxun => 0
        | .and => 0xFFFFFFFF
        | .or => 0
        | .xor => 0
        | .fadd => 0x80000000
        | .fmin => 0x7F800000
        | .fmax => 0xFF800000)
    ∧ (∀ x, redFold op [x] = if op ∈ [RedOp.fadd, .fmin, .fmax] ∧ (Fmt.f32.decode x.toNat).isNan = true then 0x7FC00000 else x)
    ∧ (∀ xs y, xs ≠ [] →
        let x := redFold op xs
        redFold op (xs ++ [y]) = match op with
          | .add => x + y
          | .mins => if y.toInt < x.toInt then y else x
          | .maxs => if x.toInt < y.toInt then y else x
          | .minun => if y.toNat < x.toNat then y else x
          | .maxun => if x.toNat < y.toNat then y else x
          | .and => x &&& y
          | .or => x ||| y
          | .xor => x ^^^ y
          | .fadd => BitVec.ofNat 32 (Fmt.f32.fadd .rn false x.toNat y.toNat).1
          | .fmin => BitVec.ofNat 32 (Fmt.f32.minmax false false x.toNat y.toNat).1
          | .fmax => BitVec.ofNat 32 (Fmt.f32.minmax true false x.toNat y.toNat).1)
    ∧ (∀ xs : List (Word × Nat),
        let L := xs.foldl (fun acc p => insertRank p acc) []
        L.Perm xs ∧ (xs.Pairwise (fun p q => p.2 < q.2) → L.Pairwise fun p q => RanksFrom p.1 q.1 ∧ (RanksFrom q.1 p.1 → p.2 < q.2)))

/-- O32. When it issues and raises no enabled exception, a paired word with any of the thirty operations in slot 0 and any in slot 1 completes and queues the results of both slots, each computed from the registers as they stand at issue, in the lanes of its own guard; a null slot writes nothing. Each operation gives the result of its full-form namesake with a ← d and b ← s; a unary one reads s alone; AND, OR, XOR and ANDN act bit by bit; FNEG and FABS change only the sign bit. (spec/03_assembly_encoding.md, Paired words (R64, R65), Table 3-16; spec/07_isa_compute.md, Integer arithmetic (R102)) -/
def Obligations.PairedWords : Prop :=
  ∀ (op : PairOp) (p : Pair) (s : State) (c : Ctx) (t : State),
    let i := pairInstr op p
    let res : PairOp → Slot → Nat → Word × Flags := fun o x l =>
      let a := c.w.rv l x.d.toNat
      let b := c.w.rv l x.s.toNat
      let k := b.toNat % 32
      let f : Nat × Flags → Word × Flags := fun y => (BitVec.ofNat 32 y.1, y.2)
      let two : (Nat → Nat → Nat × Flags) → Word × Flags := fun g =>
        let u := g (a.extractLsb' 0 16).toNat (b.extractLsb' 0 16).toNat
        let v := g (a.extractLsb' 16 16).toNat (b.extractLsb' 16 16).toNat
        (BitVec.ofNat 32 (u.1 + 2 ^ 16 * v.1), u.2 ||| v.2)
      match o with
      | .iadd => (a + b, 0) | .isub => (a - b, 0) | .imul => (a * b, 0)
      | .imin => (if a.toInt ≤ b.toInt then a else b, 0) | .imax => (if a.toInt ≥ b.toInt then a else b, 0)
      | .and => (a &&& b, 0) | .or => (a ||| b, 0) | .xor => (a ^^^ b, 0) | .andn => (a &&& ~~~b, 0)
      | .ishl => (a <<< k, 0) | .ishr => (a >>> k, 0) | .ishra => (a.sshiftRight k, 0)
      | .mov => (b, 0) | .movs => (c.w.rs (x.s.toNat % 128), 0) | .ineg => (-b, 0)
      | .iabs => (if b.toInt < 0 then -b else b, 0)
      | .popc => (popcOf b, 0) | .clz => (clzOf b, 0) | .brev => (brevOf b, 0)
      | .fadd => f (Fmt.f32.fadd x.rnd x.ftz a.toNat b.toNat) | .fsub => f (Fmt.f32.fsub x.rnd x.ftz a.toNat b.toNat)
      | .fmul => f (Fmt.f32.fmul x.rnd x.ftz a.toNat b.toNat)
      | .fmin => f (Fmt.f32.minmax false x.ftz a.toNat b.toNat) | .fmax => f (Fmt.f32.minmax true x.ftz a.toNat b.toNat)
      | .fneg => (b ^^^ 0x80000000, 0) | .fabs => (b &&& 0x7FFFFFFF, 0)
      | .hadd2 => two fun u v => Fmt.f16.fadd x.rnd x.ftz u v
      | .hmul2 => two fun u v => Fmt.f16.fmul x.rnd x.ftz u v
      | .hmin2 => two fun u v => Fmt.f16.minmax false x.ftz u v
      | .hmax2 => two fun u v => Fmt.f16.minmax true x.ftz u v
    let lanes : PairOp → Slot → Mask := fun o x => if isNullSlot o x then 0 else guardMask c.w x.n x.g c.run.lanes
    let writes : PairOp → Slot → List (RegId × Word) := fun o x =>
      ((lanes o x ||| c.w.helpersOf (lanes o x)).lanes 64).map fun l => (.v l x.d.toNat, (res o x l).1)
    let quiet : PairOp → Slot → Prop := fun o x => ∀ l ∈ (lanes o x).lanes 64, (res o x l).2 &&& (t.vf c.blk.vf).fpxctl.setWidth 5 = 0
    Issues i s c t → quiet op p.slot0 → quiet p.op1 p.slot1 →
      exec i s = .next (c.gives t (writes op p.slot0 ++ writes p.op1 p.slot1))

/-- O33. A full-form word that has an effect in lanes, and issues with no active lane in a block at which the end of a step completes nothing, leaves the state in which its run alone has moved on: no register, predicate, queue, set, barrier, rod or memory changes, nothing is queued, started, signed or performed, and no lane ends, waits or traps. So do the words that write vector or predicate registers lane by lane (integer, logic, compare, move, floating-point, conversion and cross-lane instructions), SFQ and QPOP, SRD and VTOS, REGRP, EXIT, YIELD, NAP, TRAP, BKPT, RTT and NOP, the rejoin sets, the barriers, every load, store and atomic, FENCE, FENCER and RODDEF, the futures, SPAWN and LNCH, the matrix words, the transfers and the view words. (Scalar instructions act once whatever lanes are active, R109; with no active lane a branch or call moves no lane, ControlTransfers.) (spec/03_assembly_encoding.md, Checks (R75); spec/01_machine.md, Runs (R19)) -/
def Obligations.GuardedOffWordsChangeNothing : Prop :=
  ∀ (i : Instr) (s : State) (c : Ctx) (t : State), (i.laneResult = true ∨ i.needsLane = true) → Issues i s c t → c.act = 0 → c.all = 0 →
    (∀ b, t.block? c.ref.blk = some b → b.Quiet) →
    exec i s = .next t
    ∧ t = s.setWarp c.ref (c.w.setRun c.run.lanes fun x => x.advance s.clock c.blk.cycles (stallOf i) (yieldOf i))

/-- O34. When a word that writes vector or predicate registers lane by lane (or a scalar instruction) gives a next state in a block at which the end of a step completes nothing, and no floating-point exception is enabled, every byte of every memory reads as before, store queues and writes in flight are unchanged, every register of every warp reads as before (those of its own warp as they stand when results due have landed), as do queues, sets, barriers, call depths, %sp and the trap record. Of its own warp, as it stands when results due have landed, all but two fields are as before: its run, and no other, has moved on as R67 and R22 say, and results are queued, each for a register the word names as a destination and due at the word's landing cycle. Of its block nothing but that warp differs, of the machine nothing but that block. (spec/07_isa_compute.md (introduction); spec/01_machine.md, Runs (R19); spec/03_assembly_encoding.md, Results and scoreboard (R67, R68)) -/
def Obligations.RegisterWordsFrame : Prop :=
  ∀ (i : Instr) (s : State) (c : Ctx) (t u : State), (i.laneResult = true ∨ i.scalarResult = true) → Issues i s c t →
    (∀ b, t.block? c.ref.blk = some b → b.Quiet) →
    (t.vf c.blk.vf).fpxctl.setWidth 5 = 0 →
    exec i s = .next u →
    SameMemory s u
    ∧ (∀ r, r ≠ c.ref → u.warp? r = s.warp? r)
    ∧ (∃ w, u.warp? c.ref = some w ∧ SameRegs c.w w ∧ w.storeQ = c.w.storeQ
        ∧ w = { c.w with
          pend := w.pend
          runs := (c.w.setRun c.run.lanes fun x => x.advance s.clock c.blk.cycles (stallOf i) (yieldOf i)).runs }
        ∧ u.block? c.ref.blk = some { c.blk with warps := listSet c.blk.warps c.ref.num w }
        ∧ ∀ p ∈ w.pend, p ∈ c.w.pend ∨ (p.due = c.land ∧ p.reg ∈ writtenBy i c))
    ∧ (∀ id, id ≠ c.ref.blk → u.block? id = s.block? id)
    ∧ { u with blocks := s.blocks } = s

/-- O35. When it issues, BRA sends every active live lane to the address of the word plus 8 times its immediate, BRX to the pair with bits [2:0] cleared; CALL and CALLX, where no active live lane's call would overflow its stack or depth, make a call record in every active lane (a helper lane whose call would trap makes none) and send the live ones to the target; RET, where no active live lane's return traps, takes every active lane at a depth above 0 out of its innermost call to the address its record holds, and a live lane at depth 0 exits. The other lanes of the run go on at the next word. (spec/11_isa_control.md, Branches and calls (R190 to R192); spec/11_isa_control.md, Table 11-1; spec/03_assembly_encoding.md, Format F-B (R58)) -/
def Obligations.ControlTransfers : Prop :=
  ∀ (h : Hdr) (imm : BitVec 26) (a frame : BitVec 10) (s : State) (c : Ctx) (t : State),
    let near : DWord := c.run.pc + imm.signExtend 64 * 8
    let far : Nat → DWord := fun l => c.v64 l a &&& ~~~7
    let calls : Nat → State := fun k => t.mapWarp c.ref fun w => (c.lanes.filter fun l => !callBad c.blk c.w k l).foldl (fun w l => w.call l k (c.run.pc + 8)) w
    (Issues (.bra h imm) s c t → exec (.bra h imm) s = .next (c.after (c.jump t (c.live.map fun l => (l, near)))))
    ∧ (Issues (.brx h a) s c t → exec (.brx h a) s = .next (c.after (c.jump t (c.live.map fun l => (l, far l)))))
    ∧ (Issues (.call h imm) s c t → (∀ l ∈ c.live, callBad c.blk c.w 0 l = false) →
        exec (.call h imm) s = .next (c.after (c.jump (calls 0) (c.live.map fun l => (l, near)))))
    ∧ (Issues (.callx h a frame) s c t → (∀ l ∈ c.live, callBad c.blk c.w (16 * frame.toNat) l = false) →
        exec (.callx h a frame) s = .next (c.after (c.jump (calls (16 * frame.toNat)) (c.live.map fun l => (l, far l)))))
    ∧ (Issues (.ret h) s c t → (∀ l ∈ c.live, retTrap c.blk c.w l = none) →
        let back := c.live.filter fun l => c.w.depth1 l != 0
        let helps := ((c.all.diff c.act).lanes 64).filter fun l => c.w.depth1 l != 0 && (retTrap c.blk c.w l).isNone
        let u := t.mapWarp c.ref fun w => (back ++ helps).foldl (fun w l => w.uncall l) w
        exec (.ret h) s = .next (c.after ((c.jump u (back.map fun l =>
            (l, BitVec.ofNat 64 (leValue (c.w.stackRead l ((c.w.sp1 l).toNat - 16) 8)) &&& ~~~7))).exitLanes c.ref
          (Mask.ofLanes (c.live.filter fun l => c.w.depth1 l == 0)))))

/-- O36. A call of a lane with frame k, where it does not overflow, writes a record of 16 bytes at %sp + k; leaving that call gives %sp and the call depth their values before the call, the record holds the return address, and the bytes of the stack below the record and of other lanes are unchanged. (spec/11_isa_control.md, Calls (R191, R192)) -/
def Obligations.CallThenReturn : Prop :=
  ∀ (b : Block) (w : Warp) (l k : Nat) (back : DWord), callBad b w k l = false → b.decl.stack ≤ 2 ^ 20 → (w.sp1 l).toNat % 16 = 0 →
    let u := w.call l k back
    leValue (u.stackRead l ((u.sp1 l).toNat - 16) 8) = back.toNat
    ∧ (u.uncall l).sp1 l = w.sp1 l ∧ (u.uncall l).depth1 l = w.depth1 l ∧ u.depth1 l = w.depth1 l + 1
    ∧ (∀ a, a < (w.sp1 l).toNat + k → u.stackByte l a = w.stackByte l a)
    ∧ (∀ m a, m ≠ l → a < 2 ^ 20 → u.stackByte m a = w.stackByte m a)

/-- O37. When it issues: EXIT ends its active live lanes, and at trap level ends trap level and every lane of %tmask; YIELD makes the run yield for 32 cycles with its counter 0; NAP blocks the active lanes until n cycles after its last issue cycle, or does nothing for n = 0; NOP does nothing; TRAP and BKPT take the traps 0x14 and 0x15 with the number as %tinfo in the active lanes; RTT returns from the trap at trap level, and outside it traps PRIV. With no active lane none of them has an effect. That YIELD and PRIV need an active lane is read by inference (assumption 51). (spec/11_isa_control.md, Threads and traps (R193 to R196); spec/19_faults.md, Table 19-2) -/
def Obligations.ThreadControl : Prop :=
  ∀ (h : Hdr) (n : BitVec 16) (m : RttMode) (s : State) (c : Ctx) (t : State),
    (Issues (.exit h) s c t → c.act ≠ 0 → c.w.trap = none → exec (.exit h) s = .next (c.after (t.exitLanes c.ref c.act)))
    ∧ (∀ lvl, Issues (.exit h) s c t → c.act ≠ 0 → c.w.trap = some lvl →
        exec (.exit h) s = .next (c.after ((t.mapWarp c.ref Warp.leaveTrap).exitLanes c.ref lvl.mask)))
    ∧ (Issues (.yield h) s c t → c.act ≠ 0 → exec (.yield h) s = .next (c.after (t.mapWarp c.ref fun w =>
        w.setRun c.run.lanes fun r => { r with age := 0, yieldEnd := some (t.clock + c.blk.cycles + 32) })))
    ∧ (Issues (.nap h n) s c t → n ≠ 0 → exec (.nap h n) s
        = .next (c.after (c.block t c.act (.nap (t.clock + c.blk.cycles + n.toNat)))))
    ∧ (Issues (.nap h 0) s c t → exec (.nap h 0) s = .next (c.after t))
    ∧ (Issues (.nop h) s c t → exec (.nop h) s = .next (c.after t))
    ∧ (Issues (.trap h n) s c t → c.act ≠ 0 → exec (.trap h n) s
        = .next (c.after (t.takeTrap c.ref c.run.pc c.act { cause := 0x14, info := n.setWidth 32 })))
    ∧ (Issues (.bkpt h n) s c t → c.act ≠ 0 → exec (.bkpt h n) s
        = .next (c.after (t.takeTrap c.ref c.run.pc c.act { cause := 0x15, info := n.setWidth 32 })))
    ∧ (Issues (.rtt h m) s c t → c.act ≠ 0 → c.w.trap.isSome = true → exec (.rtt h m) s
        = .next (c.after (t.returnTrap c.ref m c.nextAt)))
    ∧ (Issues (.rtt h m) s c t → c.act ≠ 0 → c.w.trap = none → exec (.rtt h m) s
        = .next (s.trapWord c.ref c.run.pc c.run.lanes c.w { cause := 0x16, info := 0xCA }))
    ∧ (∀ i ∈ [Instr.exit h, .yield h, .nap h n, .nop h, .trap h n, .bkpt h n, .rtt h m], Issues i s c t → c.act = 0 → exec i s = .next (c.after t))

/-- O38. A warp outside trap level whose interface names a handler takes a trap so: the trap record holds the cause, PC, mask, %tinfo and %tinfx; trap level holds the mask and the call depths and %sp of its lanes; those lanes leave their runs and form one run at the handler's code; every fixed-latency result issued has landed. A return ends trap level and resumes the live lanes of the mask as one run at the saved PC (.retry), at the next word (.skip), and under .auto at the next word for TRAP, BKPT and FDBL alone. (spec/19_faults.md, Taking a trap (R306, R307); spec/11_isa_control.md, RTT (R196); spec/19_faults.md, Table 19-2) -/
def Obligations.TrapEntryAndReturn : Prop :=
  ∀ (s : State) (r : WarpRef) (b : Block) (w : Warp) (e : CodeEntry) (pc : DWord) (mask : Mask) (x : Trap),
    s.block? r.blk = some b → s.warp? r = some w → w.trap = none → s.handler? b.vf = some e →
    (∃ w', (s.takeTrap r pc mask x).warp? r = some w'
      ∧ w'.trec = { cause := BitVec.ofNat 32 x.cause, pc := pc, mask := mask, info := x.info, infx := x.infx }
      ∧ (∃ lvl, w'.trap = some lvl ∧ lvl.mask = mask ∧ lvl.handler = e
          ∧ (∀ l, l < 64 → mask.getLsbD l = true → Sparse.get 0 lvl.depth l = w.depth1 l ∧ Sparse.get 0 lvl.sp l = w.sp1 l))
      ∧ w'.pend = [] ∧ w'.live = w.live
      ∧ (∃ run, w'.runs = dropLanes mask w.runs ++ [run] ∧ run.pc = e.code ∧ run.lanes = mask ∧ run.handler = true ∧ run.wait = none))
    ∧ ∀ (u : State) (k : Block) (v : Warp) (lvl : TrapLevel) (m : RttMode) (at_ : Nat),
        u.block? r.blk = some k → u.warp? r = some v → v.trap = some lvl → lvl.mask &&& v.live ≠ 0 →
        ∃ v', (u.returnTrap r m at_).warp? r = some v' ∧ v'.trap = none
          ∧ ∃ run, run ∈ v'.runs ∧ run.lanes = lvl.mask &&& v.live ∧ run.handler = false ∧ run.wait = none
            ∧ run.pc = match m with
              | .retry => v.trec.pc
              | .skip => v.trec.pc + 8
              | .auto => if v.trec.cause = 0x14 ∨ v.trec.cause = 0x15 ∨ v.trec.cause = 0x0F then v.trec.pc + 8 else v.trec.pc

/-- O39. When it issues: JENTER makes its active live lanes members, and a set that was empty takes the call depth of the lowest of them; JQUIT and JQUITM take the active live lanes out of the sets named and then check each for release, in ascending order; JWAIT marks the members among the active live lanes as arrived, blocks them and checks the set; JTEST and JMASK read the set as it stands. That the inactive lanes of JWAIT go on is read by inference (assumption 32). (spec/11_isa_control.md, Rejoin sets (R198 to R201), Table 11-4) -/
def Obligations.RejoinSets : Prop :=
  ∀ (h : Hdr) (j : BitVec 4) (mask : BitVec 16) (k : JtestKind) (part : JmaskPart) (pd : BitVec 3) (d : BitVec 10) (s : State) (c : Ctx) (t : State),
    let x := c.w.jset j.toNat
    let wide := c.blk.decl.width == 64
    let wr : Nat → Mask → List (RegId × Word) := fun l m => (.v l d.toNat, m.extractLsb' 0 32) :: if wide then [(.v l (d.toNat + 1), m.extractLsb' 32 32)] else []
    (Issues (.jenter h j) s c t → c.live ≠ [] → exec (.jenter h j) s = .next (c.after (t.mapWarp c.ref fun w =>
        w.setJset j.toNat { w.jset j.toNat with
          member := (w.jset j.toNat).member ||| c.act
          depth := if (w.jset j.toNat).member = 0 then w.depth1 (c.live.headD 0) else (w.jset j.toNat).depth })))
    ∧ (Issues (.jquit h j) s c t → c.act ≠ 0 → exec (.jquit h j) s = .next (c.after (t.mapWarp c.ref fun w => (w.quitSet c.act j.toNat).checkRelease j.toNat)))
    ∧ (Issues (.jquitm h mask) s c t → c.act ≠ 0 → exec (.jquitm h mask) s = .next (c.after (t.mapWarp c.ref fun w =>
        let js := (List.range 16).filter fun n => mask.getLsbD n
        js.foldl (fun w n => w.checkRelease n) (js.foldl (fun w n => w.quitSet c.act n) w))))
    ∧ (Issues (.jwait h j) s c t → c.act ≠ 0 → exec (.jwait h j) s = .next (c.after ((c.block
        (t.mapWarp c.ref fun w => w.setJset j.toNat { w.jset j.toNat with arrived := (w.jset j.toNat).arrived ||| (c.act &&& x.member) })
        (c.act &&& x.member) (.jwait j.toNat)).mapWarp c.ref fun w => w.checkRelease j.toNat)))
    ∧ (Issues (.jtest h k pd j) s c t → exec (.jtest h k pd j) s = .next (c.gives t (c.eachP pd.toNat fun l => match k with
      | .mem => x.member.getLsbD l
      | .live => x.member == c.w.live
      | .empty => x.member == 0)))
    ∧ (Issues (.jmask h part d j) s c t → exec (.jmask h part d j) s = .next (c.gives t (c.lanes.flatMap fun l => match part with
      | .mem => wr l x.member
      | .arr => wr l x.arrived
      | .dep => [(.v l d.toNat, BitVec.ofNat 32 x.depth)])))

/-- O40. When it issues with an active live lane: BARI makes the barrier READY with the expected warps and bytes, phase and arrivals kept where it was READY and 0 where it was not; on a READY barrier that is not LOST, BARX adds expected bytes, saturating; BARA reaches without parking and queues the phase; BAR reaches and parks; BARW parks while the phase equals the token; BARQ queues whether the phase differs from the token; each that changes the barrier ends with the arrival and completion checks. REGRP parks its active lanes where they are members of the set at depth 0. While a lane is parked the whole run waits (R17). With no active lane none of them has an effect. That BARI without an active lane sets nothing is read by inference (assumption 51). (spec/11_isa_control.md, Barriers (R205 to R213), Table 11-7; spec/07_isa_compute.md, Regrouping (R131)) -/
def Obligations.BarrierInstructions : Prop :=
  ∀ (h : Hdr) (bar : Bar) (n : BitVec 7) (b : BSrc) (d a : BitVec 10) (pd : BitVec 3) (desc : Bool) (j : BitVec 4) (s : State) (c : Ctx) (t : State),
    let k : Nat := if bar.clu then 16 + bar.num.toNat else bar.num.toNat
    let x := t.barrier c.ref.blk k
    let val := bval c.w b (c.live.headD 0)
    let up : Prop := c.act ≠ 0 ∧ x.ready = true ∧ x.lost = false
    (Issues (.bari h bar n b) s c t → c.act ≠ 0 → exec (.bari h bar n b) s =
        let u := if x.ready then t else t.mapBarWarps c.ref.blk k fun w =>
          { w with reach := Sparse.set 0 w.reach k 0, arrived := Sparse.set false w.arrived k false, dueAt := Sparse.set none w.dueAt k none }
        let y := if x.ready then x else { x with phase := 0, arrW := 0 }
        .next (c.after ((u.setBarrier c.ref.blk k { y with ready := true, expW := n.toNat, expB := val.toNat, arrB := 0 }).checkPhase c.ref.blk k)))
    ∧ (Issues (.barx h bar b) s c t → up → exec (.barx h bar b) s
        = .next (c.after ((t.setBarrier c.ref.blk k { x with expB := min 0xFFFFFFFF (x.expB + val.toNat) }).checkPhase c.ref.blk k)))
    ∧ (Issues (.bara h d bar) s c t → up → exec (.bara h d bar) s = .next (c.after
        ((((c.late t .plain 0 (c.each d fun _ => x.phase.setWidth 32)).mapWarp c.ref fun w => w.reachBar k c.act).checkArrive c.ref k).checkPhase c.ref.blk k)))
    ∧ (Issues (.bar h bar) s c t → up → exec (.bar h bar) s = .next (c.after
        ((((c.blockRun t (.bar k c.act)).mapWarp c.ref fun w => w.reachBar k c.act).checkArrive c.ref k).checkPhase c.ref.blk k)))
    ∧ (Issues (.barw h bar b) s c t → up → exec (.barw h bar b) s = .next (c.after
        (if x.phase.toNat = val.toNat % 2 ^ 16 then c.blockRun t (.barw k (val.toNat % 2 ^ 16)) else t)))
    ∧ (Issues (.barq h pd bar b) s c t → up → exec (.barq h pd bar b) s
        = .next (c.gives t (c.eachP pd.toNat fun _ => x.phase.toNat != val.toNat % 2 ^ 16)))
    ∧ (Issues (.regrp h desc d a n j) s c t → c.act ≠ 0 → c.act &&& ~~~(c.w.jset j.toNat).member = 0 → (∀ l ∈ c.live, c.w.depth1 l = 0) →
        exec (.regrp h desc d a n j) s = .next (c.after (c.blockRun t (.regrp desc d.toNat a.toNat n.toNat j.toNat c.act))))
    ∧ (∀ i ∈ [Instr.bari h bar n b, .barx h bar b, .bara h d bar, .bar h bar, .barw h bar b, .barq h pd bar b, .regrp h desc d a n j],
        Issues i s c t → c.act = 0 → exec i s = .next (c.after t))

/-- O41. BARX, BARA, BARW, BAR and BARQ with an active live lane, on a barrier that is not READY or is LOST, trap BLOST (0x0A) before any effect. (spec/11_isa_control.md, Barriers (R213), Table 11-8; spec/19_faults.md, Table 19-2) -/
def Obligations.LostBarriersTrap : Prop :=
  ∀ (h : Hdr) (bar : Bar) (b : BSrc) (d : BitVec 10) (pd : BitVec 3) (s : State) (c : Ctx) (t : State),
    let x := t.barrier c.ref.blk (barIdx bar)
    c.act ≠ 0 → (x.ready = false ∨ x.lost = true) →
    ∀ i ∈ [Instr.barx h bar b, .bara h d bar, .barw h bar b, .bar h bar, .barq h pd bar b], Issues i s c t →
      ∃ info, exec i s = .next (s.trapWord c.ref c.run.pc c.run.lanes c.w { cause := 0x0A, info := info })

/-- O42. In a block each of whose warps owes no arrival at a barrier and either has ended or has a live lane that has not signed and a run that is not blocked, the end of a step (arrivals, signing, regrouping, the conditions of R359) leaves the state as it is. (spec/19_faults.md, Conditions of a warp (R359); spec/07_isa_compute.md, Regrouping (R132); spec/13_isa_matrix_transfer.md, Team signing (R231)) -/
def Obligations.QuietStepsEnd : Prop :=
  ∀ (s : State) (r : WarpRef) (cand : Mask) (b : Block), s.block? r.blk = some b → b.Quiet → s.endStep r cand = s

/-- O43. Where every active live lane's address is aligned, inside its space and, for a load, clean of poison: LDS and LDX complete by starting a load whose accesses are the active lanes' (a helper lane whose own access fails, or whose address is poisoned, receives 0): one of up to 8 bytes per lane, of 16 bytes two of 8 with the lower first (R170). A load makes its first access per lane at once and the others later, and all of them later where it stands behind an access that is yet to be made (assumption 5); an access that is made writes the bytes at its place, low word first, 1 and 2 bytes zero-extended, scoreboarded: an acquire, and any load while no older value can still be returned, gives the bytes as the warp sees them behind its queue (assumption 68). LDK queues the bytes of the lane's stack. STS and STX complete by putting the low bytes of d behind the warp's store queue, lane by lane, with their address, 16 bytes as two stores of 8 with the lower first; STK by writing the lane's own stack at once (assumption 8); LDW by queueing the words that differ from d, each read as the newest, and parking the run on the others (assumption 32); behind an access that is yet to be made, by parking every lane before it reads. With no active lane none of them has an effect. An access of at most 8 bytes of a relaxed load of the scratchpad returns the bytes that its warp sees now with some of the newest past writes undone: each of them at or above the warp's floor (so that no write which happens before the load is undone), meeting the bytes, and not read past by the warp. Where the warp's own queue, or a write in flight that its core sees, gives a byte, none is undone. After it the warp's later loads of those words return nothing older, nor anything older than before. How many are undone is free. Until its value is final, it may instead return a newer write of another core, up to the first that its own core has seen (R169; assumption 5): the bytes as that write left them. (spec/09_memory.md, Loads and stores (R134 to R142); spec/09_memory.md, Memory model (R169 to R174); spec/09_memory.md, Tables 9-1 and 9-3) -/
def Obligations.LoadsAndStores : Prop :=
  ∀ (h : Hdr) (sz : Size) (ord wide : Bool) (sc : Scope) (d : BitVec 10) (ad : MAddr) (s : State) (c : Ctx) (t : State),
    let n := sizeBytes sz
    let tainted : Nat → Nat → Bool := fun k l => !ad.scalar && (List.range k).any fun i => c.w.vPois.contains (1024 * l + (ad.reg.toNat + i))
    let sh := { sharedAccess t c fun l => ((if ad.scalar then c.w.rs (ad.reg.toNat % 128) else c.v l ad.reg) + ad.imm.signExtend 32).toNat with bad := tainted 1 }
    let st := { stackAccess t c fun l => (c.w.sp1 l + (if ad.scalar then c.w.rs (ad.reg.toNat % 128) else c.v l ad.reg) + ad.imm.signExtend 32).toNat with bad := tainted 1 }
    let sx := { scratchAccess t c 1 fun l => ((if ad.scalar then c.w.rs64 (ad.reg.toNat % 128) else c.v64 l ad.reg) + ad.imm.signExtend 64).toNat with bad := tainted 2 }
    let good : Access → Nat → Prop := fun a k => ∀ l ∈ c.live, a.ea l % k = 0 ∧ a.out l k = false
    let clean : Access → Nat → Prop := fun a k => ∀ l ∈ c.live, a.pois l k = false
    let zeros : Access → Nat → Nat → List (RegId × Word) := fun a k regs =>
      (c.lanes.filter fun l => !c.act.has l && a.fails l k k).flatMap fun l => loadWrites d.toNat l (List.replicate (4 * regs) 0)
    let reads : Access → Nat → List Nat := fun a k => c.lanes.filter fun l => c.act.has l || !a.fails l k k
    let loads : Access → StoreSpace → (Nat → Nat) → Bool → State := fun a space place acq =>
      let parts : Nat → List Part := fun l => if n = 16
        then [{ lane := l, reg := d.toNat, space := space, addr := place l, len := 8 }, { lane := l, reg := d.toNat + 2, space := space, addr := place l + 8, len := 8 }]
        else [{ lane := l, reg := d.toNat, space := space, addr := place l, len := n }]
      let load : Late := {
        id := 0, kind := .load, writes := zeros a n ((n + 3) / 4), rods := accessRods t c a c.live n, rest := (reads a n).flatMap parts, acq := acq }
      c.after (if c.act = 0 then t else t.startLoad c.ref load fun p => p.reg == d.toNat)
    let queued : Access → StoreSpace → Option Scope → (Nat → Nat) → State := fun a space rel place =>
      let one : Nat → Nat → List Byte → StoreEntry := fun l at_ bs =>
        { space := space, addr := at_, bytes := bs, rel := rel, rods := t.rodTags c.blk (a.range l n), lost := false, seq := t.nextId,
          after := c.w.afterIds (t.rodTags c.blk (a.range l n)) }
      let es := c.live.flatMap fun l =>
        let bs := storeBytes c.w d.toNat l n
        if n = 16 then [one l (place l) (bs.take 8), one l (place l + 8) (bs.drop 8)] else [one l (place l) bs]
      c.after (if c.act = 0 then t else ({ t with nextId := t.nextId + 1 } : State).mapWarp c.ref fun w => { w with storeQ := w.storeQ ++ es })
    (Issues (.lds h sz ord d ad) s c t → good sh n → clean sh n → exec (.lds h sz ord d ad) s = .next (loads sh .shared sh.ea ord))
    ∧ (Issues (.ldx h sz ord sc d ad) s c t → good sx n → clean sx n → exec (.ldx h sz ord sc d ad) s = .next (loads sx .scratch (fun l => physOf t c.blk.vf (sx.ea l)) ord))
    ∧ (Issues (.ldk h sz d ad) s c t → good st n → clean st n → exec (.ldk h sz d ad) s = .next (c.after (if c.act = 0 then t
        else c.late t .load 0 (zeros st n ((n + 3) / 4) ++ (reads st n).flatMap fun l => loadWrites d.toNat l (st.view l n)))))
    ∧ (Issues (.sts h sz ord d ad) s c t → good sh n →
        exec (.sts h sz ord d ad) s = .next (queued sh .shared (if ord then some .core else none) sh.ea))
    ∧ (Issues (.stx h sz ord sc d ad) s c t → good sx n →
        exec (.stx h sz ord sc d ad) s = .next (queued sx .scratch (if ord then some sc else none) fun l => physOf t c.blk.vf (sx.ea l)))
    ∧ (Issues (.stk h sz d ad) s c t → good st n → exec (.stk h sz d ad) s
        = .next (c.after (t.mapWarp c.ref fun w => c.live.foldl (fun w l => w.stackPut l (st.ea l) (storeBytes c.w d.toNat l n)) w)))
    ∧ (Issues (.ldw h wide ord sc d ad) s c t →
        let k := if wide then 8 else 4
        let sw := { sx with bad := fun l => tainted 2 l || (List.range (k / 4)).any fun i => c.w.vPois.contains (1024 * l + (d.toNat + i)) }
        let at_ : Nat → Nat := fun l => physOf t c.blk.vf (sx.ea l)
        let part : Nat → Part := fun l => { lane := l, reg := d.toNat, space := .scratch, addr := at_ l, len := k }
        let rods := accessRods t c sx c.live k
        let helpers := c.lanes.filter fun l => !c.act.has l && !sw.fails l k k
        let stays := c.live.filter fun l => sx.view l k == storeBytes c.w d.toNat l k
        let goes := c.live.filter fun l => !(sx.view l k == storeBytes c.w d.toNat l k)
        let parked : State → List Nat → Bool → State := fun u ls woken =>
          let xs := ls.map fun l => (l, at_ l)
          if ls = [] then u else xs.foldl (fun u x => u.waitOn c.ref x.2 k woken) (c.blockRun u (.word wide ord d.toNat rods xs))
        let got := c.late ((t.closePlaces c.ref (c.live.map part)).readNow c.ref (c.live.map fun l => (at_ l, k))) .load rods
          (zeros sw k (k / 4) ++ (goes ++ helpers).flatMap fun l => loadWrites d.toNat l (sx.view l k))
        let behind := if zeros sw k (k / 4) = [] ∧ helpers = [] then t else t.startLoad c.ref
          { id := 0, kind := .load, writes := zeros sw k (k / 4), rods := rods, rest := helpers.map part } fun _ => true
        let w := (t.warp? c.ref).getD c.w
        good sx k → clean sx k →
          (w.heldNow rods (c.lanes.map part) = false → exec (.ldw h wide ord sc d ad) s
            = .next (c.after (parked (if ord = true ∧ goes ≠ [] then got.observe c.ref else got) stays false)))
          ∧ (w.heldNow rods (c.lanes.map part) = true → exec (.ldw h wide ord sc d ad) s = .next (c.after (parked behind c.live true))))
    -- a load makes those accesses that come first at once, and none of them behind an access that is yet to be made
    ∧ (∀ (s : State) (r : WarpRef) (b : Block) (w : Warp) (l : Late) (first : Part → Bool), s.block? r.blk = some b → s.warp? r = some w →
        let zero := l.rest.flatMap fun p => p.writes (List.replicate p.len 0)
        let now : Part → List Byte := fun p => match p.space with
          | .shared => b.shView w.storeQ p.addr p.len
          | .scratch => s.spView b.core w.storeQ p.addr p.len
        let starts : List Part → List (RegId × Word) → Prop := fun rest made => ∃ v m, (s.startLoad r l first).warp? r = some v ∧ v.late = w.late ++ [m]
          ∧ m.id = s.nextId ∧ m.rest = rest ∧ m.writes = l.writes ++ zero ++ made
        (w.heldNow l.rods l.rest = true → starts l.rest [])
        ∧ (w.heldNow l.rods l.rest = false → l.rest ≠ [] → l.acq = true ∨ s.past = [] → (∀ x ∈ w.late, x.loose = [] ∧ x.id < s.nextId) →
            (∀ e ∈ w.storeQ, e.seq < s.nextId) → starts (l.rest.filter fun p => !first p) ((l.rest.filter first).flatMap fun p => p.writes (now p))))
    -- what a relaxed load returns
    ∧ (∀ (s : State) (core floor a n pick : Nat) (w : Warp) (q : List StoreEntry),
        let r := s.looseRead core w q floor a n pick
        let words := (List.range ((a + n + 3) / 4 - a / 4)).map fun k => a / 4 + k
        (∃ back : List Past, r.1 = back.foldl (undoPast a) (s.spView core q a n)
            ∧ (∀ p ∈ back, p ∈ s.past ∧ floor ≤ p.seq ∧ meets a n p.addr p.old.length = true ∧ p.seenBy core = false
                ∧ ∀ k ∈ words, Sparse.get 0 w.readAt k ≤ p.seq)
            ∧ ((∃ i, i < n ∧ ((queueByte .scratch (a + i) q).isSome ∨ (flightByte core (a + i) s.flight).isSome)) → back = [])
            ∧ (back ≠ [] → ∃ p ∈ back, ∀ k ∈ words, Sparse.get 0 r.2.readAt k = p.seq)
            ∧ (back = [] → s.unordered core w floor a n ≠ [] → ∀ k ∈ words, s.nextId ≤ Sparse.get 0 r.2.readAt k))
        ∧ (∀ k, Sparse.get 0 w.readAt k ≤ Sparse.get 0 r.2.readAt k)
        ∧ (s.past = [] → r = (s.spView core q a n, w))
        ∧ r.2.runs = w.runs ∧ r.2.v = w.v ∧ r.2.late = w.late ∧ r.2.storeQ = w.storeQ)
    -- the newer write that an access made before it may return
    ∧ (∀ (s : State) (core pick : Nat) (p : Part) (x : List Byte × Nat), s.newerBytes core p pick = some x →
        ∃ y ∈ s.past, p.made ≤ y.seq ∧ meets p.addr p.len y.addr y.old.length = true ∧ y.seenBy core = false ∧ x.2 = y.seq + 1
          ∧ x.1 = ((s.past.filter fun z => decide (y.seq < z.seq) && meets p.addr p.len z.addr z.old.length).reverse).foldl (undoPast p.addr)
              (readBytes s.sp p.addr p.len))

/-- O44. When a memory instruction issues, it traps on the state before the word. Every load and store of shared memory, the scratchpad and the stack, LDW, every atomic (of 8 bytes where it is wide, else 4) and every future instruction (16 bytes) traps ALGN (0x04) for the lowest active live lane whose address is not a multiple of the size; where every address is aligned, SBND (0x05), XBND (0x06) or STKO (0x07) for the lowest lane of which a byte lies at or above .shared, outside the interface's windows, at or above .stack; where none does, and the instruction reads, POIS (0x13) for the lowest lane that would read a poisoned word. FREG checks both addresses of a lane so, its record to 128 bytes. A transfer with an active lane, whose reserved bits are 0 and whose count is in range, traps ALGN at the first of DST, SRC, LEN, SPITCH and DPITCH that is not a multiple of 4, then SBND and then XBND, of the destination before the source; then a list of BGA or BSC traps ALGN or SBND, and BCPP ALGN of its signal word or XBND of a peer device that is not bound. The space code of the signal word is the model's choice (assumption 83), as is that of the SPITCH of BFILL (assumption 46). (spec/09_memory.md, Alignment and bounds (R135 to R137), Table 9-2; spec/13_isa_matrix_transfer.md, Transfers (R242, R246, R248), Table 13-1; spec/19_faults.md, Poison (R324), Table 19-8) -/
def Obligations.MisalignedAccessesTrap : Prop :=
  ∀ (h : Hdr) (sz : Size) (ord wide : Bool) (sc : Scope) (op : AtomOp) (o : Order) (d r e : BitVec 10) (b : BitVec 8) (ad : MAddr) (s : State) (c : Ctx) (t : State) (l : Nat),
    let n := sizeBytes sz
    let k := if wide then 8 else 4
    let m := if op.wide then 8 else 4
    -- the lowest active live lane of which a condition holds
    let lowest : (Nat → Prop) → Prop := fun p => l ∈ c.live ∧ p l ∧ ∀ x ∈ c.live, p x → l ≤ x
    let trap : Nat → Nat → State := fun cause info => s.trapWord c.ref c.run.pc c.run.lanes c.w { cause := cause, info := BitVec.ofNat 32 info }
    let traps : Instr → Access → Nat → Nat → Nat → Bool → (Nat → Prop) → Prop := fun i a size space cause reads out =>
      Issues i s c t →
        (lowest (fun x => a.ea x % size ≠ 0) → exec i s = .next (trap 0x04 (l * 2 ^ 26 + space * 2 ^ 24)))
        ∧ ((∀ x ∈ c.live, a.ea x % size = 0) → lowest out → exec i s = .next (trap cause (l * 2 ^ 26 + space * 2 ^ 24)))
        ∧ (reads = true → (∀ x ∈ c.live, a.ea x % size = 0 ∧ ¬out x) → lowest (fun x => a.pois x size = true) →
          exec i s = .next (trap 0x13 (l * 2 ^ 26 + (if space = 3 then 1 else space) * 2 ^ 23)))
    let window : (Nat → Nat) → Nat → Nat → Prop := fun ea size x => (t.vf c.blk.vf).scratch? (ea x) = none ∨ (t.vf c.blk.vf).scratch? (ea x + size - 1) = none
    let shared : (Nat → Nat) → Nat → Nat → Prop := fun ea size x => ((t.block? c.ref.blk).getD c.blk).decl.shared < ea x + size
    let sh := sharedEA c.w ad
    let st := stackEA c.w ad
    let sx : Nat → Nat := fun x => (scratchEA c.w ad x).toNat
    let sa : Nat → Nat := fun x => (c.v x r).toNat
    let xa : Nat → Nat := fun x => (c.v64 x r).toNat
    traps (.lds h sz ord d ad) (sharedAccess t c sh) n 0 0x05 true (shared sh n) ∧ traps (.sts h sz ord d ad) (sharedAccess t c sh) n 0 0x05 false (shared sh n)
    ∧ traps (.ldx h sz ord sc d ad) (scratchAccess t c 1 sx) n 1 0x06 true (window sx n) ∧ traps (.stx h sz ord sc d ad) (scratchAccess t c 1 sx) n 1 0x06 false (window sx n)
    ∧ traps (.ldk h sz d ad) (stackAccess t c st) n 2 0x07 true (fun x => c.blk.decl.stack < st x + n)
    ∧ traps (.stk h sz d ad) (stackAccess t c st) n 2 0x07 false (fun x => c.blk.decl.stack < st x + n)
    ∧ traps (.ldw h wide ord sc d ad) (scratchAccess t c 1 sx) k 1 0x06 true (window sx k)
    ∧ traps (.atoms h op o d r b e) (sharedAccess t c sa) m 0 0x05 true (shared sa m)
    ∧ traps (.atomx h op o sc d r b e) (scratchAccess t c 1 xa) m 1 0x06 true (window xa m)
    ∧ traps (.redx h op o sc r b) (scratchAccess t c 1 xa) m 1 0x06 true (window xa m)
    ∧ traps (.ldf h wide d ad) (scratchAccess t c 3 sx) 16 3 0x06 true (window sx 16) ∧ traps (.fpoll h wide d ad) (scratchAccess t c 3 sx) 16 3 0x06 true (window sx 16)
    ∧ traps (.fres h d ad) (scratchAccess t c 3 sx) 16 3 0x06 false (window sx 16) ∧ traps (.fflt h d ad) (scratchAccess t c 3 sx) 16 3 0x06 false (window sx 16)
    ∧ (Issues (.freg h d ad) s c t →
      let rc : Nat → Nat := fun x => (c.v64 x d).toNat
      (lowest (fun x => sx x % 16 ≠ 0 ∨ rc x % 128 ≠ 0) → exec (.freg h d ad) s = .next (trap 0x04 (l * 2 ^ 26 + 3 * 2 ^ 24)))
      ∧ ((∀ x ∈ c.live, sx x % 16 = 0 ∧ rc x % 128 = 0) → lowest (fun x => window sx 16 x ∨ window rc 128 x) →
        exec (.freg h d ad) s = .next (trap 0x06 (l * 2 ^ 26 + 3 * 2 ^ 24))))
    -- transfers: WHERE and SPACE of Table 13-1
    ∧ ∀ (i : Instr) (x : Reach), reachOf i c.w = some x → Issues i s c t → c.act ≠ 0 →
      (∀ h pull scr bar a p g, i = .bcpp h pull scr bar a p g → peerIll pull g (c.s p) = none) →
      x.d.w4.toNat < 2 ^ 28 → x.d.w5.toNat < 2 ^ 27 → x.d.rows * x.d.len ≤ 0xFFFFFFFC →
      let at_ : Nat → Side → State := fun cause y => trap cause (y.wh * 2 ^ 28 + y.code * 2 ^ 26)
      let src : List Side := x.src.toList
      let pitched : Side := x.src.getD { wh := 1, space := some .mm, addr := 0, pitch := 0, rows := 0 }
      let fields : List (Nat × Side) := [(x.d.dst, x.dst)] ++ src.map (fun y => (x.d.src, y)) ++ [(x.d.len, x.dst), (x.d.spitch, pitched), (x.d.dpitch, x.dst)]
      let out : Nat × Side → Prop := fun y =>
        if y.1 = 0x05 then y.2.space = some .sh ∧ (2 ^ 32 ≤ y.2.addr ∨ (0 < y.2.rows ∧ 0 < x.d.len ∧ c.blk.decl.shared < y.2.addr + (y.2.rows - 1) * y.2.pitch + x.d.len))
        else y.2.space = some .sp ∧ 0 < x.d.len ∧ ∃ k < y.2.rows, (t.vf c.blk.vf).inWindow (y.2.addr + k * y.2.pitch) x.d.len = false
      let outs : List (Nat × Side) := ((0x05, x.dst) :: src.map fun y => (0x05, y)) ++ ((0x06, x.dst) :: src.map fun y => (0x06, y))
      (∀ xs y ys, fields = xs ++ y :: ys → (∀ z ∈ xs, z.1 % 4 = 0) → y.1 % 4 ≠ 0 → exec i s = .next (at_ 0x04 y.2))
      ∧ ((∀ z ∈ fields, z.1 % 4 = 0) →
        (∀ xs y ys, outs = xs ++ y :: ys → (∀ z ∈ xs, ¬out z) → out y → exec i s = .next (at_ y.1 y.2))
        ∧ ((∀ z ∈ outs, ¬out z) →
          (∀ h u v bar a q, i = .bga h u v bar a q ∨ i = .bsc h u v bar a q →
            ((c.s q).toNat % 4 ≠ 0 → exec i s = .next (trap 0x04 (2 * 2 ^ 28 + 2 * 2 ^ 26)))
            ∧ ((c.s q).toNat % 4 = 0 → 0 < x.d.rows → c.blk.decl.shared < (c.s q).toNat + 4 * x.d.rows → exec i s = .next (trap 0x05 (2 * 2 ^ 28 + 2 * 2 ^ 26))))
          ∧ ∀ h pull scr bar a p g, i = .bcpp h pull scr bar a p g →
            let crooked : Prop := (c.s p).getLsbD 8 = true ∧ (c.w.rs64 g.toNat).toNat % 4 ≠ 0
            (crooked → exec i s = .next (trap 0x04 (6 * 2 ^ 28 + 3 * 2 ^ 26)))
            ∧ (¬crooked → (t.vf c.blk.vf).bound? ((c.s p).toNat % 256) = none → exec i s = .next (trap 0x06 (5 * 2 ^ 28 + 3 * 2 ^ 26)))))

/-- O45. STORE_DRAIN at core scope takes the oldest entry of a warp's queue once the loads before it have been made, unless it is lost, is a release behind an engine job of the warp, or follows a load that is not complete by an acquire range fence; the entry leaves the queue (a future operation then acts at its future, behind every access before it at package scope: a link is registered, which may leave room in the table for a run blocked in FREG, or a future resolved), and what waited for it (an arrival at a barrier, parked lanes that have yet to read) is tried again. A plain shared store changes the bytes from its address and no other byte of any memory or stack, and no other warp or block; a plain scratchpad store becomes the newest write in flight and changes no memory yet. At die scope a write in flight is marked as performed there; at package scope, performing the only write in flight changes the scratchpad bytes from its address and no other byte of any memory. That a write becomes visible in these three steps is the model's reading (assumption 6). (spec/09_memory.md, Store queues and performing (R167, R168, R174, R175)) -/
def Obligations.StoresReachTheirAddresses : Prop :=
  ∀ (s : State) (r : WarpRef) (b : Block) (w : Warp) (e : StoreEntry) (q : List StoreEntry),
    s.block? r.blk = some b → s.warp? r = some w →
    let idle := w.landed e.after = true ∧ (∀ l ∈ w.late, l.rest = []) ∧ (∀ k < 20, w.arrivalDue k = false) ∧ ∀ x ∈ s.waitTab, x.ref = r → x.woken = false
    (w.storeQ = e :: q → e.lost = false → e.rel = none ∨ s.jobsBefore r e.seq = false → w.landed e.after = true → (∀ l ∈ w.late, l.rest = []) →
      let u := s.setWarp r { w with storeQ := q }
      let done : State → State := fun v => (v.retryArrivals r).rewake r
      (e.fut = none → exec (.storeDrain r .core 0) s = .next (done (u.leaveQueue r e)))
      ∧ ∀ f, e.fut = some f → e.rel = some .pkg →
        let v := (u.closeLoads r (fun l => decide (l.id < e.seq)) fun _ => true).perform (fun g => g.known.contains (.warp r)) .pkg
        exec (.storeDrain r .core 0) s = .next (done (match f.kind with
          | .link => ((v.register? {
              future := f.place, record := f.arg, vf := b.vf, launch := b.launch, cls := b.cls, deadline := b.deadline } b.core).getD v).feedTables
          | .full => (v.resolve? f.place (BitVec.ofNat 64 f.arg) false (b.launch % 2 ^ 16) (some b.core)).getD v
          | .fault => (v.resolve? f.place (BitVec.ofNat 64 f.arg) true (b.launch % 2 ^ 16) (some b.core)).getD v)))
    ∧ (w.storeQ = e :: q → e.lost = false → e.rel = none → e.atom = none → e.fut = none → e.space = .shared → idle →
      ∃ u b', exec (.storeDrain r .core 0) s = .next u ∧ u.block? r.blk = some b'
        ∧ (∀ a, b'.sharedByte a = if h : e.addr ≤ a ∧ a - e.addr < e.bytes.length then e.bytes[a - e.addr]'h.2 else b.sharedByte a)
        ∧ b' = { b with
            warps := listSet b.warps r.num { w with storeQ := q }
            shared := b'.shared
            sharedPois := clearPois b.sharedPois e.addr e.bytes.length }
        ∧ { u with blocks := s.blocks } = s
        ∧ (∀ id, id ≠ r.blk → u.block? id = s.block? id))
    ∧ (w.storeQ = e :: q → e.lost = false → e.rel = none → e.atom = none → e.fut = none → e.space = .scratch → idle →
      ∃ u, exec (.storeDrain r .core 0) s = .next u ∧ u.block? r.blk = some { b with warps := listSet b.warps r.num { w with storeQ := q } }
        ∧ u.flight = s.flight ++ [{ blk := r.blk, warp := r.num, core := b.core, die := false, addr := e.addr, bytes := e.bytes, rods := e.rods, known := [.warp r], seq := e.seq }]
        ∧ { u with blocks := s.blocks, flight := s.flight } = s
        ∧ (∀ id, id ≠ r.blk → u.block? id = s.block? id))
    ∧ ∀ f, s.flight = [f] → f.blk = r.blk → f.warp = r.num →
      (exec (.storeDrain r .die 0) s = .next { s with flight := [{ f with die := true }] })
      ∧ ∀ sc ∈ [Scope.pkg, .sys], ∃ u, exec (.storeDrain r sc 0) s = .next u ∧ u.flight = []
        ∧ (∀ a, Sparse.get 0 u.sp a = if h : f.addr ≤ a ∧ a - f.addr < f.bytes.length then f.bytes[a - f.addr]'h.2 else Sparse.get 0 s.sp a)
        ∧ u.mm = s.mm ∧ u.host = s.host ∧ u.stagingArea = s.stagingArea ∧ u.blocks = s.blocks ∧ u.saved = s.saved

/-- O46. Where every active live lane's address is aligned, inside its space and clean of poison, and a lane is active: ATOMS, ATOMX and REDX complete by putting the operation behind the warp's store queue, with each lane's location and operands, and the release scope and the rods of the access; ATOMS and ATOMX queue, scoreboarded, a result that waits for it (0 in a helper lane); the queue then drains as far as it may. An atomic alone in its queue, with nothing that it must follow, acts at once. When it leaves, it acts lane by lane in ascending order: each location is read and replaced by what Table 9-4 gives, once the writes in flight to it are performed, and no other byte of the memory or of the block's shared memory changes; a location that they leave poisoned stays as it is. Each lane receives the value it found, and a lane that met poison poison; under an acquire, what follows is ordered behind it. That an atomic goes through the store queue and acts at package level is the model's reading (assumption 7), as is how far an acquire orders (assumption 68). (spec/09_memory.md, Atomics (R143 to R145), Table 9-4; spec/09_memory.md, Memory model (R168, R174); spec/19_faults.md, Poison (R324)) -/
def Obligations.AtomicsReadModifyWrite : Prop :=
  (∀ (h : Hdr) (op : AtomOp) (o : Order) (sc : Scope) (d a : BitVec 10) (b : BitVec 8) (e : BitVec 10) (s : State) (c : Ctx) (t : State),
    let n := if op.wide then 8 else 4
    let sh := sharedAccess t c fun l => (c.v l a).toNat
    let sx := scratchAccess t c 1 fun l => (c.v64 l a).toNat
    let good : Access → Prop := fun x => ∀ l ∈ c.live, x.ea l % n = 0 ∧ x.out l n = false ∧ x.pois l n = false
    let arg : BitVec 10 → Nat → Nat := fun r l => if op.wide then (c.v64 l r).toNat else (c.v l r).toNat
    let rel : Scope → Option Scope := fun y => if o = .rel ∨ o = .ar then some y else none
    let queued : StoreSpace → Access → (Nat → Nat) → Option Scope → BitVec 10 → Option Nat → State := fun sp x place rel cmp d =>
      let rods := accessRods t c x c.live n
      let result : List Late := match d with
        | some d => [{
          id := t.nextId, kind := .load, writes := c.lanes.flatMap fun l => loadWrites d l (List.replicate n 0), rods := rods,
          acq := o == .acq || o == .ar, queued := true }]
        | none => []
      let entry : StoreEntry := {
        space := sp, addr := 0, bytes := [], rel := rel, rods := rods, lost := false, seq := t.nextId, after := c.w.afterIds rods,
        atom := some {
          op := op, order := o, lanes := c.live.map fun l => (l, place l, arg (b.setWidth 10) l, arg cmp l), result := d.map fun d => (t.nextId, d) } }
      let u := t.closePlaces c.ref (c.live.map fun l => { lane := l, reg := 0, space := sp, addr := place l, len := n })
      c.after ((({ u with nextId := t.nextId + 1 } : State).mapWarp c.ref fun w => { w with
        late := w.late ++ result
        storeQ := w.storeQ ++ [entry] }).drainAll c.ref)
    let at_ : Nat → Nat := fun l => physOf t c.blk.vf (sx.ea l)
    (∀ i ∈ [Instr.atoms h op o d a b e, .atomx h op o sc d a b e, .redx h op o sc a b], Issues i s c t → c.act = 0 → exec i s = .next (c.after t))
    ∧ (c.act ≠ 0 →
    (Issues (.atoms h op o d a b e) s c t → good sh → exec (.atoms h op o d a b e) s = .next (queued .shared sh sh.ea (rel .core) e (some d.toNat)))
    ∧ (Issues (.atomx h op o sc d a b e) s c t → good sx → exec (.atomx h op o sc d a b e) s
      = .next (queued .scratch sx at_ (rel sc) e (some d.toNat)))
    ∧ (Issues (.redx h op o sc a b) s c t → good sx → exec (.redx h op o sc a b) s = .next (queued .scratch sx at_ (rel sc) 0 none))))
  ∧ ∀ (s : State) (r : WarpRef) (b : Block), s.block? r.blk = some b →
    -- alone in the queue, it leaves at once
    (∀ w e, s.warp? r = some w → w.storeQ = [e] → e.fut = none → e.lost = false → e.rel = none ∨ s.jobsBefore r e.seq = false → w.landed e.after = true →
      (∀ l ∈ w.late, l.rest = []) → s.drainAll r = ((s.setWarp r { w with storeQ := [] }).leaveQueue r e).makeLoads r)
    -- what it does when it leaves
    ∧ (∀ e a, e.rel = none → e.atom = some a →
      let acts := a.lanes.foldl (fun (x : List (Nat × Option Nat) × State) y =>
        let z := x.2.atomLane r b.core e.space a.op y.2.1 y.2.2.1 y.2.2.2
        (x.1 ++ [(y.1, z.1)], z.2)) ([], s)
      let got := match a.result with
        | none => acts.2
        | some (id, d) => acts.2.mapWarp r fun w => w.takeAtomic id d e.space (if a.op.wide then 8 else 4) acts.1
      s.leaveQueue r e = if a.order = .acq ∨ a.order = .ar then got.observe r else got)
    -- one lane
    ∧ (∀ (core : Nat) (op : AtomOp) (addr x y : Nat),
      let n := if op.wide then 8 else 4
      let u := s.perform (fun f => meets f.addr f.bytes.length addr n) .pkg
      let m := leValue ((List.range n).map fun k => Sparse.get 0 u.sp (addr + k))
      let k := leValue ((List.range n).map fun k => b.sharedByte (addr + k))
      ((∃ i ∈ u.spPois, addr < 4 * i + 4 ∧ 4 * i < addr + n) → s.atomLane r core .scratch op addr x y = (none, u))
      ∧ ((∀ i ∈ u.spPois, ¬(addr < 4 * i + 4 ∧ 4 * i < addr + n)) →
        ∃ t, s.atomLane r core .scratch op addr x y = (some m, t)
          ∧ (∀ a, Sparse.get 0 t.sp a = if addr ≤ a ∧ a < addr + n then ((leBytes n (atomNew op m x y))[a - addr]?).getD 0 else Sparse.get 0 u.sp a)
          ∧ t.mm = s.mm ∧ t.host = s.host ∧ t.stagingArea = s.stagingArea ∧ t.blocks = s.blocks)
      ∧ ((∃ i ∈ b.sharedPois, addr < 4 * i + 4 ∧ 4 * i < addr + n) → s.atomLane r core .shared op addr x y = (none, s))
      ∧ ((∀ i ∈ b.sharedPois, ¬(addr < 4 * i + 4 ∧ 4 * i < addr + n)) →
        ∃ t b', s.atomLane r core .shared op addr x y = (some k, t) ∧ t.block? r.blk = some b'
          ∧ (∀ a, b'.sharedByte a = if addr ≤ a ∧ a < addr + n then ((leBytes n (atomNew op k x y))[a - addr]?).getD 0 else b.sharedByte a)
          ∧ b'.warps = b.warps ∧ t.sp = s.sp ∧ t.mm = s.mm))
    -- what the lanes receive
    ∧ (∀ (w : Warp) (id d n : Nat) (sp : StoreSpace) (vals : List (Nat × Option Nat)) (l : Late), w.late.find? (fun x => x.id == id) = some l →
      let here := vals.filter fun x => (w.live ||| w.helpers).has x.1
      ∃ l', (w.takeAtomic id d sp n vals).late.find? (fun x => x.id == id) = some l' ∧ l'.queued = false
        ∧ l'.writes = l.writes ++ here.flatMap fun x => match x.2 with
          | some m => loadWrites d x.1 (leBytes n m)
          | none => [])

/-- O47. For a location that holds m and operands b and c of the operation's width: add is the sum modulo the width, min and max compare as signed or unsigned 32-bit integers, and, or, xor are bit by bit, exch gives b, cas gives b where m equals c and m elsewhere, inc gives 0 where m ≥ b and m + 1 elsewhere, dec gives b where m is 0 or m > b and m − 1 elsewhere, fadd32 the FP32 sum to nearest even that keeps subnormals (which sum that is, RoundedResults says); the result fits the width. (spec/09_memory.md, Table 9-4; spec/05_numbers.md, Conversion (R89)) -/
def Obligations.AtomicResults : Prop :=
  ∀ (m b c : BitVec 32) (x y z : BitVec 64),
    atomNew .add32 m.toNat b.toNat c.toNat = (m + b).toNat ∧ atomNew .add64 x.toNat y.toNat z.toNat = (x + y).toNat
    ∧ atomNew .mins m.toNat b.toNat c.toNat = (if m.toInt ≤ b.toInt then m else b).toNat
    ∧ atomNew .maxs m.toNat b.toNat c.toNat = (if m.toInt ≥ b.toInt then m else b).toNat
    ∧ atomNew .minun m.toNat b.toNat c.toNat = (if m ≤ b then m else b).toNat
    ∧ atomNew .maxun m.toNat b.toNat c.toNat = (if m ≥ b then m else b).toNat
    ∧ atomNew .and m.toNat b.toNat c.toNat = (m &&& b).toNat ∧ atomNew .or m.toNat b.toNat c.toNat = (m ||| b).toNat
    ∧ atomNew .xor m.toNat b.toNat c.toNat = (m ^^^ b).toNat
    ∧ atomNew .exch32 m.toNat b.toNat c.toNat = b.toNat ∧ atomNew .exch64 x.toNat y.toNat z.toNat = y.toNat
    ∧ atomNew .cas32 m.toNat b.toNat c.toNat = (if m = c then b else m).toNat
    ∧ atomNew .cas64 x.toNat y.toNat z.toNat = (if x = z then y else x).toNat
    ∧ atomNew .inc m.toNat b.toNat c.toNat = (if m ≥ b then 0 else m + 1).toNat
    ∧ atomNew .dec m.toNat b.toNat c.toNat = (if m = 0 ∨ m > b then b else m - 1).toNat
    ∧ atomNew .fadd32 m.toNat b.toNat c.toNat = (Fmt.f32.fadd .rn false m.toNat b.toNat).1

/-- O48. When it issues with an active lane (so that what it waits for is complete): FENCE.rel and FENCE.full perform every earlier access of the warp at their scope, and at system scope then park the run for a flushing read; FENCE.acq and FENCE.full order every later access behind the writes so far. FENCER of a release performs every earlier access where it acts as FENCE (.all, or an empty rod), else those tagged with a rod of its mask, and nothing where it names none. FENCER of an acquire, whose views are neither stale nor poisoned in their order, orders every later access where it acts as FENCE and no load is outstanding, else those tagged with a rod of its mask, and none where it names none; it traps VPOIS at the first group that is poisoned and waits at the first that is stale. RODDEF sets rod 16 + k of the block to the range named. How far an acquire reaches is the model's reading (assumptions 52 and 68). (spec/09_memory.md, Fences (R146 to R151); spec/09_memory.md, Ordering rules (R178, R179); spec/15_views.md, Fences (R263)) -/
def Obligations.FencesAndRods : Prop :=
  ∀ (h : Hdr) (sc : Scope) (all dyn : Bool) (mask : BitVec 16) (sA a b : BitVec 7) (rs : RodSpace) (k : BitVec 4) (s : State) (c : Ctx) (t : State),
    let m := fencerMask c.blk c.w all dyn mask sA
    let flush : State → State := fun u => if sc = .sys then c.blockRun u .flush else u
    let order : State → State := fun u => if m.2 = true then u.observe c.ref else if m.1 = 0 then u else u.acquireRods c.ref m.1
    let gs := fenceViews t c.blk m.1
    let fresh : Nat × Nat → Prop := fun g => t.staleOf (t.sampleGroups c.blk.vf [g]) = [] ∧ t.poisonedOf (t.sampleGroups c.blk.vf [g]) = none
    let acq : Instr := .fencer h false all sc dyn mask sA
    c.act ≠ 0 →
    (Issues (.fence h .acq sc) s c t → exec (.fence h .acq sc) s = .next (c.after (t.observe c.ref)))
    ∧ (Issues (.fence h .rel sc) s c t → exec (.fence h .rel sc) s = .next (c.after (flush (t.performWarp c.ref sc))))
    ∧ (Issues (.fence h .full sc) s c t → exec (.fence h .full sc) s = .next (c.after (flush ((t.performWarp c.ref sc).observe c.ref))))
    ∧ (Issues (.fencer h true all sc dyn mask sA) s c t → exec (.fencer h true all sc dyn mask sA) s
      = .next (c.after (if m.2 = true then flush (t.performWarp c.ref sc) else if m.1 = 0 then t else flush (t.performRods c.ref m.1 sc))))
    ∧ (Issues acq s c t → c.run.samples = some [] → exec acq s = .next (c.after (order t)))
    ∧ (Issues acq s c t → c.run.samples = none → (∀ g ∈ gs, fresh g) →
      (m.2 = false ∨ (∀ l ∈ c.w.late, l.kind ≠ .load) → exec acq s = .next (c.after (order t)))
      ∧ (m.2 = true → (∃ l ∈ c.w.late, l.kind = .load) → exec acq s = .next (c.holdSamples t [])))
    ∧ (Issues acq s c t → c.run.samples = none → ∀ xs g zs w, gs = xs ++ g :: zs → (∀ x ∈ xs, fresh x) → t.sampleGroups c.blk.vf [g] = [w] →
      (t.staleOf [w] ≠ [] → exec acq s = .next (c.holdSamples t [w]))
      ∧ (t.staleOf [w] = [] → t.poisonedOf [w] ≠ none →
        ∃ x, x.cause = 0x11 ∧ exec acq s = .next (s.trapWord c.ref c.run.pc c.run.lanes c.w x)))
    ∧ (Issues (.roddef h rs k a b) s c t → exec (.roddef h rs k a b) s = .next (c.after (t.mapBlock c.ref.blk fun x =>
        { x with rods := listSet x.rods (16 + k.toNat) (rodRanges t c.blk.vf rs (c.w.rs64 a.toNat) (c.s b)) })))

/-- O49. Where every active live lane's future is aligned and inside the window (and clean of poison, for a load): FPOLL completes by starting a load of each lane's future, 16 bytes or their upper half; LDF by queueing the bytes of futures that are resolved and parking the run on the EMPTY ones, or every lane before it reads, behind an access that is yet to be made; either is an acquire where it finds a future resolved (FPOLL: where its load is made); FRES and FFLT, with an active lane, by performing the warp's earlier accesses at package scope and resolving the lanes' futures in ascending order, and then trapping FDBL if one was not EMPTY; FREG by performing earlier accesses and registering each lane's record in ascending order: an EMPTY future takes a link while the continuation table of its die has room, and a resolved one joins the record at once; the run is blocked with the lanes that find a full table. Where an access or a job before them is yet to be performed, the three put each lane's operation behind the warp's store queue instead, as a release: a lane finds a future for which a resolution waits no longer EMPTY, and a waiting link keeps its entry of the table. A resolution writes STATE, TAG and VALUE and keeps the other bytes. That the run of a parked LDF waits whole is read by inference (assumption 32), as is that behind an access that is yet to be made LDF parks every lane before it reads (assumption 5); what an acquire here orders is assumption 68, and that FRES, FFLT and FREG wait in the store queue assumption 72. (spec/09_memory.md, Futures and continuations (R152 to R159); spec/09_memory.md, Ordering rules (R181)) -/
def Obligations.FuturesAndContinuations : Prop :=
  ∀ (h : Hdr) (wide : Bool) (d : BitVec 10) (ad : MAddr) (s : State) (c : Ctx) (t : State),
    let x := { scratchAccess t c 3 fun l => (scratchEA c.w ad l).toNat with
      bad := fun l => !ad.scalar && (List.range 2).any fun i => c.w.vPois.contains (1024 * l + (ad.reg.toNat + i)) }
    let at_ : Nat → Nat := fun l => physOf t c.blk.vf (x.ea l)
    let good : Prop := ∀ l ∈ c.live, x.ea l % 16 = 0 ∧ x.out l 16 = false
    let clean : Prop := ∀ l ∈ c.live, x.pois l 16 = false
    let regs := if wide then 4 else 2
    let zeros := (c.lanes.filter fun l => !c.act.has l && x.fails l 16 16).flatMap fun l => loadWrites d.toNat l (List.replicate (4 * regs) 0)
    let part : Nat → Part := fun l => { lane := l, reg := d.toNat, space := .scratch, addr := at_ l, len := 16, skip := if wide then 0 else 8 }
    let helpers := c.lanes.filter fun l => !c.act.has l && !x.fails l 16 16
    let rods := accessRods t c x c.live 16
    let base := t.performWarp c.ref .pkg
    -- what a lane finds in its future, the resolutions that wait in store queues counted
    let found : State → Nat → Nat := fun u l => match u.claim? (at_ l) with
      | some .fault => 2
      | some _ => 1
      | none => min 2 (u8 ((u.settle (at_ l) 16).warpView c.ref (at_ l) 1) 0 % 4)
    let waits : State → FutureKind → Nat → Nat → State := fun u kind place arg => u.mapWarp c.ref fun w => { w with
      storeQ := w.storeQ ++ [{
        space := .scratch, addr := 0, bytes := [], rel := some .pkg, rods := rods, lost := false, seq := t.nextId, after := w.afterIds rods,
        fut := some { kind := kind, place := place, arg := arg } }] }
    let behind : Prop := t.futureHeld c.ref rods = true
    let later : State := { t with nextId := t.nextId + 1 }
    let res : Bool → State × Option (Nat × Nat) := fun fault =>
      resolveLanes (fun u l => u.resolve? (at_ l) (c.v64 l d) fault (c.blk.launch % 2 ^ 16) (some c.blk.core)) found c.live base
    let resLater : FutureKind → State × Option (Nat × Nat) := fun kind =>
      resolveLanes (fun u l => if found u l = 0 then some (waits u kind (at_ l) (c.v64 l d).toNat) else none) found c.live later
    let done : State × Option (Nat × Nat) → State := fun r => match r.2 with
      | none => c.after r.1
      | some y => c.after (r.1.takeTrap c.ref c.run.pc c.run.lanes { cause := 0x0F, info := BitVec.ofNat 32 (y.1 * 2 ^ 26 + y.2) })
    (Issues (.fpoll h wide d ad) s c t → good → clean → c.act ≠ 0 → exec (.fpoll h wide d ad) s
      = .next (c.after (t.startLoad c.ref {
          id := 0, kind := .load, writes := zeros, rods := rods, poll := true,
          rest := (c.lanes.filter fun l => c.act.has l || !x.fails l 16 16).map part } fun _ => true)))
    ∧ (Issues (.ldf h wide d ad) s c t → good → clean →
        let stays := c.live.filter fun l => u8 (x.view l 16) 0 % 4 == 0
        let goes := c.live.filter fun l => u8 (x.view l 16) 0 % 4 != 0
        let parked : State → List Nat → Bool → State := fun u ls woken =>
          let xs := ls.map fun l => (l, at_ l)
          if ls = [] then u else xs.foldl (fun u y => u.waitOn c.ref y.2 16 woken) (c.blockRun u (.future wide d.toNat rods xs))
        let got := c.late ((t.closePlaces c.ref (c.live.map part)).readNow c.ref (c.live.map fun l => (at_ l, 16))) .load rods
          (zeros ++ (goes ++ helpers).flatMap fun l => loadWrites d.toNat l (if wide then x.view l 16 else (x.view l 16).drop 8))
        let behind := if zeros = [] ∧ helpers = [] then t else t.startLoad c.ref
          { id := 0, kind := .load, writes := zeros, rods := rods, rest := helpers.map part } fun _ => true
        let w := (t.warp? c.ref).getD c.w
        (w.heldNow rods (c.lanes.map part) = false → exec (.ldf h wide d ad) s = .next (c.after (parked (if goes ≠ [] then got.observe c.ref else got) stays false)))
        ∧ (w.heldNow rods (c.lanes.map part) = true → exec (.ldf h wide d ad) s = .next (c.after (parked behind c.live true))))
    ∧ (Issues (.fres h d ad) s c t → good → c.act ≠ 0 →
        (¬behind → exec (.fres h d ad) s = .next (done (res false))) ∧ (behind → exec (.fres h d ad) s = .next (done (resLater .full))))
    ∧ (Issues (.fflt h d ad) s c t → good → c.act ≠ 0 →
        (¬behind → exec (.fflt h d ad) s = .next (done (res true))) ∧ (behind → exec (.fflt h d ad) s = .next (done (resLater .fault))))
    ∧ (Issues (.freg h d ad) s c t → good → c.act ≠ 0 →
        (∀ l ∈ c.live, (c.v64 l d).toNat % 128 = 0 ∧ outOfWindow t c.blk.vf (c.v64 l d).toNat 128 = false) →
        let lanes := c.live.map fun l => (at_ l, physOf t c.blk.vf (c.v64 l d).toNat)
        let ends := lanes.foldl (fun (u : State × List (Nat × Nat)) y =>
          match u.1.register? { future := y.1, record := y.2, vf := c.blk.vf, launch := c.blk.launch, cls := c.blk.cls, deadline := c.blk.deadline } c.blk.core with
          | some v => (v, u.2)
          | none => (u.1, u.2 ++ [y])) (base, [])
        let endsLater := lanes.foldl (fun (u : State × List (Nat × Nat)) y =>
          if 4096 ≤ u.1.linkCount (y.1 / 2 ^ 30) then (u.1, u.2 ++ [y]) else (waits u.1 .link y.1 y.2, u.2)) (later, [])
        let left : State × List (Nat × Nat) → State := fun x => c.after (if x.2 = [] then x.1 else c.blockRun x.1 (.freg rods x.2))
        (¬behind → exec (.freg h d ad) s = .next (left ends)) ∧ (behind → exec (.freg h d ad) s = .next (left endsLater)))
    -- a future is resolved
    ∧ (∀ (u : State) (f tag core : Nat) (value : DWord) (fault : Bool),
        let v := u.settle f 16
        let old := readBytes v.sp f 16
        (u8 old 0 % 4 ≠ 0 ∨ u.claim? f ≠ none → u.resolve? f value fault tag (some core) = none)
        ∧ (u8 old 0 % 4 = 0 → u.claim? f = none → ∃ y, u.resolve? f value fault tag (some core) = some y
          ∧ ((∀ l ∈ v.links, l.future ≠ f) → (∀ k ∈ v.blocks, ∀ w ∈ k.warps, ∀ r ∈ w.runs, ∀ m xs, r.wait ≠ some (.freg m xs)) →
            readBytes y.sp f 16 = leBytes 1 (u8 old 0 + (if fault then 2 else 1)) ++ (old.drop 1).take 1 ++ leBytes 2 tag ++ (old.drop 4).take 4 ++ leBytes 8 value.toNat
            ∧ ∀ a, a < f ∨ f + 16 ≤ a → Sparse.get 0 y.sp a = Sparse.get 0 v.sp a)))
    ∧ (∀ (u : State) (l : Link) (core : Nat),
        let v := u.settle l.future 16
        let here := v.linkCount (l.future / 2 ^ 30)
        (futState v l.future = 0 → 4096 ≤ here → u.register? l core = none)
        ∧ (futState v l.future = 0 → here < 4096 → ∃ y, u.register? l core = some y ∧ y.links = v.links ++ [l]
            ∧ (Sparse.get 0 y.sp (l.future + 1)).toNat = min ((Sparse.get 0 v.sp (l.future + 1)).toNat + 1) 255
            ∧ ∀ a, a ≠ l.future + 1 → Sparse.get 0 y.sp a = Sparse.get 0 v.sp a)
        ∧ (futState v l.future ≠ 0 → u.register? l core = some (v.joinStep l (futState v l.future != 1))))
    ∧ (∀ i ∈ [Instr.ldf h wide d ad, .fpoll h wide d ad, .fres h d ad, .fflt h d ad, .freg h d ad], Issues i s c t → c.act = 0 → exec i s = .next (c.after t))

/-- O50. When it issues with an active lane, SPAWN and LNCH first perform the warp's earlier accesses at package scope. Where no reason of R161 stands against it, SPAWN puts one pending task behind those of the device, with the number in s[a], sixteen argument words read from the block at s[b]:s[b+1] (zeros under .noargs) as the warp sees it behind its release, the engine jobs and the accesses of the warp that its start waits for, a depth one above the issuer's, and the issuer's launch, class and deadline; LNCH submits a launch of the kernel with the options of its block, behind the same jobs and accesses. Each then queues, scoreboarded, 1 in the predicate of every active lane and 0, or the launch's number, in the scalar result; where a reason stands against it, 0 and the reason, and nothing is queued or submitted. That the block is read at issue, and that its start carries the jobs and the accesses, is the model's choice (assumption 68). The class, deadline and clusters of a device-side launch are those of assumption 38, the fields of a task those of assumption 39. (spec/09_memory.md, Tasks (R160 to R163), Table 9-8; spec/09_memory.md, Device-side launches (R161, R164), Table 9-9; spec/09_memory.md, Ordering rules (R181)) -/
def Obligations.SpawnAndLaunch : Prop :=
  ∀ (h : Hdr) (noargs : Bool) (pd : BitVec 3) (a b e : BitVec 7) (s : State) (c : Ctx) (t : State),
    let num := (c.s a).toNat
    let addr := (c.w.rs64 b.toNat).toNat
    let u := t.performWarp c.ref .pkg
    let p := physOf u c.blk.vf addr
    let bytes : Nat → List Byte := fun n => u.spView c.blk.core (((u.warp? c.ref).map (·.storeQ)).getD []) p n
    let answer : State → Bool → Nat → State := fun u ok x => c.after (c.late u .plain 0
      ((c.lanes.map fun l => (.p l pd.toNat, if ok then 1 else 0)) ++ [(.s e.toNat, BitVec.ofNat 32 x)]))
    let task : PendTask := {
      vf := c.blk.vf
      die := c.blk.core / 64
      num := num
      args := if noargs then List.replicate 16 0 else (List.range 16).map fun k => BitVec.ofNat 32 (u32 (bytes 64) (4 * k))
      bad := if noargs then [] else (List.range 16).filter fun k => u.spPois.contains (p / 4 + k)
      depth := c.blk.depth + 1
      launch := c.blk.launch
      cls := c.blk.cls
      deadline := c.blk.deadline
      owner := if c.blk.reserve = 0 then none else some c.blk.id
      cstat := 0
      record := 0
      after := u.jobIds c.ref
      cover := u.coverOf c.ref }
    c.act ≠ 0 →
    (Issues (.spawn h noargs pd a b e) s c t → u.spawnReason c.blk noargs num addr = 0 → exec (.spawn h noargs pd a b e) s
      = .next (answer { u.mapBlock c.blk.id fun x => { x with reserve := x.reserve - 1 } with
          tasks := (u.mapBlock c.blk.id fun x => { x with reserve := x.reserve - 1 }).tasks ++ [task] } true 0))
    ∧ (Issues (.spawn h noargs pd a b e) s c t → ∀ r, u.spawnReason c.blk noargs num addr = r → r ≠ 0 →
        exec (.spawn h noargs pd a b e) s = .next (answer u false r))
    ∧ (Issues (.lnch h pd a b e) s c t → u.lnchReason c.blk num addr (bytes 128) = 0 → ∀ k, u.codeEntry? c.blk.vf num = some k →
        let y := u.submit c.blk.vf k false none false c.blk.cls c.blk.deadline 0 u.clock
          (launchOpts (bytes 128) ((List.range 16).filter fun k => u.spPois.contains (p / 4 + k))) none
        exec (.lnch h pd a b e) s = .next (answer (y.2.launchAfter c.blk.vf y.1 (u.jobIds c.ref) (u.coverOf c.ref)) true y.1))
    ∧ (Issues (.lnch h pd a b e) s c t → ∀ r, u.lnchReason c.blk num addr (bytes 128) = r → r ≠ 0 →
        exec (.lnch h pd a b e) s = .next (answer u false r))

/-- O51. When it issues with an active lane: MMA, MMAS and MMAT, where no scalar of a scratchpad or tile pair that they name is poisoned and the set named holds exactly the live lanes of the warp, block the active lanes as signed with the word's fields (the operation issues when the team has signed, at the end of the step); where the set differs, they trap MTEAM with the warp's number and WHY 1 before any effect, and where such a scalar is poisoned, POIS. MSYNC blocks the active lanes until the operations that the team has issued on the stream are complete, and does nothing where there is none. MCHG queues, scoreboarded, the charge of the team's last operation on the stream, or waits for it while that operation is not complete; 0 where there was none. That the other lanes go on meanwhile, and that registers are checked when signing completes, is read by inference (assumptions 31 and 32). (spec/13_isa_matrix_transfer.md, Team signing (R231); spec/13_isa_matrix_transfer.md, Streams (R237); spec/13_isa_matrix_transfer.md, Charges (R238); spec/19_faults.md, Table 19-2) -/
def Obligations.MatrixWords : Prop :=
  ∀ (h : Hdr) (st : BitVec 2) (j : BitVec 4) (d a b e : BitVec 10) (s : State) (c : Ctx) (t : State),
    let signed : Nat → State := fun op => c.after (c.block t c.act
      (.sign { op := op, d := d.toNat, a := a.toNat, b := b.toNat, c := e.toNat, st := st.toNat, j := j.toNat }))
    let team := c.ref.num / c.blk.decl.team
    let words : List (Instr × Nat) := [(.mma h st j d a b e, 0x140), (.mmas h st j d a b e, 0x141), (.mmat h st j d a b e, 0x142)]
    let mine := (t.ops.filter fun o => o.blk == c.ref.blk && o.team == team && o.st == st.toNat).map (·.id)
    let tm := (c.blk.teams[team]?).getD { avg := 0, lastOp := [], charge := [], passed := 0 }
    let last := Sparse.get 0 tm.lastOp st.toNat
    let pois : Nat → Option Trap := fun op =>
      pairPois c.w { op := op, d := d.toNat, a := a.toNat, b := b.toNat, c := e.toNat, st := st.toNat, j := j.toNat } c.act
    (∀ x ∈ words, Issues x.1 s c t → c.act ≠ 0 → pois x.2 = none → (c.w.jset j.toNat).member = c.w.live → exec x.1 s = .next (signed x.2))
    ∧ (∀ x ∈ words, ∀ y, Issues x.1 s c t → c.act ≠ 0 → pois x.2 = some y → y.cause = 0x13 ∧ exec x.1 s = .next (s.trapWord c.ref c.run.pc c.run.lanes c.w y))
    ∧ (∀ x ∈ words, Issues x.1 s c t → c.act ≠ 0 → pois x.2 = none → (c.w.jset j.toNat).member ≠ c.w.live →
        exec x.1 s = .next (s.trapWord c.ref c.run.pc c.run.lanes c.w { cause := 0x0B, info := BitVec.ofNat 32 (c.ref.num % 16 * 256 + 1) }))
    ∧ (Issues (.msync h st) s c t → exec (.msync h st) s = .next (c.after (if mine = [] then t else c.block t c.act (.msync mine))))
    ∧ (Issues (.mchg h st d) s c t → (last = 0 ∨ t.op? (last - 1) = none) →
        exec (.mchg h st d) s = .next (c.after (c.late t .plain 0 (c.each d fun _ => Sparse.get 0 tm.charge st.toNat))))
    ∧ (Issues (.mchg h st d) s c t → last ≠ 0 → (∃ o, t.op? (last - 1) = some o) →
        exec (.mchg h st d) s = .next (c.after (c.late t (.opCharge (last - 1)) 0 (c.each d fun _ => 0))))

/-- O52. For MMA on INT8 operands (each code a byte) with an INT32 accumulator, without saturation and poison, element (i, j) is the accumulator element plus the sum over k of the products of row i of A with row j of Bᵀ, as signed integers, modulo 2^32. (spec/05_numbers.md, Matrix arithmetic (R93 to R96), Table 5-8; spec/13_isa_matrix_transfer.md, MMA (R220 to R226)) -/
def Obligations.IntegerMatrixElements : Prop :=
  ∀ (fmt : Word) (A B : MatData) (x i j : Nat),
    fmt.extractLsb' 0 4 = 7 → fmt.extractLsb' 4 4 = 7 → fmt.extractLsb' 8 4 = 7 → fmt.getLsbD 14 = false →
    (∀ y ∈ A.bad, y = false) → (∀ y ∈ B.bad, y = false) →
    (∀ y ∈ A.codes, y < 256) → (∀ y ∈ B.codes, y < 256) → x < 2 ^ 32 →
    BitVec.ofNat 32 (matElem 0x140 fmt [] A B x false i j) = BitVec.ofNat 32 x
      + BitVec.ofInt 32 (((List.range 64).map fun k =>
          (BitVec.ofNat 8 ((A.codes[i * 64 + k]?).getD 0)).toInt * (BitVec.ofNat 8 ((B.codes[j * 64 + k]?).getD 0)).toInt).sum)

/-- O53. When it issues with an active lane, no check of R242 or of its own entry fails, no view group is read and neither ROWS nor LEN is 0: each of BCP, BFILL, BPFX, BMC, BGA, BSC and BCPP starts one job, behind the earlier ones and the loads that it must follow, with the addresses, length, rows and pitches of its descriptor, its spaces and barrier, its footprint, rods and chunks (a row of a scatter is cut when its index is read), and for BMC the core mask, for BGA and BSC the index list and LIMIT, for BCPP the peer device, its word and its signal address. With ROWS or LEN 0 it has no further effect, but that BCPP.push still ends its copy. The end of a push sends its signal, where SIG is set, no row is undelivered, a port is up and the peer is bound. That a word waits for room before its checks, their order, and that jobs are ordered by footprints, are read by inference (assumptions 46 and 47). (spec/13_isa_matrix_transfer.md, Transfers (R240 to R249), Table 13-12; spec/13_isa_matrix_transfer.md, Table 13-13) -/
def Obligations.TransferWords : Prop :=
  ∀ (h : Hdr) (dst src : XSpace) (bar mask : BitVec 4) (a x g : BitVec 7) (pull scr : Bool) (s : State) (c : Ctx) (t : State),
    let d := xdesc c.w a.toNat
    let sideD : Option XSpace → Nat → Side := fun y n => {
      wh := 0
      space := y
      addr := d.dst
      pitch := d.dpitch
      rows := n }
    let sideS : Option XSpace → Nat → Side := fun y n => {
      wh := 1
      space := y
      addr := d.src
      pitch := d.spitch
      rows := n }
    let job : JobKind → XSpace → XSpace → Job := fun k y z => {
      id := t.nextId, vf := c.blk.vf, blk := c.ref.blk, warp := c.ref.num, staging := false, kind := k, dst := y, src := z, dstAddr := d.dst,
      srcAddr := d.src, len := d.len, rows := d.rows, sPitch := d.spitch, dPitch := d.dpitch, pattern := d.pattern, bar := bar.toNat, list := 0,
      limit := 0, cores := 0, dev := 0, peer := 0, sig := 0, chunks := planChunks k d.dst d.len d.rows d.dpitch, reads := [], writes := [], rods := 0,
      failed := false }
    let starts : Instr → Side → Option Side → List Range → Option Trap → Job → Prop := fun i p q list extra j =>
      let rd := ((q.map fun y => y.ranges d.len).getD [])
      Issues i s c t → c.act ≠ 0 → descTrap (t.vf c.blk.vf) c.blk.decl.shared ⟨d, p, q, list⟩ = none → extra = none → c.run.samples = none →
      t.readGroups c.blk.vf rd = [] →
      (d.rows ≠ 0 → d.len ≠ 0 → exec i s = .next (c.after { t with
        nextId := t.nextId + 1
        jobs := t.jobs ++ [{ j with
          reads := rd ++ list
          writes := p.ranges d.len
          rods := t.rodTags c.blk ((rd ++ list) ++ p.ranges d.len)
          after := ((t.warp? c.ref).getD c.w).jobAfter (t.rodTags c.blk ((rd ++ list) ++ p.ranges d.len)) }] }))
      ∧ (d.rows = 0 ∨ d.len = 0 → exec i s = .next (c.after (if j.kind = .push then ({ t with nextId := t.nextId + 1 } : State).endJob j else t)))
    let off := (c.s x).toNat
    let limit := (c.w.rs (x.toNat + 1)).toNat
    let lim := if d.rows == 0 then 0 else limit
    let list : List Range := if d.rows == 0 then [] else [⟨.sh, off, 4 * d.rows⟩]
    let here : XSpace := if scr then .sp else .mm
    let word := c.s x
    let sig := (c.w.rs64 g.toNat).toNat
    starts (.bcp h dst src bar a) (sideD dst d.rows) (some (sideS src d.rows)) [] none (job .copy dst src)
    ∧ starts (.bfill h dst bar a) (sideD dst d.rows) none [] none (job .fill dst .sh)
    ∧ starts (.bpfx h bar a) (sideD (some .sp) d.rows) (some (sideS (some .mm) d.rows)) [] none (job .prefetch .sp .mm)
    ∧ starts (.bmc h src bar a mask) (sideD (some .sh) d.rows) (some (sideS src d.rows)) [] none { job .multicast .sh src with cores := mask }
    ∧ starts (.bga h dst src bar a x) (sideD dst d.rows) (some (sideS src lim)) list (listTrap c.blk.decl.shared off d.rows)
        { job .gather dst src with
          list := off
          limit := limit }
    ∧ starts (.bsc h dst src bar a x) (sideD dst lim) (some (sideS src d.rows)) list (listTrap c.blk.decl.shared off d.rows)
        { job .scatter dst src with
          list := off
          limit := limit }
    ∧ (∀ j : Job,
        let sends : Prop := j.kind = .push ∧ j.peer.getLsbD 8 = true ∧ j.failed = false
        let same : Prop := (t.endJob j).fab = t.fab ∧ (t.endJob j).signals = t.signals
        (¬sends → same) ∧ (t.ports = 0 ∨ (t.vf j.vf).bound? j.dev = none → same)
        ∧ (sends → t.ports ≠ 0 → ∀ u, (t.vf j.vf).bound? j.dev = some u →
          (t.endJob j).fab = t.fab ++ [.signal j.dev u j.sig (j.peer.toNat / 2 ^ 16)] ∧ (t.endJob j).signals = t.signals ++ [(j.id, j.vf)]))
    ∧ starts (.bcpp h pull scr bar a x g) (sideD (if pull then some here else none) d.rows) (some (sideS (if pull then none else some here) d.rows)) []
        ((peerIll pull g word).or (peerTrap (t.vf c.blk.vf) word sig))
        { job (if pull then .pull else .push) here here with
          dev := word.toNat % 256
          peer := word
          sig := sig }

/-- O54. When it issues with an active lane: VMARK performs the warp's earlier accesses at package scope and, for a tile of a master tensor, raises its generation and queues 1 in the predicate of every active lane, else 0. VSTAMP queues the generation and poison of the group's stamp, or under .gen the generation of its source tile and 0, and 0 and 0x80000000 where no group is named. VWAIT queues 0 where no view or group is named, and 1, as an acquire, where every group is fresh; at the first group that is not, it traps VPOIS where that group is poisoned, and where it is stale the run blocks on it, sampled, with the groups behind it still to come and the lanes that receive the predicate. VREFR queues 0 where none is named, else puts the groups ahead of the dirty list and queues 1. Which group a word without .all names, and that stamps are those of the registered view, is read by inference (assumption 48); what an acquire here orders is assumption 68. (spec/15_views.md, View instructions (R266 to R270), Table 15-6; spec/19_faults.md, Table 19-2) -/
def Obligations.ViewWords : Prop :=
  ∀ (h : Hdr) (gen all : Bool) (pd : BitVec 3) (d : BitVec 10) (a b : BitVec 7) (s : State) (c : Ctx) (t : State),
    let hd := (c.s a).toNat % 2 ^ 20
    let queue : State → Bool → State := fun u ok => c.late u .plain 0 (c.lanes.map fun l => (.p l pd.toNat, if ok then 1 else 0))
    let g := (c.s a).toNat / 2 ^ 20 * 2 ^ 32 + (c.s b).toNat
    let preds : State → Bool → State := fun u ok => c.after (queue u ok)
    let u := t.performWarp c.ref .pkg
    let pair : Word → Word → State := fun x y => c.after (c.late t .plain 0 (c.lanes.flatMap fun l => [(.v l d.toNat, x), (.v l (d.toNat + 1), y)]))
    c.act ≠ 0 →
    (Issues (.vmark h pd a b) s c t → ∀ m, u.desc? c.blk.vf hd = some m → m.view = false → (c.s b).toNat < m.tiles →
      exec (.vmark h pd a b) s = .next (preds (u.rise c.blk.vf hd (c.s b).toNat m fun _ _ => true) true))
    ∧ (Issues (.vmark h pd a b) s c t → (∀ m, u.desc? c.blk.vf hd = some m → m.view = true ∨ m.tiles ≤ (c.s b).toNat) →
      exec (.vmark h pd a b) s = .next (preds u false))
    ∧ (Issues (.vstamp h gen d a b) s c t → ∀ v m, t.view? c.blk.vf hd = some v → t.desc? c.blk.vf hd = some m → m.hasGroup g = true →
      exec (.vstamp h gen d a b) s = .next (if gen then pair (t.sourceGen v m g) 0
        else pair (Sparse.get Stamp.zero v.stamps g).gen (if (Sparse.get Stamp.zero v.stamps g).pois then 1 else 0)))
    ∧ (Issues (.vstamp h gen d a b) s c t → t.view? c.blk.vf hd = none ∨ t.desc? c.blk.vf hd = none ∨ (∃ m, t.desc? c.blk.vf hd = some m ∧ m.hasGroup g = false) →
      exec (.vstamp h gen d a b) s = .next (pair 0 0x80000000))
    ∧ (Issues (.vwait h all pd a b) s c t → t.named? c all a b = none → exec (.vwait h all pd a b) s = .next (preds t false))
    ∧ (Issues (.vwait h all pd a b) s c t → ∀ gs, t.named? c all a b = some gs →
      let one : Nat × Nat → List ViewWait := fun x => t.sampleGroups c.blk.vf [x]
      let passes : Nat × Nat → Prop := fun x => t.staleOf (one x) = [] ∧ t.poisonedOf (one x) = none
      ((∀ x ∈ gs, passes x) → exec (.vwait h all pd a b) s = .next (c.after ((queue t true).observe c.ref)))
      ∧ (∀ ys x zs, gs = ys ++ x :: zs → (∀ y ∈ ys, passes y) → t.staleOf (one x) = [] → t.poisonedOf (one x) ≠ none →
        ∃ y, y.cause = 0x11 ∧ exec (.vwait h all pd a b) s = .next (s.trapWord c.ref c.run.pc c.run.lanes c.w y))
      ∧ (∀ ys x zs w, gs = ys ++ x :: zs → (∀ y ∈ ys, passes y) → one x = [w] → t.staleOf [w] ≠ [] →
        exec (.vwait h all pd a b) s = .next (c.after (c.blockRun t (.view pd.toNat c.all w zs)))))
    ∧ (Issues (.vrefr h all pd a b) s c t → t.named? c all a b = none → exec (.vrefr h all pd a b) s = .next (preds t false))
    ∧ (Issues (.vrefr h all pd a b) s c t → ∀ gs, t.named? c all a b = some gs →
      exec (.vrefr h all pd a b) s = .next (preds (gs.reverse.foldl (fun u x => u.markDirty c.blk.vf x.1 x.2 true) t) true))

/-- O55. ISSUE_OPPORTUNITY of a free quadrant, whose core does not idle for pacing, latches the runs selected from the warp that the picker selects, marks the warp as picked and the quadrant as busy for the block's issue cycles, and ages the ready runs of the warp. YIELD_WINDOW_END ends the windows that are over, STALL_EXPIRY the holds that are over, NAP_WAKE the naps that are over, each at the next word. FIXED_LATENCY_LANDING and RESULT_LANDING, where no lane of the warp is signed, write what lands, once every access of it has been made, with its poison; a result that lands drops the fixed-latency writes of the same registers that have yet to land (assumption 28), and nothing else changes (the model's own counter of free values apart). SFQ_FILL supplies the oldest entry that is not supplied. FLUSHING_READ_COMPLETE lets the fences of the interface that wait for it go on, once every posted write that the device holds for it has been issued. WAIT_TABLE_WAKE and WAIT_TABLE_REREAD give a lane parked on a word that differs its value, scoreboarded, and let it go on at the next word, where no earlier access of its warp is ahead of the read: WAKE after a write to the word, REREAD a lane without an entry. How runs issue one after another within an opportunity is the model's choice (assumption 3), as is the order of runs that R20 ranks alike (assumption 66). (spec/01_machine.md, Issue (R18, R20 to R22); spec/03_assembly_encoding.md, Stall counts and the scoreboard (R67, R68); spec/11_isa_control.md, NAP (R194); spec/07_isa_compute.md, Special-function queues (R121); spec/09_memory.md, Waiting on a word (R141, R142); spec/09_memory.md, Host and fabric (R185); spec/17_launch.md, The warp picker (R302)) -/
def Obligations.IssueAndLanding : Prop :=
  ∀ (s : State) (r : WarpRef) (b : Block) (w : Warp), s.block? r.blk = some b → s.warp? r = some w →
    (∀ (q : Nat) (v : Warp) (k : Block) (r0 : Run) (r1 : Option Run), s.issue = none → (s.quad q).busy ≤ s.clock → (s.quad q).last ≤ s.clock → q / 4 ∉ s.idling →
      s.holdRequested.pickWarp q = some r → s.holdRequested.block? r.blk = some k → s.holdRequested.warp? r = some v →
      s.holdRequested.selectRuns k r.num { s.holdRequested.ageRuns k r.num v with picked := s.clock } = some (r0, r1) →
      ∃ t v', exec (.issueOpportunity q) s = .next t ∧ t.issue = some { ref := r, d0 := r0.lanes, d1 := r1.map (·.lanes) }
        ∧ (t.quad q).busy = s.clock + k.decl.width / 16 ∧ (t.quad q).last = s.clock + 1
        ∧ t.warp? r = some v' ∧ v'.picked = s.clock
        ∧ v'.runs = v.runs.map fun x => if s.holdRequested.runReady k r.num v x && !x.yielding s.clock then { x with age := min 64 (x.age + 1) } else x)
    ∧ exec (.yieldWindowEnd r) s = .next (s.setWarp r { w with runs := w.runs.map fun x => match x.yieldEnd with
        | some e => if s.clock < e then x else { x with yieldEnd := none }
        | none => x })
    ∧ exec (.stallExpiry r) s = .next (s.setWarp r { w with runs := w.runs.map fun x => if x.notBefore ≤ s.clock then { x with notBefore := 0 } else x })
    ∧ exec (.napWake r) s = .next (s.setWarp r { w with runs := w.runs.map fun x => match x.wait with
        | some (.nap n) => if n ≤ s.clock then { x with
            wait := none
            pc := x.pc + 8 } else x
        | _ => x })
    ∧ (w.signed = 0 → exec (.fixedLatencyLanding r) s = .next (s.setWarp r (w.landDue s.clock)))
    ∧ (∀ id l, w.signed = 0 → w.late.find? (fun y => y.id == id) = some l → l.kind = .load ∨ l.kind = .plain → (∀ y ∈ w.late, y.rest = []) →
        l.loose = [] → l.queued = false → (∀ k < 20, w.arrivalDue k = false) → (∀ e ∈ s.waitTab, e.ref = r → e.woken = false) →
        exec (.resultLanding r id) s = .next (({ s with fresh := s.fresh + 1 } : State).setWarp r { w.puts l.writes with
          pend := w.pend.filter fun p => !l.writes.any fun x => x.1 == p.reg
          late := w.late.filter fun y => y.id != id
          vPois := l.bad.foldl addPois (w.puts l.writes).vPois }))
    ∧ (∀ lane q xs e ys, w.queue lane (if q then 1 else 0) = xs ++ e :: ys → (∀ x ∈ xs, x.filled = true) → e.filled = false →
        exec (.sfqFill r lane q) s = .next (s.setWarp r (w.setQueue lane (if q then 1 else 0) (xs ++ { e with filled := true } :: ys))))
    ∧ (∀ vf, (s.vf vf).holdsPosts = false →
        let go : Block → Block := fun b =>
          if b.vf = vf then { b with warps := b.warps.map fun w => w.release (fun x => x == .flush) (BitVec.allOnes 64) } else b
        exec (.flushingReadComplete vf) s = .next { s with
          blocks := s.blocks.map go
          saved := s.saved.map go })
    ∧ (∀ (run : Run) (wide acq : Bool) (d l a : Nat) (rods : Word), w.runs = [run] → run.lanes ≠ 0 → run.wait = some (.word wide acq d rods [(l, a)]) →
        let n := if wide then 8 else 4
        let x := s.spView b.core w.storeQ a n
        x ≠ storeBytes w d l n → s.waitPois r (.word wide acq d rods [(l, a)]) (l, a) = false →
        w.heldNow rods [{ lane := l, reg := d, space := .scratch, addr := a, len := n }] = false → (∀ y ∈ w.late, y.loose = []) →
        ∀ i ∈ [Instr.waitTableReread r l, .waitTableWake a],
          (i = .waitTableReread r l → ∀ e ∈ s.waitTab, e.ref = r → e.addr ≠ a) →
          (i = .waitTableWake a → ∃ k, s.waitTab.filter (fun e => e.addr == a && e.woken) = [⟨r, a, k, true⟩]) →
          ∃ t v, exec i s = .next t ∧ t.warp? r = some v
            ∧ v.late = w.late ++ [{ id := s.nextId, kind := .load, writes := loadWrites d l x, rods := rods }]
            ∧ v.runs = [{ run with
                pc := run.pc + 8
                wait := none }]
            ∧ ∀ e ∈ t.waitTab, e.ref ≠ r)

/-- O56. MATRIX_OP_START starts the operation granted, whose accumulator input is read then, with its poison. MATRIX_OP_COMPLETE writes the elements of a started operation, takes its charge and lets what waits for it go on, where no commit of a view that it reads holds it. TRANSFER_CHUNK moves a chunk that may move: its bytes are read and written and it ends, counted; a pulled row is asked of its peer. REMOTE_SIGNAL adds the value to the word, unless it is poisoned. PEER_ROW_RESEND sends a row that was put off again. TASK_START and CONTINUATION_START create a block of one warp at the place, with the arguments in s0 to s15, once the engine jobs and the accesses of its issuer that come before are complete. VIEW_REFRESH starts the first dirty group of a view that none holds back at the present generation of its source tile; it reads the source and builds the content, where no engine read uses the group and every home can be written keeps what the homes hold and begins the commit, writes it part by part and stamps the group; a commit that fails puts back what it has replaced (assumption 69); where it is pre-empted before the commit begins, which a free value says (assumption 74), the build is discarded and the group is dirty again. BLOCK_END takes away a block whose warps have ended and hold no lost store, once their accesses are performed, and its tile completes. Which of these moves is next is the agenda's, and the points that R158 to R163, R239, R243 and R258 leave open are the model's choice (assumptions 3, 16, 39, 46, 48, 49, 53, 68, 69, 74), as is that the warp of a task counts as picked when it is created (assumption 17). (spec/13_isa_matrix_transfer.md, From signing to result (R233, R239); spec/13_isa_matrix_transfer.md, Movement, counting and order (R243); spec/13_isa_matrix_transfer.md, Peer copies (R248); spec/09_memory.md, Spawning tasks and launches (R162, R163); spec/09_memory.md, Futures (R159); spec/15_views.md, Refresh (R258); spec/11_isa_control.md, EXIT (R193); spec/17_launch.md, Completion (R291); spec/19_faults.md, Translation (R321)) -/
def Obligations.EngineSteps : Prop :=
  ∀ s : State,
    (∀ (core : Nat) (o : MatOp) (b : Block), (∀ p ∈ s.coreOps core, p.started = false) → s.granted core = some o → s.op? o.id = some o →
      s.block? o.blk = some b → s.operandVa o = none →
      let n := accUnits o.fmt
      let zc := o.fmt.getLsbD 20 = true
      ∃ t, exec (.matrixOpStart core) s = .next t ∧ t.op? o.id = some { o with
        started := true
        acc := (List.range n).flatMap fun i => (List.range n).map fun j =>
          if zc then 0
          else if fw o.fmt 8 4 = 2 ∨ fw o.fmt 8 4 = 3 then b.unit o.team o.dst n n (accRegs o.fmt) i j % 2 ^ 16
          else b.unit o.team o.dst n n (accRegs o.fmt) i j
        accBad := (List.range n).flatMap fun i => (List.range n).map fun j =>
          if zc then false else b.unitPois o.team o.dst n n (accRegs o.fmt) i j })
    ∧ (∀ (id : Nat) (o : MatOp) (b : Block) (A B : MatData), s.op? id = some o → o.started = true → s.block? o.blk = some b →
      s.operandData o true = some A → s.operandData o false = some B → (∀ x ∈ A.bad, x = false) → (∀ x ∈ B.bad, x = false) → (∀ x ∈ o.accBad, x = false) →
      s.commitHeld b.vf o.reads = false →
      let n := accUnits o.fmt
      let w := accRegs o.fmt
      let rest := s.ops.filter fun p => p.id != id
      let put : Block → Nat → Nat → Block := fun k i j =>
        let x := layoutAt b.teamLanes n n i j
        let v := matElem o.op o.fmt o.positions A B ((o.acc[i * n + j]?).getD 0) false i j
        match k.warps[b.teamFirst o.team + x.1 / b.decl.width]? with
        | some wp =>
          if (wp.live ||| wp.helpers).getLsbD (x.1 % b.decl.width) = true then
            let lo := wp.put (.v (x.1 % b.decl.width) (o.dst + x.2 * w)) (BitVec.ofNat 32 v)
            k.setWarp (b.teamFirst o.team + x.1 / b.decl.width)
              (if w = 2 then lo.put (.v (x.1 % b.decl.width) (o.dst + x.2 * w + 1)) (BitVec.ofNat 32 (v / 2 ^ 32)) else lo)
          else k
        | none => k
      let written := (List.range n).foldl (fun k i => (List.range n).foldl (fun k j => put k i j) k) b
      let ch := charge o.fmt A B
      let t0 := (written.teams[o.team]?).getD { avg := 0, lastOp := [], charge := [], passed := 0 }
      let b' := { written with
        warps := written.warps.map fun wp => wp.opLanded id ch rest
        teams := listSet written.teams o.team { t0 with
          avg := t0.avg - (t0.avg >>> 3) + (ch >>> 3)
          charge := Sparse.set 0 t0.charge o.st ch } }
      exec (.matrixOpComplete id) s = .next (({ s.setBlock b' with ops := rest } : State).noteBlock o.blk).settleAll)
    ∧ (∀ (id cid : Nat) (j : Job) (b : Block) (c : Chunk), s.job? id = some j → s.block? j.blk = some b → j.chunks.find? (fun c => c.id == cid) = some c →
      s.chunkFree j c = true → s.served b j = true →
      let m : Job := { j with begun := true }
      (j.kind ∈ [.copy, .fill, .multicast, .prefetch] → ∀ bs bad u, (s.setJob m).chunkBytes b m c = .ok (bs, bad) →
        (s.setJob m).writeChunk b m (j.dstAddr + c.row * j.dPitch + c.off) bs bad = .ok u →
        exec (.transferChunk id cid) s = .next (u.endChunk b m c.id c.len true))
      ∧ (j.kind = .pull → s.ports ≠ 0 → ∀ u, (s.vf j.vf).bound? j.dev = some u → ∃ t, exec (.transferChunk id cid) s = .next t
          ∧ t.fab = s.fab ++ [.read j.dev u j.id c.id (!j.peer.getLsbD 9) (j.srcAddr + c.row * j.sPitch + c.off) c.len]))
    ∧ (∀ (vf dev u addr : Nat) (val : BitVec 16), (s.vf vf).bound? dev = some u → addr % 4 = 0 → outOfWindow s vf addr 4 = false →
      let p := physOf s vf addr
      let v := s.perform (fun f => meets f.addr f.bytes.length p 4) .pkg
      (p / 4 ∉ v.spPois → exec (.remoteSignal vf dev u addr val) s
        = .next (v.spWrite p (leBytes 4 ((leValue ((List.range 4).map fun k => Sparse.get 0 v.sp (p + k)) + val.toNat) % 2 ^ 32))))
      ∧ (p / 4 ∈ v.spPois → exec (.remoteSignal vf dev u addr val) s = .next v))
    ∧ (∀ (id cid : Nat) (j : Job) (b : Block) (c : Chunk), s.commits.find? (fun c => c.id == id) = none → s.migrating.find? (fun m => m.id == id) = none →
      s.job? id = some j → s.block? j.blk = some b → j.chunks.find? (fun c => c.id == cid) = some c → c.later = true → j.kind = .pull → s.ports ≠ 0 →
      ∀ u, (s.vf j.vf).bound? j.dev = some u → ∃ t, exec (.peerRowResend id cid) s = .next t
        ∧ t.fab = s.fab ++ [.read j.dev u j.id c.id (!j.peer.getLsbD 9) (j.srcAddr + c.row * j.sPitch + c.off) c.len])
    ∧ (∀ (vf n : Nat) (pl : Place) (k : PendTask) (e : CodeEntry),
      let started : State → State → Prop := fun u t => ∃ b w, t.blocks = u.blocks ++ [b] ∧ b.task = true ∧ b.vf = vf ∧ b.launch = k.launch
        ∧ b.depth = k.depth ∧ b.cls = k.cls ∧ b.deadline = k.deadline ∧ b.core = pl.core ∧ b.decl = e.asTask ∧ b.cstat = k.cstat
        ∧ b.tile = 0xFFFFFFFF ∧ b.warps = [w] ∧ (∀ m, m < 16 → w.rs m = (k.args[m]?).getD 0) ∧ w.picked = s.clock
      let may : State → Prop := fun u => k.vf = vf ∧ u.codeEntry? k.vf k.num = some e ∧ e.isTask = true ∧ u.drained k.after = true ∧ u.covered k.cover = true
        ∧ u.deferredUse e = false ∧ (∀ l, u.launch? k.vf k.launch = some l → l.suspended = false) ∧ u.taskPlace k e.asTask pl = true
      let u : State := ({ s with tasks := dropAt s.tasks n } : State).returnEntry k.owner
      let v : State := { s with conts := dropAt s.conts n }
      (s.tasks[n]? = some k → may u → ∃ t, exec (.taskStart vf n pl) s = .next t ∧ started u t ∧ t.tasks = dropAt s.tasks n)
      ∧ (s.conts[n]? = some k → (∀ x ∈ s.conts.take n, x.die ≠ k.die ∨ x.vf ≠ vf) → may v →
          ∃ t, exec (.continuationStart vf n pl) s = .next t ∧ started v t ∧ t.conts = v.conts))
    ∧ (∀ (vf h : Nat) (v : View) (d m : Desc), s.view? vf h = some v → s.desc? vf h = some d → s.desc? vf v.master = some m →
      let going := s.commits.find? fun c => c.vf == vf && c.handle == h && s.commitMoves c v d m
      let u : State := { s with fresh := s.fresh + 1 }
      let stays : Prop := (Config.freeWord ((s.fresh + 1) * 2 ^ 48)).getLsbD 0 = false
      (∀ x, going = none → s.dirty.find? (fun x => x.vf == vf && x.handle == h && !s.dirtyHeld x) = some x →
        exec (.viewRefresh vf h) s = .next { s.undirty vf h x.group with
          nextId := s.nextId + 1
          commits := s.commits ++ [{
            id := s.nextId, vf := vf, handle := h, group := x.group, gen := s.sourceGen v d x.group, stage := .source, parked := none, rows := [],
            far := [], near := [] }] })
      ∧ (∀ c, going = some c →
        (c.stage = .source ∨ c.stage = .ready → ¬stays → exec (.viewRefresh vf h) s = .next ((u.dropCommit c).markDirty c.vf c.handle c.group false))
        ∧ (∀ (r : Rec) (x : Copy) (xs : List Copy) (die : Nat) (steps : List (List (Nat × List Byte))), c.stage = .source → stays →
          u.record? c.vf m (sourceTile d m c.group) = some r → r.state = .resident → r.copies = x :: xs → x.home = .main die →
          u.tileMoving v d (groupTile c.group) = false → buildGroup d m c.group (fun i => u.readTileElem {} c.vf m true x.addr none i) = .ok steps →
          exec (.viewRefresh vf h) s = .next (u.beginCommit c d (steps.map linedWrites)))
        ∧ (∀ r old, c.stage = .ready → stays → u.record? c.vf d (groupTile c.group) = some r →
            (∀ x ∈ r.copies, x.peerDev? = none → (u.putCopy c.vf d x c.near.flatten).isSome = true) → u.groupInUse c = false →
            (c.near.map fun ws => match (r.copies.filter fun x => x.peerDev?.isNone).head? with
              | some x => u.heldCopy c.vf d x ws
              | none => some []) = old.map some →
            let asks := c.far.flatten.map fun m => (m.row, m.probe)
            exec (.viewRefresh vf h) s = .next { u.setCommit { c with
                stage := if asks = [] then .commit else .probe
                rows := asks
                old := old } with fab := s.fab ++ asks.map fun y => y.2 })
        ∧ (c.stage = .probe → exec (.viewRefresh vf h) s = .next (u.setCommit { c with stage := .commit }))
        ∧ (∀ ms far, c.stage = .commit → c.far = ms :: far → exec (.viewRefresh vf h) s = .next { u.setCommit { c with
            far := far
            rows := ms.map fun y => (FabMsg.row y, y) } with fab := s.fab ++ ms })
        ∧ (∀ ws near r, c.stage = .commit → c.far = [] → c.near = ws :: near → u.record? c.vf d (groupTile c.group) = some r →
            let put := (r.copies.filter fun x => x.peerDev?.isNone).foldl (fun (acc : Option State) x => acc.bind fun t => t.putCopy c.vf d x ws) (some u)
            (∀ t, put = some t → exec (.viewRefresh vf h) s = .next (t.setCommit { c with near := near }))
            ∧ (put = none → exec (.viewRefresh vf h) s = .next (
              let sent := c.back.filter fun m => !c.far.any fun ms => ms.any fun y => y.row == m.row
              let c1 := { c with stage := RefreshStage.undo }
              if sent = [] ∨ u.ports = 0 then ((u.restoreNear c).dropCommit c).failGroup c.vf c.handle c.group c.gen
              else { u.setCommit { c1 with
                back := []
                rows := sent.map fun m => (m.row, m) } with fab := s.fab ++ sent })))
        ∧ (c.stage = .commit → c.far = [] → c.near = [] →
            exec (.viewRefresh vf h) s = .next ((u.dropCommit c).stampGroup c.vf c.handle c.group { pois := false, gen := c.gen }))))
    ∧ (∀ (blk : Nat) (b : Block), s.block? blk = some b → (∀ w ∈ b.warps, w.ended = true ∧ w.halted = false) → (∀ j ∈ s.jobs, j.blk ≠ blk) → (∀ o ∈ s.ops, o.blk ≠ blk) →
      b.parked = false →
      let u := (List.range b.warps.length).foldl (fun t n => t.finishWarp ⟨blk, n⟩) s
      let gone : State → State := fun u => ({ u.countEnd b.core with blocks := (u.countEnd b.core).blocks.filter fun x => x.id != blk } : State).pruneGangs
      (b.task = true → exec (.blockEnd blk) s = .next (gone ((u.failOwned b).unpin b.vf b.pins)))
      ∧ (∀ l, b.task = false → (u.unpin b.vf b.pins).launch? b.vf b.launch = some l → b.tile < l.completed + Config.window →
          exec (.blockEnd blk) s = .next ((gone (u.unpin b.vf b.pins)).tilesDone b.vf b.launch
            [(b.tile, { stat := 0, ranAt := (u.unpin b.vf b.pins).homeCode b.vf b.clu, spill := b.spill, version := b.version })])))

/-- O57. WALK_START of a launch that may start, by itself and with no predecessor that stops it, gives it its queue's binding, and so its class, and makes it walking with the smaller of its tile count and the count read. WALK_TILE takes the next tile of a launch without gangs whose record is not MOVING: the tile is pinned and waits for its hand-off to the leaf chosen. TILE_HANDOFF puts it before that leaf while a permit is left, LEAF_ACCEPT into the leaf's queue while it has room. BLOCK_CREATE creates the block of an entry whose turn it is, whose tiles can be staged and that fits the place; GANG_PLACE the blocks of a gang in one step. GANG_AGE_EXPIRY marks the gangs that have waited at the head longer than their age. RAMP_INTERVAL, while pacing is on and the interval has elapsed, starts a new one of a die, in which up to STEP of the cores that idle stop idling. Cycle counts of pacing, the order of entries that wait and of gangs larger than STEP, and who picks places are the model's choice (assumptions 3, 16, 17, 54, 70). (spec/17_launch.md, The walk (R280 to R282, R293); spec/17_launch.md, Staging (R283 to R286); spec/17_launch.md, Gangs (R297, R298); spec/17_launch.md, Power pacing (R303)) -/
def Obligations.WalkSteps : Prop :=
  ∀ s : State,
    (∀ (vf num : Nat) (l : Launch), s.launch? vf num = some l → s.mayWalk l = true → l.bundle = none → s.predFault l = false →
      let n := match l.opts.count with
        | some a => (readWord s.sp (physOf s vf a)).toNat
        | none => l.tiles
      min n l.tiles ≠ 0 → exec (.walkStart vf num) s = .next (s.setLaunch { l with
        cls := match l.queue with
          | some q => bindClass ((s.vf vf).queue q).bind
          | none => l.cls
        bind := match l.queue with
          | some q => ((s.vf vf).queue q).bind
          | none => l.bind
        phase := .walking
        tiles := min n l.tiles
        countWord := n
        clusters := s.launchClusters l
        started := s.clock }))
    ∧ (∀ (vf num : Nat) (l : Launch) (d : Desc) (x : Rec) (leaf code : Nat), s.launch? vf num = some l → l.phase = .walking → l.handing = none →
      l.suspended = false → s.coreHalted = false → l.parkedRec = none → l.next ∉ l.lostRecs → l.kernel.cluster < 2 → l.bundle = none → l.next < l.tiles →
      let l1 := { l with next := l.next + 1 }
      s.desc? vf l.kernel.overTh = some d → s.record? vf d l.next = some x → x.state ≠ .moving → s.placeTile l1 l.next x = .leaf leaf code →
      exec (.walkTile vf num) s = .next ((({ s with pinned := s.pinned ++ [(vf, l.kernel.overTh, l.next)] } : State).setLaunch
        { l1 with handing := some (leaf, [(l.next, x.version, if code = 1 ∨ code = 2 ∨ code = 3 then code else 0)]) }).tilesDone vf num []))
    ∧ (∀ (vf num leaf : Nat) (l : Launch) (ts : List (Nat × Nat × Nat)), s.launch? vf num = some l → l.handing = some (leaf, ts) →
      (s.leaf leaf).incoming.length < Config.linkPermits →
      exec (.tileHandoff vf num) s = .next (((s.setLeaf leaf { s.leaf leaf with incoming := (s.leaf leaf).incoming ++ [{
        vf := vf, launch := num, tiles := ts, gang := decide (2 ≤ l.kernel.cluster), cls := l.cls, deadline := l.deadline, resume := none,
        accepted := 0 }] }).setLaunch { l with handing := none }).settleWalk vf num))
    ∧ (∀ (leaf : Nat) (e : LeafEntry) (rest : List LeafEntry), (s.leaf leaf).incoming = e :: rest → s.queued leaf + e.tiles.length ≤ Config.leafQueue →
      exec (.leafAccept leaf) s = .next ((({ s with nextId := s.nextId + 1 } : State).setLeaf leaf { s.leaf leaf with
        incoming := rest
        queue := enqueue { e with accepted := s.nextId } (s.leaf leaf).queue }).noteHead leaf))
    ∧ (∀ (leaf n : Nat) (pl : Place) (e : LeafEntry) (l : Launch) (x : Nat × Nat × Nat) (xs : List (ToStage × Copy)),
      (s.leaf leaf).queue[n]? = some e → s.launch? e.vf e.launch = some l → e.tiles = [x] → e.gang = false → e.resume = none → l.suspended = false →
      s.orderOk leaf n e = true → s.mayCreate (leaf / 16) 1 = true → pl.core / 4 = leaf →
      s.tileReady l (leaf / 16) x.1 x.2.2 (s.stageLost leaf e) = .ok xs →
      s.fits e.vf l.kernel pl (s.layout l pl xs).2.1 = true →
      exec (.blockCreate leaf n pl) s
        = .next (((s.clearStage leaf e).leaveLeaf leaf n).createBlock l x pl none (s.layout l pl xs).1 (s.layout l pl xs).2.1 (s.layout l pl xs).2.2))
    ∧ (∀ (leaf n : Nat) (pls : List Place) (e : LeafEntry) (l : Launch) (rs : List ((Nat × Nat × Nat) × List (ToStage × Copy))) (u : State),
      (s.leaf leaf).queue[n]? = some e → s.launch? e.vf e.launch = some l → e.gang = true → e.resume = none → l.suspended = false →
      s.orderOk leaf n e = true → s.mayCreate (leaf / 16) rs.length = true → s.gangHere leaf none = false → (∀ p ∈ pls, p.core / 4 = leaf) → distinctCores pls = true →
      rs ≠ [] → rs.length = pls.length → e.tiles = rs.map (·.1) →
      (∀ y ∈ rs, s.tileReady l (leaf / 16) y.1.1 y.1.2.2 (s.stageLost leaf e) = .ok y.2) →
      let v := (s.clearStage leaf e).leaveLeaf leaf n
      let g : Gang := {
        id := s.nextId
        cluster := leaf
        created := rs.length * l.kernel.created
        bars := List.replicate 4 { ready := true, phase := 0, expW := rs.length * l.kernel.created, arrW := 0, expB := 0, arrB := 0, lost := false } }
      ({ v with
        nextId := s.nextId + 1
        gangs := v.gangs ++ [g] } : State).createGang l s.nextId ((rs.zip pls).map fun y => (y.1.1, y.2, y.1.2)) = some u →
      exec (.gangPlace leaf n pls) s = .next u)
    ∧ (∀ leaf, let u := s.noteHead leaf
        let old : LeafEntry → Bool := fun e => match e.headSince with
          | some k => (u.vf e.vf).gangage.toNat % 2 ^ 16 == 0 || decide ((u.vf e.vf).gangage.toNat % 2 ^ 16 * u.mhz < u.clock - k)
          | none => false
        (∃ e ∈ (u.leaf leaf).queue, old e = true ∧ e.aged = false) →
        exec (.gangAgeExpiry leaf) s = .next (u.setLeaf leaf { u.leaf leaf with
          queue := (u.leaf leaf).queue.map fun e => if old e then { e with aged := true } else e }))
    ∧ (∀ die, s.ramp.getLsbD 31 = true → max 1 (s.ramp.toNat % 256) * s.mhz ≤ (s.clock - Sparse.get 0 s.rampAt die) * 10 →
        let step := max 1 (s.ramp.toNat / 256 % 256)
        let mine := s.idling.filter fun c => c / 64 == die
        exec (.rampInterval die) s = .next { s with
          starts := Sparse.set 0 s.starts die (Sparse.get 0 s.starts die - step)
          ends := Sparse.set 0 s.ends die (min step mine.length)
          rampAt := Sparse.set 0 s.rampAt die s.clock
          idling := (s.idling.filter fun c => c / 64 != die) ++ mine.drop step })

/-- O58. PREEMPT_REQUEST of a block that may be pre-empted marks it; PREEMPT_SAVE of a block that has stopped takes it off its core and keeps it saved; BLOCK_RESUME restores a saved block from the head of its leaf's queue, where that queue's order lets it return, at a place with room; where its record fails the check (a choice of the model, assumption 24), its launch ends ABORTED, a record of KIND 3 is reported and its lanes exit. SOFT_ERROR counts, up to the largest value. UNCORRECTABLE_ERROR poisons the data it strikes. STORE_QUEUE_LOSS marks the entry as lost and halts the warp. DISPATCH_CORE_ERROR halts the dispatch core, ends the launches that are not walked, is reported to the physical function and raises FATAL. QUEUE_TABLE_ERROR halts the queue with its read index frozen, ends its launches that have not started, reports a record of KIND 3 and raises the event. When a block may be pre-empted and has stopped is in part the model's reading (assumptions 23, 45). (spec/19_faults.md, Pre-emption (R312 to R316); spec/19_faults.md, Soft errors and poison (R322 to R325); spec/19_faults.md, Errors in the dispatch core (R327, R328); spec/21_system.md, Tables 21-7, 21-12 and 21-13) -/
def Obligations.PreemptionAndErrors : Prop :=
  ∀ s : State,
    (∀ (blk : Nat) (b : Block), s.block? blk = some b → s.mayPreempt b = true → b.parked = false →
      ∃ t b', exec (.preemptRequest blk) s = .next t ∧ t.block? blk = some b' ∧ b'.preempt = .requested)
    ∧ (∀ (blk : Nat) (b : Block), s.holdRequested.block? blk = some b → (∀ x ∈ s.holdRequested.unitOf b, s.holdRequested.blockStopped x = true) →
      (∀ f ∈ s.holdRequested.faults, f.what ≠ .save blk) → (∀ x ∈ s.holdRequested.unitOf b, s.holdRequested.saveFault x true = none) →
      ∃ t, exec (.preemptSave blk) s = .next t ∧ t.block? blk = none ∧ ∃ x ∈ t.saved, x.id = blk)
    ∧ (∀ (blk : Nat) (b : Block) (e : LeafEntry) (q : List LeafEntry) (pl : Place) (u : State), s.saved.find? (fun x => x.id == blk) = some b →
      (s.leaf b.clu).queue = e :: q → e.resume = some blk → s.savedUnit b = [b] → s.resumeOk b.clu 0 e = true → (b.gang = none ∨ s.gangHere b.clu b.gang = false) →
      (∀ f ∈ s.faults, f.what ≠ .save blk) → s.saveFault b false = none →
      (s.leaveLeaf b.clu 0).restoreBlock b pl = some u → exec (.blockResume blk [pl]) s = .next (if s.recordKept b then u else u.failRecord b))
    ∧ exec .softError s = .next { s with cecnt := if s.cecnt = BitVec.allOnes 32 then s.cecnt else s.cecnt + 1 }
    ∧ (∀ a, ∃ t, exec (.uncorrectableError (.scratch a)) s = .next t ∧ a / 4 ∈ t.spPois)
    ∧ (∀ a, ∃ t, exec (.uncorrectableError (.main a)) s = .next t ∧ a / 64 ∈ t.mmPois)
    ∧ (∀ (blk : Nat) (b : Block) (a : Nat), s.block? blk = some b →
      ∃ t b', exec (.uncorrectableError (.shared blk a)) s = .next t ∧ t.block? blk = some b' ∧ a / 4 ∈ b'.sharedPois)
    ∧ (∀ (r : WarpRef) (w : Warp) (l n : Nat), s.warp? r = some w →
      (∃ t w', exec (.uncorrectableError (.stack r l n)) s = .next t ∧ t.warp? r = some w' ∧ (l * 2 ^ 20 + n) / 4 ∈ w'.stackPois)
      ∧ (∃ t w', exec (.uncorrectableError (.vreg r l n)) s = .next t ∧ t.warp? r = some w' ∧ 1024 * l + n ∈ w'.vPois)
      ∧ (∃ t w', exec (.uncorrectableError (.sreg r n)) s = .next t ∧ t.warp? r = some w' ∧ n ∈ w'.sPois))
    ∧ (∀ (r : WarpRef) (w : Warp) (n : Nat) (e : StoreEntry), s.warp? r = some w → w.storeQ[n]? = some e →
      ∃ t w', exec (.storeQueueLoss r n) s = .next t ∧ t.warp? r = some w' ∧ w'.halted = true ∧ w'.storeQ[n]? = some { e with lost := true })
    ∧ (let u : State := { s with
         coreHalted := true
         uecnt := if s.uecnt = BitVec.allOnes 32 then s.uecnt else s.uecnt + 1 }
       let waiting := s.launches.filter fun l => l.phase == .waiting || l.phase == .walking
       exec .dispatchCoreError s = .next ((waiting.foldl (fun t l => t.abortLaunch l.vf l.num false) u).reportPf 3).fatal)
    ∧ (∀ vf q, let u := s.setQueue vf q { (s.vf vf).queue q with
          halted := true
          arrivals := [] }
        let mine := s.launches.filter fun l => l.vf == vf && l.queue == some q && l.phase == .waiting
        let v := (mine.foldl (fun t l => t.abortLaunch vf l.num true) u).report vf 3 0 []
        exec (.queueTableError vf q) s = .next (({ v.setVf vf { v.vf vf with event := (v.vf vf).event ||| 8 } with
          uecnt := if v.uecnt = BitVec.allOnes 32 then v.uecnt else v.uecnt + 1 } : State).irq (some vf) 2))
    ∧ (∀ vf q, ∃ t, exec (.queueTableError vf q) s = .next t ∧ ((t.vf vf).queue q).halted = true ∧ (t.vf vf).event.getLsbD 3 = true
        ∧ ((t.vf vf).queue q).qrd = ((s.vf vf).queue q).qrd)

/-- O59. Where the command at the head of a queue may be taken and sets no reserved field, the turn of its class and group passes to the next queue, and: LAUNCH submits its launch and passes, BUNDLE submits its sub-launches when all are pending; WRDESC writes a descriptor that Table 17-1 allows, WRREC a record of a tile that is not pinned, MIGRATE makes the record MOVING and waits, and MIGRATION_COMPLETE ends it with the tile copied; VIEWREG registers the view and waits, and completes once every group has been built; VIEWDEREG, INVAL, SUSPEND, RESUME, ABORT, STATUS and FRESP have their effect and complete. A command in progress keeps the binding under which it started. One that completes moves the read index by one and queues one launch completion entry with its status. QWR_WRITE makes commands pending, COMMAND_HOLD_RELEASE lets held ones arrive now, QUANTUM_EXPIRY and ENGINE_GROUP_IDLE raise their events, and COMPLETION_POST writes the oldest entry that waits, then its index, while the ring is enabled and has room. QWR is written on an interface that is served. What commands do that Table 21-6 leaves open is the model's choice (assumptions 40 to 43, 48). (spec/21_system.md, Command queues (R334 to R338), Tables 21-5 and 21-6; spec/21_system.md, Completions and the fault ring (R339); spec/21_system.md, Time and DEADLINE stamps (R346); spec/21_system.md, Binding queues (R343, R344); spec/17_launch.md, Queues and dispatch (R299, R304); spec/17_launch.md, Completion (R295); spec/17_launch.md, Placement records (R277); spec/17_launch.md, Bundles (R296); spec/15_views.md, Registration (R251 to R253); spec/19_faults.md, Pre-emption (R312, R316); spec/19_faults.md, Translation (R319, R320)) -/
def Obligations.HostCommands : Prop :=
  ∀ (s : State) (vf q : Nat),
    let x := (s.vf vf).queue q
    let bs := s.entry vf q x.qrd
    let takes : Nat → Prop := fun opc => s.mayTake vf q = true ∧ u8 bs 0 = opc
    let u : State := s.setVf vf { s.vf vf with turn := Sparse.set 0 (s.vf vf).turn (8 * classNum (bindClass x.bind) + bindGroup x.bind) ((q + 1) % 32) }
    let plain : Prop := headerBad bs = false ∧ zeros bs 64 128 = true
    let waits : State → State := fun t => t.setQueue vf q { (t.vf vf).queue q with
      started := true
      startBind := x.binding }
    let num := u32 bs 16
    let tile := u32 bs 32
    (takes 1 → exec (.launch vf q) s
        = .next ((u.submitEntry vf q x.recent bs x.qrd false none).2.passCommand vf q (u.submitEntry vf q x.recent bs x.qrd false none).1))
    ∧ (takes 2 → plain → 2 ≤ num → num ≤ 4 → num < (x.qwr - x.qrd).toNat →
        (∀ k, k < num → u8 (u.entry vf q (x.qrd + BitVec.ofNat 32 (k + 1))) 0 = 1) →
        let id := (if (u.vf vf).lastLaunch ≥ 0xFFFFFFFF then 1 else (u.vf vf).lastLaunch + 1, num)
        (u.submitSubs vf q false id num (0 :: x.recent) u).2.1 = false →
        let y := u.submitSubs vf q false id num (0 :: x.recent) u
        exec (.bundle vf q) s
          = .next ((y.1.take num).reverse.foldl (fun t k => t.passCommand vf q k) (y.2.2.endCommand vf q bs 0 0)))
    ∧ (takes 3 → plain → 0 < num → num < 2 ^ 20 →
        let d := readBytes s.host (u64 bs 24) 256
        (u32 d 0 / 2 ^ 31 = 1 → descBad d = false) →
        ∀ t, u.vaWrite vf false ((u.vf vf).htab.toNat + 256 * num) d = some t →
          exec (.wrdesc vf q) s = .next (((t.rewritten vf num).clearGens vf num).endCommand vf q bs 0 0))
    ∧ (takes 4 → plain → ∀ d old t, u.desc? vf num = some d → u.recBytes vf d tile = some old → u.pinnedTile vf num tile = false →
        u.vaWrite vf d.early (d.ptab + 64 * tile) (readBytes s.host (u64 bs 24) 64) = some t →
        exec (.wrrec vf q) s = .next (t.settleAll.endCommand vf q bs 0 0))
    ∧ (takes 5 → plain → ∀ d r y src dst, (∀ m ∈ u.migrating, ¬(m.vf = vf ∧ m.queue = q)) → u.desc? vf num = some d →
        u.recBytes vf d tile = some r → u.record? vf d tile = some y → u.home? vf (u16 bs 40) (u64 bs 48) = some dst → y.state = .resident →
        y.copies[u8 bs 36]? = some src → u.pinnedTile vf num tile = false → src.isPeer = false → dst.isPeer = false →
        let m : Migration := {
          id := u.nextId, vf := vf, queue := q, handle := num, tile := tile, copy := u8 bs 36, len := d.tileBytes, fromCode := u16 r (8 + 16 * u8 bs 36),
          fromAddr := src.addr, toCode := u16 bs 40, toAddr := u64 bs 48, early := d.early, rows := [], failed := false }
        exec (.migrate vf q) s = .next (waits (({ u with
          nextId := u.nextId + 1
          migrating := u.migrating ++ [m] } : State).writeRec m 1 false)))
    ∧ (∀ (h k : Nat) (m : Migration) (src dst : Copy) (w : List Byte × List Nat) (t : State),
        s.migrating.find? (fun m => m.vf == vf && m.handle == h && m.tile == k) = some m → m.rows = [] → m.failed = false →
        s.home? vf m.fromCode m.fromAddr = some src → s.home? vf m.toCode m.toAddr = some dst → src.isPeer = false → dst.isPeer = false →
        let s0 : State := { s with migrating := s.migrating.filter fun y => y.id != m.id }
        s0.copyWords m src 0 m.len = some w → s0.putWords m dst 0 w.1 w.2 = some t →
        exec (.migrationComplete vf h k) s
          = .next ((t.writeRec m 0 true).settleAll.endCommand vf m.queue (s.entry vf m.queue ((s.vf vf).queue m.queue).qrd) 0 0))
    ∧ (∀ h addrs t, takes 6 → plain → u.views.find? (fun v => v.vf == vf && v.reg == some q) = none → 0 < h → h < 2 ^ 20 → u.desc? vf h = none →
        u.view? vf h = none → u.registerView vf q h (readBytes s.host (u64 bs 24) 32) addrs = .ok t →
        exec (.viewreg vf q h addrs) s = .next (waits (t.clearGens vf h)))
    ∧ (x.started = true → s.queueUp vf q = true → s.coreHalted = false → u8 bs 0 = 6 → plain → ∀ v, s.views.find? (fun v => v.vf == vf && v.reg == some q) = some v →
        s.building vf v.handle = false → exec (.viewreg vf q v.handle []) s = .next ((s.setView { v with reg := none }).endCommand vf q bs 0 v.handle))
    ∧ (takes 7 → plain → ∀ v, u.view? vf num = some v → (∀ c ∈ u.commits, ¬(c.vf = vf ∧ c.handle = num)) → u.viewReaders vf num = false →
        exec (.viewdereg vf q) s = .next ((u.dropView vf num).wakeViews.endCommand vf q bs 0 0))
    ∧ (takes 8 → plain → exec (.inval vf q) s = .next (u.endCommand vf q bs 0 0))
    ∧ (∀ l, u.launch? vf tile = some l → plain →
        (takes 9 → u.blocksOf vf l.num = [] → exec (.suspend vf q) s = .next ((u.setLaunch { l with suspended := true }).endCommand vf q bs 0 0))
        ∧ (takes 10 → exec (.resume vf q) s = .next ((u.resumeLaunch l).endCommand vf q bs 0 0))
        ∧ (takes 11 → u.faults = [] → (u.abortLaunch vf l.num true).blocksOf vf l.num = [] →
            exec (.abort vf q) s = .next ((u.abortLaunch vf l.num true).endCommand vf q bs 0 0))
        ∧ (takes 12 → exec (.status vf q) s = .next ((u.hostWrite (u64 bs 24) (leBytes 4 l.status ++ leBytes 4 l.completed ++ leBytes 4 l.created
            ++ leBytes 4 ((u.blocksOf vf l.num).filter fun b => !b.task).length)).endCommand vf q bs 0 0)))
    ∧ (takes 13 → plain → ∀ f, u.faults.find? (fun f => f.vf == vf && f.recno == tile && f.abort.isNone) = some f → u8 bs 36 ≤ 1 →
        exec (.fresp vf q) s = .next ((u.answerFault f (u8 bs 36 == 1)).endCommand vf q bs 0 0))
    ∧ (∀ (t : State) (st res : Nat), ((t.endCommand vf q bs st res).vf vf).queue q = { (t.vf vf).queue q with
        qrd := ((t.vf vf).queue q).qrd + 1
        started := false
        posts := ((t.vf vf).queue q).posts ++ [{ tile := false, bytes := t.cmdEntry vf q (u8 bs 0) st res, irq := u32 bs 0 / 2 ^ 16 % 2 == 0 }]
        recent := (0 :: ((t.vf vf).queue q).recent).take 32768
        arrivals := ((t.vf vf).queue q).arrivals.filter fun a =>
          a.1 != ((t.vf vf).queue q).qrd + 1 && !(a.1 - (((t.vf vf).queue q).qrd + 1)).msb })
    ∧ (∀ val : BitVec 32, vf < 128 → (s.level = 2 ∨ (s.level = 1 ∧ vf = 0)) → ∃ t, exec (.qwrWrite vf q val) s = .next t ∧ ((t.vf vf).queue q).qwr = val
        ∧ (val ≠ x.qwr → ((t.vf vf).queue q).arrivals = x.arrivals ++ [(val, s.clock, BitVec.ofNat 64 s.time)]))
    ∧ (x.held = true → exec (.commandHoldRelease vf q) s = .next ((s.setQueue vf q { x with
        held := false
        arrivals := x.arrivals.map fun a => (a.1, s.clock, BitVec.ofNat 64 s.time) }).noteBusy vf))
    ∧ (∀ l, s.launches.find? (fun l => l.vf == vf && l.queue == some q && (l.phase == .walking || l.phase == .walked) && !l.quantumFired
          && l.bind.toNat / 2 ^ 16 % 2 ^ 10 != 0 && decide (l.bind.toNat / 2 ^ 16 % 2 ^ 10 * 10 * s.mhz ≤ s.clock - l.started)
          && (List.range 32).any fun p => p != q && bindGroup ((s.vf vf).queue p).bind == bindGroup l.bind && s.queueWaits vf p) = some l →
        exec (.quantumExpiry vf q) s = .next (((s.setLaunch { l with quantumFired := true }).setVf vf { s.vf vf with
          quant := (s.vf vf).quant ||| BitVec.ofNat 32 (2 ^ q)
          event := (s.vf vf).event ||| 4 }).irq (some vf) 3))
    ∧ (∀ g, g < 8 → (s.vf vf).idle.getLsbD g = false → s.groupBusy vf g = false →
        exec (.engineGroupIdle vf g) s = .next ((s.setVf vf { s.vf vf with
          idle := (s.vf vf).idle ||| BitVec.ofNat 8 (2 ^ g)
          event := (s.vf vf).event ||| BitVec.ofNat 32 (2 ^ (8 + g)) }).irq (some vf) 3))
    ∧ (∀ (p : Posting) (rest : List Posting), q < 32 → x.posts = p :: rest → p.tile = false → x.qcfg.getLsbD 31 = true →
        4 ≤ qsz x.qcfg → 4 ≤ lrsz x.qcfg → 4 ≤ trsz x.qcfg →
        (x.lwr.toNat + 2 ^ 16 - x.qcrd.toNat % 2 ^ 16) % 2 ^ 16 < 2 ^ lrsz x.qcfg →
        let t := ((s.hostWrite (x.qcomp.toNat + 64 + 32 * (x.lwr.toNat % 2 ^ lrsz x.qcfg)) p.bytes).hostWrite x.qcomp.toNat
          (leBytes 4 (x.lwr + 1).toNat)).setQueue vf q { x with
            posts := rest
            lwr := x.lwr + 1 }
        exec (.completionPost vf q) s = .next (if p.irq then t.irq (some vf) (4 + x.qcfg.toNat / 2 ^ 28 % 4) else t))

/-- O60. On an interface that is served (none from reset, interface 0 in early service, all in full service), a BAR2 write in the windows writes each byte (stated where no ingress range holds it and no store is in flight), and a read gives at most 64 bytes as they stand; a BAR0 read gives the bytes of registers, where write-only registers and reserved bits read zero; an interface that is not served gives all ones. The staging area is the physical function's BAR2; BAR4 of the physical function reaches main memory from HX_PMWIN in full service. An unsupported request is reported to the physical function's ring, and answered where it is not posted. QCRD_WRITE, TIMESET_WRITE and REGISTER_WRITE set what they name; a PPS pulse starts %time. Firmware whose key hash, signature and version the ROM accepts starts early service and runs, with its hash and version; with an image that it refuses the level and the running image stay; ATTEST writes the report of the running image; a passed self-test lets firmware enter full service, which it does when die 0 holds no block. VFCLU_WRITE gives clusters to an interface that is not enabled, but not in early service those of interface 0; VFCTL_EN_WRITE enables interfaces, and with EN 0 halts them, one already disabled too: the interface's blocks and jobs are gone, its launches done, ZBUSY is set; a function-level reset does the same, and zeroing ends it. A power window sets the telemetry and the limiter. A device reset gives every register its reset value and keeps memories. Fabric requests are performed and answered, answers end rows and remote signals, a refused signal reported to its host, and ports come up and fail. The widths of BAR0 accesses, zeros of HX_RAMP, temperatures, answers to signals, what is kept over a reset and from early service are the model's choice (assumptions 2, 14, 37, 43, 44, 56, 59, 71, 75, 80, 81). (spec/21_system.md, The host port (R329, R330); spec/21_system.md, Virtual interfaces (R347 to R349); spec/21_system.md, Firmware (R352 to R354); spec/21_system.md, Early service (R355, R356); spec/21_system.md, Power and telemetry (R357); spec/21_system.md, Time and DEADLINE stamps (R345); spec/21_system.md, Fabric (R350, R351); spec/21_system.md, Tables 21-1, 21-3 and 21-8 to 21-13; spec/00_scope.md (R5, R6); spec/13_isa_matrix_transfer.md, Peer copies (R248)) -/
def Obligations.HostAndDeviceSteps : Prop :=
  ∀ s : State,
    (∀ (vf off : Nat) (bs : List Byte) (ps : List Nat), vf < 128 → s.serves vf = true →
      (List.range bs.length).map (fun k => (s.vf vf).scratch? (off + k)) = ps.map some → s.ingress vf off bs.length = [] → s.flight = [] →
      ∃ t, exec (.hostBar2Write vf off bs) s = .next t
        ∧ ∀ a, Sparse.get 0 t.sp a = Sparse.get 0 ((ps.zip bs).foldl (fun m y => Sparse.set 0 m y.1 y.2) s.sp) a)
    ∧ (∀ (vf off : Nat) (bs : List Byte), 128 ≤ vf → off + bs.length ≤ 2 ^ 26 →
      exec (.hostBar2Write vf off bs) s = .next { s with stagingArea := writeBytes s.stagingArea off bs })
    ∧ (∀ (vf off n : Nat) (ps : List Nat), vf < 128 → s.serves vf = true → n ≤ 64 →
      (List.range n).map (fun k => (s.vf vf).scratch? (off + k)) = ps.map some →
      exec (.hostBar2Read (.window vf) off n) s = .next { s with hostOut := .readData (ps.map fun p => Sparse.get 0 s.sp p) :: s.hostOut })
    ∧ (∀ (vf off n : Nat), vf < 128 → s.serves vf = false → ∀ bar ∈ [HostBar.regs vf, .window vf],
      exec (.hostBar2Read bar off n) s = .next { s with hostOut := .readData (List.replicate (min n 64) 0xFF) :: s.hostOut })
    ∧ (let reads : Nat → Nat → Word → Prop := fun vf off x =>
         exec (.hostBar2Read (.regs vf) off 4) s = .next { s with hostOut := .readData (leBytes 4 x.toNat) :: s.hostOut }
       (∀ vf, vf < 128 → s.serves vf = true →
         let v := s.vf vf
         reads vf 0x04 v.fpxctl ∧ reads vf 0x08 v.spillth ∧ reads vf 0x10 v.traph ∧ reads vf 0x14 v.event ∧ reads vf 0x18 v.quant ∧ reads vf 0x1C 0
           ∧ reads vf 0x30 (loWord v.htab) ∧ reads vf 0x34 (hiWord v.htab)
           ∧ ∀ q, q < 32 → reads vf (0x1000 + 64 * q + 0x14) (v.queue q).qwr ∧ reads vf (0x1000 + 64 * q + 0x18) (v.queue q).qrd)
       ∧ ∀ vf, 128 ≤ vf → reads vf 0xF0000 s.ramp ∧ reads vf 0xF0010 0 ∧ reads vf 0xF0020 s.tpwr ∧ reads vf 0xF0044 s.cecnt ∧ reads vf 0xF0210 s.pfevent
           ∧ reads vf 0xF001C (BitVec.ofNat 32 (s.fwFail.toNat * 16 + s.fwRefusal.toNat * 4 + s.level)))
    ∧ (∀ (vf off n : Nat) (bs : List Byte), 128 ≤ vf → s.level = 2 → off + max (min n 64) bs.length ≤ 2 ^ 36 → s.pmwin.toNat + off + max (min n 64) bs.length ≤ Config.installed →
      exec (.hostBar4Access vf off none n) s = .next { s with hostOut := .readData (readBytes s.mm (s.pmwin.toNat + off) (min n 64)) :: s.hostOut }
      ∧ exec (.hostBar4Access vf off (some bs) n) s = .next (s.hostMain (s.pmwin.toNat + off) bs))
    ∧ (∀ p bs, (s.vf 0).earlyTh = [] → (s.vf 0).earlyCode = [] → s.hostMain p bs = s.locWrite (.main p) bs)
    ∧ exec (.unsupportedRequest false) s = .next { s.reportPf 6 with hostOut := .unsupported :: (s.reportPf 6).hostOut }
    ∧ exec (.unsupportedRequest true) s = .next (s.reportPf 6)
    ∧ (∀ vf q val, s.serves vf = true → ∃ t, exec (.qcrdWrite vf q val) s = .next t ∧ ((t.vf vf).queue q) = { (s.vf vf).queue q with qcrd := val })
    ∧ (∀ ns, exec (.timesetWrite ns) s = .next { s with timeWritten := some ns.toNat })
    ∧ (∀ n, s.timeRuns = false → s.timeWritten = some n → exec .ppsPulse s = .next { s with
        time := n
        timeRuns := true
        timeMark := some n
        timeWritten := none
        timeSlew := 0 })
    ∧ (∀ len : BitVec 26, s.level = 0 → (∀ l ∈ s.launches, l.aborted = false) → ∃ t, exec (.firmwareLoad len) s = .next t
        ∧ (let img := readBytes s.stagingArea 0 len.toNat
           (imageOk img = true → t.level = 1 ∧ t.mhz = 1000 ∧ (t.vf 0).vfclu = 0xFFFF ∧ t.image = some {
             len := len
             hash := sha384 (Config.imageBody img)
             version := Config.imageVersion img })
           ∧ (imageOk img = false → t.level = 0 ∧ t.image = s.image)))
    ∧ (∀ img, s.image = some img → exec .attest s = .next { s with
        fresh := s.fresh + 1
        stagingArea := writeBytes s.stagingArea 0 (attestReport img.hash img.version s.fabid s.attn s.fresh) })
    ∧ (∀ failure : BitVec 4, s.level ≠ 2 → exec (.selfTestComplete failure) s = .next (if failure = 0 then { s with
        fwFail := 0
        trained := true
        admitting := s.level != 1 } else { s with fwFail := failure }))
    ∧ (s.level = 1 → s.trained = true → s.coreHalted = false → (∀ b ∈ s.blocks, b.core / 64 ≠ 0) → exec .fullServiceEntry s = .next { s.keepEarly with
        level := 2
        mhz := 2600
        admitting := true })
    ∧ (∀ (vf : Nat) (m : BitVec 128), vf < 128 →
        ((s.vf vf).vfctl &&& 3 = 0 → (∀ x ∈ s.vfs, x.1 ≠ vf → x.2.vfclu &&& m = 0) → (s.level ≠ 1 ∨ vf ≠ 0) →
          ∃ t, exec (.vfcluWrite vf m) s = .next t ∧ t.vf vf = { s.vf vf with
            vfclu := m
            coreless := m &&& ~~~s.enabled })
        ∧ ((s.vf vf).vfctl &&& 3 ≠ 0 ∨ (∃ x ∈ s.vfs, x.1 ≠ vf ∧ x.2.vfclu &&& m ≠ 0) ∨ (s.level = 1 ∧ vf = 0) →
          exec (.vfcluWrite vf m) s = .next (s.setVf vf { s.vf vf with vfctl := (s.vf vf).vfctl ||| 4 })))
    ∧ (∀ vf, vf < 128 → s.level = 2 ∨ vf = 0 → (s.vf vf).vfctl.getLsbD 1 = false → (s.vf vf).vfctl.getLsbD 0 = false →
        ∃ t, exec (.vfctlEnWrite vf true) s = .next t ∧ (t.vf vf).vfctl = (s.vf vf).vfctl ||| 1 ∧ (t.vf vf).devHalted = s.coreHalted)
    ∧ (let halted : Nat → State → Prop := fun vf t => (t.vf vf).vfctl = ((s.vf vf).vfctl &&& 4) ||| 2 ∧ (t.vf vf).devHalted = true
         ∧ (∀ b ∈ t.blocks, b.vf ≠ vf) ∧ (∀ j ∈ t.jobs, j.vf ≠ vf) ∧ ∀ l ∈ t.launches, l.vf = vf → l.phase = .done
       ∀ vf, vf < 128 →
         (∃ t, exec (.vfctlEnWrite vf false) s = .next t ∧ halted vf t)
         ∧ ∃ t, exec (.functionLevelReset vf) s = .next t ∧ (t.vf vf).flr = true ∧ halted vf t)
    ∧ (∀ vf, (s.vf vf).vfctl.getLsbD 1 = true → (s.vf vf).enWaits = false →
        ∃ t, exec (.zeroingComplete vf) s = .next t ∧ (t.vf vf).vfctl = (s.vf vf).vfctl &&& 5 ∧ (t.vf vf).flr = false
          ∧ ∀ a, (s.vf vf).vfclu.getLsbD (a / 2 ^ 30 * 16 + a % 2 ^ 30 / Config.sliceBytes) = true → Sparse.get 0 t.sp a = 0)
    ∧ (∀ val : BitVec 128, ∀ vf, s.serves vf = true →
        exec (.registerWrite (some vf) 0x04 val) s = .next (s.setVf vf { s.vf vf with fpxctl := BitVec.ofNat 32 val.toNat &&& 0x1F })
        ∧ exec (.registerWrite (some vf) 0x10 val) s = .next (s.setVf vf { s.vf vf with traph := BitVec.ofNat 32 val.toNat &&& 0xFFFF })
        ∧ exec (.registerWrite (some vf) 0x14 val) s = .next (s.setVf vf { s.vf vf with event := (s.vf vf).event &&& ~~~BitVec.ofNat 32 val.toNat })
        ∧ exec (.registerWrite (some vf) 0x18 val) s = .next (s.setVf vf { s.vf vf with quant := (s.vf vf).quant &&& ~~~BitVec.ofNat 32 val.toNat }))
    ∧ (∀ val : BitVec 128, let w : Word := val.setWidth 32 &&& 0x8000FFFF
        (w.getLsbD 31 = false → exec (.registerWrite none 0xF0000 val) s = .next { s with
          ramp := w
          idling := [] })
        ∧ (w.getLsbD 31 = true → s.ramp.getLsbD 31 = true → exec (.registerWrite none 0xF0000 val) s = .next { s with ramp := w })
        ∧ (w.getLsbD 31 = true → s.ramp.getLsbD 31 = false → ∃ t, exec (.registerWrite none 0xF0000 val) s = .next t ∧ t.ramp = w ∧ t.starts = []
          ∧ t.ends = [] ∧ ∀ die, die < 8 → Sparse.get 0 t.rampAt die = s.clock))
    ∧ (∀ watts, exec (.powerWindow watts) s = .next { s with
        watts := (watts :: s.watts).take 10
        fresh := s.fresh + 1
        tdie := (List.range 8).map fun d => Config.freeWord ((s.fresh + 1) * 2 ^ 48 + d)
        tpwr := BitVec.ofNat 32 (((watts :: s.watts).take 10).sum / ((watts :: s.watts).take 10).length)
        pwrlim := if 95 * powerLimit s.pwrlim < 100 * watts then s.pwrlim ||| 0x80000000 else s.pwrlim &&& 0x7FFFFFFF
        mhz := if powerLimit s.pwrlim < watts then max 1000 (s.mhz - 100)
          else if 10 * watts < 9 * powerLimit s.pwrlim then min (if s.level == 2 then 2600 else 1000) (s.mhz + 100) else s.mhz })
    ∧ exec .deviceReset s = .next { State.reset with
        mm := s.mm
        sp := s.sp
        stagingArea := s.stagingArea
        enabled := s.enabled
        host := s.host
        mmPois := s.mmPois
        spPois := s.spPois
        hostOut := s.hostOut
        fab := s.fab
        fresh := s.fresh
        agenda := s.agenda }
    ∧ (∀ (vf dev u : Nat) (a : BitVec 64), (s.vf vf).bound? dev = some u → (s.vf vf).inWindow a.toNat 4 = true →
        physOf s vf a.toNat / 4 ∉ s.spPois → exec (.fabricRequest vf dev u (.read a false 4)) s
          = .next { s with fab := s.fab ++ [.answer dev u (.ack (readBytes s.sp (physOf s vf a.toNat) 4) [])] })
    ∧ (∀ (id row : Nat) (j : Job) (b : Block) (c : Chunk) (bad : List Nat), s.commits.find? (fun c => c.id == id) = none →
        s.migrating.find? (fun m => m.id == id) = none → s.signals.find? (fun x => x.1 == id) = none → s.job? id = some j → s.block? j.blk = some b → j.chunks.find? (fun c => c.id == row) = some c →
        c.sent = true → j.kind = .push →
        exec (.fabricResponse id row (.ack [] bad)) s = .next (s.endChunk b j c.id c.len true))
    ∧ (∀ (id row vf : Nat), s.commits.find? (fun c => c.id == id) = none → s.migrating.find? (fun m => m.id == id) = none →
        s.signals.find? (fun x => x.1 == id) = some (id, vf) →
        let t : State := { s with signals := s.signals.filter fun x => x.1 != id }
        exec (.fabricResponse id row (.ack [] [])) s = .next t ∧ exec (.fabricResponse id row .refused) s = .next (t.report vf 6 0 []))
    ∧ (∀ port, exec (.fabricPortTrained port) s = .next { s with ports := s.ports ||| BitVec.ofNat 18 (2 ^ port) })
    ∧ (∀ port, s.ports &&& ~~~BitVec.ofNat 18 (2 ^ port) ≠ 0 →
        exec (.fabricPortFailure port) s = .next { s with ports := s.ports &&& ~~~BitVec.ofNat 18 (2 ^ port) })
end

