-- ==== Sys2Proof/Laws/Issue.lean ====
section
/-!
SUPPORT. Issuing a word: what `issue` gives when nothing stands against the word.
-/
namespace Sys2Proof.Machine

variable {i : Instr} {s t : State} {c : Ctx} {body : Ctx → State → Res}

theorem gate_of_issues (h : Issues i s c t) : gate i s = .go c t := by
  obtain ⟨⟨l, w0, hl, hr, hw, hf, hc⟩, hb, hact, hall, hland, hnext, h1, h2, h3, h4, h5, h6, h7⟩ := h
  obtain ⟨ref, blk, w, run, act, all, land, nextAt⟩ := c
  dsimp only at *
  subst hr hc hact hall hland hnext h7
  have hs : (if s.checking blk (w0.landDue s.clock) run = true
      then stallCheck (w0.landDue s.clock) (checkedUses i (i.laneUses (w0.landDue s.clock) (blk.width == 64) run.lanes)) (i.latency.map fun k => s.clock + blk.cycles + k)
      else none) = none := by
    split
    · exact h3 ‹_›
    · rfl
  have hx : ((w0.landDue s.clock).trap.isSome && instrSpdep i && activeLanes i (w0.landDue s.clock) run.lanes != 0) = false := by
    cases ha : (w0.landDue s.clock).trap.isSome <;> cases hb : instrSpdep i <;> simp
    exact h5 ha hb
  unfold gate
  simp only [hl, hb, hw, hf, h1, h2, h4, h6, hs, hx, Bool.false_eq_true, if_false]

/-- The word's own effect, on the state in which its run has moved on. -/
theorem issue_of_issues (h : Issues i s c t) : issue i s body =
    match body c t with
    | .ok s' => .next (c.after s')
    | .trap x => .next (s.trapWord c.ref c.run.pc c.run.lanes c.w x)
    | .hold s' => .next s' := by
  unfold issue
  rw [gate_of_issues h]
  rfl

theorem issue_ok (h : Issues i s c t) {s' : State} (hb : body c t = .ok s') : issue i s body = .next (c.after s') := by
  rw [issue_of_issues h, hb]

theorem issue_trap (h : Issues i s c t) {x : Trap} (hb : body c t = .trap x) :
    issue i s body = .next (s.trapWord c.ref c.run.pc c.run.lanes c.w x) := by
  rw [issue_of_issues h, hb]

/-- Whatever stands before or against its effect, a word leaves a next state. -/
theorem issue_next (i : Instr) (s : State) (body : Ctx → State → Res) : ∃ t, issue i s body = .next t := by
  unfold issue
  split
  · exact ⟨_, rfl⟩
  · exact ⟨_, rfl⟩
  · split <;> exact ⟨_, rfl⟩

theorem perLane_gives (h : Issues i s c t) (d : BitVec 10) (f : Warp → Nat → Word) :
    perLane i s d f = .next (c.gives t (c.each d (f c.w))) := issue_ok h rfl
theorem perLane64_gives (h : Issues i s c t) (d : BitVec 10) (f : Warp → Nat → DWord) :
    perLane64 i s d f = .next (c.gives t (c.each64 d (f c.w))) := issue_ok h rfl
theorem perLaneP_gives (h : Issues i s c t) (pd : Nat) (f : Warp → Nat → Bool) :
    perLaneP i s pd f = .next (c.gives t (c.eachP pd (f c.w))) := issue_ok h rfl
theorem scalarOp_gives (h : Issues i s c t) (d : BitVec 7) (f : Warp → Word) :
    scalarOp i s d f = .next (c.gives t [(.s d.toNat, f c.w)]) := issue_ok h rfl
/-- A floating-point word writes its results where FPX does not trap. -/
theorem perLaneF_gives (h : Issues i s c t) (f : Warp → Nat → List (RegId × Word) × Flags)
    (hx : fpxTrap (t.vf c.blk.vf).fpxctl (raisedIn c.live fun l => (f c.w l).2) = none) :
    perLaneF i s f = .next (c.gives t (c.lanes.flatMap fun l => (f c.w l).1)) := by
  unfold perLaneF
  rw [issue_of_issues h]
  simp [hx]; rfl
theorem perLaneF_traps (h : Issues i s c t) (f : Warp → Nat → List (RegId × Word) × Flags) {x : Trap}
    (hx : fpxTrap (t.vf c.blk.vf).fpxctl (raisedIn c.live fun l => (f c.w l).2) = some x) :
    perLaneF i s f = .next (s.trapWord c.ref c.run.pc c.run.lanes c.w x) := by
  unfold perLaneF
  rw [issue_of_issues h]
  simp [hx]

/-- A word that the gate lets go issues. -/
theorem issues_of_gate (h : gate i s = .go c t) : Issues i s c t := by
  unfold gate at h
  split at h
  · cases h
  · rename_i l hl
    split at h
    · rename_i b w0 hb hw
      split at h
      · cases h
      · rename_i r hr
        dsimp only at h
        split at h
        · cases h
        · rename_i h1
          split at h
          · cases h
          · rename_i h2
            split at h
            · cases h
            · rename_i h3
              split at h
              · cases h
              · rename_i h4
                split at h
                · cases h
                · rename_i h5
                  split at h
                  · cases h
                  · rename_i h6
                    cases h
                    refine ⟨⟨l, w0, hl, rfl, hw, hr, rfl⟩, hb, rfl, rfl, rfl, rfl, h1, by simpa using h2, fun hc => ?_, h4, fun ht hs => ?_,
                      by simpa using h6, rfl⟩
                    · rw [if_pos hc] at h3; exact h3
                    · simp only [Bool.and_eq_true, bne_iff_ne, ne_eq, not_and, not_not] at h5; exact h5 ⟨ht, hs⟩
    · cases h

/-! ### Floating-point results -/

theorem raisedIn_and (ls : List Nat) (f : Nat → Flags) (m x : Flags) (hx : x &&& m = 0) (h : ∀ l ∈ ls, f l &&& m = 0) :
    ls.foldl (fun a l => a ||| f l) x &&& m = 0 := by
  induction ls generalizing x with
  | nil => exact hx
  | cons l ls ih =>
    refine ih _ ?_ fun k hk => h k (List.mem_cons_of_mem _ hk)
    rw [BitVec.and_comm, BitVec.and_or_distrib_left, BitVec.and_comm m x, hx, BitVec.and_comm m, h l List.mem_cons_self]
    rfl
/-- FPX does not trap where no participant raises an enabled exception. -/
theorem fpxTrap_none {f : Nat → Flags} (h : c.NoFpx t f) : fpxTrap (t.vf c.blk.vf).fpxctl (raisedIn c.live f) = none := by
  have h0 : raisedIn c.live f &&& (t.vf c.blk.vf).fpxctl.setWidth 5 = 0 := raisedIn_and c.live f _ 0 (by simp) h
  unfold fpxTrap
  simp only [h0, beq_self_eq_true, if_true]
theorem perLaneF_write32 (h : Issues i s c t) (d : BitVec 10) (f : Warp → Nat → Nat × Flags) (hx : c.NoFpx t fun l => (f c.w l).2) :
    perLaneF i s (fun w l => write32 d.toNat l (f w l)) = .next (c.gives t (c.each d fun l => BitVec.ofNat 32 (f c.w l).1)) := by
  rw [perLaneF_gives h _ (fpxTrap_none hx)]
  simp [write32, Ctx.each, ← List.map_eq_flatMap]
theorem perLaneF_writeP (h : Issues i s c t) (pd : Nat) (f : Warp → Nat → Bool × Flags) (g : Warp → Nat → Bool → Bool)
    (hx : c.NoFpx t fun l => (f c.w l).2) :
    perLaneF i s (fun w l => writeP pd l (f w l) (g w l)) = .next (c.gives t (c.eachP pd fun l => g c.w l (f c.w l).1)) := by
  rw [perLaneF_gives h _ (fpxTrap_none hx)]
  simp [writeP, predWord, Ctx.eachP, ← List.map_eq_flatMap]
theorem loWord_ofNat (n : Nat) : loWord (BitVec.ofNat 64 n) = BitVec.ofNat 32 n := by
  apply BitVec.eq_of_toNat_eq
  simp [loWord]
theorem hiWord_ofNat (n : Nat) : hiWord (BitVec.ofNat 64 n) = BitVec.ofNat 32 (n / 2 ^ 32) := by
  apply BitVec.eq_of_toNat_eq
  simp only [hiWord, BitVec.toNat_setWidth, BitVec.toNat_ushiftRight, BitVec.toNat_ofNat, Nat.shiftRight_eq_div_pow]
  omega
theorem perLaneF_write64 (h : Issues i s c t) (d : BitVec 10) (f : Warp → Nat → Nat × Flags) (hx : c.NoFpx t fun l => (f c.w l).2) :
    perLaneF i s (fun w l => write64 d.toNat l (f w l)) = .next (c.gives t (c.each64 d fun l => BitVec.ofNat 64 (f c.w l).1)) := by
  rw [perLaneF_gives h _ (fpxTrap_none hx)]
  simp only [write64, Ctx.each64, loWord_ofNat, hiWord_ofNat]
theorem half_eq (x : Word) (i : Nat) : half x i = (x.extractLsb' (16 * i) 16).toNat := by
  simp [half, BitVec.extractLsb'_toNat, Nat.shiftRight_eq_div_pow]

end Sys2Proof.Machine
end

