-- ==== Sys2Proof/Laws/Sparse.lean ====
section
/-!
SUPPORT. Sparse maps: every operation keeps the canonical form, and a read after a write gives what was written.
-/
namespace Sys2Proof.Sparse

variable {α : Type}

/-- The canonical form at a lower bound of its keys. -/
theorem wfFrom_mono [DecidableEq α] {d : α} {m : Sparse α} {lo lo' : Nat} (h : lo' ≤ lo) (hm : wfFrom d lo m = true) :
    wfFrom d lo' m = true := by
  cases m with
  | nil => rfl
  | cons e m =>
    obtain ⟨k, v⟩ := e
    simp only [wfFrom, Bool.and_eq_true, decide_eq_true_eq] at hm ⊢
    exact ⟨⟨by omega, hm.1.2⟩, hm.2⟩

theorem wfFrom_erase [DecidableEq α] {d : α} {m : Sparse α} {lo : Nat} (n : Nat) (hm : wfFrom d lo m = true) :
    wfFrom d lo (erase m n) = true := by
  induction m generalizing lo with
  | nil => rfl
  | cons e m ih =>
    obtain ⟨k, v⟩ := e
    simp only [wfFrom, Bool.and_eq_true, decide_eq_true_eq] at hm
    simp only [erase]
    split
    · exact wfFrom_mono (by omega) (ih hm.2)
    · simp [wfFrom, hm.1, ih hm.2]

theorem wfFrom_insert [DecidableEq α] {d : α} {m : Sparse α} {lo n : Nat} {x : α} (hx : x ≠ d) (hn : lo ≤ n)
    (hm : wfFrom d lo m = true) : wfFrom d lo (insert m n x) = true := by
  induction m generalizing lo with
  | nil => simp [insert, wfFrom, hx, hn]
  | cons e m ih =>
    obtain ⟨k, v⟩ := e
    simp only [wfFrom, Bool.and_eq_true, decide_eq_true_eq] at hm
    simp only [insert]
    split
    · subst n; simp [wfFrom, hx, hm]
    · split
      · simp only [wfFrom, Bool.and_eq_true, decide_eq_true_eq]
        exact ⟨⟨hn, hx⟩, ⟨by omega, hm.1.2⟩, hm.2⟩
      · simp [wfFrom, hm.1, ih (by omega : k + 1 ≤ n) hm.2]

/-- A write keeps the canonical form. -/
theorem wf_set [DecidableEq α] {d : α} {m : Sparse α} (n : Nat) (x : α) (hm : wf d m = true) : wf d (set d m n x) = true := by
  unfold set
  split
  · exact wfFrom_erase n hm
  · exact wfFrom_insert ‹_› (Nat.zero_le n) hm

theorem wfFrom_filter [DecidableEq α] {d : α} {m : Sparse α} {lo : Nat} (p : Nat × α → Bool) (hm : wfFrom d lo m = true) :
    wfFrom d lo (m.filter p) = true := by
  induction m generalizing lo with
  | nil => rfl
  | cons e m ih =>
    obtain ⟨k, v⟩ := e
    simp only [wfFrom, Bool.and_eq_true, decide_eq_true_eq] at hm
    simp only [List.filter_cons]
    split
    · simp [wfFrom, hm.1, ih hm.2]
    · exact wfFrom_mono (by omega) (ih hm.2)

/-- Dropping entries keeps the canonical form. -/
theorem wf_filter [DecidableEq α] {d : α} {m : Sparse α} (p : Nat × α → Bool) (hm : wf d m = true) : wf d (m.filter p) = true :=
  wfFrom_filter p hm

theorem wf_nil [DecidableEq α] (d : α) : wf d ([] : Sparse α) = true := rfl

theorem get_erase {d : α} {m : Sparse α} (n k : Nat) : get d (erase m n) k = if k = n then d else get d m k := by
  induction m with
  | nil => simp [erase, get]
  | cons e m ih =>
    obtain ⟨j, v⟩ := e
    by_cases h1 : n = j
    · subst h1
      by_cases h2 : k = n
      · subst h2; simpa [erase] using ih
      · simp [erase, get, ih, h2]
    · by_cases h2 : k = j
      · subst h2; simp [erase, get, h1, Ne.symm h1]
      · simp [erase, get, ih, h1, h2]

theorem get_insert {d : α} {m : Sparse α} (n k : Nat) (x : α) :
    get d (insert m n x) k = if k = n then x else get d m k := by
  induction m with
  | nil => by_cases h : k = n <;> simp [insert, get, h]
  | cons e m ih =>
    obtain ⟨j, v⟩ := e
    simp only [insert]
    by_cases h1 : n = j
    · subst h1
      by_cases h2 : k = n <;> simp [get, h2]
    · by_cases h2 : n < j
      · by_cases h3 : k = n <;> simp [h1, h2, h3, get]
      · simp only [h1, h2, if_false, get, ih]
        by_cases h3 : k = n
        · subst h3; simp [h1]
        · simp [h3]

/-- A read after a write: the value at the key, and every other key as before. -/
@[simp] theorem get_set [DecidableEq α] {d : α} {m : Sparse α} (n k : Nat) (x : α) :
    get d (set d m n x) k = if k = n then x else get d m k := by
  unfold set
  split
  · subst_vars; exact get_erase n k
  · exact get_insert n k x

@[simp] theorem get_nil (d : α) (k : Nat) : get d ([] : Sparse α) k = d := rfl

end Sys2Proof.Sparse
end

