-- ==== Sys2Proof/Laws/State.lean ====
section
/-!
SUPPORT. What an update of the state leaves as it was, field by field, and what it changes.
-/
namespace Sys2Proof.Machine

@[simp] theorem State.setBlock_clock (s : State) (b : Block) : (s.setBlock b).clock = s.clock := rfl
@[simp] theorem State.setBlock_mhz (s : State) (b : Block) : (s.setBlock b).mhz = s.mhz := rfl
@[simp] theorem State.setBlock_time (s : State) (b : Block) : (s.setBlock b).time = s.time := rfl
@[simp] theorem State.setBlock_timeRuns (s : State) (b : Block) : (s.setBlock b).timeRuns = s.timeRuns := rfl
@[simp] theorem State.setBlock_timeMark (s : State) (b : Block) : (s.setBlock b).timeMark = s.timeMark := rfl
@[simp] theorem State.setBlock_timeWritten (s : State) (b : Block) : (s.setBlock b).timeWritten = s.timeWritten := rfl
@[simp] theorem State.setBlock_timeSlew (s : State) (b : Block) : (s.setBlock b).timeSlew = s.timeSlew := rfl
@[simp] theorem State.setBlock_slewRun (s : State) (b : Block) : (s.setBlock b).slewRun = s.slewRun := rfl
@[simp] theorem State.setBlock_level (s : State) (b : Block) : (s.setBlock b).level = s.level := rfl
@[simp] theorem State.setBlock_enabled (s : State) (b : Block) : (s.setBlock b).enabled = s.enabled := rfl
@[simp] theorem State.setBlock_trained (s : State) (b : Block) : (s.setBlock b).trained = s.trained := rfl
@[simp] theorem State.setBlock_fwFail (s : State) (b : Block) : (s.setBlock b).fwFail = s.fwFail := rfl
@[simp] theorem State.setBlock_fwRefusal (s : State) (b : Block) : (s.setBlock b).fwRefusal = s.fwRefusal := rfl
@[simp] theorem State.setBlock_fwctl (s : State) (b : Block) : (s.setBlock b).fwctl = s.fwctl := rfl
@[simp] theorem State.setBlock_image (s : State) (b : Block) : (s.setBlock b).image = s.image := rfl
@[simp] theorem State.setBlock_fabid (s : State) (b : Block) : (s.setBlock b).fabid = s.fabid := rfl
@[simp] theorem State.setBlock_ramp (s : State) (b : Block) : (s.setBlock b).ramp = s.ramp := rfl
@[simp] theorem State.setBlock_pwrlim (s : State) (b : Block) : (s.setBlock b).pwrlim = s.pwrlim := rfl
@[simp] theorem State.setBlock_tpwr (s : State) (b : Block) : (s.setBlock b).tpwr = s.tpwr := rfl
@[simp] theorem State.setBlock_watts (s : State) (b : Block) : (s.setBlock b).watts = s.watts := rfl
@[simp] theorem State.setBlock_tdie (s : State) (b : Block) : (s.setBlock b).tdie = s.tdie := rfl
@[simp] theorem State.setBlock_cecnt (s : State) (b : Block) : (s.setBlock b).cecnt = s.cecnt := rfl
@[simp] theorem State.setBlock_uecnt (s : State) (b : Block) : (s.setBlock b).uecnt = s.uecnt := rfl
@[simp] theorem State.setBlock_frlost (s : State) (b : Block) : (s.setBlock b).frlost = s.frlost := rfl
@[simp] theorem State.setBlock_attn (s : State) (b : Block) : (s.setBlock b).attn = s.attn := rfl
@[simp] theorem State.setBlock_pffrbase (s : State) (b : Block) : (s.setBlock b).pffrbase = s.pffrbase := rfl
@[simp] theorem State.setBlock_pffrcfg (s : State) (b : Block) : (s.setBlock b).pffrcfg = s.pffrcfg := rfl
@[simp] theorem State.setBlock_pffrrd (s : State) (b : Block) : (s.setBlock b).pffrrd = s.pffrrd := rfl
@[simp] theorem State.setBlock_pffrwr (s : State) (b : Block) : (s.setBlock b).pffrwr = s.pffrwr := rfl
@[simp] theorem State.setBlock_pfRecords (s : State) (b : Block) : (s.setBlock b).pfRecords = s.pfRecords := rfl
@[simp] theorem State.setBlock_pfevent (s : State) (b : Block) : (s.setBlock b).pfevent = s.pfevent := rfl
@[simp] theorem State.setBlock_pmwin (s : State) (b : Block) : (s.setBlock b).pmwin = s.pmwin := rfl
@[simp] theorem State.setBlock_ports (s : State) (b : Block) : (s.setBlock b).ports = s.ports := rfl
@[simp] theorem State.setBlock_coreHalted (s : State) (b : Block) : (s.setBlock b).coreHalted = s.coreHalted := rfl
@[simp] theorem State.setBlock_admitting (s : State) (b : Block) : (s.setBlock b).admitting = s.admitting := rfl
@[simp] theorem State.setBlock_mm (s : State) (b : Block) : (s.setBlock b).mm = s.mm := rfl
@[simp] theorem State.setBlock_sp (s : State) (b : Block) : (s.setBlock b).sp = s.sp := rfl
@[simp] theorem State.setBlock_host (s : State) (b : Block) : (s.setBlock b).host = s.host := rfl
@[simp] theorem State.setBlock_stagingArea (s : State) (b : Block) : (s.setBlock b).stagingArea = s.stagingArea := rfl
@[simp] theorem State.setBlock_mmPois (s : State) (b : Block) : (s.setBlock b).mmPois = s.mmPois := rfl
@[simp] theorem State.setBlock_spPois (s : State) (b : Block) : (s.setBlock b).spPois = s.spPois := rfl
@[simp] theorem State.setBlock_flight (s : State) (b : Block) : (s.setBlock b).flight = s.flight := rfl
@[simp] theorem State.setBlock_past (s : State) (b : Block) : (s.setBlock b).past = s.past := rfl
@[simp] theorem State.setBlock_waitTab (s : State) (b : Block) : (s.setBlock b).waitTab = s.waitTab := rfl
@[simp] theorem State.setBlock_links (s : State) (b : Block) : (s.setBlock b).links = s.links := rfl
@[simp] theorem State.setBlock_tasks (s : State) (b : Block) : (s.setBlock b).tasks = s.tasks := rfl
@[simp] theorem State.setBlock_conts (s : State) (b : Block) : (s.setBlock b).conts = s.conts := rfl
@[simp] theorem State.setBlock_saved (s : State) (b : Block) : (s.setBlock b).saved = s.saved := rfl
@[simp] theorem State.setBlock_gangs (s : State) (b : Block) : (s.setBlock b).gangs = s.gangs := rfl
@[simp] theorem State.setBlock_jobs (s : State) (b : Block) : (s.setBlock b).jobs = s.jobs := rfl
@[simp] theorem State.setBlock_ops (s : State) (b : Block) : (s.setBlock b).ops = s.ops := rfl
@[simp] theorem State.setBlock_grants (s : State) (b : Block) : (s.setBlock b).grants = s.grants := rfl
@[simp] theorem State.setBlock_views (s : State) (b : Block) : (s.setBlock b).views = s.views := rfl
@[simp] theorem State.setBlock_dirty (s : State) (b : Block) : (s.setBlock b).dirty = s.dirty := rfl
@[simp] theorem State.setBlock_commits (s : State) (b : Block) : (s.setBlock b).commits = s.commits := rfl
@[simp] theorem State.setBlock_gens (s : State) (b : Block) : (s.setBlock b).gens = s.gens := rfl
@[simp] theorem State.setBlock_launches (s : State) (b : Block) : (s.setBlock b).launches = s.launches := rfl
@[simp] theorem State.setBlock_leaves (s : State) (b : Block) : (s.setBlock b).leaves = s.leaves := rfl
@[simp] theorem State.setBlock_starts (s : State) (b : Block) : (s.setBlock b).starts = s.starts := rfl
@[simp] theorem State.setBlock_ends (s : State) (b : Block) : (s.setBlock b).ends = s.ends := rfl
@[simp] theorem State.setBlock_rampAt (s : State) (b : Block) : (s.setBlock b).rampAt = s.rampAt := rfl
@[simp] theorem State.setBlock_idling (s : State) (b : Block) : (s.setBlock b).idling = s.idling := rfl
@[simp] theorem State.setBlock_vfs (s : State) (b : Block) : (s.setBlock b).vfs = s.vfs := rfl
@[simp] theorem State.setBlock_quads (s : State) (b : Block) : (s.setBlock b).quads = s.quads := rfl
@[simp] theorem State.setBlock_faults (s : State) (b : Block) : (s.setBlock b).faults = s.faults := rfl
@[simp] theorem State.setBlock_pinned (s : State) (b : Block) : (s.setBlock b).pinned = s.pinned := rfl
@[simp] theorem State.setBlock_migrating (s : State) (b : Block) : (s.setBlock b).migrating = s.migrating := rfl
@[simp] theorem State.setBlock_fab (s : State) (b : Block) : (s.setBlock b).fab = s.fab := rfl
@[simp] theorem State.setBlock_signals (s : State) (b : Block) : (s.setBlock b).signals = s.signals := rfl
@[simp] theorem State.setBlock_hostOut (s : State) (b : Block) : (s.setBlock b).hostOut = s.hostOut := rfl
@[simp] theorem State.setBlock_nextId (s : State) (b : Block) : (s.setBlock b).nextId = s.nextId := rfl
@[simp] theorem State.setBlock_fresh (s : State) (b : Block) : (s.setBlock b).fresh = s.fresh := rfl
@[simp] theorem State.setBlock_issue (s : State) (b : Block) : (s.setBlock b).issue = s.issue := rfl
@[simp] theorem State.setBlock_agenda (s : State) (b : Block) : (s.setBlock b).agenda = s.agenda := rfl
@[simp] theorem State.setVf_clock (s : State) (n : Nat) (v : Vf) : (s.setVf n v).clock = s.clock := rfl
@[simp] theorem State.setVf_mhz (s : State) (n : Nat) (v : Vf) : (s.setVf n v).mhz = s.mhz := rfl
@[simp] theorem State.setVf_time (s : State) (n : Nat) (v : Vf) : (s.setVf n v).time = s.time := rfl
@[simp] theorem State.setVf_timeRuns (s : State) (n : Nat) (v : Vf) : (s.setVf n v).timeRuns = s.timeRuns := rfl
@[simp] theorem State.setVf_timeMark (s : State) (n : Nat) (v : Vf) : (s.setVf n v).timeMark = s.timeMark := rfl
@[simp] theorem State.setVf_timeWritten (s : State) (n : Nat) (v : Vf) : (s.setVf n v).timeWritten = s.timeWritten := rfl
@[simp] theorem State.setVf_timeSlew (s : State) (n : Nat) (v : Vf) : (s.setVf n v).timeSlew = s.timeSlew := rfl
@[simp] theorem State.setVf_slewRun (s : State) (n : Nat) (v : Vf) : (s.setVf n v).slewRun = s.slewRun := rfl
@[simp] theorem State.setVf_level (s : State) (n : Nat) (v : Vf) : (s.setVf n v).level = s.level := rfl
@[simp] theorem State.setVf_enabled (s : State) (n : Nat) (v : Vf) : (s.setVf n v).enabled = s.enabled := rfl
@[simp] theorem State.setVf_trained (s : State) (n : Nat) (v : Vf) : (s.setVf n v).trained = s.trained := rfl
@[simp] theorem State.setVf_fwFail (s : State) (n : Nat) (v : Vf) : (s.setVf n v).fwFail = s.fwFail := rfl
@[simp] theorem State.setVf_fwRefusal (s : State) (n : Nat) (v : Vf) : (s.setVf n v).fwRefusal = s.fwRefusal := rfl
@[simp] theorem State.setVf_fwctl (s : State) (n : Nat) (v : Vf) : (s.setVf n v).fwctl = s.fwctl := rfl
@[simp] theorem State.setVf_image (s : State) (n : Nat) (v : Vf) : (s.setVf n v).image = s.image := rfl
@[simp] theorem State.setVf_fabid (s : State) (n : Nat) (v : Vf) : (s.setVf n v).fabid = s.fabid := rfl
@[simp] theorem State.setVf_ramp (s : State) (n : Nat) (v : Vf) : (s.setVf n v).ramp = s.ramp := rfl
@[simp] theorem State.setVf_pwrlim (s : State) (n : Nat) (v : Vf) : (s.setVf n v).pwrlim = s.pwrlim := rfl
@[simp] theorem State.setVf_tpwr (s : State) (n : Nat) (v : Vf) : (s.setVf n v).tpwr = s.tpwr := rfl
@[simp] theorem State.setVf_watts (s : State) (n : Nat) (v : Vf) : (s.setVf n v).watts = s.watts := rfl
@[simp] theorem State.setVf_tdie (s : State) (n : Nat) (v : Vf) : (s.setVf n v).tdie = s.tdie := rfl
@[simp] theorem State.setVf_cecnt (s : State) (n : Nat) (v : Vf) : (s.setVf n v).cecnt = s.cecnt := rfl
@[simp] theorem State.setVf_uecnt (s : State) (n : Nat) (v : Vf) : (s.setVf n v).uecnt = s.uecnt := rfl
@[simp] theorem State.setVf_frlost (s : State) (n : Nat) (v : Vf) : (s.setVf n v).frlost = s.frlost := rfl
@[simp] theorem State.setVf_attn (s : State) (n : Nat) (v : Vf) : (s.setVf n v).attn = s.attn := rfl
@[simp] theorem State.setVf_pffrbase (s : State) (n : Nat) (v : Vf) : (s.setVf n v).pffrbase = s.pffrbase := rfl
@[simp] theorem State.setVf_pffrcfg (s : State) (n : Nat) (v : Vf) : (s.setVf n v).pffrcfg = s.pffrcfg := rfl
@[simp] theorem State.setVf_pffrrd (s : State) (n : Nat) (v : Vf) : (s.setVf n v).pffrrd = s.pffrrd := rfl
@[simp] theorem State.setVf_pffrwr (s : State) (n : Nat) (v : Vf) : (s.setVf n v).pffrwr = s.pffrwr := rfl
@[simp] theorem State.setVf_pfRecords (s : State) (n : Nat) (v : Vf) : (s.setVf n v).pfRecords = s.pfRecords := rfl
@[simp] theorem State.setVf_pfevent (s : State) (n : Nat) (v : Vf) : (s.setVf n v).pfevent = s.pfevent := rfl
@[simp] theorem State.setVf_pmwin (s : State) (n : Nat) (v : Vf) : (s.setVf n v).pmwin = s.pmwin := rfl
@[simp] theorem State.setVf_ports (s : State) (n : Nat) (v : Vf) : (s.setVf n v).ports = s.ports := rfl
@[simp] theorem State.setVf_coreHalted (s : State) (n : Nat) (v : Vf) : (s.setVf n v).coreHalted = s.coreHalted := rfl
@[simp] theorem State.setVf_admitting (s : State) (n : Nat) (v : Vf) : (s.setVf n v).admitting = s.admitting := rfl
@[simp] theorem State.setVf_mm (s : State) (n : Nat) (v : Vf) : (s.setVf n v).mm = s.mm := rfl
@[simp] theorem State.setVf_sp (s : State) (n : Nat) (v : Vf) : (s.setVf n v).sp = s.sp := rfl
@[simp] theorem State.setVf_host (s : State) (n : Nat) (v : Vf) : (s.setVf n v).host = s.host := rfl
@[simp] theorem State.setVf_stagingArea (s : State) (n : Nat) (v : Vf) : (s.setVf n v).stagingArea = s.stagingArea := rfl
@[simp] theorem State.setVf_mmPois (s : State) (n : Nat) (v : Vf) : (s.setVf n v).mmPois = s.mmPois := rfl
@[simp] theorem State.setVf_spPois (s : State) (n : Nat) (v : Vf) : (s.setVf n v).spPois = s.spPois := rfl
@[simp] theorem State.setVf_flight (s : State) (n : Nat) (v : Vf) : (s.setVf n v).flight = s.flight := rfl
@[simp] theorem State.setVf_past (s : State) (n : Nat) (v : Vf) : (s.setVf n v).past = s.past := rfl
@[simp] theorem State.setVf_waitTab (s : State) (n : Nat) (v : Vf) : (s.setVf n v).waitTab = s.waitTab := rfl
@[simp] theorem State.setVf_links (s : State) (n : Nat) (v : Vf) : (s.setVf n v).links = s.links := rfl
@[simp] theorem State.setVf_tasks (s : State) (n : Nat) (v : Vf) : (s.setVf n v).tasks = s.tasks := rfl
@[simp] theorem State.setVf_conts (s : State) (n : Nat) (v : Vf) : (s.setVf n v).conts = s.conts := rfl
@[simp] theorem State.setVf_blocks (s : State) (n : Nat) (v : Vf) : (s.setVf n v).blocks = s.blocks := rfl
@[simp] theorem State.setVf_saved (s : State) (n : Nat) (v : Vf) : (s.setVf n v).saved = s.saved := rfl
@[simp] theorem State.setVf_gangs (s : State) (n : Nat) (v : Vf) : (s.setVf n v).gangs = s.gangs := rfl
@[simp] theorem State.setVf_jobs (s : State) (n : Nat) (v : Vf) : (s.setVf n v).jobs = s.jobs := rfl
@[simp] theorem State.setVf_ops (s : State) (n : Nat) (v : Vf) : (s.setVf n v).ops = s.ops := rfl
@[simp] theorem State.setVf_grants (s : State) (n : Nat) (v : Vf) : (s.setVf n v).grants = s.grants := rfl
@[simp] theorem State.setVf_views (s : State) (n : Nat) (v : Vf) : (s.setVf n v).views = s.views := rfl
@[simp] theorem State.setVf_dirty (s : State) (n : Nat) (v : Vf) : (s.setVf n v).dirty = s.dirty := rfl
@[simp] theorem State.setVf_commits (s : State) (n : Nat) (v : Vf) : (s.setVf n v).commits = s.commits := rfl
@[simp] theorem State.setVf_gens (s : State) (n : Nat) (v : Vf) : (s.setVf n v).gens = s.gens := rfl
@[simp] theorem State.setVf_launches (s : State) (n : Nat) (v : Vf) : (s.setVf n v).launches = s.launches := rfl
@[simp] theorem State.setVf_leaves (s : State) (n : Nat) (v : Vf) : (s.setVf n v).leaves = s.leaves := rfl
@[simp] theorem State.setVf_starts (s : State) (n : Nat) (v : Vf) : (s.setVf n v).starts = s.starts := rfl
@[simp] theorem State.setVf_ends (s : State) (n : Nat) (v : Vf) : (s.setVf n v).ends = s.ends := rfl
@[simp] theorem State.setVf_rampAt (s : State) (n : Nat) (v : Vf) : (s.setVf n v).rampAt = s.rampAt := rfl
@[simp] theorem State.setVf_idling (s : State) (n : Nat) (v : Vf) : (s.setVf n v).idling = s.idling := rfl
@[simp] theorem State.setVf_quads (s : State) (n : Nat) (v : Vf) : (s.setVf n v).quads = s.quads := rfl
@[simp] theorem State.setVf_faults (s : State) (n : Nat) (v : Vf) : (s.setVf n v).faults = s.faults := rfl
@[simp] theorem State.setVf_pinned (s : State) (n : Nat) (v : Vf) : (s.setVf n v).pinned = s.pinned := rfl
@[simp] theorem State.setVf_migrating (s : State) (n : Nat) (v : Vf) : (s.setVf n v).migrating = s.migrating := rfl
@[simp] theorem State.setVf_fab (s : State) (n : Nat) (v : Vf) : (s.setVf n v).fab = s.fab := rfl
@[simp] theorem State.setVf_signals (s : State) (n : Nat) (v : Vf) : (s.setVf n v).signals = s.signals := rfl
@[simp] theorem State.setVf_hostOut (s : State) (n : Nat) (v : Vf) : (s.setVf n v).hostOut = s.hostOut := rfl
@[simp] theorem State.setVf_nextId (s : State) (n : Nat) (v : Vf) : (s.setVf n v).nextId = s.nextId := rfl
@[simp] theorem State.setVf_fresh (s : State) (n : Nat) (v : Vf) : (s.setVf n v).fresh = s.fresh := rfl
@[simp] theorem State.setVf_issue (s : State) (n : Nat) (v : Vf) : (s.setVf n v).issue = s.issue := rfl
@[simp] theorem State.setVf_agenda (s : State) (n : Nat) (v : Vf) : (s.setVf n v).agenda = s.agenda := rfl
@[simp] theorem State.setLeaf_clock (s : State) (n : Nat) (x : Leaf) : (s.setLeaf n x).clock = s.clock := rfl
@[simp] theorem State.setLeaf_mhz (s : State) (n : Nat) (x : Leaf) : (s.setLeaf n x).mhz = s.mhz := rfl
@[simp] theorem State.setLeaf_time (s : State) (n : Nat) (x : Leaf) : (s.setLeaf n x).time = s.time := rfl
@[simp] theorem State.setLeaf_timeRuns (s : State) (n : Nat) (x : Leaf) : (s.setLeaf n x).timeRuns = s.timeRuns := rfl
@[simp] theorem State.setLeaf_timeMark (s : State) (n : Nat) (x : Leaf) : (s.setLeaf n x).timeMark = s.timeMark := rfl
@[simp] theorem State.setLeaf_timeWritten (s : State) (n : Nat) (x : Leaf) : (s.setLeaf n x).timeWritten = s.timeWritten := rfl
@[simp] theorem State.setLeaf_timeSlew (s : State) (n : Nat) (x : Leaf) : (s.setLeaf n x).timeSlew = s.timeSlew := rfl
@[simp] theorem State.setLeaf_slewRun (s : State) (n : Nat) (x : Leaf) : (s.setLeaf n x).slewRun = s.slewRun := rfl
@[simp] theorem State.setLeaf_level (s : State) (n : Nat) (x : Leaf) : (s.setLeaf n x).level = s.level := rfl
@[simp] theorem State.setLeaf_enabled (s : State) (n : Nat) (x : Leaf) : (s.setLeaf n x).enabled = s.enabled := rfl
@[simp] theorem State.setLeaf_trained (s : State) (n : Nat) (x : Leaf) : (s.setLeaf n x).trained = s.trained := rfl
@[simp] theorem State.setLeaf_fwFail (s : State) (n : Nat) (x : Leaf) : (s.setLeaf n x).fwFail = s.fwFail := rfl
@[simp] theorem State.setLeaf_fwRefusal (s : State) (n : Nat) (x : Leaf) : (s.setLeaf n x).fwRefusal = s.fwRefusal := rfl
@[simp] theorem State.setLeaf_fwctl (s : State) (n : Nat) (x : Leaf) : (s.setLeaf n x).fwctl = s.fwctl := rfl
@[simp] theorem State.setLeaf_image (s : State) (n : Nat) (x : Leaf) : (s.setLeaf n x).image = s.image := rfl
@[simp] theorem State.setLeaf_fabid (s : State) (n : Nat) (x : Leaf) : (s.setLeaf n x).fabid = s.fabid := rfl
@[simp] theorem State.setLeaf_ramp (s : State) (n : Nat) (x : Leaf) : (s.setLeaf n x).ramp = s.ramp := rfl
@[simp] theorem State.setLeaf_pwrlim (s : State) (n : Nat) (x : Leaf) : (s.setLeaf n x).pwrlim = s.pwrlim := rfl
@[simp] theorem State.setLeaf_tpwr (s : State) (n : Nat) (x : Leaf) : (s.setLeaf n x).tpwr = s.tpwr := rfl
@[simp] theorem State.setLeaf_watts (s : State) (n : Nat) (x : Leaf) : (s.setLeaf n x).watts = s.watts := rfl
@[simp] theorem State.setLeaf_tdie (s : State) (n : Nat) (x : Leaf) : (s.setLeaf n x).tdie = s.tdie := rfl
@[simp] theorem State.setLeaf_cecnt (s : State) (n : Nat) (x : Leaf) : (s.setLeaf n x).cecnt = s.cecnt := rfl
@[simp] theorem State.setLeaf_uecnt (s : State) (n : Nat) (x : Leaf) : (s.setLeaf n x).uecnt = s.uecnt := rfl
@[simp] theorem State.setLeaf_frlost (s : State) (n : Nat) (x : Leaf) : (s.setLeaf n x).frlost = s.frlost := rfl
@[simp] theorem State.setLeaf_attn (s : State) (n : Nat) (x : Leaf) : (s.setLeaf n x).attn = s.attn := rfl
@[simp] theorem State.setLeaf_pffrbase (s : State) (n : Nat) (x : Leaf) : (s.setLeaf n x).pffrbase = s.pffrbase := rfl
@[simp] theorem State.setLeaf_pffrcfg (s : State) (n : Nat) (x : Leaf) : (s.setLeaf n x).pffrcfg = s.pffrcfg := rfl
@[simp] theorem State.setLeaf_pffrrd (s : State) (n : Nat) (x : Leaf) : (s.setLeaf n x).pffrrd = s.pffrrd := rfl
@[simp] theorem State.setLeaf_pffrwr (s : State) (n : Nat) (x : Leaf) : (s.setLeaf n x).pffrwr = s.pffrwr := rfl
@[simp] theorem State.setLeaf_pfRecords (s : State) (n : Nat) (x : Leaf) : (s.setLeaf n x).pfRecords = s.pfRecords := rfl
@[simp] theorem State.setLeaf_pfevent (s : State) (n : Nat) (x : Leaf) : (s.setLeaf n x).pfevent = s.pfevent := rfl
@[simp] theorem State.setLeaf_pmwin (s : State) (n : Nat) (x : Leaf) : (s.setLeaf n x).pmwin = s.pmwin := rfl
@[simp] theorem State.setLeaf_ports (s : State) (n : Nat) (x : Leaf) : (s.setLeaf n x).ports = s.ports := rfl
@[simp] theorem State.setLeaf_coreHalted (s : State) (n : Nat) (x : Leaf) : (s.setLeaf n x).coreHalted = s.coreHalted := rfl
@[simp] theorem State.setLeaf_admitting (s : State) (n : Nat) (x : Leaf) : (s.setLeaf n x).admitting = s.admitting := rfl
@[simp] theorem State.setLeaf_mm (s : State) (n : Nat) (x : Leaf) : (s.setLeaf n x).mm = s.mm := rfl
@[simp] theorem State.setLeaf_sp (s : State) (n : Nat) (x : Leaf) : (s.setLeaf n x).sp = s.sp := rfl
@[simp] theorem State.setLeaf_host (s : State) (n : Nat) (x : Leaf) : (s.setLeaf n x).host = s.host := rfl
@[simp] theorem State.setLeaf_stagingArea (s : State) (n : Nat) (x : Leaf) : (s.setLeaf n x).stagingArea = s.stagingArea := rfl
@[simp] theorem State.setLeaf_mmPois (s : State) (n : Nat) (x : Leaf) : (s.setLeaf n x).mmPois = s.mmPois := rfl
@[simp] theorem State.setLeaf_spPois (s : State) (n : Nat) (x : Leaf) : (s.setLeaf n x).spPois = s.spPois := rfl
@[simp] theorem State.setLeaf_flight (s : State) (n : Nat) (x : Leaf) : (s.setLeaf n x).flight = s.flight := rfl
@[simp] theorem State.setLeaf_past (s : State) (n : Nat) (x : Leaf) : (s.setLeaf n x).past = s.past := rfl
@[simp] theorem State.setLeaf_waitTab (s : State) (n : Nat) (x : Leaf) : (s.setLeaf n x).waitTab = s.waitTab := rfl
@[simp] theorem State.setLeaf_links (s : State) (n : Nat) (x : Leaf) : (s.setLeaf n x).links = s.links := rfl
@[simp] theorem State.setLeaf_tasks (s : State) (n : Nat) (x : Leaf) : (s.setLeaf n x).tasks = s.tasks := rfl
@[simp] theorem State.setLeaf_conts (s : State) (n : Nat) (x : Leaf) : (s.setLeaf n x).conts = s.conts := rfl
@[simp] theorem State.setLeaf_blocks (s : State) (n : Nat) (x : Leaf) : (s.setLeaf n x).blocks = s.blocks := rfl
@[simp] theorem State.setLeaf_saved (s : State) (n : Nat) (x : Leaf) : (s.setLeaf n x).saved = s.saved := rfl
@[simp] theorem State.setLeaf_gangs (s : State) (n : Nat) (x : Leaf) : (s.setLeaf n x).gangs = s.gangs := rfl
@[simp] theorem State.setLeaf_jobs (s : State) (n : Nat) (x : Leaf) : (s.setLeaf n x).jobs = s.jobs := rfl
@[simp] theorem State.setLeaf_ops (s : State) (n : Nat) (x : Leaf) : (s.setLeaf n x).ops = s.ops := rfl
@[simp] theorem State.setLeaf_grants (s : State) (n : Nat) (x : Leaf) : (s.setLeaf n x).grants = s.grants := rfl
@[simp] theorem State.setLeaf_views (s : State) (n : Nat) (x : Leaf) : (s.setLeaf n x).views = s.views := rfl
@[simp] theorem State.setLeaf_dirty (s : State) (n : Nat) (x : Leaf) : (s.setLeaf n x).dirty = s.dirty := rfl
@[simp] theorem State.setLeaf_commits (s : State) (n : Nat) (x : Leaf) : (s.setLeaf n x).commits = s.commits := rfl
@[simp] theorem State.setLeaf_gens (s : State) (n : Nat) (x : Leaf) : (s.setLeaf n x).gens = s.gens := rfl
@[simp] theorem State.setLeaf_launches (s : State) (n : Nat) (x : Leaf) : (s.setLeaf n x).launches = s.launches := rfl
@[simp] theorem State.setLeaf_starts (s : State) (n : Nat) (x : Leaf) : (s.setLeaf n x).starts = s.starts := rfl
@[simp] theorem State.setLeaf_ends (s : State) (n : Nat) (x : Leaf) : (s.setLeaf n x).ends = s.ends := rfl
@[simp] theorem State.setLeaf_rampAt (s : State) (n : Nat) (x : Leaf) : (s.setLeaf n x).rampAt = s.rampAt := rfl
@[simp] theorem State.setLeaf_idling (s : State) (n : Nat) (x : Leaf) : (s.setLeaf n x).idling = s.idling := rfl
@[simp] theorem State.setLeaf_vfs (s : State) (n : Nat) (x : Leaf) : (s.setLeaf n x).vfs = s.vfs := rfl
@[simp] theorem State.setLeaf_quads (s : State) (n : Nat) (x : Leaf) : (s.setLeaf n x).quads = s.quads := rfl
@[simp] theorem State.setLeaf_faults (s : State) (n : Nat) (x : Leaf) : (s.setLeaf n x).faults = s.faults := rfl
@[simp] theorem State.setLeaf_pinned (s : State) (n : Nat) (x : Leaf) : (s.setLeaf n x).pinned = s.pinned := rfl
@[simp] theorem State.setLeaf_migrating (s : State) (n : Nat) (x : Leaf) : (s.setLeaf n x).migrating = s.migrating := rfl
@[simp] theorem State.setLeaf_fab (s : State) (n : Nat) (x : Leaf) : (s.setLeaf n x).fab = s.fab := rfl
@[simp] theorem State.setLeaf_signals (s : State) (n : Nat) (x : Leaf) : (s.setLeaf n x).signals = s.signals := rfl
@[simp] theorem State.setLeaf_hostOut (s : State) (n : Nat) (x : Leaf) : (s.setLeaf n x).hostOut = s.hostOut := rfl
@[simp] theorem State.setLeaf_nextId (s : State) (n : Nat) (x : Leaf) : (s.setLeaf n x).nextId = s.nextId := rfl
@[simp] theorem State.setLeaf_fresh (s : State) (n : Nat) (x : Leaf) : (s.setLeaf n x).fresh = s.fresh := rfl
@[simp] theorem State.setLeaf_issue (s : State) (n : Nat) (x : Leaf) : (s.setLeaf n x).issue = s.issue := rfl
@[simp] theorem State.setLeaf_agenda (s : State) (n : Nat) (x : Leaf) : (s.setLeaf n x).agenda = s.agenda := rfl
@[simp] theorem State.setQuad_clock (s : State) (n : Nat) (x : Quad) : (s.setQuad n x).clock = s.clock := rfl
@[simp] theorem State.setQuad_mhz (s : State) (n : Nat) (x : Quad) : (s.setQuad n x).mhz = s.mhz := rfl
@[simp] theorem State.setQuad_time (s : State) (n : Nat) (x : Quad) : (s.setQuad n x).time = s.time := rfl
@[simp] theorem State.setQuad_timeRuns (s : State) (n : Nat) (x : Quad) : (s.setQuad n x).timeRuns = s.timeRuns := rfl
@[simp] theorem State.setQuad_timeMark (s : State) (n : Nat) (x : Quad) : (s.setQuad n x).timeMark = s.timeMark := rfl
@[simp] theorem State.setQuad_timeWritten (s : State) (n : Nat) (x : Quad) : (s.setQuad n x).timeWritten = s.timeWritten := rfl
@[simp] theorem State.setQuad_timeSlew (s : State) (n : Nat) (x : Quad) : (s.setQuad n x).timeSlew = s.timeSlew := rfl
@[simp] theorem State.setQuad_slewRun (s : State) (n : Nat) (x : Quad) : (s.setQuad n x).slewRun = s.slewRun := rfl
@[simp] theorem State.setQuad_level (s : State) (n : Nat) (x : Quad) : (s.setQuad n x).level = s.level := rfl
@[simp] theorem State.setQuad_enabled (s : State) (n : Nat) (x : Quad) : (s.setQuad n x).enabled = s.enabled := rfl
@[simp] theorem State.setQuad_trained (s : State) (n : Nat) (x : Quad) : (s.setQuad n x).trained = s.trained := rfl
@[simp] theorem State.setQuad_fwFail (s : State) (n : Nat) (x : Quad) : (s.setQuad n x).fwFail = s.fwFail := rfl
@[simp] theorem State.setQuad_fwRefusal (s : State) (n : Nat) (x : Quad) : (s.setQuad n x).fwRefusal = s.fwRefusal := rfl
@[simp] theorem State.setQuad_fwctl (s : State) (n : Nat) (x : Quad) : (s.setQuad n x).fwctl = s.fwctl := rfl
@[simp] theorem State.setQuad_image (s : State) (n : Nat) (x : Quad) : (s.setQuad n x).image = s.image := rfl
@[simp] theorem State.setQuad_fabid (s : State) (n : Nat) (x : Quad) : (s.setQuad n x).fabid = s.fabid := rfl
@[simp] theorem State.setQuad_ramp (s : State) (n : Nat) (x : Quad) : (s.setQuad n x).ramp = s.ramp := rfl
@[simp] theorem State.setQuad_pwrlim (s : State) (n : Nat) (x : Quad) : (s.setQuad n x).pwrlim = s.pwrlim := rfl
@[simp] theorem State.setQuad_tpwr (s : State) (n : Nat) (x : Quad) : (s.setQuad n x).tpwr = s.tpwr := rfl
@[simp] theorem State.setQuad_watts (s : State) (n : Nat) (x : Quad) : (s.setQuad n x).watts = s.watts := rfl
@[simp] theorem State.setQuad_tdie (s : State) (n : Nat) (x : Quad) : (s.setQuad n x).tdie = s.tdie := rfl
@[simp] theorem State.setQuad_cecnt (s : State) (n : Nat) (x : Quad) : (s.setQuad n x).cecnt = s.cecnt := rfl
@[simp] theorem State.setQuad_uecnt (s : State) (n : Nat) (x : Quad) : (s.setQuad n x).uecnt = s.uecnt := rfl
@[simp] theorem State.setQuad_frlost (s : State) (n : Nat) (x : Quad) : (s.setQuad n x).frlost = s.frlost := rfl
@[simp] theorem State.setQuad_attn (s : State) (n : Nat) (x : Quad) : (s.setQuad n x).attn = s.attn := rfl
@[simp] theorem State.setQuad_pffrbase (s : State) (n : Nat) (x : Quad) : (s.setQuad n x).pffrbase = s.pffrbase := rfl
@[simp] theorem State.setQuad_pffrcfg (s : State) (n : Nat) (x : Quad) : (s.setQuad n x).pffrcfg = s.pffrcfg := rfl
@[simp] theorem State.setQuad_pffrrd (s : State) (n : Nat) (x : Quad) : (s.setQuad n x).pffrrd = s.pffrrd := rfl
@[simp] theorem State.setQuad_pffrwr (s : State) (n : Nat) (x : Quad) : (s.setQuad n x).pffrwr = s.pffrwr := rfl
@[simp] theorem State.setQuad_pfRecords (s : State) (n : Nat) (x : Quad) : (s.setQuad n x).pfRecords = s.pfRecords := rfl
@[simp] theorem State.setQuad_pfevent (s : State) (n : Nat) (x : Quad) : (s.setQuad n x).pfevent = s.pfevent := rfl
@[simp] theorem State.setQuad_pmwin (s : State) (n : Nat) (x : Quad) : (s.setQuad n x).pmwin = s.pmwin := rfl
@[simp] theorem State.setQuad_ports (s : State) (n : Nat) (x : Quad) : (s.setQuad n x).ports = s.ports := rfl
@[simp] theorem State.setQuad_coreHalted (s : State) (n : Nat) (x : Quad) : (s.setQuad n x).coreHalted = s.coreHalted := rfl
@[simp] theorem State.setQuad_admitting (s : State) (n : Nat) (x : Quad) : (s.setQuad n x).admitting = s.admitting := rfl
@[simp] theorem State.setQuad_mm (s : State) (n : Nat) (x : Quad) : (s.setQuad n x).mm = s.mm := rfl
@[simp] theorem State.setQuad_sp (s : State) (n : Nat) (x : Quad) : (s.setQuad n x).sp = s.sp := rfl
@[simp] theorem State.setQuad_host (s : State) (n : Nat) (x : Quad) : (s.setQuad n x).host = s.host := rfl
@[simp] theorem State.setQuad_stagingArea (s : State) (n : Nat) (x : Quad) : (s.setQuad n x).stagingArea = s.stagingArea := rfl
@[simp] theorem State.setQuad_mmPois (s : State) (n : Nat) (x : Quad) : (s.setQuad n x).mmPois = s.mmPois := rfl
@[simp] theorem State.setQuad_spPois (s : State) (n : Nat) (x : Quad) : (s.setQuad n x).spPois = s.spPois := rfl
@[simp] theorem State.setQuad_flight (s : State) (n : Nat) (x : Quad) : (s.setQuad n x).flight = s.flight := rfl
@[simp] theorem State.setQuad_past (s : State) (n : Nat) (x : Quad) : (s.setQuad n x).past = s.past := rfl
@[simp] theorem State.setQuad_waitTab (s : State) (n : Nat) (x : Quad) : (s.setQuad n x).waitTab = s.waitTab := rfl
@[simp] theorem State.setQuad_links (s : State) (n : Nat) (x : Quad) : (s.setQuad n x).links = s.links := rfl
@[simp] theorem State.setQuad_tasks (s : State) (n : Nat) (x : Quad) : (s.setQuad n x).tasks = s.tasks := rfl
@[simp] theorem State.setQuad_conts (s : State) (n : Nat) (x : Quad) : (s.setQuad n x).conts = s.conts := rfl
@[simp] theorem State.setQuad_blocks (s : State) (n : Nat) (x : Quad) : (s.setQuad n x).blocks = s.blocks := rfl
@[simp] theorem State.setQuad_saved (s : State) (n : Nat) (x : Quad) : (s.setQuad n x).saved = s.saved := rfl
@[simp] theorem State.setQuad_gangs (s : State) (n : Nat) (x : Quad) : (s.setQuad n x).gangs = s.gangs := rfl
@[simp] theorem State.setQuad_jobs (s : State) (n : Nat) (x : Quad) : (s.setQuad n x).jobs = s.jobs := rfl
@[simp] theorem State.setQuad_ops (s : State) (n : Nat) (x : Quad) : (s.setQuad n x).ops = s.ops := rfl
@[simp] theorem State.setQuad_grants (s : State) (n : Nat) (x : Quad) : (s.setQuad n x).grants = s.grants := rfl
@[simp] theorem State.setQuad_views (s : State) (n : Nat) (x : Quad) : (s.setQuad n x).views = s.views := rfl
@[simp] theorem State.setQuad_dirty (s : State) (n : Nat) (x : Quad) : (s.setQuad n x).dirty = s.dirty := rfl
@[simp] theorem State.setQuad_commits (s : State) (n : Nat) (x : Quad) : (s.setQuad n x).commits = s.commits := rfl
@[simp] theorem State.setQuad_gens (s : State) (n : Nat) (x : Quad) : (s.setQuad n x).gens = s.gens := rfl
@[simp] theorem State.setQuad_launches (s : State) (n : Nat) (x : Quad) : (s.setQuad n x).launches = s.launches := rfl
@[simp] theorem State.setQuad_leaves (s : State) (n : Nat) (x : Quad) : (s.setQuad n x).leaves = s.leaves := rfl
@[simp] theorem State.setQuad_starts (s : State) (n : Nat) (x : Quad) : (s.setQuad n x).starts = s.starts := rfl
@[simp] theorem State.setQuad_ends (s : State) (n : Nat) (x : Quad) : (s.setQuad n x).ends = s.ends := rfl
@[simp] theorem State.setQuad_rampAt (s : State) (n : Nat) (x : Quad) : (s.setQuad n x).rampAt = s.rampAt := rfl
@[simp] theorem State.setQuad_idling (s : State) (n : Nat) (x : Quad) : (s.setQuad n x).idling = s.idling := rfl
@[simp] theorem State.setQuad_vfs (s : State) (n : Nat) (x : Quad) : (s.setQuad n x).vfs = s.vfs := rfl
@[simp] theorem State.setQuad_faults (s : State) (n : Nat) (x : Quad) : (s.setQuad n x).faults = s.faults := rfl
@[simp] theorem State.setQuad_pinned (s : State) (n : Nat) (x : Quad) : (s.setQuad n x).pinned = s.pinned := rfl
@[simp] theorem State.setQuad_migrating (s : State) (n : Nat) (x : Quad) : (s.setQuad n x).migrating = s.migrating := rfl
@[simp] theorem State.setQuad_fab (s : State) (n : Nat) (x : Quad) : (s.setQuad n x).fab = s.fab := rfl
@[simp] theorem State.setQuad_signals (s : State) (n : Nat) (x : Quad) : (s.setQuad n x).signals = s.signals := rfl
@[simp] theorem State.setQuad_hostOut (s : State) (n : Nat) (x : Quad) : (s.setQuad n x).hostOut = s.hostOut := rfl
@[simp] theorem State.setQuad_nextId (s : State) (n : Nat) (x : Quad) : (s.setQuad n x).nextId = s.nextId := rfl
@[simp] theorem State.setQuad_fresh (s : State) (n : Nat) (x : Quad) : (s.setQuad n x).fresh = s.fresh := rfl
@[simp] theorem State.setQuad_issue (s : State) (n : Nat) (x : Quad) : (s.setQuad n x).issue = s.issue := rfl
@[simp] theorem State.setQuad_agenda (s : State) (n : Nat) (x : Quad) : (s.setQuad n x).agenda = s.agenda := rfl
@[simp] theorem State.setLaunch_clock (s : State) (x : Launch) : (s.setLaunch x).clock = s.clock := rfl
@[simp] theorem State.setLaunch_mhz (s : State) (x : Launch) : (s.setLaunch x).mhz = s.mhz := rfl
@[simp] theorem State.setLaunch_time (s : State) (x : Launch) : (s.setLaunch x).time = s.time := rfl
@[simp] theorem State.setLaunch_timeRuns (s : State) (x : Launch) : (s.setLaunch x).timeRuns = s.timeRuns := rfl
@[simp] theorem State.setLaunch_timeMark (s : State) (x : Launch) : (s.setLaunch x).timeMark = s.timeMark := rfl
@[simp] theorem State.setLaunch_timeWritten (s : State) (x : Launch) : (s.setLaunch x).timeWritten = s.timeWritten := rfl
@[simp] theorem State.setLaunch_timeSlew (s : State) (x : Launch) : (s.setLaunch x).timeSlew = s.timeSlew := rfl
@[simp] theorem State.setLaunch_slewRun (s : State) (x : Launch) : (s.setLaunch x).slewRun = s.slewRun := rfl
@[simp] theorem State.setLaunch_level (s : State) (x : Launch) : (s.setLaunch x).level = s.level := rfl
@[simp] theorem State.setLaunch_enabled (s : State) (x : Launch) : (s.setLaunch x).enabled = s.enabled := rfl
@[simp] theorem State.setLaunch_trained (s : State) (x : Launch) : (s.setLaunch x).trained = s.trained := rfl
@[simp] theorem State.setLaunch_fwFail (s : State) (x : Launch) : (s.setLaunch x).fwFail = s.fwFail := rfl
@[simp] theorem State.setLaunch_fwRefusal (s : State) (x : Launch) : (s.setLaunch x).fwRefusal = s.fwRefusal := rfl
@[simp] theorem State.setLaunch_fwctl (s : State) (x : Launch) : (s.setLaunch x).fwctl = s.fwctl := rfl
@[simp] theorem State.setLaunch_image (s : State) (x : Launch) : (s.setLaunch x).image = s.image := rfl
@[simp] theorem State.setLaunch_fabid (s : State) (x : Launch) : (s.setLaunch x).fabid = s.fabid := rfl
@[simp] theorem State.setLaunch_ramp (s : State) (x : Launch) : (s.setLaunch x).ramp = s.ramp := rfl
@[simp] theorem State.setLaunch_pwrlim (s : State) (x : Launch) : (s.setLaunch x).pwrlim = s.pwrlim := rfl
@[simp] theorem State.setLaunch_tpwr (s : State) (x : Launch) : (s.setLaunch x).tpwr = s.tpwr := rfl
@[simp] theorem State.setLaunch_watts (s : State) (x : Launch) : (s.setLaunch x).watts = s.watts := rfl
@[simp] theorem State.setLaunch_tdie (s : State) (x : Launch) : (s.setLaunch x).tdie = s.tdie := rfl
@[simp] theorem State.setLaunch_cecnt (s : State) (x : Launch) : (s.setLaunch x).cecnt = s.cecnt := rfl
@[simp] theorem State.setLaunch_uecnt (s : State) (x : Launch) : (s.setLaunch x).uecnt = s.uecnt := rfl
@[simp] theorem State.setLaunch_frlost (s : State) (x : Launch) : (s.setLaunch x).frlost = s.frlost := rfl
@[simp] theorem State.setLaunch_attn (s : State) (x : Launch) : (s.setLaunch x).attn = s.attn := rfl
@[simp] theorem State.setLaunch_pffrbase (s : State) (x : Launch) : (s.setLaunch x).pffrbase = s.pffrbase := rfl
@[simp] theorem State.setLaunch_pffrcfg (s : State) (x : Launch) : (s.setLaunch x).pffrcfg = s.pffrcfg := rfl
@[simp] theorem State.setLaunch_pffrrd (s : State) (x : Launch) : (s.setLaunch x).pffrrd = s.pffrrd := rfl
@[simp] theorem State.setLaunch_pffrwr (s : State) (x : Launch) : (s.setLaunch x).pffrwr = s.pffrwr := rfl
@[simp] theorem State.setLaunch_pfRecords (s : State) (x : Launch) : (s.setLaunch x).pfRecords = s.pfRecords := rfl
@[simp] theorem State.setLaunch_pfevent (s : State) (x : Launch) : (s.setLaunch x).pfevent = s.pfevent := rfl
@[simp] theorem State.setLaunch_pmwin (s : State) (x : Launch) : (s.setLaunch x).pmwin = s.pmwin := rfl
@[simp] theorem State.setLaunch_ports (s : State) (x : Launch) : (s.setLaunch x).ports = s.ports := rfl
@[simp] theorem State.setLaunch_coreHalted (s : State) (x : Launch) : (s.setLaunch x).coreHalted = s.coreHalted := rfl
@[simp] theorem State.setLaunch_admitting (s : State) (x : Launch) : (s.setLaunch x).admitting = s.admitting := rfl
@[simp] theorem State.setLaunch_mm (s : State) (x : Launch) : (s.setLaunch x).mm = s.mm := rfl
@[simp] theorem State.setLaunch_sp (s : State) (x : Launch) : (s.setLaunch x).sp = s.sp := rfl
@[simp] theorem State.setLaunch_host (s : State) (x : Launch) : (s.setLaunch x).host = s.host := rfl
@[simp] theorem State.setLaunch_stagingArea (s : State) (x : Launch) : (s.setLaunch x).stagingArea = s.stagingArea := rfl
@[simp] theorem State.setLaunch_mmPois (s : State) (x : Launch) : (s.setLaunch x).mmPois = s.mmPois := rfl
@[simp] theorem State.setLaunch_spPois (s : State) (x : Launch) : (s.setLaunch x).spPois = s.spPois := rfl
@[simp] theorem State.setLaunch_flight (s : State) (x : Launch) : (s.setLaunch x).flight = s.flight := rfl
@[simp] theorem State.setLaunch_past (s : State) (x : Launch) : (s.setLaunch x).past = s.past := rfl
@[simp] theorem State.setLaunch_waitTab (s : State) (x : Launch) : (s.setLaunch x).waitTab = s.waitTab := rfl
@[simp] theorem State.setLaunch_links (s : State) (x : Launch) : (s.setLaunch x).links = s.links := rfl
@[simp] theorem State.setLaunch_tasks (s : State) (x : Launch) : (s.setLaunch x).tasks = s.tasks := rfl
@[simp] theorem State.setLaunch_conts (s : State) (x : Launch) : (s.setLaunch x).conts = s.conts := rfl
@[simp] theorem State.setLaunch_blocks (s : State) (x : Launch) : (s.setLaunch x).blocks = s.blocks := rfl
@[simp] theorem State.setLaunch_saved (s : State) (x : Launch) : (s.setLaunch x).saved = s.saved := rfl
@[simp] theorem State.setLaunch_gangs (s : State) (x : Launch) : (s.setLaunch x).gangs = s.gangs := rfl
@[simp] theorem State.setLaunch_jobs (s : State) (x : Launch) : (s.setLaunch x).jobs = s.jobs := rfl
@[simp] theorem State.setLaunch_ops (s : State) (x : Launch) : (s.setLaunch x).ops = s.ops := rfl
@[simp] theorem State.setLaunch_grants (s : State) (x : Launch) : (s.setLaunch x).grants = s.grants := rfl
@[simp] theorem State.setLaunch_views (s : State) (x : Launch) : (s.setLaunch x).views = s.views := rfl
@[simp] theorem State.setLaunch_dirty (s : State) (x : Launch) : (s.setLaunch x).dirty = s.dirty := rfl
@[simp] theorem State.setLaunch_commits (s : State) (x : Launch) : (s.setLaunch x).commits = s.commits := rfl
@[simp] theorem State.setLaunch_gens (s : State) (x : Launch) : (s.setLaunch x).gens = s.gens := rfl
@[simp] theorem State.setLaunch_leaves (s : State) (x : Launch) : (s.setLaunch x).leaves = s.leaves := rfl
@[simp] theorem State.setLaunch_starts (s : State) (x : Launch) : (s.setLaunch x).starts = s.starts := rfl
@[simp] theorem State.setLaunch_ends (s : State) (x : Launch) : (s.setLaunch x).ends = s.ends := rfl
@[simp] theorem State.setLaunch_rampAt (s : State) (x : Launch) : (s.setLaunch x).rampAt = s.rampAt := rfl
@[simp] theorem State.setLaunch_idling (s : State) (x : Launch) : (s.setLaunch x).idling = s.idling := rfl
@[simp] theorem State.setLaunch_vfs (s : State) (x : Launch) : (s.setLaunch x).vfs = s.vfs := rfl
@[simp] theorem State.setLaunch_quads (s : State) (x : Launch) : (s.setLaunch x).quads = s.quads := rfl
@[simp] theorem State.setLaunch_faults (s : State) (x : Launch) : (s.setLaunch x).faults = s.faults := rfl
@[simp] theorem State.setLaunch_pinned (s : State) (x : Launch) : (s.setLaunch x).pinned = s.pinned := rfl
@[simp] theorem State.setLaunch_migrating (s : State) (x : Launch) : (s.setLaunch x).migrating = s.migrating := rfl
@[simp] theorem State.setLaunch_fab (s : State) (x : Launch) : (s.setLaunch x).fab = s.fab := rfl
@[simp] theorem State.setLaunch_signals (s : State) (x : Launch) : (s.setLaunch x).signals = s.signals := rfl
@[simp] theorem State.setLaunch_hostOut (s : State) (x : Launch) : (s.setLaunch x).hostOut = s.hostOut := rfl
@[simp] theorem State.setLaunch_nextId (s : State) (x : Launch) : (s.setLaunch x).nextId = s.nextId := rfl
@[simp] theorem State.setLaunch_fresh (s : State) (x : Launch) : (s.setLaunch x).fresh = s.fresh := rfl
@[simp] theorem State.setLaunch_issue (s : State) (x : Launch) : (s.setLaunch x).issue = s.issue := rfl
@[simp] theorem State.setLaunch_agenda (s : State) (x : Launch) : (s.setLaunch x).agenda = s.agenda := rfl
@[simp] theorem State.setJob_clock (s : State) (x : Job) : (s.setJob x).clock = s.clock := rfl
@[simp] theorem State.setJob_mhz (s : State) (x : Job) : (s.setJob x).mhz = s.mhz := rfl
@[simp] theorem State.setJob_time (s : State) (x : Job) : (s.setJob x).time = s.time := rfl
@[simp] theorem State.setJob_timeRuns (s : State) (x : Job) : (s.setJob x).timeRuns = s.timeRuns := rfl
@[simp] theorem State.setJob_timeMark (s : State) (x : Job) : (s.setJob x).timeMark = s.timeMark := rfl
@[simp] theorem State.setJob_timeWritten (s : State) (x : Job) : (s.setJob x).timeWritten = s.timeWritten := rfl
@[simp] theorem State.setJob_timeSlew (s : State) (x : Job) : (s.setJob x).timeSlew = s.timeSlew := rfl
@[simp] theorem State.setJob_slewRun (s : State) (x : Job) : (s.setJob x).slewRun = s.slewRun := rfl
@[simp] theorem State.setJob_level (s : State) (x : Job) : (s.setJob x).level = s.level := rfl
@[simp] theorem State.setJob_enabled (s : State) (x : Job) : (s.setJob x).enabled = s.enabled := rfl
@[simp] theorem State.setJob_trained (s : State) (x : Job) : (s.setJob x).trained = s.trained := rfl
@[simp] theorem State.setJob_fwFail (s : State) (x : Job) : (s.setJob x).fwFail = s.fwFail := rfl
@[simp] theorem State.setJob_fwRefusal (s : State) (x : Job) : (s.setJob x).fwRefusal = s.fwRefusal := rfl
@[simp] theorem State.setJob_fwctl (s : State) (x : Job) : (s.setJob x).fwctl = s.fwctl := rfl
@[simp] theorem State.setJob_image (s : State) (x : Job) : (s.setJob x).image = s.image := rfl
@[simp] theorem State.setJob_fabid (s : State) (x : Job) : (s.setJob x).fabid = s.fabid := rfl
@[simp] theorem State.setJob_ramp (s : State) (x : Job) : (s.setJob x).ramp = s.ramp := rfl
@[simp] theorem State.setJob_pwrlim (s : State) (x : Job) : (s.setJob x).pwrlim = s.pwrlim := rfl
@[simp] theorem State.setJob_tpwr (s : State) (x : Job) : (s.setJob x).tpwr = s.tpwr := rfl
@[simp] theorem State.setJob_watts (s : State) (x : Job) : (s.setJob x).watts = s.watts := rfl
@[simp] theorem State.setJob_tdie (s : State) (x : Job) : (s.setJob x).tdie = s.tdie := rfl
@[simp] theorem State.setJob_cecnt (s : State) (x : Job) : (s.setJob x).cecnt = s.cecnt := rfl
@[simp] theorem State.setJob_uecnt (s : State) (x : Job) : (s.setJob x).uecnt = s.uecnt := rfl
@[simp] theorem State.setJob_frlost (s : State) (x : Job) : (s.setJob x).frlost = s.frlost := rfl
@[simp] theorem State.setJob_attn (s : State) (x : Job) : (s.setJob x).attn = s.attn := rfl
@[simp] theorem State.setJob_pffrbase (s : State) (x : Job) : (s.setJob x).pffrbase = s.pffrbase := rfl
@[simp] theorem State.setJob_pffrcfg (s : State) (x : Job) : (s.setJob x).pffrcfg = s.pffrcfg := rfl
@[simp] theorem State.setJob_pffrrd (s : State) (x : Job) : (s.setJob x).pffrrd = s.pffrrd := rfl
@[simp] theorem State.setJob_pffrwr (s : State) (x : Job) : (s.setJob x).pffrwr = s.pffrwr := rfl
@[simp] theorem State.setJob_pfRecords (s : State) (x : Job) : (s.setJob x).pfRecords = s.pfRecords := rfl
@[simp] theorem State.setJob_pfevent (s : State) (x : Job) : (s.setJob x).pfevent = s.pfevent := rfl
@[simp] theorem State.setJob_pmwin (s : State) (x : Job) : (s.setJob x).pmwin = s.pmwin := rfl
@[simp] theorem State.setJob_ports (s : State) (x : Job) : (s.setJob x).ports = s.ports := rfl
@[simp] theorem State.setJob_coreHalted (s : State) (x : Job) : (s.setJob x).coreHalted = s.coreHalted := rfl
@[simp] theorem State.setJob_admitting (s : State) (x : Job) : (s.setJob x).admitting = s.admitting := rfl
@[simp] theorem State.setJob_mm (s : State) (x : Job) : (s.setJob x).mm = s.mm := rfl
@[simp] theorem State.setJob_sp (s : State) (x : Job) : (s.setJob x).sp = s.sp := rfl
@[simp] theorem State.setJob_host (s : State) (x : Job) : (s.setJob x).host = s.host := rfl
@[simp] theorem State.setJob_stagingArea (s : State) (x : Job) : (s.setJob x).stagingArea = s.stagingArea := rfl
@[simp] theorem State.setJob_mmPois (s : State) (x : Job) : (s.setJob x).mmPois = s.mmPois := rfl
@[simp] theorem State.setJob_spPois (s : State) (x : Job) : (s.setJob x).spPois = s.spPois := rfl
@[simp] theorem State.setJob_flight (s : State) (x : Job) : (s.setJob x).flight = s.flight := rfl
@[simp] theorem State.setJob_past (s : State) (x : Job) : (s.setJob x).past = s.past := rfl
@[simp] theorem State.setJob_waitTab (s : State) (x : Job) : (s.setJob x).waitTab = s.waitTab := rfl
@[simp] theorem State.setJob_links (s : State) (x : Job) : (s.setJob x).links = s.links := rfl
@[simp] theorem State.setJob_tasks (s : State) (x : Job) : (s.setJob x).tasks = s.tasks := rfl
@[simp] theorem State.setJob_conts (s : State) (x : Job) : (s.setJob x).conts = s.conts := rfl
@[simp] theorem State.setJob_blocks (s : State) (x : Job) : (s.setJob x).blocks = s.blocks := rfl
@[simp] theorem State.setJob_saved (s : State) (x : Job) : (s.setJob x).saved = s.saved := rfl
@[simp] theorem State.setJob_gangs (s : State) (x : Job) : (s.setJob x).gangs = s.gangs := rfl
@[simp] theorem State.setJob_ops (s : State) (x : Job) : (s.setJob x).ops = s.ops := rfl
@[simp] theorem State.setJob_grants (s : State) (x : Job) : (s.setJob x).grants = s.grants := rfl
@[simp] theorem State.setJob_views (s : State) (x : Job) : (s.setJob x).views = s.views := rfl
@[simp] theorem State.setJob_dirty (s : State) (x : Job) : (s.setJob x).dirty = s.dirty := rfl
@[simp] theorem State.setJob_commits (s : State) (x : Job) : (s.setJob x).commits = s.commits := rfl
@[simp] theorem State.setJob_gens (s : State) (x : Job) : (s.setJob x).gens = s.gens := rfl
@[simp] theorem State.setJob_launches (s : State) (x : Job) : (s.setJob x).launches = s.launches := rfl
@[simp] theorem State.setJob_leaves (s : State) (x : Job) : (s.setJob x).leaves = s.leaves := rfl
@[simp] theorem State.setJob_starts (s : State) (x : Job) : (s.setJob x).starts = s.starts := rfl
@[simp] theorem State.setJob_ends (s : State) (x : Job) : (s.setJob x).ends = s.ends := rfl
@[simp] theorem State.setJob_rampAt (s : State) (x : Job) : (s.setJob x).rampAt = s.rampAt := rfl
@[simp] theorem State.setJob_idling (s : State) (x : Job) : (s.setJob x).idling = s.idling := rfl
@[simp] theorem State.setJob_vfs (s : State) (x : Job) : (s.setJob x).vfs = s.vfs := rfl
@[simp] theorem State.setJob_quads (s : State) (x : Job) : (s.setJob x).quads = s.quads := rfl
@[simp] theorem State.setJob_faults (s : State) (x : Job) : (s.setJob x).faults = s.faults := rfl
@[simp] theorem State.setJob_pinned (s : State) (x : Job) : (s.setJob x).pinned = s.pinned := rfl
@[simp] theorem State.setJob_migrating (s : State) (x : Job) : (s.setJob x).migrating = s.migrating := rfl
@[simp] theorem State.setJob_fab (s : State) (x : Job) : (s.setJob x).fab = s.fab := rfl
@[simp] theorem State.setJob_signals (s : State) (x : Job) : (s.setJob x).signals = s.signals := rfl
@[simp] theorem State.setJob_hostOut (s : State) (x : Job) : (s.setJob x).hostOut = s.hostOut := rfl
@[simp] theorem State.setJob_nextId (s : State) (x : Job) : (s.setJob x).nextId = s.nextId := rfl
@[simp] theorem State.setJob_fresh (s : State) (x : Job) : (s.setJob x).fresh = s.fresh := rfl
@[simp] theorem State.setJob_issue (s : State) (x : Job) : (s.setJob x).issue = s.issue := rfl
@[simp] theorem State.setJob_agenda (s : State) (x : Job) : (s.setJob x).agenda = s.agenda := rfl
@[simp] theorem State.setOp_clock (s : State) (x : MatOp) : (s.setOp x).clock = s.clock := rfl
@[simp] theorem State.setOp_mhz (s : State) (x : MatOp) : (s.setOp x).mhz = s.mhz := rfl
@[simp] theorem State.setOp_time (s : State) (x : MatOp) : (s.setOp x).time = s.time := rfl
@[simp] theorem State.setOp_timeRuns (s : State) (x : MatOp) : (s.setOp x).timeRuns = s.timeRuns := rfl
@[simp] theorem State.setOp_timeMark (s : State) (x : MatOp) : (s.setOp x).timeMark = s.timeMark := rfl
@[simp] theorem State.setOp_timeWritten (s : State) (x : MatOp) : (s.setOp x).timeWritten = s.timeWritten := rfl
@[simp] theorem State.setOp_timeSlew (s : State) (x : MatOp) : (s.setOp x).timeSlew = s.timeSlew := rfl
@[simp] theorem State.setOp_slewRun (s : State) (x : MatOp) : (s.setOp x).slewRun = s.slewRun := rfl
@[simp] theorem State.setOp_level (s : State) (x : MatOp) : (s.setOp x).level = s.level := rfl
@[simp] theorem State.setOp_enabled (s : State) (x : MatOp) : (s.setOp x).enabled = s.enabled := rfl
@[simp] theorem State.setOp_trained (s : State) (x : MatOp) : (s.setOp x).trained = s.trained := rfl
@[simp] theorem State.setOp_fwFail (s : State) (x : MatOp) : (s.setOp x).fwFail = s.fwFail := rfl
@[simp] theorem State.setOp_fwRefusal (s : State) (x : MatOp) : (s.setOp x).fwRefusal = s.fwRefusal := rfl
@[simp] theorem State.setOp_fwctl (s : State) (x : MatOp) : (s.setOp x).fwctl = s.fwctl := rfl
@[simp] theorem State.setOp_image (s : State) (x : MatOp) : (s.setOp x).image = s.image := rfl
@[simp] theorem State.setOp_fabid (s : State) (x : MatOp) : (s.setOp x).fabid = s.fabid := rfl
@[simp] theorem State.setOp_ramp (s : State) (x : MatOp) : (s.setOp x).ramp = s.ramp := rfl
@[simp] theorem State.setOp_pwrlim (s : State) (x : MatOp) : (s.setOp x).pwrlim = s.pwrlim := rfl
@[simp] theorem State.setOp_tpwr (s : State) (x : MatOp) : (s.setOp x).tpwr = s.tpwr := rfl
@[simp] theorem State.setOp_watts (s : State) (x : MatOp) : (s.setOp x).watts = s.watts := rfl
@[simp] theorem State.setOp_tdie (s : State) (x : MatOp) : (s.setOp x).tdie = s.tdie := rfl
@[simp] theorem State.setOp_cecnt (s : State) (x : MatOp) : (s.setOp x).cecnt = s.cecnt := rfl
@[simp] theorem State.setOp_uecnt (s : State) (x : MatOp) : (s.setOp x).uecnt = s.uecnt := rfl
@[simp] theorem State.setOp_frlost (s : State) (x : MatOp) : (s.setOp x).frlost = s.frlost := rfl
@[simp] theorem State.setOp_attn (s : State) (x : MatOp) : (s.setOp x).attn = s.attn := rfl
@[simp] theorem State.setOp_pffrbase (s : State) (x : MatOp) : (s.setOp x).pffrbase = s.pffrbase := rfl
@[simp] theorem State.setOp_pffrcfg (s : State) (x : MatOp) : (s.setOp x).pffrcfg = s.pffrcfg := rfl
@[simp] theorem State.setOp_pffrrd (s : State) (x : MatOp) : (s.setOp x).pffrrd = s.pffrrd := rfl
@[simp] theorem State.setOp_pffrwr (s : State) (x : MatOp) : (s.setOp x).pffrwr = s.pffrwr := rfl
@[simp] theorem State.setOp_pfRecords (s : State) (x : MatOp) : (s.setOp x).pfRecords = s.pfRecords := rfl
@[simp] theorem State.setOp_pfevent (s : State) (x : MatOp) : (s.setOp x).pfevent = s.pfevent := rfl
@[simp] theorem State.setOp_pmwin (s : State) (x : MatOp) : (s.setOp x).pmwin = s.pmwin := rfl
@[simp] theorem State.setOp_ports (s : State) (x : MatOp) : (s.setOp x).ports = s.ports := rfl
@[simp] theorem State.setOp_coreHalted (s : State) (x : MatOp) : (s.setOp x).coreHalted = s.coreHalted := rfl
@[simp] theorem State.setOp_admitting (s : State) (x : MatOp) : (s.setOp x).admitting = s.admitting := rfl
@[simp] theorem State.setOp_mm (s : State) (x : MatOp) : (s.setOp x).mm = s.mm := rfl
@[simp] theorem State.setOp_sp (s : State) (x : MatOp) : (s.setOp x).sp = s.sp := rfl
@[simp] theorem State.setOp_host (s : State) (x : MatOp) : (s.setOp x).host = s.host := rfl
@[simp] theorem State.setOp_stagingArea (s : State) (x : MatOp) : (s.setOp x).stagingArea = s.stagingArea := rfl
@[simp] theorem State.setOp_mmPois (s : State) (x : MatOp) : (s.setOp x).mmPois = s.mmPois := rfl
@[simp] theorem State.setOp_spPois (s : State) (x : MatOp) : (s.setOp x).spPois = s.spPois := rfl
@[simp] theorem State.setOp_flight (s : State) (x : MatOp) : (s.setOp x).flight = s.flight := rfl
@[simp] theorem State.setOp_past (s : State) (x : MatOp) : (s.setOp x).past = s.past := rfl
@[simp] theorem State.setOp_waitTab (s : State) (x : MatOp) : (s.setOp x).waitTab = s.waitTab := rfl
@[simp] theorem State.setOp_links (s : State) (x : MatOp) : (s.setOp x).links = s.links := rfl
@[simp] theorem State.setOp_tasks (s : State) (x : MatOp) : (s.setOp x).tasks = s.tasks := rfl
@[simp] theorem State.setOp_conts (s : State) (x : MatOp) : (s.setOp x).conts = s.conts := rfl
@[simp] theorem State.setOp_blocks (s : State) (x : MatOp) : (s.setOp x).blocks = s.blocks := rfl
@[simp] theorem State.setOp_saved (s : State) (x : MatOp) : (s.setOp x).saved = s.saved := rfl
@[simp] theorem State.setOp_gangs (s : State) (x : MatOp) : (s.setOp x).gangs = s.gangs := rfl
@[simp] theorem State.setOp_jobs (s : State) (x : MatOp) : (s.setOp x).jobs = s.jobs := rfl
@[simp] theorem State.setOp_grants (s : State) (x : MatOp) : (s.setOp x).grants = s.grants := rfl
@[simp] theorem State.setOp_views (s : State) (x : MatOp) : (s.setOp x).views = s.views := rfl
@[simp] theorem State.setOp_dirty (s : State) (x : MatOp) : (s.setOp x).dirty = s.dirty := rfl
@[simp] theorem State.setOp_commits (s : State) (x : MatOp) : (s.setOp x).commits = s.commits := rfl
@[simp] theorem State.setOp_gens (s : State) (x : MatOp) : (s.setOp x).gens = s.gens := rfl
@[simp] theorem State.setOp_launches (s : State) (x : MatOp) : (s.setOp x).launches = s.launches := rfl
@[simp] theorem State.setOp_leaves (s : State) (x : MatOp) : (s.setOp x).leaves = s.leaves := rfl
@[simp] theorem State.setOp_starts (s : State) (x : MatOp) : (s.setOp x).starts = s.starts := rfl
@[simp] theorem State.setOp_ends (s : State) (x : MatOp) : (s.setOp x).ends = s.ends := rfl
@[simp] theorem State.setOp_rampAt (s : State) (x : MatOp) : (s.setOp x).rampAt = s.rampAt := rfl
@[simp] theorem State.setOp_idling (s : State) (x : MatOp) : (s.setOp x).idling = s.idling := rfl
@[simp] theorem State.setOp_vfs (s : State) (x : MatOp) : (s.setOp x).vfs = s.vfs := rfl
@[simp] theorem State.setOp_quads (s : State) (x : MatOp) : (s.setOp x).quads = s.quads := rfl
@[simp] theorem State.setOp_faults (s : State) (x : MatOp) : (s.setOp x).faults = s.faults := rfl
@[simp] theorem State.setOp_pinned (s : State) (x : MatOp) : (s.setOp x).pinned = s.pinned := rfl
@[simp] theorem State.setOp_migrating (s : State) (x : MatOp) : (s.setOp x).migrating = s.migrating := rfl
@[simp] theorem State.setOp_fab (s : State) (x : MatOp) : (s.setOp x).fab = s.fab := rfl
@[simp] theorem State.setOp_signals (s : State) (x : MatOp) : (s.setOp x).signals = s.signals := rfl
@[simp] theorem State.setOp_hostOut (s : State) (x : MatOp) : (s.setOp x).hostOut = s.hostOut := rfl
@[simp] theorem State.setOp_nextId (s : State) (x : MatOp) : (s.setOp x).nextId = s.nextId := rfl
@[simp] theorem State.setOp_fresh (s : State) (x : MatOp) : (s.setOp x).fresh = s.fresh := rfl
@[simp] theorem State.setOp_issue (s : State) (x : MatOp) : (s.setOp x).issue = s.issue := rfl
@[simp] theorem State.setOp_agenda (s : State) (x : MatOp) : (s.setOp x).agenda = s.agenda := rfl
@[simp] theorem State.push_clock (s : State) (i : Instr) : (s.push i).clock = s.clock := rfl
@[simp] theorem State.push_mhz (s : State) (i : Instr) : (s.push i).mhz = s.mhz := rfl
@[simp] theorem State.push_time (s : State) (i : Instr) : (s.push i).time = s.time := rfl
@[simp] theorem State.push_timeRuns (s : State) (i : Instr) : (s.push i).timeRuns = s.timeRuns := rfl
@[simp] theorem State.push_timeMark (s : State) (i : Instr) : (s.push i).timeMark = s.timeMark := rfl
@[simp] theorem State.push_timeWritten (s : State) (i : Instr) : (s.push i).timeWritten = s.timeWritten := rfl
@[simp] theorem State.push_timeSlew (s : State) (i : Instr) : (s.push i).timeSlew = s.timeSlew := rfl
@[simp] theorem State.push_slewRun (s : State) (i : Instr) : (s.push i).slewRun = s.slewRun := rfl
@[simp] theorem State.push_level (s : State) (i : Instr) : (s.push i).level = s.level := rfl
@[simp] theorem State.push_enabled (s : State) (i : Instr) : (s.push i).enabled = s.enabled := rfl
@[simp] theorem State.push_trained (s : State) (i : Instr) : (s.push i).trained = s.trained := rfl
@[simp] theorem State.push_fwFail (s : State) (i : Instr) : (s.push i).fwFail = s.fwFail := rfl
@[simp] theorem State.push_fwRefusal (s : State) (i : Instr) : (s.push i).fwRefusal = s.fwRefusal := rfl
@[simp] theorem State.push_fwctl (s : State) (i : Instr) : (s.push i).fwctl = s.fwctl := rfl
@[simp] theorem State.push_image (s : State) (i : Instr) : (s.push i).image = s.image := rfl
@[simp] theorem State.push_fabid (s : State) (i : Instr) : (s.push i).fabid = s.fabid := rfl
@[simp] theorem State.push_ramp (s : State) (i : Instr) : (s.push i).ramp = s.ramp := rfl
@[simp] theorem State.push_pwrlim (s : State) (i : Instr) : (s.push i).pwrlim = s.pwrlim := rfl
@[simp] theorem State.push_tpwr (s : State) (i : Instr) : (s.push i).tpwr = s.tpwr := rfl
@[simp] theorem State.push_watts (s : State) (i : Instr) : (s.push i).watts = s.watts := rfl
@[simp] theorem State.push_tdie (s : State) (i : Instr) : (s.push i).tdie = s.tdie := rfl
@[simp] theorem State.push_cecnt (s : State) (i : Instr) : (s.push i).cecnt = s.cecnt := rfl
@[simp] theorem State.push_uecnt (s : State) (i : Instr) : (s.push i).uecnt = s.uecnt := rfl
@[simp] theorem State.push_frlost (s : State) (i : Instr) : (s.push i).frlost = s.frlost := rfl
@[simp] theorem State.push_attn (s : State) (i : Instr) : (s.push i).attn = s.attn := rfl
@[simp] theorem State.push_pffrbase (s : State) (i : Instr) : (s.push i).pffrbase = s.pffrbase := rfl
@[simp] theorem State.push_pffrcfg (s : State) (i : Instr) : (s.push i).pffrcfg = s.pffrcfg := rfl
@[simp] theorem State.push_pffrrd (s : State) (i : Instr) : (s.push i).pffrrd = s.pffrrd := rfl
@[simp] theorem State.push_pffrwr (s : State) (i : Instr) : (s.push i).pffrwr = s.pffrwr := rfl
@[simp] theorem State.push_pfRecords (s : State) (i : Instr) : (s.push i).pfRecords = s.pfRecords := rfl
@[simp] theorem State.push_pfevent (s : State) (i : Instr) : (s.push i).pfevent = s.pfevent := rfl
@[simp] theorem State.push_pmwin (s : State) (i : Instr) : (s.push i).pmwin = s.pmwin := rfl
@[simp] theorem State.push_ports (s : State) (i : Instr) : (s.push i).ports = s.ports := rfl
@[simp] theorem State.push_coreHalted (s : State) (i : Instr) : (s.push i).coreHalted = s.coreHalted := rfl
@[simp] theorem State.push_admitting (s : State) (i : Instr) : (s.push i).admitting = s.admitting := rfl
@[simp] theorem State.push_mm (s : State) (i : Instr) : (s.push i).mm = s.mm := rfl
@[simp] theorem State.push_sp (s : State) (i : Instr) : (s.push i).sp = s.sp := rfl
@[simp] theorem State.push_host (s : State) (i : Instr) : (s.push i).host = s.host := rfl
@[simp] theorem State.push_stagingArea (s : State) (i : Instr) : (s.push i).stagingArea = s.stagingArea := rfl
@[simp] theorem State.push_mmPois (s : State) (i : Instr) : (s.push i).mmPois = s.mmPois := rfl
@[simp] theorem State.push_spPois (s : State) (i : Instr) : (s.push i).spPois = s.spPois := rfl
@[simp] theorem State.push_flight (s : State) (i : Instr) : (s.push i).flight = s.flight := rfl
@[simp] theorem State.push_past (s : State) (i : Instr) : (s.push i).past = s.past := rfl
@[simp] theorem State.push_waitTab (s : State) (i : Instr) : (s.push i).waitTab = s.waitTab := rfl
@[simp] theorem State.push_links (s : State) (i : Instr) : (s.push i).links = s.links := rfl
@[simp] theorem State.push_tasks (s : State) (i : Instr) : (s.push i).tasks = s.tasks := rfl
@[simp] theorem State.push_conts (s : State) (i : Instr) : (s.push i).conts = s.conts := rfl
@[simp] theorem State.push_blocks (s : State) (i : Instr) : (s.push i).blocks = s.blocks := rfl
@[simp] theorem State.push_saved (s : State) (i : Instr) : (s.push i).saved = s.saved := rfl
@[simp] theorem State.push_gangs (s : State) (i : Instr) : (s.push i).gangs = s.gangs := rfl
@[simp] theorem State.push_jobs (s : State) (i : Instr) : (s.push i).jobs = s.jobs := rfl
@[simp] theorem State.push_ops (s : State) (i : Instr) : (s.push i).ops = s.ops := rfl
@[simp] theorem State.push_grants (s : State) (i : Instr) : (s.push i).grants = s.grants := rfl
@[simp] theorem State.push_views (s : State) (i : Instr) : (s.push i).views = s.views := rfl
@[simp] theorem State.push_dirty (s : State) (i : Instr) : (s.push i).dirty = s.dirty := rfl
@[simp] theorem State.push_commits (s : State) (i : Instr) : (s.push i).commits = s.commits := rfl
@[simp] theorem State.push_gens (s : State) (i : Instr) : (s.push i).gens = s.gens := rfl
@[simp] theorem State.push_launches (s : State) (i : Instr) : (s.push i).launches = s.launches := rfl
@[simp] theorem State.push_leaves (s : State) (i : Instr) : (s.push i).leaves = s.leaves := rfl
@[simp] theorem State.push_starts (s : State) (i : Instr) : (s.push i).starts = s.starts := rfl
@[simp] theorem State.push_ends (s : State) (i : Instr) : (s.push i).ends = s.ends := rfl
@[simp] theorem State.push_rampAt (s : State) (i : Instr) : (s.push i).rampAt = s.rampAt := rfl
@[simp] theorem State.push_idling (s : State) (i : Instr) : (s.push i).idling = s.idling := rfl
@[simp] theorem State.push_vfs (s : State) (i : Instr) : (s.push i).vfs = s.vfs := rfl
@[simp] theorem State.push_quads (s : State) (i : Instr) : (s.push i).quads = s.quads := rfl
@[simp] theorem State.push_faults (s : State) (i : Instr) : (s.push i).faults = s.faults := rfl
@[simp] theorem State.push_pinned (s : State) (i : Instr) : (s.push i).pinned = s.pinned := rfl
@[simp] theorem State.push_migrating (s : State) (i : Instr) : (s.push i).migrating = s.migrating := rfl
@[simp] theorem State.push_fab (s : State) (i : Instr) : (s.push i).fab = s.fab := rfl
@[simp] theorem State.push_signals (s : State) (i : Instr) : (s.push i).signals = s.signals := rfl
@[simp] theorem State.push_hostOut (s : State) (i : Instr) : (s.push i).hostOut = s.hostOut := rfl
@[simp] theorem State.push_nextId (s : State) (i : Instr) : (s.push i).nextId = s.nextId := rfl
@[simp] theorem State.push_fresh (s : State) (i : Instr) : (s.push i).fresh = s.fresh := rfl
@[simp] theorem State.push_issue (s : State) (i : Instr) : (s.push i).issue = s.issue := rfl
@[simp] theorem State.hostWrite_clock (s : State) (a : Nat) (bs : List Byte) : (s.hostWrite a bs).clock = s.clock := rfl
@[simp] theorem State.hostWrite_mhz (s : State) (a : Nat) (bs : List Byte) : (s.hostWrite a bs).mhz = s.mhz := rfl
@[simp] theorem State.hostWrite_time (s : State) (a : Nat) (bs : List Byte) : (s.hostWrite a bs).time = s.time := rfl
@[simp] theorem State.hostWrite_timeRuns (s : State) (a : Nat) (bs : List Byte) : (s.hostWrite a bs).timeRuns = s.timeRuns := rfl
@[simp] theorem State.hostWrite_timeMark (s : State) (a : Nat) (bs : List Byte) : (s.hostWrite a bs).timeMark = s.timeMark := rfl
@[simp] theorem State.hostWrite_timeWritten (s : State) (a : Nat) (bs : List Byte) : (s.hostWrite a bs).timeWritten = s.timeWritten := rfl
@[simp] theorem State.hostWrite_timeSlew (s : State) (a : Nat) (bs : List Byte) : (s.hostWrite a bs).timeSlew = s.timeSlew := rfl
@[simp] theorem State.hostWrite_slewRun (s : State) (a : Nat) (bs : List Byte) : (s.hostWrite a bs).slewRun = s.slewRun := rfl
@[simp] theorem State.hostWrite_level (s : State) (a : Nat) (bs : List Byte) : (s.hostWrite a bs).level = s.level := rfl
@[simp] theorem State.hostWrite_enabled (s : State) (a : Nat) (bs : List Byte) : (s.hostWrite a bs).enabled = s.enabled := rfl
@[simp] theorem State.hostWrite_trained (s : State) (a : Nat) (bs : List Byte) : (s.hostWrite a bs).trained = s.trained := rfl
@[simp] theorem State.hostWrite_fwFail (s : State) (a : Nat) (bs : List Byte) : (s.hostWrite a bs).fwFail = s.fwFail := rfl
@[simp] theorem State.hostWrite_fwRefusal (s : State) (a : Nat) (bs : List Byte) : (s.hostWrite a bs).fwRefusal = s.fwRefusal := rfl
@[simp] theorem State.hostWrite_fwctl (s : State) (a : Nat) (bs : List Byte) : (s.hostWrite a bs).fwctl = s.fwctl := rfl
@[simp] theorem State.hostWrite_image (s : State) (a : Nat) (bs : List Byte) : (s.hostWrite a bs).image = s.image := rfl
@[simp] theorem State.hostWrite_fabid (s : State) (a : Nat) (bs : List Byte) : (s.hostWrite a bs).fabid = s.fabid := rfl
@[simp] theorem State.hostWrite_ramp (s : State) (a : Nat) (bs : List Byte) : (s.hostWrite a bs).ramp = s.ramp := rfl
@[simp] theorem State.hostWrite_pwrlim (s : State) (a : Nat) (bs : List Byte) : (s.hostWrite a bs).pwrlim = s.pwrlim := rfl
@[simp] theorem State.hostWrite_tpwr (s : State) (a : Nat) (bs : List Byte) : (s.hostWrite a bs).tpwr = s.tpwr := rfl
@[simp] theorem State.hostWrite_watts (s : State) (a : Nat) (bs : List Byte) : (s.hostWrite a bs).watts = s.watts := rfl
@[simp] theorem State.hostWrite_tdie (s : State) (a : Nat) (bs : List Byte) : (s.hostWrite a bs).tdie = s.tdie := rfl
@[simp] theorem State.hostWrite_cecnt (s : State) (a : Nat) (bs : List Byte) : (s.hostWrite a bs).cecnt = s.cecnt := rfl
@[simp] theorem State.hostWrite_uecnt (s : State) (a : Nat) (bs : List Byte) : (s.hostWrite a bs).uecnt = s.uecnt := rfl
@[simp] theorem State.hostWrite_frlost (s : State) (a : Nat) (bs : List Byte) : (s.hostWrite a bs).frlost = s.frlost := rfl
@[simp] theorem State.hostWrite_attn (s : State) (a : Nat) (bs : List Byte) : (s.hostWrite a bs).attn = s.attn := rfl
@[simp] theorem State.hostWrite_pffrbase (s : State) (a : Nat) (bs : List Byte) : (s.hostWrite a bs).pffrbase = s.pffrbase := rfl
@[simp] theorem State.hostWrite_pffrcfg (s : State) (a : Nat) (bs : List Byte) : (s.hostWrite a bs).pffrcfg = s.pffrcfg := rfl
@[simp] theorem State.hostWrite_pffrrd (s : State) (a : Nat) (bs : List Byte) : (s.hostWrite a bs).pffrrd = s.pffrrd := rfl
@[simp] theorem State.hostWrite_pffrwr (s : State) (a : Nat) (bs : List Byte) : (s.hostWrite a bs).pffrwr = s.pffrwr := rfl
@[simp] theorem State.hostWrite_pfRecords (s : State) (a : Nat) (bs : List Byte) : (s.hostWrite a bs).pfRecords = s.pfRecords := rfl
@[simp] theorem State.hostWrite_pfevent (s : State) (a : Nat) (bs : List Byte) : (s.hostWrite a bs).pfevent = s.pfevent := rfl
@[simp] theorem State.hostWrite_pmwin (s : State) (a : Nat) (bs : List Byte) : (s.hostWrite a bs).pmwin = s.pmwin := rfl
@[simp] theorem State.hostWrite_ports (s : State) (a : Nat) (bs : List Byte) : (s.hostWrite a bs).ports = s.ports := rfl
@[simp] theorem State.hostWrite_coreHalted (s : State) (a : Nat) (bs : List Byte) : (s.hostWrite a bs).coreHalted = s.coreHalted := rfl
@[simp] theorem State.hostWrite_admitting (s : State) (a : Nat) (bs : List Byte) : (s.hostWrite a bs).admitting = s.admitting := rfl
@[simp] theorem State.hostWrite_mm (s : State) (a : Nat) (bs : List Byte) : (s.hostWrite a bs).mm = s.mm := rfl
@[simp] theorem State.hostWrite_sp (s : State) (a : Nat) (bs : List Byte) : (s.hostWrite a bs).sp = s.sp := rfl
@[simp] theorem State.hostWrite_stagingArea (s : State) (a : Nat) (bs : List Byte) : (s.hostWrite a bs).stagingArea = s.stagingArea := rfl
@[simp] theorem State.hostWrite_mmPois (s : State) (a : Nat) (bs : List Byte) : (s.hostWrite a bs).mmPois = s.mmPois := rfl
@[simp] theorem State.hostWrite_spPois (s : State) (a : Nat) (bs : List Byte) : (s.hostWrite a bs).spPois = s.spPois := rfl
@[simp] theorem State.hostWrite_flight (s : State) (a : Nat) (bs : List Byte) : (s.hostWrite a bs).flight = s.flight := rfl
@[simp] theorem State.hostWrite_past (s : State) (a : Nat) (bs : List Byte) : (s.hostWrite a bs).past = s.past := rfl
@[simp] theorem State.hostWrite_waitTab (s : State) (a : Nat) (bs : List Byte) : (s.hostWrite a bs).waitTab = s.waitTab := rfl
@[simp] theorem State.hostWrite_links (s : State) (a : Nat) (bs : List Byte) : (s.hostWrite a bs).links = s.links := rfl
@[simp] theorem State.hostWrite_tasks (s : State) (a : Nat) (bs : List Byte) : (s.hostWrite a bs).tasks = s.tasks := rfl
@[simp] theorem State.hostWrite_conts (s : State) (a : Nat) (bs : List Byte) : (s.hostWrite a bs).conts = s.conts := rfl
@[simp] theorem State.hostWrite_blocks (s : State) (a : Nat) (bs : List Byte) : (s.hostWrite a bs).blocks = s.blocks := rfl
@[simp] theorem State.hostWrite_saved (s : State) (a : Nat) (bs : List Byte) : (s.hostWrite a bs).saved = s.saved := rfl
@[simp] theorem State.hostWrite_gangs (s : State) (a : Nat) (bs : List Byte) : (s.hostWrite a bs).gangs = s.gangs := rfl
@[simp] theorem State.hostWrite_jobs (s : State) (a : Nat) (bs : List Byte) : (s.hostWrite a bs).jobs = s.jobs := rfl
@[simp] theorem State.hostWrite_ops (s : State) (a : Nat) (bs : List Byte) : (s.hostWrite a bs).ops = s.ops := rfl
@[simp] theorem State.hostWrite_grants (s : State) (a : Nat) (bs : List Byte) : (s.hostWrite a bs).grants = s.grants := rfl
@[simp] theorem State.hostWrite_views (s : State) (a : Nat) (bs : List Byte) : (s.hostWrite a bs).views = s.views := rfl
@[simp] theorem State.hostWrite_dirty (s : State) (a : Nat) (bs : List Byte) : (s.hostWrite a bs).dirty = s.dirty := rfl
@[simp] theorem State.hostWrite_commits (s : State) (a : Nat) (bs : List Byte) : (s.hostWrite a bs).commits = s.commits := rfl
@[simp] theorem State.hostWrite_gens (s : State) (a : Nat) (bs : List Byte) : (s.hostWrite a bs).gens = s.gens := rfl
@[simp] theorem State.hostWrite_launches (s : State) (a : Nat) (bs : List Byte) : (s.hostWrite a bs).launches = s.launches := rfl
@[simp] theorem State.hostWrite_leaves (s : State) (a : Nat) (bs : List Byte) : (s.hostWrite a bs).leaves = s.leaves := rfl
@[simp] theorem State.hostWrite_starts (s : State) (a : Nat) (bs : List Byte) : (s.hostWrite a bs).starts = s.starts := rfl
@[simp] theorem State.hostWrite_ends (s : State) (a : Nat) (bs : List Byte) : (s.hostWrite a bs).ends = s.ends := rfl
@[simp] theorem State.hostWrite_rampAt (s : State) (a : Nat) (bs : List Byte) : (s.hostWrite a bs).rampAt = s.rampAt := rfl
@[simp] theorem State.hostWrite_idling (s : State) (a : Nat) (bs : List Byte) : (s.hostWrite a bs).idling = s.idling := rfl
@[simp] theorem State.hostWrite_vfs (s : State) (a : Nat) (bs : List Byte) : (s.hostWrite a bs).vfs = s.vfs := rfl
@[simp] theorem State.hostWrite_quads (s : State) (a : Nat) (bs : List Byte) : (s.hostWrite a bs).quads = s.quads := rfl
@[simp] theorem State.hostWrite_faults (s : State) (a : Nat) (bs : List Byte) : (s.hostWrite a bs).faults = s.faults := rfl
@[simp] theorem State.hostWrite_pinned (s : State) (a : Nat) (bs : List Byte) : (s.hostWrite a bs).pinned = s.pinned := rfl
@[simp] theorem State.hostWrite_migrating (s : State) (a : Nat) (bs : List Byte) : (s.hostWrite a bs).migrating = s.migrating := rfl
@[simp] theorem State.hostWrite_fab (s : State) (a : Nat) (bs : List Byte) : (s.hostWrite a bs).fab = s.fab := rfl
@[simp] theorem State.hostWrite_signals (s : State) (a : Nat) (bs : List Byte) : (s.hostWrite a bs).signals = s.signals := rfl
@[simp] theorem State.hostWrite_hostOut (s : State) (a : Nat) (bs : List Byte) : (s.hostWrite a bs).hostOut = s.hostOut := rfl
@[simp] theorem State.hostWrite_nextId (s : State) (a : Nat) (bs : List Byte) : (s.hostWrite a bs).nextId = s.nextId := rfl
@[simp] theorem State.hostWrite_fresh (s : State) (a : Nat) (bs : List Byte) : (s.hostWrite a bs).fresh = s.fresh := rfl
@[simp] theorem State.hostWrite_issue (s : State) (a : Nat) (bs : List Byte) : (s.hostWrite a bs).issue = s.issue := rfl
@[simp] theorem State.hostWrite_agenda (s : State) (a : Nat) (bs : List Byte) : (s.hostWrite a bs).agenda = s.agenda := rfl
@[simp] theorem State.irq_clock (s : State) (v : Option Nat) (k : Nat) : (s.irq v k).clock = s.clock := rfl
@[simp] theorem State.irq_mhz (s : State) (v : Option Nat) (k : Nat) : (s.irq v k).mhz = s.mhz := rfl
@[simp] theorem State.irq_time (s : State) (v : Option Nat) (k : Nat) : (s.irq v k).time = s.time := rfl
@[simp] theorem State.irq_timeRuns (s : State) (v : Option Nat) (k : Nat) : (s.irq v k).timeRuns = s.timeRuns := rfl
@[simp] theorem State.irq_timeMark (s : State) (v : Option Nat) (k : Nat) : (s.irq v k).timeMark = s.timeMark := rfl
@[simp] theorem State.irq_timeWritten (s : State) (v : Option Nat) (k : Nat) : (s.irq v k).timeWritten = s.timeWritten := rfl
@[simp] theorem State.irq_timeSlew (s : State) (v : Option Nat) (k : Nat) : (s.irq v k).timeSlew = s.timeSlew := rfl
@[simp] theorem State.irq_slewRun (s : State) (v : Option Nat) (k : Nat) : (s.irq v k).slewRun = s.slewRun := rfl
@[simp] theorem State.irq_level (s : State) (v : Option Nat) (k : Nat) : (s.irq v k).level = s.level := rfl
@[simp] theorem State.irq_enabled (s : State) (v : Option Nat) (k : Nat) : (s.irq v k).enabled = s.enabled := rfl
@[simp] theorem State.irq_trained (s : State) (v : Option Nat) (k : Nat) : (s.irq v k).trained = s.trained := rfl
@[simp] theorem State.irq_fwFail (s : State) (v : Option Nat) (k : Nat) : (s.irq v k).fwFail = s.fwFail := rfl
@[simp] theorem State.irq_fwRefusal (s : State) (v : Option Nat) (k : Nat) : (s.irq v k).fwRefusal = s.fwRefusal := rfl
@[simp] theorem State.irq_fwctl (s : State) (v : Option Nat) (k : Nat) : (s.irq v k).fwctl = s.fwctl := rfl
@[simp] theorem State.irq_image (s : State) (v : Option Nat) (k : Nat) : (s.irq v k).image = s.image := rfl
@[simp] theorem State.irq_fabid (s : State) (v : Option Nat) (k : Nat) : (s.irq v k).fabid = s.fabid := rfl
@[simp] theorem State.irq_ramp (s : State) (v : Option Nat) (k : Nat) : (s.irq v k).ramp = s.ramp := rfl
@[simp] theorem State.irq_pwrlim (s : State) (v : Option Nat) (k : Nat) : (s.irq v k).pwrlim = s.pwrlim := rfl
@[simp] theorem State.irq_tpwr (s : State) (v : Option Nat) (k : Nat) : (s.irq v k).tpwr = s.tpwr := rfl
@[simp] theorem State.irq_watts (s : State) (v : Option Nat) (k : Nat) : (s.irq v k).watts = s.watts := rfl
@[simp] theorem State.irq_tdie (s : State) (v : Option Nat) (k : Nat) : (s.irq v k).tdie = s.tdie := rfl
@[simp] theorem State.irq_cecnt (s : State) (v : Option Nat) (k : Nat) : (s.irq v k).cecnt = s.cecnt := rfl
@[simp] theorem State.irq_uecnt (s : State) (v : Option Nat) (k : Nat) : (s.irq v k).uecnt = s.uecnt := rfl
@[simp] theorem State.irq_frlost (s : State) (v : Option Nat) (k : Nat) : (s.irq v k).frlost = s.frlost := rfl
@[simp] theorem State.irq_attn (s : State) (v : Option Nat) (k : Nat) : (s.irq v k).attn = s.attn := rfl
@[simp] theorem State.irq_pffrbase (s : State) (v : Option Nat) (k : Nat) : (s.irq v k).pffrbase = s.pffrbase := rfl
@[simp] theorem State.irq_pffrcfg (s : State) (v : Option Nat) (k : Nat) : (s.irq v k).pffrcfg = s.pffrcfg := rfl
@[simp] theorem State.irq_pffrrd (s : State) (v : Option Nat) (k : Nat) : (s.irq v k).pffrrd = s.pffrrd := rfl
@[simp] theorem State.irq_pffrwr (s : State) (v : Option Nat) (k : Nat) : (s.irq v k).pffrwr = s.pffrwr := rfl
@[simp] theorem State.irq_pfRecords (s : State) (v : Option Nat) (k : Nat) : (s.irq v k).pfRecords = s.pfRecords := rfl
@[simp] theorem State.irq_pfevent (s : State) (v : Option Nat) (k : Nat) : (s.irq v k).pfevent = s.pfevent := rfl
@[simp] theorem State.irq_pmwin (s : State) (v : Option Nat) (k : Nat) : (s.irq v k).pmwin = s.pmwin := rfl
@[simp] theorem State.irq_ports (s : State) (v : Option Nat) (k : Nat) : (s.irq v k).ports = s.ports := rfl
@[simp] theorem State.irq_coreHalted (s : State) (v : Option Nat) (k : Nat) : (s.irq v k).coreHalted = s.coreHalted := rfl
@[simp] theorem State.irq_admitting (s : State) (v : Option Nat) (k : Nat) : (s.irq v k).admitting = s.admitting := rfl
@[simp] theorem State.irq_mm (s : State) (v : Option Nat) (k : Nat) : (s.irq v k).mm = s.mm := rfl
@[simp] theorem State.irq_sp (s : State) (v : Option Nat) (k : Nat) : (s.irq v k).sp = s.sp := rfl
@[simp] theorem State.irq_host (s : State) (v : Option Nat) (k : Nat) : (s.irq v k).host = s.host := rfl
@[simp] theorem State.irq_stagingArea (s : State) (v : Option Nat) (k : Nat) : (s.irq v k).stagingArea = s.stagingArea := rfl
@[simp] theorem State.irq_mmPois (s : State) (v : Option Nat) (k : Nat) : (s.irq v k).mmPois = s.mmPois := rfl
@[simp] theorem State.irq_spPois (s : State) (v : Option Nat) (k : Nat) : (s.irq v k).spPois = s.spPois := rfl
@[simp] theorem State.irq_flight (s : State) (v : Option Nat) (k : Nat) : (s.irq v k).flight = s.flight := rfl
@[simp] theorem State.irq_past (s : State) (v : Option Nat) (k : Nat) : (s.irq v k).past = s.past := rfl
@[simp] theorem State.irq_waitTab (s : State) (v : Option Nat) (k : Nat) : (s.irq v k).waitTab = s.waitTab := rfl
@[simp] theorem State.irq_links (s : State) (v : Option Nat) (k : Nat) : (s.irq v k).links = s.links := rfl
@[simp] theorem State.irq_tasks (s : State) (v : Option Nat) (k : Nat) : (s.irq v k).tasks = s.tasks := rfl
@[simp] theorem State.irq_conts (s : State) (v : Option Nat) (k : Nat) : (s.irq v k).conts = s.conts := rfl
@[simp] theorem State.irq_blocks (s : State) (v : Option Nat) (k : Nat) : (s.irq v k).blocks = s.blocks := rfl
@[simp] theorem State.irq_saved (s : State) (v : Option Nat) (k : Nat) : (s.irq v k).saved = s.saved := rfl
@[simp] theorem State.irq_gangs (s : State) (v : Option Nat) (k : Nat) : (s.irq v k).gangs = s.gangs := rfl
@[simp] theorem State.irq_jobs (s : State) (v : Option Nat) (k : Nat) : (s.irq v k).jobs = s.jobs := rfl
@[simp] theorem State.irq_ops (s : State) (v : Option Nat) (k : Nat) : (s.irq v k).ops = s.ops := rfl
@[simp] theorem State.irq_grants (s : State) (v : Option Nat) (k : Nat) : (s.irq v k).grants = s.grants := rfl
@[simp] theorem State.irq_views (s : State) (v : Option Nat) (k : Nat) : (s.irq v k).views = s.views := rfl
@[simp] theorem State.irq_dirty (s : State) (v : Option Nat) (k : Nat) : (s.irq v k).dirty = s.dirty := rfl
@[simp] theorem State.irq_commits (s : State) (v : Option Nat) (k : Nat) : (s.irq v k).commits = s.commits := rfl
@[simp] theorem State.irq_gens (s : State) (v : Option Nat) (k : Nat) : (s.irq v k).gens = s.gens := rfl
@[simp] theorem State.irq_launches (s : State) (v : Option Nat) (k : Nat) : (s.irq v k).launches = s.launches := rfl
@[simp] theorem State.irq_leaves (s : State) (v : Option Nat) (k : Nat) : (s.irq v k).leaves = s.leaves := rfl
@[simp] theorem State.irq_starts (s : State) (v : Option Nat) (k : Nat) : (s.irq v k).starts = s.starts := rfl
@[simp] theorem State.irq_ends (s : State) (v : Option Nat) (k : Nat) : (s.irq v k).ends = s.ends := rfl
@[simp] theorem State.irq_rampAt (s : State) (v : Option Nat) (k : Nat) : (s.irq v k).rampAt = s.rampAt := rfl
@[simp] theorem State.irq_idling (s : State) (v : Option Nat) (k : Nat) : (s.irq v k).idling = s.idling := rfl
@[simp] theorem State.irq_vfs (s : State) (v : Option Nat) (k : Nat) : (s.irq v k).vfs = s.vfs := rfl
@[simp] theorem State.irq_quads (s : State) (v : Option Nat) (k : Nat) : (s.irq v k).quads = s.quads := rfl
@[simp] theorem State.irq_faults (s : State) (v : Option Nat) (k : Nat) : (s.irq v k).faults = s.faults := rfl
@[simp] theorem State.irq_pinned (s : State) (v : Option Nat) (k : Nat) : (s.irq v k).pinned = s.pinned := rfl
@[simp] theorem State.irq_migrating (s : State) (v : Option Nat) (k : Nat) : (s.irq v k).migrating = s.migrating := rfl
@[simp] theorem State.irq_fab (s : State) (v : Option Nat) (k : Nat) : (s.irq v k).fab = s.fab := rfl
@[simp] theorem State.irq_signals (s : State) (v : Option Nat) (k : Nat) : (s.irq v k).signals = s.signals := rfl
@[simp] theorem State.irq_nextId (s : State) (v : Option Nat) (k : Nat) : (s.irq v k).nextId = s.nextId := rfl
@[simp] theorem State.irq_fresh (s : State) (v : Option Nat) (k : Nat) : (s.irq v k).fresh = s.fresh := rfl
@[simp] theorem State.irq_issue (s : State) (v : Option Nat) (k : Nat) : (s.irq v k).issue = s.issue := rfl
@[simp] theorem State.irq_agenda (s : State) (v : Option Nat) (k : Nat) : (s.irq v k).agenda = s.agenda := rfl
@[simp] theorem State.setQueue_clock (s : State) (v q : Nat) (x : Queue) : (s.setQueue v q x).clock = s.clock := rfl
@[simp] theorem State.setQueue_mhz (s : State) (v q : Nat) (x : Queue) : (s.setQueue v q x).mhz = s.mhz := rfl
@[simp] theorem State.setQueue_time (s : State) (v q : Nat) (x : Queue) : (s.setQueue v q x).time = s.time := rfl
@[simp] theorem State.setQueue_timeRuns (s : State) (v q : Nat) (x : Queue) : (s.setQueue v q x).timeRuns = s.timeRuns := rfl
@[simp] theorem State.setQueue_timeMark (s : State) (v q : Nat) (x : Queue) : (s.setQueue v q x).timeMark = s.timeMark := rfl
@[simp] theorem State.setQueue_timeWritten (s : State) (v q : Nat) (x : Queue) : (s.setQueue v q x).timeWritten = s.timeWritten := rfl
@[simp] theorem State.setQueue_timeSlew (s : State) (v q : Nat) (x : Queue) : (s.setQueue v q x).timeSlew = s.timeSlew := rfl
@[simp] theorem State.setQueue_slewRun (s : State) (v q : Nat) (x : Queue) : (s.setQueue v q x).slewRun = s.slewRun := rfl
@[simp] theorem State.setQueue_level (s : State) (v q : Nat) (x : Queue) : (s.setQueue v q x).level = s.level := rfl
@[simp] theorem State.setQueue_enabled (s : State) (v q : Nat) (x : Queue) : (s.setQueue v q x).enabled = s.enabled := rfl
@[simp] theorem State.setQueue_trained (s : State) (v q : Nat) (x : Queue) : (s.setQueue v q x).trained = s.trained := rfl
@[simp] theorem State.setQueue_fwFail (s : State) (v q : Nat) (x : Queue) : (s.setQueue v q x).fwFail = s.fwFail := rfl
@[simp] theorem State.setQueue_fwRefusal (s : State) (v q : Nat) (x : Queue) : (s.setQueue v q x).fwRefusal = s.fwRefusal := rfl
@[simp] theorem State.setQueue_fwctl (s : State) (v q : Nat) (x : Queue) : (s.setQueue v q x).fwctl = s.fwctl := rfl
@[simp] theorem State.setQueue_image (s : State) (v q : Nat) (x : Queue) : (s.setQueue v q x).image = s.image := rfl
@[simp] theorem State.setQueue_fabid (s : State) (v q : Nat) (x : Queue) : (s.setQueue v q x).fabid = s.fabid := rfl
@[simp] theorem State.setQueue_ramp (s : State) (v q : Nat) (x : Queue) : (s.setQueue v q x).ramp = s.ramp := rfl
@[simp] theorem State.setQueue_pwrlim (s : State) (v q : Nat) (x : Queue) : (s.setQueue v q x).pwrlim = s.pwrlim := rfl
@[simp] theorem State.setQueue_tpwr (s : State) (v q : Nat) (x : Queue) : (s.setQueue v q x).tpwr = s.tpwr := rfl
@[simp] theorem State.setQueue_watts (s : State) (v q : Nat) (x : Queue) : (s.setQueue v q x).watts = s.watts := rfl
@[simp] theorem State.setQueue_tdie (s : State) (v q : Nat) (x : Queue) : (s.setQueue v q x).tdie = s.tdie := rfl
@[simp] theorem State.setQueue_cecnt (s : State) (v q : Nat) (x : Queue) : (s.setQueue v q x).cecnt = s.cecnt := rfl
@[simp] theorem State.setQueue_uecnt (s : State) (v q : Nat) (x : Queue) : (s.setQueue v q x).uecnt = s.uecnt := rfl
@[simp] theorem State.setQueue_frlost (s : State) (v q : Nat) (x : Queue) : (s.setQueue v q x).frlost = s.frlost := rfl
@[simp] theorem State.setQueue_attn (s : State) (v q : Nat) (x : Queue) : (s.setQueue v q x).attn = s.attn := rfl
@[simp] theorem State.setQueue_pffrbase (s : State) (v q : Nat) (x : Queue) : (s.setQueue v q x).pffrbase = s.pffrbase := rfl
@[simp] theorem State.setQueue_pffrcfg (s : State) (v q : Nat) (x : Queue) : (s.setQueue v q x).pffrcfg = s.pffrcfg := rfl
@[simp] theorem State.setQueue_pffrrd (s : State) (v q : Nat) (x : Queue) : (s.setQueue v q x).pffrrd = s.pffrrd := rfl
@[simp] theorem State.setQueue_pffrwr (s : State) (v q : Nat) (x : Queue) : (s.setQueue v q x).pffrwr = s.pffrwr := rfl
@[simp] theorem State.setQueue_pfRecords (s : State) (v q : Nat) (x : Queue) : (s.setQueue v q x).pfRecords = s.pfRecords := rfl
@[simp] theorem State.setQueue_pfevent (s : State) (v q : Nat) (x : Queue) : (s.setQueue v q x).pfevent = s.pfevent := rfl
@[simp] theorem State.setQueue_pmwin (s : State) (v q : Nat) (x : Queue) : (s.setQueue v q x).pmwin = s.pmwin := rfl
@[simp] theorem State.setQueue_ports (s : State) (v q : Nat) (x : Queue) : (s.setQueue v q x).ports = s.ports := rfl
@[simp] theorem State.setQueue_coreHalted (s : State) (v q : Nat) (x : Queue) : (s.setQueue v q x).coreHalted = s.coreHalted := rfl
@[simp] theorem State.setQueue_admitting (s : State) (v q : Nat) (x : Queue) : (s.setQueue v q x).admitting = s.admitting := rfl
@[simp] theorem State.setQueue_mm (s : State) (v q : Nat) (x : Queue) : (s.setQueue v q x).mm = s.mm := rfl
@[simp] theorem State.setQueue_sp (s : State) (v q : Nat) (x : Queue) : (s.setQueue v q x).sp = s.sp := rfl
@[simp] theorem State.setQueue_host (s : State) (v q : Nat) (x : Queue) : (s.setQueue v q x).host = s.host := rfl
@[simp] theorem State.setQueue_stagingArea (s : State) (v q : Nat) (x : Queue) : (s.setQueue v q x).stagingArea = s.stagingArea := rfl
@[simp] theorem State.setQueue_mmPois (s : State) (v q : Nat) (x : Queue) : (s.setQueue v q x).mmPois = s.mmPois := rfl
@[simp] theorem State.setQueue_spPois (s : State) (v q : Nat) (x : Queue) : (s.setQueue v q x).spPois = s.spPois := rfl
@[simp] theorem State.setQueue_flight (s : State) (v q : Nat) (x : Queue) : (s.setQueue v q x).flight = s.flight := rfl
@[simp] theorem State.setQueue_past (s : State) (v q : Nat) (x : Queue) : (s.setQueue v q x).past = s.past := rfl
@[simp] theorem State.setQueue_waitTab (s : State) (v q : Nat) (x : Queue) : (s.setQueue v q x).waitTab = s.waitTab := rfl
@[simp] theorem State.setQueue_links (s : State) (v q : Nat) (x : Queue) : (s.setQueue v q x).links = s.links := rfl
@[simp] theorem State.setQueue_tasks (s : State) (v q : Nat) (x : Queue) : (s.setQueue v q x).tasks = s.tasks := rfl
@[simp] theorem State.setQueue_conts (s : State) (v q : Nat) (x : Queue) : (s.setQueue v q x).conts = s.conts := rfl
@[simp] theorem State.setQueue_blocks (s : State) (v q : Nat) (x : Queue) : (s.setQueue v q x).blocks = s.blocks := rfl
@[simp] theorem State.setQueue_saved (s : State) (v q : Nat) (x : Queue) : (s.setQueue v q x).saved = s.saved := rfl
@[simp] theorem State.setQueue_gangs (s : State) (v q : Nat) (x : Queue) : (s.setQueue v q x).gangs = s.gangs := rfl
@[simp] theorem State.setQueue_jobs (s : State) (v q : Nat) (x : Queue) : (s.setQueue v q x).jobs = s.jobs := rfl
@[simp] theorem State.setQueue_ops (s : State) (v q : Nat) (x : Queue) : (s.setQueue v q x).ops = s.ops := rfl
@[simp] theorem State.setQueue_grants (s : State) (v q : Nat) (x : Queue) : (s.setQueue v q x).grants = s.grants := rfl
@[simp] theorem State.setQueue_views (s : State) (v q : Nat) (x : Queue) : (s.setQueue v q x).views = s.views := rfl
@[simp] theorem State.setQueue_dirty (s : State) (v q : Nat) (x : Queue) : (s.setQueue v q x).dirty = s.dirty := rfl
@[simp] theorem State.setQueue_commits (s : State) (v q : Nat) (x : Queue) : (s.setQueue v q x).commits = s.commits := rfl
@[simp] theorem State.setQueue_gens (s : State) (v q : Nat) (x : Queue) : (s.setQueue v q x).gens = s.gens := rfl
@[simp] theorem State.setQueue_launches (s : State) (v q : Nat) (x : Queue) : (s.setQueue v q x).launches = s.launches := rfl
@[simp] theorem State.setQueue_leaves (s : State) (v q : Nat) (x : Queue) : (s.setQueue v q x).leaves = s.leaves := rfl
@[simp] theorem State.setQueue_starts (s : State) (v q : Nat) (x : Queue) : (s.setQueue v q x).starts = s.starts := rfl
@[simp] theorem State.setQueue_ends (s : State) (v q : Nat) (x : Queue) : (s.setQueue v q x).ends = s.ends := rfl
@[simp] theorem State.setQueue_rampAt (s : State) (v q : Nat) (x : Queue) : (s.setQueue v q x).rampAt = s.rampAt := rfl
@[simp] theorem State.setQueue_idling (s : State) (v q : Nat) (x : Queue) : (s.setQueue v q x).idling = s.idling := rfl
@[simp] theorem State.setQueue_quads (s : State) (v q : Nat) (x : Queue) : (s.setQueue v q x).quads = s.quads := rfl
@[simp] theorem State.setQueue_faults (s : State) (v q : Nat) (x : Queue) : (s.setQueue v q x).faults = s.faults := rfl
@[simp] theorem State.setQueue_pinned (s : State) (v q : Nat) (x : Queue) : (s.setQueue v q x).pinned = s.pinned := rfl
@[simp] theorem State.setQueue_migrating (s : State) (v q : Nat) (x : Queue) : (s.setQueue v q x).migrating = s.migrating := rfl
@[simp] theorem State.setQueue_fab (s : State) (v q : Nat) (x : Queue) : (s.setQueue v q x).fab = s.fab := rfl
@[simp] theorem State.setQueue_signals (s : State) (v q : Nat) (x : Queue) : (s.setQueue v q x).signals = s.signals := rfl
@[simp] theorem State.setQueue_hostOut (s : State) (v q : Nat) (x : Queue) : (s.setQueue v q x).hostOut = s.hostOut := rfl
@[simp] theorem State.setQueue_nextId (s : State) (v q : Nat) (x : Queue) : (s.setQueue v q x).nextId = s.nextId := rfl
@[simp] theorem State.setQueue_fresh (s : State) (v q : Nat) (x : Queue) : (s.setQueue v q x).fresh = s.fresh := rfl
@[simp] theorem State.setQueue_issue (s : State) (v q : Nat) (x : Queue) : (s.setQueue v q x).issue = s.issue := rfl
@[simp] theorem State.setQueue_agenda (s : State) (v q : Nat) (x : Queue) : (s.setQueue v q x).agenda = s.agenda := rfl

/-- `setWarp`, `mapWarp` and `mapBlock` change the blocks alone. -/
theorem State.setWarp_frame (s : State) (r : WarpRef) (w : Warp) : ∃ bs, s.setWarp r w = { s with blocks := bs } := by
  unfold State.setWarp
  split
  · exact ⟨_, rfl⟩
  · exact ⟨s.blocks, rfl⟩
theorem State.mapWarp_frame (s : State) (r : WarpRef) (f : Warp → Warp) : ∃ bs, s.mapWarp r f = { s with blocks := bs } := by
  unfold State.mapWarp
  split
  · exact s.setWarp_frame r _
  · exact ⟨s.blocks, rfl⟩
theorem State.mapBlock_frame (s : State) (k : Nat) (f : Block → Block) : ∃ bs, s.mapBlock k f = { s with blocks := bs } := by
  unfold State.mapBlock
  split
  · exact ⟨_, rfl⟩
  · exact ⟨s.blocks, rfl⟩
@[simp] theorem State.setWarp_clock (s : State) (r : WarpRef) (w : Warp) : (s.setWarp r w).clock = s.clock := by
  obtain ⟨b, h⟩ := s.setWarp_frame r w; rw [h]
@[simp] theorem State.setWarp_mhz (s : State) (r : WarpRef) (w : Warp) : (s.setWarp r w).mhz = s.mhz := by
  obtain ⟨b, h⟩ := s.setWarp_frame r w; rw [h]
@[simp] theorem State.setWarp_time (s : State) (r : WarpRef) (w : Warp) : (s.setWarp r w).time = s.time := by
  obtain ⟨b, h⟩ := s.setWarp_frame r w; rw [h]
@[simp] theorem State.setWarp_timeRuns (s : State) (r : WarpRef) (w : Warp) : (s.setWarp r w).timeRuns = s.timeRuns := by
  obtain ⟨b, h⟩ := s.setWarp_frame r w; rw [h]
@[simp] theorem State.setWarp_timeMark (s : State) (r : WarpRef) (w : Warp) : (s.setWarp r w).timeMark = s.timeMark := by
  obtain ⟨b, h⟩ := s.setWarp_frame r w; rw [h]
@[simp] theorem State.setWarp_timeWritten (s : State) (r : WarpRef) (w : Warp) : (s.setWarp r w).timeWritten = s.timeWritten := by
  obtain ⟨b, h⟩ := s.setWarp_frame r w; rw [h]
@[simp] theorem State.setWarp_timeSlew (s : State) (r : WarpRef) (w : Warp) : (s.setWarp r w).timeSlew = s.timeSlew := by
  obtain ⟨b, h⟩ := s.setWarp_frame r w; rw [h]
@[simp] theorem State.setWarp_slewRun (s : State) (r : WarpRef) (w : Warp) : (s.setWarp r w).slewRun = s.slewRun := by
  obtain ⟨b, h⟩ := s.setWarp_frame r w; rw [h]
@[simp] theorem State.setWarp_level (s : State) (r : WarpRef) (w : Warp) : (s.setWarp r w).level = s.level := by
  obtain ⟨b, h⟩ := s.setWarp_frame r w; rw [h]
@[simp] theorem State.setWarp_enabled (s : State) (r : WarpRef) (w : Warp) : (s.setWarp r w).enabled = s.enabled := by
  obtain ⟨b, h⟩ := s.setWarp_frame r w; rw [h]
@[simp] theorem State.setWarp_trained (s : State) (r : WarpRef) (w : Warp) : (s.setWarp r w).trained = s.trained := by
  obtain ⟨b, h⟩ := s.setWarp_frame r w; rw [h]
@[simp] theorem State.setWarp_fwFail (s : State) (r : WarpRef) (w : Warp) : (s.setWarp r w).fwFail = s.fwFail := by
  obtain ⟨b, h⟩ := s.setWarp_frame r w; rw [h]
@[simp] theorem State.setWarp_fwRefusal (s : State) (r : WarpRef) (w : Warp) : (s.setWarp r w).fwRefusal = s.fwRefusal := by
  obtain ⟨b, h⟩ := s.setWarp_frame r w; rw [h]
@[simp] theorem State.setWarp_fwctl (s : State) (r : WarpRef) (w : Warp) : (s.setWarp r w).fwctl = s.fwctl := by
  obtain ⟨b, h⟩ := s.setWarp_frame r w; rw [h]
@[simp] theorem State.setWarp_image (s : State) (r : WarpRef) (w : Warp) : (s.setWarp r w).image = s.image := by
  obtain ⟨b, h⟩ := s.setWarp_frame r w; rw [h]
@[simp] theorem State.setWarp_fabid (s : State) (r : WarpRef) (w : Warp) : (s.setWarp r w).fabid = s.fabid := by
  obtain ⟨b, h⟩ := s.setWarp_frame r w; rw [h]
@[simp] theorem State.setWarp_ramp (s : State) (r : WarpRef) (w : Warp) : (s.setWarp r w).ramp = s.ramp := by
  obtain ⟨b, h⟩ := s.setWarp_frame r w; rw [h]
@[simp] theorem State.setWarp_pwrlim (s : State) (r : WarpRef) (w : Warp) : (s.setWarp r w).pwrlim = s.pwrlim := by
  obtain ⟨b, h⟩ := s.setWarp_frame r w; rw [h]
@[simp] theorem State.setWarp_tpwr (s : State) (r : WarpRef) (w : Warp) : (s.setWarp r w).tpwr = s.tpwr := by
  obtain ⟨b, h⟩ := s.setWarp_frame r w; rw [h]
@[simp] theorem State.setWarp_watts (s : State) (r : WarpRef) (w : Warp) : (s.setWarp r w).watts = s.watts := by
  obtain ⟨b, h⟩ := s.setWarp_frame r w; rw [h]
@[simp] theorem State.setWarp_tdie (s : State) (r : WarpRef) (w : Warp) : (s.setWarp r w).tdie = s.tdie := by
  obtain ⟨b, h⟩ := s.setWarp_frame r w; rw [h]
@[simp] theorem State.setWarp_cecnt (s : State) (r : WarpRef) (w : Warp) : (s.setWarp r w).cecnt = s.cecnt := by
  obtain ⟨b, h⟩ := s.setWarp_frame r w; rw [h]
@[simp] theorem State.setWarp_uecnt (s : State) (r : WarpRef) (w : Warp) : (s.setWarp r w).uecnt = s.uecnt := by
  obtain ⟨b, h⟩ := s.setWarp_frame r w; rw [h]
@[simp] theorem State.setWarp_frlost (s : State) (r : WarpRef) (w : Warp) : (s.setWarp r w).frlost = s.frlost := by
  obtain ⟨b, h⟩ := s.setWarp_frame r w; rw [h]
@[simp] theorem State.setWarp_attn (s : State) (r : WarpRef) (w : Warp) : (s.setWarp r w).attn = s.attn := by
  obtain ⟨b, h⟩ := s.setWarp_frame r w; rw [h]
@[simp] theorem State.setWarp_pffrbase (s : State) (r : WarpRef) (w : Warp) : (s.setWarp r w).pffrbase = s.pffrbase := by
  obtain ⟨b, h⟩ := s.setWarp_frame r w; rw [h]
@[simp] theorem State.setWarp_pffrcfg (s : State) (r : WarpRef) (w : Warp) : (s.setWarp r w).pffrcfg = s.pffrcfg := by
  obtain ⟨b, h⟩ := s.setWarp_frame r w; rw [h]
@[simp] theorem State.setWarp_pffrrd (s : State) (r : WarpRef) (w : Warp) : (s.setWarp r w).pffrrd = s.pffrrd := by
  obtain ⟨b, h⟩ := s.setWarp_frame r w; rw [h]
@[simp] theorem State.setWarp_pffrwr (s : State) (r : WarpRef) (w : Warp) : (s.setWarp r w).pffrwr = s.pffrwr := by
  obtain ⟨b, h⟩ := s.setWarp_frame r w; rw [h]
@[simp] theorem State.setWarp_pfRecords (s : State) (r : WarpRef) (w : Warp) : (s.setWarp r w).pfRecords = s.pfRecords := by
  obtain ⟨b, h⟩ := s.setWarp_frame r w; rw [h]
@[simp] theorem State.setWarp_pfevent (s : State) (r : WarpRef) (w : Warp) : (s.setWarp r w).pfevent = s.pfevent := by
  obtain ⟨b, h⟩ := s.setWarp_frame r w; rw [h]
@[simp] theorem State.setWarp_pmwin (s : State) (r : WarpRef) (w : Warp) : (s.setWarp r w).pmwin = s.pmwin := by
  obtain ⟨b, h⟩ := s.setWarp_frame r w; rw [h]
@[simp] theorem State.setWarp_ports (s : State) (r : WarpRef) (w : Warp) : (s.setWarp r w).ports = s.ports := by
  obtain ⟨b, h⟩ := s.setWarp_frame r w; rw [h]
@[simp] theorem State.setWarp_coreHalted (s : State) (r : WarpRef) (w : Warp) : (s.setWarp r w).coreHalted = s.coreHalted := by
  obtain ⟨b, h⟩ := s.setWarp_frame r w; rw [h]
@[simp] theorem State.setWarp_admitting (s : State) (r : WarpRef) (w : Warp) : (s.setWarp r w).admitting = s.admitting := by
  obtain ⟨b, h⟩ := s.setWarp_frame r w; rw [h]
@[simp] theorem State.setWarp_mm (s : State) (r : WarpRef) (w : Warp) : (s.setWarp r w).mm = s.mm := by
  obtain ⟨b, h⟩ := s.setWarp_frame r w; rw [h]
@[simp] theorem State.setWarp_sp (s : State) (r : WarpRef) (w : Warp) : (s.setWarp r w).sp = s.sp := by
  obtain ⟨b, h⟩ := s.setWarp_frame r w; rw [h]
@[simp] theorem State.setWarp_host (s : State) (r : WarpRef) (w : Warp) : (s.setWarp r w).host = s.host := by
  obtain ⟨b, h⟩ := s.setWarp_frame r w; rw [h]
@[simp] theorem State.setWarp_stagingArea (s : State) (r : WarpRef) (w : Warp) : (s.setWarp r w).stagingArea = s.stagingArea := by
  obtain ⟨b, h⟩ := s.setWarp_frame r w; rw [h]
@[simp] theorem State.setWarp_mmPois (s : State) (r : WarpRef) (w : Warp) : (s.setWarp r w).mmPois = s.mmPois := by
  obtain ⟨b, h⟩ := s.setWarp_frame r w; rw [h]
@[simp] theorem State.setWarp_spPois (s : State) (r : WarpRef) (w : Warp) : (s.setWarp r w).spPois = s.spPois := by
  obtain ⟨b, h⟩ := s.setWarp_frame r w; rw [h]
@[simp] theorem State.setWarp_flight (s : State) (r : WarpRef) (w : Warp) : (s.setWarp r w).flight = s.flight := by
  obtain ⟨b, h⟩ := s.setWarp_frame r w; rw [h]
@[simp] theorem State.setWarp_past (s : State) (r : WarpRef) (w : Warp) : (s.setWarp r w).past = s.past := by
  obtain ⟨b, h⟩ := s.setWarp_frame r w; rw [h]
@[simp] theorem State.setWarp_waitTab (s : State) (r : WarpRef) (w : Warp) : (s.setWarp r w).waitTab = s.waitTab := by
  obtain ⟨b, h⟩ := s.setWarp_frame r w; rw [h]
@[simp] theorem State.setWarp_links (s : State) (r : WarpRef) (w : Warp) : (s.setWarp r w).links = s.links := by
  obtain ⟨b, h⟩ := s.setWarp_frame r w; rw [h]
@[simp] theorem State.setWarp_tasks (s : State) (r : WarpRef) (w : Warp) : (s.setWarp r w).tasks = s.tasks := by
  obtain ⟨b, h⟩ := s.setWarp_frame r w; rw [h]
@[simp] theorem State.setWarp_conts (s : State) (r : WarpRef) (w : Warp) : (s.setWarp r w).conts = s.conts := by
  obtain ⟨b, h⟩ := s.setWarp_frame r w; rw [h]
@[simp] theorem State.setWarp_saved (s : State) (r : WarpRef) (w : Warp) : (s.setWarp r w).saved = s.saved := by
  obtain ⟨b, h⟩ := s.setWarp_frame r w; rw [h]
@[simp] theorem State.setWarp_gangs (s : State) (r : WarpRef) (w : Warp) : (s.setWarp r w).gangs = s.gangs := by
  obtain ⟨b, h⟩ := s.setWarp_frame r w; rw [h]
@[simp] theorem State.setWarp_jobs (s : State) (r : WarpRef) (w : Warp) : (s.setWarp r w).jobs = s.jobs := by
  obtain ⟨b, h⟩ := s.setWarp_frame r w; rw [h]
@[simp] theorem State.setWarp_ops (s : State) (r : WarpRef) (w : Warp) : (s.setWarp r w).ops = s.ops := by
  obtain ⟨b, h⟩ := s.setWarp_frame r w; rw [h]
@[simp] theorem State.setWarp_grants (s : State) (r : WarpRef) (w : Warp) : (s.setWarp r w).grants = s.grants := by
  obtain ⟨b, h⟩ := s.setWarp_frame r w; rw [h]
@[simp] theorem State.setWarp_views (s : State) (r : WarpRef) (w : Warp) : (s.setWarp r w).views = s.views := by
  obtain ⟨b, h⟩ := s.setWarp_frame r w; rw [h]
@[simp] theorem State.setWarp_dirty (s : State) (r : WarpRef) (w : Warp) : (s.setWarp r w).dirty = s.dirty := by
  obtain ⟨b, h⟩ := s.setWarp_frame r w; rw [h]
@[simp] theorem State.setWarp_commits (s : State) (r : WarpRef) (w : Warp) : (s.setWarp r w).commits = s.commits := by
  obtain ⟨b, h⟩ := s.setWarp_frame r w; rw [h]
@[simp] theorem State.setWarp_gens (s : State) (r : WarpRef) (w : Warp) : (s.setWarp r w).gens = s.gens := by
  obtain ⟨b, h⟩ := s.setWarp_frame r w; rw [h]
@[simp] theorem State.setWarp_launches (s : State) (r : WarpRef) (w : Warp) : (s.setWarp r w).launches = s.launches := by
  obtain ⟨b, h⟩ := s.setWarp_frame r w; rw [h]
@[simp] theorem State.setWarp_leaves (s : State) (r : WarpRef) (w : Warp) : (s.setWarp r w).leaves = s.leaves := by
  obtain ⟨b, h⟩ := s.setWarp_frame r w; rw [h]
@[simp] theorem State.setWarp_starts (s : State) (r : WarpRef) (w : Warp) : (s.setWarp r w).starts = s.starts := by
  obtain ⟨b, h⟩ := s.setWarp_frame r w; rw [h]
@[simp] theorem State.setWarp_ends (s : State) (r : WarpRef) (w : Warp) : (s.setWarp r w).ends = s.ends := by
  obtain ⟨b, h⟩ := s.setWarp_frame r w; rw [h]
@[simp] theorem State.setWarp_rampAt (s : State) (r : WarpRef) (w : Warp) : (s.setWarp r w).rampAt = s.rampAt := by
  obtain ⟨b, h⟩ := s.setWarp_frame r w; rw [h]
@[simp] theorem State.setWarp_idling (s : State) (r : WarpRef) (w : Warp) : (s.setWarp r w).idling = s.idling := by
  obtain ⟨b, h⟩ := s.setWarp_frame r w; rw [h]
@[simp] theorem State.setWarp_vfs (s : State) (r : WarpRef) (w : Warp) : (s.setWarp r w).vfs = s.vfs := by
  obtain ⟨b, h⟩ := s.setWarp_frame r w; rw [h]
@[simp] theorem State.setWarp_quads (s : State) (r : WarpRef) (w : Warp) : (s.setWarp r w).quads = s.quads := by
  obtain ⟨b, h⟩ := s.setWarp_frame r w; rw [h]
@[simp] theorem State.setWarp_faults (s : State) (r : WarpRef) (w : Warp) : (s.setWarp r w).faults = s.faults := by
  obtain ⟨b, h⟩ := s.setWarp_frame r w; rw [h]
@[simp] theorem State.setWarp_pinned (s : State) (r : WarpRef) (w : Warp) : (s.setWarp r w).pinned = s.pinned := by
  obtain ⟨b, h⟩ := s.setWarp_frame r w; rw [h]
@[simp] theorem State.setWarp_migrating (s : State) (r : WarpRef) (w : Warp) : (s.setWarp r w).migrating = s.migrating := by
  obtain ⟨b, h⟩ := s.setWarp_frame r w; rw [h]
@[simp] theorem State.setWarp_fab (s : State) (r : WarpRef) (w : Warp) : (s.setWarp r w).fab = s.fab := by
  obtain ⟨b, h⟩ := s.setWarp_frame r w; rw [h]
@[simp] theorem State.setWarp_signals (s : State) (r : WarpRef) (w : Warp) : (s.setWarp r w).signals = s.signals := by
  obtain ⟨b, h⟩ := s.setWarp_frame r w; rw [h]
@[simp] theorem State.setWarp_hostOut (s : State) (r : WarpRef) (w : Warp) : (s.setWarp r w).hostOut = s.hostOut := by
  obtain ⟨b, h⟩ := s.setWarp_frame r w; rw [h]
@[simp] theorem State.setWarp_nextId (s : State) (r : WarpRef) (w : Warp) : (s.setWarp r w).nextId = s.nextId := by
  obtain ⟨b, h⟩ := s.setWarp_frame r w; rw [h]
@[simp] theorem State.setWarp_fresh (s : State) (r : WarpRef) (w : Warp) : (s.setWarp r w).fresh = s.fresh := by
  obtain ⟨b, h⟩ := s.setWarp_frame r w; rw [h]
@[simp] theorem State.setWarp_issue (s : State) (r : WarpRef) (w : Warp) : (s.setWarp r w).issue = s.issue := by
  obtain ⟨b, h⟩ := s.setWarp_frame r w; rw [h]
@[simp] theorem State.setWarp_agenda (s : State) (r : WarpRef) (w : Warp) : (s.setWarp r w).agenda = s.agenda := by
  obtain ⟨b, h⟩ := s.setWarp_frame r w; rw [h]
@[simp] theorem State.mapWarp_clock (s : State) (r : WarpRef) (f : Warp → Warp) : (s.mapWarp r f).clock = s.clock := by
  obtain ⟨b, h⟩ := s.mapWarp_frame r f; rw [h]
@[simp] theorem State.mapWarp_mhz (s : State) (r : WarpRef) (f : Warp → Warp) : (s.mapWarp r f).mhz = s.mhz := by
  obtain ⟨b, h⟩ := s.mapWarp_frame r f; rw [h]
@[simp] theorem State.mapWarp_time (s : State) (r : WarpRef) (f : Warp → Warp) : (s.mapWarp r f).time = s.time := by
  obtain ⟨b, h⟩ := s.mapWarp_frame r f; rw [h]
@[simp] theorem State.mapWarp_timeRuns (s : State) (r : WarpRef) (f : Warp → Warp) : (s.mapWarp r f).timeRuns = s.timeRuns := by
  obtain ⟨b, h⟩ := s.mapWarp_frame r f; rw [h]
@[simp] theorem State.mapWarp_timeMark (s : State) (r : WarpRef) (f : Warp → Warp) : (s.mapWarp r f).timeMark = s.timeMark := by
  obtain ⟨b, h⟩ := s.mapWarp_frame r f; rw [h]
@[simp] theorem State.mapWarp_timeWritten (s : State) (r : WarpRef) (f : Warp → Warp) : (s.mapWarp r f).timeWritten = s.timeWritten := by
  obtain ⟨b, h⟩ := s.mapWarp_frame r f; rw [h]
@[simp] theorem State.mapWarp_timeSlew (s : State) (r : WarpRef) (f : Warp → Warp) : (s.mapWarp r f).timeSlew = s.timeSlew := by
  obtain ⟨b, h⟩ := s.mapWarp_frame r f; rw [h]
@[simp] theorem State.mapWarp_slewRun (s : State) (r : WarpRef) (f : Warp → Warp) : (s.mapWarp r f).slewRun = s.slewRun := by
  obtain ⟨b, h⟩ := s.mapWarp_frame r f; rw [h]
@[simp] theorem State.mapWarp_level (s : State) (r : WarpRef) (f : Warp → Warp) : (s.mapWarp r f).level = s.level := by
  obtain ⟨b, h⟩ := s.mapWarp_frame r f; rw [h]
@[simp] theorem State.mapWarp_enabled (s : State) (r : WarpRef) (f : Warp → Warp) : (s.mapWarp r f).enabled = s.enabled := by
  obtain ⟨b, h⟩ := s.mapWarp_frame r f; rw [h]
@[simp] theorem State.mapWarp_trained (s : State) (r : WarpRef) (f : Warp → Warp) : (s.mapWarp r f).trained = s.trained := by
  obtain ⟨b, h⟩ := s.mapWarp_frame r f; rw [h]
@[simp] theorem State.mapWarp_fwFail (s : State) (r : WarpRef) (f : Warp → Warp) : (s.mapWarp r f).fwFail = s.fwFail := by
  obtain ⟨b, h⟩ := s.mapWarp_frame r f; rw [h]
@[simp] theorem State.mapWarp_fwRefusal (s : State) (r : WarpRef) (f : Warp → Warp) : (s.mapWarp r f).fwRefusal = s.fwRefusal := by
  obtain ⟨b, h⟩ := s.mapWarp_frame r f; rw [h]
@[simp] theorem State.mapWarp_fwctl (s : State) (r : WarpRef) (f : Warp → Warp) : (s.mapWarp r f).fwctl = s.fwctl := by
  obtain ⟨b, h⟩ := s.mapWarp_frame r f; rw [h]
@[simp] theorem State.mapWarp_image (s : State) (r : WarpRef) (f : Warp → Warp) : (s.mapWarp r f).image = s.image := by
  obtain ⟨b, h⟩ := s.mapWarp_frame r f; rw [h]
@[simp] theorem State.mapWarp_fabid (s : State) (r : WarpRef) (f : Warp → Warp) : (s.mapWarp r f).fabid = s.fabid := by
  obtain ⟨b, h⟩ := s.mapWarp_frame r f; rw [h]
@[simp] theorem State.mapWarp_ramp (s : State) (r : WarpRef) (f : Warp → Warp) : (s.mapWarp r f).ramp = s.ramp := by
  obtain ⟨b, h⟩ := s.mapWarp_frame r f; rw [h]
@[simp] theorem State.mapWarp_pwrlim (s : State) (r : WarpRef) (f : Warp → Warp) : (s.mapWarp r f).pwrlim = s.pwrlim := by
  obtain ⟨b, h⟩ := s.mapWarp_frame r f; rw [h]
@[simp] theorem State.mapWarp_tpwr (s : State) (r : WarpRef) (f : Warp → Warp) : (s.mapWarp r f).tpwr = s.tpwr := by
  obtain ⟨b, h⟩ := s.mapWarp_frame r f; rw [h]
@[simp] theorem State.mapWarp_watts (s : State) (r : WarpRef) (f : Warp → Warp) : (s.mapWarp r f).watts = s.watts := by
  obtain ⟨b, h⟩ := s.mapWarp_frame r f; rw [h]
@[simp] theorem State.mapWarp_tdie (s : State) (r : WarpRef) (f : Warp → Warp) : (s.mapWarp r f).tdie = s.tdie := by
  obtain ⟨b, h⟩ := s.mapWarp_frame r f; rw [h]
@[simp] theorem State.mapWarp_cecnt (s : State) (r : WarpRef) (f : Warp → Warp) : (s.mapWarp r f).cecnt = s.cecnt := by
  obtain ⟨b, h⟩ := s.mapWarp_frame r f; rw [h]
@[simp] theorem State.mapWarp_uecnt (s : State) (r : WarpRef) (f : Warp → Warp) : (s.mapWarp r f).uecnt = s.uecnt := by
  obtain ⟨b, h⟩ := s.mapWarp_frame r f; rw [h]
@[simp] theorem State.mapWarp_frlost (s : State) (r : WarpRef) (f : Warp → Warp) : (s.mapWarp r f).frlost = s.frlost := by
  obtain ⟨b, h⟩ := s.mapWarp_frame r f; rw [h]
@[simp] theorem State.mapWarp_attn (s : State) (r : WarpRef) (f : Warp → Warp) : (s.mapWarp r f).attn = s.attn := by
  obtain ⟨b, h⟩ := s.mapWarp_frame r f; rw [h]
@[simp] theorem State.mapWarp_pffrbase (s : State) (r : WarpRef) (f : Warp → Warp) : (s.mapWarp r f).pffrbase = s.pffrbase := by
  obtain ⟨b, h⟩ := s.mapWarp_frame r f; rw [h]
@[simp] theorem State.mapWarp_pffrcfg (s : State) (r : WarpRef) (f : Warp → Warp) : (s.mapWarp r f).pffrcfg = s.pffrcfg := by
  obtain ⟨b, h⟩ := s.mapWarp_frame r f; rw [h]
@[simp] theorem State.mapWarp_pffrrd (s : State) (r : WarpRef) (f : Warp → Warp) : (s.mapWarp r f).pffrrd = s.pffrrd := by
  obtain ⟨b, h⟩ := s.mapWarp_frame r f; rw [h]
@[simp] theorem State.mapWarp_pffrwr (s : State) (r : WarpRef) (f : Warp → Warp) : (s.mapWarp r f).pffrwr = s.pffrwr := by
  obtain ⟨b, h⟩ := s.mapWarp_frame r f; rw [h]
@[simp] theorem State.mapWarp_pfRecords (s : State) (r : WarpRef) (f : Warp → Warp) : (s.mapWarp r f).pfRecords = s.pfRecords := by
  obtain ⟨b, h⟩ := s.mapWarp_frame r f; rw [h]
@[simp] theorem State.mapWarp_pfevent (s : State) (r : WarpRef) (f : Warp → Warp) : (s.mapWarp r f).pfevent = s.pfevent := by
  obtain ⟨b, h⟩ := s.mapWarp_frame r f; rw [h]
@[simp] theorem State.mapWarp_pmwin (s : State) (r : WarpRef) (f : Warp → Warp) : (s.mapWarp r f).pmwin = s.pmwin := by
  obtain ⟨b, h⟩ := s.mapWarp_frame r f; rw [h]
@[simp] theorem State.mapWarp_ports (s : State) (r : WarpRef) (f : Warp → Warp) : (s.mapWarp r f).ports = s.ports := by
  obtain ⟨b, h⟩ := s.mapWarp_frame r f; rw [h]
@[simp] theorem State.mapWarp_coreHalted (s : State) (r : WarpRef) (f : Warp → Warp) : (s.mapWarp r f).coreHalted = s.coreHalted := by
  obtain ⟨b, h⟩ := s.mapWarp_frame r f; rw [h]
@[simp] theorem State.mapWarp_admitting (s : State) (r : WarpRef) (f : Warp → Warp) : (s.mapWarp r f).admitting = s.admitting := by
  obtain ⟨b, h⟩ := s.mapWarp_frame r f; rw [h]
@[simp] theorem State.mapWarp_mm (s : State) (r : WarpRef) (f : Warp → Warp) : (s.mapWarp r f).mm = s.mm := by
  obtain ⟨b, h⟩ := s.mapWarp_frame r f; rw [h]
@[simp] theorem State.mapWarp_sp (s : State) (r : WarpRef) (f : Warp → Warp) : (s.mapWarp r f).sp = s.sp := by
  obtain ⟨b, h⟩ := s.mapWarp_frame r f; rw [h]
@[simp] theorem State.mapWarp_host (s : State) (r : WarpRef) (f : Warp → Warp) : (s.mapWarp r f).host = s.host := by
  obtain ⟨b, h⟩ := s.mapWarp_frame r f; rw [h]
@[simp] theorem State.mapWarp_stagingArea (s : State) (r : WarpRef) (f : Warp → Warp) : (s.mapWarp r f).stagingArea = s.stagingArea := by
  obtain ⟨b, h⟩ := s.mapWarp_frame r f; rw [h]
@[simp] theorem State.mapWarp_mmPois (s : State) (r : WarpRef) (f : Warp → Warp) : (s.mapWarp r f).mmPois = s.mmPois := by
  obtain ⟨b, h⟩ := s.mapWarp_frame r f; rw [h]
@[simp] theorem State.mapWarp_spPois (s : State) (r : WarpRef) (f : Warp → Warp) : (s.mapWarp r f).spPois = s.spPois := by
  obtain ⟨b, h⟩ := s.mapWarp_frame r f; rw [h]
@[simp] theorem State.mapWarp_flight (s : State) (r : WarpRef) (f : Warp → Warp) : (s.mapWarp r f).flight = s.flight := by
  obtain ⟨b, h⟩ := s.mapWarp_frame r f; rw [h]
@[simp] theorem State.mapWarp_past (s : State) (r : WarpRef) (f : Warp → Warp) : (s.mapWarp r f).past = s.past := by
  obtain ⟨b, h⟩ := s.mapWarp_frame r f; rw [h]
@[simp] theorem State.mapWarp_waitTab (s : State) (r : WarpRef) (f : Warp → Warp) : (s.mapWarp r f).waitTab = s.waitTab := by
  obtain ⟨b, h⟩ := s.mapWarp_frame r f; rw [h]
@[simp] theorem State.mapWarp_links (s : State) (r : WarpRef) (f : Warp → Warp) : (s.mapWarp r f).links = s.links := by
  obtain ⟨b, h⟩ := s.mapWarp_frame r f; rw [h]
@[simp] theorem State.mapWarp_tasks (s : State) (r : WarpRef) (f : Warp → Warp) : (s.mapWarp r f).tasks = s.tasks := by
  obtain ⟨b, h⟩ := s.mapWarp_frame r f; rw [h]
@[simp] theorem State.mapWarp_conts (s : State) (r : WarpRef) (f : Warp → Warp) : (s.mapWarp r f).conts = s.conts := by
  obtain ⟨b, h⟩ := s.mapWarp_frame r f; rw [h]
@[simp] theorem State.mapWarp_saved (s : State) (r : WarpRef) (f : Warp → Warp) : (s.mapWarp r f).saved = s.saved := by
  obtain ⟨b, h⟩ := s.mapWarp_frame r f; rw [h]
@[simp] theorem State.mapWarp_gangs (s : State) (r : WarpRef) (f : Warp → Warp) : (s.mapWarp r f).gangs = s.gangs := by
  obtain ⟨b, h⟩ := s.mapWarp_frame r f; rw [h]
@[simp] theorem State.mapWarp_jobs (s : State) (r : WarpRef) (f : Warp → Warp) : (s.mapWarp r f).jobs = s.jobs := by
  obtain ⟨b, h⟩ := s.mapWarp_frame r f; rw [h]
@[simp] theorem State.mapWarp_ops (s : State) (r : WarpRef) (f : Warp → Warp) : (s.mapWarp r f).ops = s.ops := by
  obtain ⟨b, h⟩ := s.mapWarp_frame r f; rw [h]
@[simp] theorem State.mapWarp_grants (s : State) (r : WarpRef) (f : Warp → Warp) : (s.mapWarp r f).grants = s.grants := by
  obtain ⟨b, h⟩ := s.mapWarp_frame r f; rw [h]
@[simp] theorem State.mapWarp_views (s : State) (r : WarpRef) (f : Warp → Warp) : (s.mapWarp r f).views = s.views := by
  obtain ⟨b, h⟩ := s.mapWarp_frame r f; rw [h]
@[simp] theorem State.mapWarp_dirty (s : State) (r : WarpRef) (f : Warp → Warp) : (s.mapWarp r f).dirty = s.dirty := by
  obtain ⟨b, h⟩ := s.mapWarp_frame r f; rw [h]
@[simp] theorem State.mapWarp_commits (s : State) (r : WarpRef) (f : Warp → Warp) : (s.mapWarp r f).commits = s.commits := by
  obtain ⟨b, h⟩ := s.mapWarp_frame r f; rw [h]
@[simp] theorem State.mapWarp_gens (s : State) (r : WarpRef) (f : Warp → Warp) : (s.mapWarp r f).gens = s.gens := by
  obtain ⟨b, h⟩ := s.mapWarp_frame r f; rw [h]
@[simp] theorem State.mapWarp_launches (s : State) (r : WarpRef) (f : Warp → Warp) : (s.mapWarp r f).launches = s.launches := by
  obtain ⟨b, h⟩ := s.mapWarp_frame r f; rw [h]
@[simp] theorem State.mapWarp_leaves (s : State) (r : WarpRef) (f : Warp → Warp) : (s.mapWarp r f).leaves = s.leaves := by
  obtain ⟨b, h⟩ := s.mapWarp_frame r f; rw [h]
@[simp] theorem State.mapWarp_starts (s : State) (r : WarpRef) (f : Warp → Warp) : (s.mapWarp r f).starts = s.starts := by
  obtain ⟨b, h⟩ := s.mapWarp_frame r f; rw [h]
@[simp] theorem State.mapWarp_ends (s : State) (r : WarpRef) (f : Warp → Warp) : (s.mapWarp r f).ends = s.ends := by
  obtain ⟨b, h⟩ := s.mapWarp_frame r f; rw [h]
@[simp] theorem State.mapWarp_rampAt (s : State) (r : WarpRef) (f : Warp → Warp) : (s.mapWarp r f).rampAt = s.rampAt := by
  obtain ⟨b, h⟩ := s.mapWarp_frame r f; rw [h]
@[simp] theorem State.mapWarp_idling (s : State) (r : WarpRef) (f : Warp → Warp) : (s.mapWarp r f).idling = s.idling := by
  obtain ⟨b, h⟩ := s.mapWarp_frame r f; rw [h]
@[simp] theorem State.mapWarp_vfs (s : State) (r : WarpRef) (f : Warp → Warp) : (s.mapWarp r f).vfs = s.vfs := by
  obtain ⟨b, h⟩ := s.mapWarp_frame r f; rw [h]
@[simp] theorem State.mapWarp_quads (s : State) (r : WarpRef) (f : Warp → Warp) : (s.mapWarp r f).quads = s.quads := by
  obtain ⟨b, h⟩ := s.mapWarp_frame r f; rw [h]
@[simp] theorem State.mapWarp_faults (s : State) (r : WarpRef) (f : Warp → Warp) : (s.mapWarp r f).faults = s.faults := by
  obtain ⟨b, h⟩ := s.mapWarp_frame r f; rw [h]
@[simp] theorem State.mapWarp_pinned (s : State) (r : WarpRef) (f : Warp → Warp) : (s.mapWarp r f).pinned = s.pinned := by
  obtain ⟨b, h⟩ := s.mapWarp_frame r f; rw [h]
@[simp] theorem State.mapWarp_migrating (s : State) (r : WarpRef) (f : Warp → Warp) : (s.mapWarp r f).migrating = s.migrating := by
  obtain ⟨b, h⟩ := s.mapWarp_frame r f; rw [h]
@[simp] theorem State.mapWarp_fab (s : State) (r : WarpRef) (f : Warp → Warp) : (s.mapWarp r f).fab = s.fab := by
  obtain ⟨b, h⟩ := s.mapWarp_frame r f; rw [h]
@[simp] theorem State.mapWarp_signals (s : State) (r : WarpRef) (f : Warp → Warp) : (s.mapWarp r f).signals = s.signals := by
  obtain ⟨b, h⟩ := s.mapWarp_frame r f; rw [h]
@[simp] theorem State.mapWarp_hostOut (s : State) (r : WarpRef) (f : Warp → Warp) : (s.mapWarp r f).hostOut = s.hostOut := by
  obtain ⟨b, h⟩ := s.mapWarp_frame r f; rw [h]
@[simp] theorem State.mapWarp_nextId (s : State) (r : WarpRef) (f : Warp → Warp) : (s.mapWarp r f).nextId = s.nextId := by
  obtain ⟨b, h⟩ := s.mapWarp_frame r f; rw [h]
@[simp] theorem State.mapWarp_fresh (s : State) (r : WarpRef) (f : Warp → Warp) : (s.mapWarp r f).fresh = s.fresh := by
  obtain ⟨b, h⟩ := s.mapWarp_frame r f; rw [h]
@[simp] theorem State.mapWarp_issue (s : State) (r : WarpRef) (f : Warp → Warp) : (s.mapWarp r f).issue = s.issue := by
  obtain ⟨b, h⟩ := s.mapWarp_frame r f; rw [h]
@[simp] theorem State.mapWarp_agenda (s : State) (r : WarpRef) (f : Warp → Warp) : (s.mapWarp r f).agenda = s.agenda := by
  obtain ⟨b, h⟩ := s.mapWarp_frame r f; rw [h]
@[simp] theorem State.mapBlock_clock (s : State) (k : Nat) (f : Block → Block) : (s.mapBlock k f).clock = s.clock := by
  obtain ⟨b, h⟩ := s.mapBlock_frame k f; rw [h]
@[simp] theorem State.mapBlock_mhz (s : State) (k : Nat) (f : Block → Block) : (s.mapBlock k f).mhz = s.mhz := by
  obtain ⟨b, h⟩ := s.mapBlock_frame k f; rw [h]
@[simp] theorem State.mapBlock_time (s : State) (k : Nat) (f : Block → Block) : (s.mapBlock k f).time = s.time := by
  obtain ⟨b, h⟩ := s.mapBlock_frame k f; rw [h]
@[simp] theorem State.mapBlock_timeRuns (s : State) (k : Nat) (f : Block → Block) : (s.mapBlock k f).timeRuns = s.timeRuns := by
  obtain ⟨b, h⟩ := s.mapBlock_frame k f; rw [h]
@[simp] theorem State.mapBlock_timeMark (s : State) (k : Nat) (f : Block → Block) : (s.mapBlock k f).timeMark = s.timeMark := by
  obtain ⟨b, h⟩ := s.mapBlock_frame k f; rw [h]
@[simp] theorem State.mapBlock_timeWritten (s : State) (k : Nat) (f : Block → Block) : (s.mapBlock k f).timeWritten = s.timeWritten := by
  obtain ⟨b, h⟩ := s.mapBlock_frame k f; rw [h]
@[simp] theorem State.mapBlock_timeSlew (s : State) (k : Nat) (f : Block → Block) : (s.mapBlock k f).timeSlew = s.timeSlew := by
  obtain ⟨b, h⟩ := s.mapBlock_frame k f; rw [h]
@[simp] theorem State.mapBlock_slewRun (s : State) (k : Nat) (f : Block → Block) : (s.mapBlock k f).slewRun = s.slewRun := by
  obtain ⟨b, h⟩ := s.mapBlock_frame k f; rw [h]
@[simp] theorem State.mapBlock_level (s : State) (k : Nat) (f : Block → Block) : (s.mapBlock k f).level = s.level := by
  obtain ⟨b, h⟩ := s.mapBlock_frame k f; rw [h]
@[simp] theorem State.mapBlock_enabled (s : State) (k : Nat) (f : Block → Block) : (s.mapBlock k f).enabled = s.enabled := by
  obtain ⟨b, h⟩ := s.mapBlock_frame k f; rw [h]
@[simp] theorem State.mapBlock_trained (s : State) (k : Nat) (f : Block → Block) : (s.mapBlock k f).trained = s.trained := by
  obtain ⟨b, h⟩ := s.mapBlock_frame k f; rw [h]
@[simp] theorem State.mapBlock_fwFail (s : State) (k : Nat) (f : Block → Block) : (s.mapBlock k f).fwFail = s.fwFail := by
  obtain ⟨b, h⟩ := s.mapBlock_frame k f; rw [h]
@[simp] theorem State.mapBlock_fwRefusal (s : State) (k : Nat) (f : Block → Block) : (s.mapBlock k f).fwRefusal = s.fwRefusal := by
  obtain ⟨b, h⟩ := s.mapBlock_frame k f; rw [h]
@[simp] theorem State.mapBlock_fwctl (s : State) (k : Nat) (f : Block → Block) : (s.mapBlock k f).fwctl = s.fwctl := by
  obtain ⟨b, h⟩ := s.mapBlock_frame k f; rw [h]
@[simp] theorem State.mapBlock_image (s : State) (k : Nat) (f : Block → Block) : (s.mapBlock k f).image = s.image := by
  obtain ⟨b, h⟩ := s.mapBlock_frame k f; rw [h]
@[simp] theorem State.mapBlock_fabid (s : State) (k : Nat) (f : Block → Block) : (s.mapBlock k f).fabid = s.fabid := by
  obtain ⟨b, h⟩ := s.mapBlock_frame k f; rw [h]
@[simp] theorem State.mapBlock_ramp (s : State) (k : Nat) (f : Block → Block) : (s.mapBlock k f).ramp = s.ramp := by
  obtain ⟨b, h⟩ := s.mapBlock_frame k f; rw [h]
@[simp] theorem State.mapBlock_pwrlim (s : State) (k : Nat) (f : Block → Block) : (s.mapBlock k f).pwrlim = s.pwrlim := by
  obtain ⟨b, h⟩ := s.mapBlock_frame k f; rw [h]
@[simp] theorem State.mapBlock_tpwr (s : State) (k : Nat) (f : Block → Block) : (s.mapBlock k f).tpwr = s.tpwr := by
  obtain ⟨b, h⟩ := s.mapBlock_frame k f; rw [h]
@[simp] theorem State.mapBlock_watts (s : State) (k : Nat) (f : Block → Block) : (s.mapBlock k f).watts = s.watts := by
  obtain ⟨b, h⟩ := s.mapBlock_frame k f; rw [h]
@[simp] theorem State.mapBlock_tdie (s : State) (k : Nat) (f : Block → Block) : (s.mapBlock k f).tdie = s.tdie := by
  obtain ⟨b, h⟩ := s.mapBlock_frame k f; rw [h]
@[simp] theorem State.mapBlock_cecnt (s : State) (k : Nat) (f : Block → Block) : (s.mapBlock k f).cecnt = s.cecnt := by
  obtain ⟨b, h⟩ := s.mapBlock_frame k f; rw [h]
@[simp] theorem State.mapBlock_uecnt (s : State) (k : Nat) (f : Block → Block) : (s.mapBlock k f).uecnt = s.uecnt := by
  obtain ⟨b, h⟩ := s.mapBlock_frame k f; rw [h]
@[simp] theorem State.mapBlock_frlost (s : State) (k : Nat) (f : Block → Block) : (s.mapBlock k f).frlost = s.frlost := by
  obtain ⟨b, h⟩ := s.mapBlock_frame k f; rw [h]
@[simp] theorem State.mapBlock_attn (s : State) (k : Nat) (f : Block → Block) : (s.mapBlock k f).attn = s.attn := by
  obtain ⟨b, h⟩ := s.mapBlock_frame k f; rw [h]
@[simp] theorem State.mapBlock_pffrbase (s : State) (k : Nat) (f : Block → Block) : (s.mapBlock k f).pffrbase = s.pffrbase := by
  obtain ⟨b, h⟩ := s.mapBlock_frame k f; rw [h]
@[simp] theorem State.mapBlock_pffrcfg (s : State) (k : Nat) (f : Block → Block) : (s.mapBlock k f).pffrcfg = s.pffrcfg := by
  obtain ⟨b, h⟩ := s.mapBlock_frame k f; rw [h]
@[simp] theorem State.mapBlock_pffrrd (s : State) (k : Nat) (f : Block → Block) : (s.mapBlock k f).pffrrd = s.pffrrd := by
  obtain ⟨b, h⟩ := s.mapBlock_frame k f; rw [h]
@[simp] theorem State.mapBlock_pffrwr (s : State) (k : Nat) (f : Block → Block) : (s.mapBlock k f).pffrwr = s.pffrwr := by
  obtain ⟨b, h⟩ := s.mapBlock_frame k f; rw [h]
@[simp] theorem State.mapBlock_pfRecords (s : State) (k : Nat) (f : Block → Block) : (s.mapBlock k f).pfRecords = s.pfRecords := by
  obtain ⟨b, h⟩ := s.mapBlock_frame k f; rw [h]
@[simp] theorem State.mapBlock_pfevent (s : State) (k : Nat) (f : Block → Block) : (s.mapBlock k f).pfevent = s.pfevent := by
  obtain ⟨b, h⟩ := s.mapBlock_frame k f; rw [h]
@[simp] theorem State.mapBlock_pmwin (s : State) (k : Nat) (f : Block → Block) : (s.mapBlock k f).pmwin = s.pmwin := by
  obtain ⟨b, h⟩ := s.mapBlock_frame k f; rw [h]
@[simp] theorem State.mapBlock_ports (s : State) (k : Nat) (f : Block → Block) : (s.mapBlock k f).ports = s.ports := by
  obtain ⟨b, h⟩ := s.mapBlock_frame k f; rw [h]
@[simp] theorem State.mapBlock_coreHalted (s : State) (k : Nat) (f : Block → Block) : (s.mapBlock k f).coreHalted = s.coreHalted := by
  obtain ⟨b, h⟩ := s.mapBlock_frame k f; rw [h]
@[simp] theorem State.mapBlock_admitting (s : State) (k : Nat) (f : Block → Block) : (s.mapBlock k f).admitting = s.admitting := by
  obtain ⟨b, h⟩ := s.mapBlock_frame k f; rw [h]
@[simp] theorem State.mapBlock_mm (s : State) (k : Nat) (f : Block → Block) : (s.mapBlock k f).mm = s.mm := by
  obtain ⟨b, h⟩ := s.mapBlock_frame k f; rw [h]
@[simp] theorem State.mapBlock_sp (s : State) (k : Nat) (f : Block → Block) : (s.mapBlock k f).sp = s.sp := by
  obtain ⟨b, h⟩ := s.mapBlock_frame k f; rw [h]
@[simp] theorem State.mapBlock_host (s : State) (k : Nat) (f : Block → Block) : (s.mapBlock k f).host = s.host := by
  obtain ⟨b, h⟩ := s.mapBlock_frame k f; rw [h]
@[simp] theorem State.mapBlock_stagingArea (s : State) (k : Nat) (f : Block → Block) : (s.mapBlock k f).stagingArea = s.stagingArea := by
  obtain ⟨b, h⟩ := s.mapBlock_frame k f; rw [h]
@[simp] theorem State.mapBlock_mmPois (s : State) (k : Nat) (f : Block → Block) : (s.mapBlock k f).mmPois = s.mmPois := by
  obtain ⟨b, h⟩ := s.mapBlock_frame k f; rw [h]
@[simp] theorem State.mapBlock_spPois (s : State) (k : Nat) (f : Block → Block) : (s.mapBlock k f).spPois = s.spPois := by
  obtain ⟨b, h⟩ := s.mapBlock_frame k f; rw [h]
@[simp] theorem State.mapBlock_flight (s : State) (k : Nat) (f : Block → Block) : (s.mapBlock k f).flight = s.flight := by
  obtain ⟨b, h⟩ := s.mapBlock_frame k f; rw [h]
@[simp] theorem State.mapBlock_past (s : State) (k : Nat) (f : Block → Block) : (s.mapBlock k f).past = s.past := by
  obtain ⟨b, h⟩ := s.mapBlock_frame k f; rw [h]
@[simp] theorem State.mapBlock_waitTab (s : State) (k : Nat) (f : Block → Block) : (s.mapBlock k f).waitTab = s.waitTab := by
  obtain ⟨b, h⟩ := s.mapBlock_frame k f; rw [h]
@[simp] theorem State.mapBlock_links (s : State) (k : Nat) (f : Block → Block) : (s.mapBlock k f).links = s.links := by
  obtain ⟨b, h⟩ := s.mapBlock_frame k f; rw [h]
@[simp] theorem State.mapBlock_tasks (s : State) (k : Nat) (f : Block → Block) : (s.mapBlock k f).tasks = s.tasks := by
  obtain ⟨b, h⟩ := s.mapBlock_frame k f; rw [h]
@[simp] theorem State.mapBlock_conts (s : State) (k : Nat) (f : Block → Block) : (s.mapBlock k f).conts = s.conts := by
  obtain ⟨b, h⟩ := s.mapBlock_frame k f; rw [h]
@[simp] theorem State.mapBlock_saved (s : State) (k : Nat) (f : Block → Block) : (s.mapBlock k f).saved = s.saved := by
  obtain ⟨b, h⟩ := s.mapBlock_frame k f; rw [h]
@[simp] theorem State.mapBlock_gangs (s : State) (k : Nat) (f : Block → Block) : (s.mapBlock k f).gangs = s.gangs := by
  obtain ⟨b, h⟩ := s.mapBlock_frame k f; rw [h]
@[simp] theorem State.mapBlock_jobs (s : State) (k : Nat) (f : Block → Block) : (s.mapBlock k f).jobs = s.jobs := by
  obtain ⟨b, h⟩ := s.mapBlock_frame k f; rw [h]
@[simp] theorem State.mapBlock_ops (s : State) (k : Nat) (f : Block → Block) : (s.mapBlock k f).ops = s.ops := by
  obtain ⟨b, h⟩ := s.mapBlock_frame k f; rw [h]
@[simp] theorem State.mapBlock_grants (s : State) (k : Nat) (f : Block → Block) : (s.mapBlock k f).grants = s.grants := by
  obtain ⟨b, h⟩ := s.mapBlock_frame k f; rw [h]
@[simp] theorem State.mapBlock_views (s : State) (k : Nat) (f : Block → Block) : (s.mapBlock k f).views = s.views := by
  obtain ⟨b, h⟩ := s.mapBlock_frame k f; rw [h]
@[simp] theorem State.mapBlock_dirty (s : State) (k : Nat) (f : Block → Block) : (s.mapBlock k f).dirty = s.dirty := by
  obtain ⟨b, h⟩ := s.mapBlock_frame k f; rw [h]
@[simp] theorem State.mapBlock_commits (s : State) (k : Nat) (f : Block → Block) : (s.mapBlock k f).commits = s.commits := by
  obtain ⟨b, h⟩ := s.mapBlock_frame k f; rw [h]
@[simp] theorem State.mapBlock_gens (s : State) (k : Nat) (f : Block → Block) : (s.mapBlock k f).gens = s.gens := by
  obtain ⟨b, h⟩ := s.mapBlock_frame k f; rw [h]
@[simp] theorem State.mapBlock_launches (s : State) (k : Nat) (f : Block → Block) : (s.mapBlock k f).launches = s.launches := by
  obtain ⟨b, h⟩ := s.mapBlock_frame k f; rw [h]
@[simp] theorem State.mapBlock_leaves (s : State) (k : Nat) (f : Block → Block) : (s.mapBlock k f).leaves = s.leaves := by
  obtain ⟨b, h⟩ := s.mapBlock_frame k f; rw [h]
@[simp] theorem State.mapBlock_starts (s : State) (k : Nat) (f : Block → Block) : (s.mapBlock k f).starts = s.starts := by
  obtain ⟨b, h⟩ := s.mapBlock_frame k f; rw [h]
@[simp] theorem State.mapBlock_ends (s : State) (k : Nat) (f : Block → Block) : (s.mapBlock k f).ends = s.ends := by
  obtain ⟨b, h⟩ := s.mapBlock_frame k f; rw [h]
@[simp] theorem State.mapBlock_rampAt (s : State) (k : Nat) (f : Block → Block) : (s.mapBlock k f).rampAt = s.rampAt := by
  obtain ⟨b, h⟩ := s.mapBlock_frame k f; rw [h]
@[simp] theorem State.mapBlock_idling (s : State) (k : Nat) (f : Block → Block) : (s.mapBlock k f).idling = s.idling := by
  obtain ⟨b, h⟩ := s.mapBlock_frame k f; rw [h]
@[simp] theorem State.mapBlock_vfs (s : State) (k : Nat) (f : Block → Block) : (s.mapBlock k f).vfs = s.vfs := by
  obtain ⟨b, h⟩ := s.mapBlock_frame k f; rw [h]
@[simp] theorem State.mapBlock_quads (s : State) (k : Nat) (f : Block → Block) : (s.mapBlock k f).quads = s.quads := by
  obtain ⟨b, h⟩ := s.mapBlock_frame k f; rw [h]
@[simp] theorem State.mapBlock_faults (s : State) (k : Nat) (f : Block → Block) : (s.mapBlock k f).faults = s.faults := by
  obtain ⟨b, h⟩ := s.mapBlock_frame k f; rw [h]
@[simp] theorem State.mapBlock_pinned (s : State) (k : Nat) (f : Block → Block) : (s.mapBlock k f).pinned = s.pinned := by
  obtain ⟨b, h⟩ := s.mapBlock_frame k f; rw [h]
@[simp] theorem State.mapBlock_migrating (s : State) (k : Nat) (f : Block → Block) : (s.mapBlock k f).migrating = s.migrating := by
  obtain ⟨b, h⟩ := s.mapBlock_frame k f; rw [h]
@[simp] theorem State.mapBlock_fab (s : State) (k : Nat) (f : Block → Block) : (s.mapBlock k f).fab = s.fab := by
  obtain ⟨b, h⟩ := s.mapBlock_frame k f; rw [h]
@[simp] theorem State.mapBlock_signals (s : State) (k : Nat) (f : Block → Block) : (s.mapBlock k f).signals = s.signals := by
  obtain ⟨b, h⟩ := s.mapBlock_frame k f; rw [h]
@[simp] theorem State.mapBlock_hostOut (s : State) (k : Nat) (f : Block → Block) : (s.mapBlock k f).hostOut = s.hostOut := by
  obtain ⟨b, h⟩ := s.mapBlock_frame k f; rw [h]
@[simp] theorem State.mapBlock_nextId (s : State) (k : Nat) (f : Block → Block) : (s.mapBlock k f).nextId = s.nextId := by
  obtain ⟨b, h⟩ := s.mapBlock_frame k f; rw [h]
@[simp] theorem State.mapBlock_fresh (s : State) (k : Nat) (f : Block → Block) : (s.mapBlock k f).fresh = s.fresh := by
  obtain ⟨b, h⟩ := s.mapBlock_frame k f; rw [h]
@[simp] theorem State.mapBlock_issue (s : State) (k : Nat) (f : Block → Block) : (s.mapBlock k f).issue = s.issue := by
  obtain ⟨b, h⟩ := s.mapBlock_frame k f; rw [h]
@[simp] theorem State.mapBlock_agenda (s : State) (k : Nat) (f : Block → Block) : (s.mapBlock k f).agenda = s.agenda := by
  obtain ⟨b, h⟩ := s.mapBlock_frame k f; rw [h]

/-! ### Lists -/

@[simp] theorem listSet_length {α : Type} (xs : List α) (n : Nat) (x : α) : (listSet xs n x).length = xs.length := by
  induction xs generalizing n with
  | nil => rfl
  | cons y ys ih => cases n <;> simp [listSet, ih]
@[simp] theorem listSet_get {α : Type} (xs : List α) (n k : Nat) (x : α) :
    (listSet xs n x)[k]? = if n = k ∧ k < xs.length then some x else xs[k]? := by
  induction xs generalizing n k with
  | nil => simp [listSet]
  | cons y ys ih =>
    cases n with
    | zero => cases k <;> simp [listSet]
    | succ n => cases k with
      | zero => simp [listSet]
      | succ k => simp [listSet, ih]
/-- The first element that a test selects, once it has been put in place of the one there. -/
theorem find?_listPut {α : Type} (p : α → Bool) (y : α) (hy : p y = true) (xs : List α) :
    (listPut p y xs).find? p = (xs.find? p).map fun _ => y := by
  induction xs with
  | nil => rfl
  | cons x xs ih =>
    simp only [listPut]
    split
    · simp [*]
    · simp [*]
theorem find?_listPut_other {α : Type} (p q : α → Bool) (y : α) (hp : ∀ x, p x = true → q x = false) (hy : q y = false) (xs : List α) :
    (listPut p y xs).find? q = xs.find? q := by
  induction xs with
  | nil => rfl
  | cons x xs ih =>
    simp only [listPut]
    split
    · rename_i h; simp [hy, hp x h]
    · simp [List.find?_cons, ih]

/-! ### What an update gives -/

theorem State.block?_id {s : State} {id : Nat} {b : Block} (h : s.block? id = some b) : b.id = id := by
  have := List.find?_some h; simpa using this
theorem State.block?_mem {s : State} {id : Nat} {b : Block} (h : s.block? id = some b) : b ∈ s.blocks := List.mem_of_find?_eq_some h
@[simp] theorem State.block?_setBlock (s : State) (b : Block) (id : Nat) :
    (s.setBlock b).block? id = if b.id = id then (s.block? id).map fun _ => b else s.block? id := by
  unfold State.block? State.setBlock
  split
  · subst id; exact find?_listPut _ b (by simp) _
  · rename_i h
    exact find?_listPut_other _ _ b (fun x hx => by simp at hx ⊢; omega) (by simpa using h) _
theorem State.warp?_block {s : State} {r : WarpRef} {w : Warp} (h : s.warp? r = some w) :
    ∃ b, s.block? r.blk = some b ∧ b.warps[r.num]? = some w := by
  unfold State.warp? at h
  cases hb : s.block? r.blk with
  | none => simp [hb] at h
  | some b => exact ⟨b, rfl, by simpa [hb] using h⟩
theorem State.warp?_of {s : State} {r : WarpRef} {b : Block} (hb : s.block? r.blk = some b) : s.warp? r = b.warps[r.num]? := by
  simp [State.warp?, hb]
theorem State.setWarp_block? {s : State} {r : WarpRef} {b : Block} (w : Warp) (hb : s.block? r.blk = some b) (id : Nat) :
    (s.setWarp r w).block? id = if id = r.blk then some (b.setWarp r.num w) else s.block? id := by
  have hid := State.block?_id hb
  have e : (b.setWarp r.num w).id = r.blk := by rw [← hid]; rfl
  simp only [State.setWarp, hb, State.block?_setBlock, e]
  by_cases h : id = r.blk
  · subst h; simp [hb]
  · simp [h, Ne.symm h]
/-- A warp that is written reads as written; every other warp as before. -/
theorem State.warp?_setWarp {s : State} {r : WarpRef} {w0 : Warp} (w : Warp) (h : s.warp? r = some w0) (q : WarpRef) :
    (s.setWarp r w).warp? q = if q = r then some w else s.warp? q := by
  obtain ⟨b, hb, hw⟩ := State.warp?_block h
  have hl : r.num < b.warps.length := by
    by_contra hc; simp [List.getElem?_eq_none (Nat.le_of_not_lt hc)] at hw
  unfold State.warp?
  rw [State.setWarp_block? w hb]
  by_cases h1 : q.blk = r.blk
  · rw [if_pos h1]
    by_cases h2 : q = r
    · subst h2
      show (listSet b.warps q.num w)[q.num]? = _
      rw [listSet_get, if_pos ⟨rfl, hl⟩, if_pos rfl]
    · have h3 : r.num ≠ q.num := fun h4 => h2 (by cases q; cases r; simp_all)
      simp [Block.setWarp, h2, h3, h1, hb]
  · have h2 : q ≠ r := fun h3 => h1 (by rw [h3])
    simp [h1, h2]
@[simp] theorem State.warp?_setWarp_same {s : State} {r : WarpRef} {w0 : Warp} (w : Warp) (h : s.warp? r = some w0) :
    (s.setWarp r w).warp? r = some w := by rw [State.warp?_setWarp w h]; simp
theorem State.mapWarp_eq {s : State} {r : WarpRef} {w : Warp} (f : Warp → Warp) (h : s.warp? r = some w) :
    s.mapWarp r f = s.setWarp r (f w) := by simp [State.mapWarp, h]
theorem State.mapBlock_eq {s : State} {k : Nat} {b : Block} (f : Block → Block) (h : s.block? k = some b) :
    s.mapBlock k f = s.setBlock (f b) := by simp [State.mapBlock, h]
@[simp] theorem State.vf_setVf (s : State) (n m : Nat) (v : Vf) : (s.setVf n v).vf m = if m = n then v else s.vf m := by
  simp [State.vf, State.setVf]
@[simp] theorem State.leaf_setLeaf (s : State) (n m : Nat) (x : Leaf) : (s.setLeaf n x).leaf m = if m = n then x else s.leaf m := by
  simp [State.leaf, State.setLeaf]
@[simp] theorem State.quad_setQuad (s : State) (n m : Nat) (x : Quad) : (s.setQuad n x).quad m = if m = n then x else s.quad m := by
  simp [State.quad, State.setQuad]
@[simp] theorem State.vf_setQueue (s : State) (n q m : Nat) (x : Queue) :
    (s.setQueue n q x).vf m = if m = n then { s.vf n with queues := Sparse.set Queue.reset (s.vf n).queues q x } else s.vf m := by
  simp [State.setQueue]
@[simp] theorem State.queue_setQueue (s : State) (n q : Nat) (x : Queue) : ((s.setQueue n q x).vf n).queue q = x := by
  simp [Vf.queue]
theorem State.op?_setOp {s : State} {o p : MatOp} (h : s.op? o.id = some p) : (s.setOp o).op? o.id = some o := by
  unfold State.op? State.setOp
  have := find?_listPut (fun x : MatOp => x.id == o.id) o (by simp) s.ops
  unfold State.op? at h
  simp [this, h]
theorem State.job?_setJob {s : State} {j k : Job} (h : s.job? j.id = some k) : (s.setJob j).job? j.id = some j := by
  unfold State.job? State.setJob
  have := find?_listPut (fun x : Job => x.id == j.id) j (by simp) s.jobs
  unfold State.job? at h
  simp [this, h]
theorem State.launch?_setLaunch {s : State} {l k : Launch} (h : s.launch? l.vf l.num = some k) : (s.setLaunch l).launch? l.vf l.num = some l := by
  unfold State.launch? State.setLaunch
  have := find?_listPut (fun x : Launch => x.vf == l.vf && x.num == l.num) l (by simp) s.launches
  unfold State.launch? at h
  simp [this, h]
@[simp] theorem Vf.queue_set (v : Vf) (q k : Nat) (x : Queue) :
    ({ v with queues := Sparse.set Queue.reset v.queues q x } : Vf).queue k = if k = q then x else v.queue k := by
  simp [Vf.queue]

end Sys2Proof.Machine
end

