-- ==== Sys2Proof/Laws/Memory.lean ====
section
/-!
SUPPORT. Memories: every operation that writes one keeps its canonical form, and what one reads as after a write.
-/
namespace Sys2Proof.Machine

/-! ### Runs of bytes -/

theorem writeBytes_wf {m : Memory} (a : Nat) (bs : List Byte) (hm : m.wf = true) : (writeBytes m a bs).wf = true := by
  induction bs generalizing m a with
  | nil => exact hm
  | cons b bs ih => exact ih (a + 1) (Sparse.wf_set a b hm)

theorem writeBytes_get (m : Memory) (a : Nat) (bs : List Byte) (k : Nat) (h : k < a ∨ a + bs.length ≤ k) :
    Sparse.get 0 (writeBytes m a bs) k = Sparse.get 0 m k := by
  induction bs generalizing m a with
  | nil => rfl
  | cons b bs ih =>
    simp only [List.length_cons] at h
    have h1 : k ≠ a := by omega
    rw [writeBytes, ih _ _ (by omega), Sparse.get_set, if_neg h1]

theorem sharedPut_wf {m : Sparse (Option Byte)} (a : Nat) (bs : List Byte) (hm : Sparse.wf none m = true) :
    Sparse.wf none (sharedPut m a bs) = true := by
  induction bs generalizing m a with
  | nil => exact hm
  | cons b bs ih => exact ih (a + 1) (Sparse.wf_set a (some b) hm)

theorem stackWrite_wf {w : Warp} (l a : Nat) (bs : List Byte) (hw : Sparse.wf none w.stack = true) :
    Sparse.wf none (w.stackWrite l a bs).stack = true := by
  induction bs generalizing w a with
  | nil => exact hw
  | cons b bs ih => exact ih (a + 1) (Sparse.wf_set _ (some b) hw)

/-! ### The four memories -/

theorem reset_memOk : State.reset.MemOk := ⟨rfl, rfl, rfl, rfl⟩

/-- An operation that leaves the four memories as they are keeps their form. -/
theorem State.MemOk.of_eq {s t : State} (h : s.MemOk) (h1 : t.mm = s.mm) (h2 : t.sp = s.sp) (h3 : t.host = s.host)
    (h4 : t.stagingArea = s.stagingArea) : t.MemOk := by
  unfold State.MemOk; rw [h1, h2, h3, h4]; exact h

/-- What every element of a list keeps, a walk over the list keeps. -/
theorem foldl_keeps {α β : Type} (P : α → Prop) (f : α → β → α) (h : ∀ a b, P a → P (f a b)) (xs : List β) (a : α) (ha : P a) :
    P (xs.foldl f a) := by
  induction xs generalizing a with
  | nil => exact ha
  | cons x xs ih => exact ih (f a x) (h a x ha)

variable {s : State}

theorem State.MemOk.setWarp (h : s.MemOk) (r : WarpRef) (w : Warp) : (s.setWarp r w).MemOk := h.of_eq (by simp) (by simp) (by simp) (by simp)
theorem State.MemOk.mapWarp (h : s.MemOk) (r : WarpRef) (f : Warp → Warp) : (s.mapWarp r f).MemOk := h.of_eq (by simp) (by simp) (by simp) (by simp)
theorem State.MemOk.setBlock (h : s.MemOk) (b : Block) : (s.setBlock b).MemOk := h
theorem State.MemOk.mapBlock (h : s.MemOk) (k : Nat) (f : Block → Block) : (s.mapBlock k f).MemOk := h.of_eq (by simp) (by simp) (by simp) (by simp)
theorem State.MemOk.setVf (h : s.MemOk) (n : Nat) (v : Vf) : (s.setVf n v).MemOk := h
theorem State.MemOk.push (h : s.MemOk) (i : Instr) : (s.push i).MemOk := h
theorem State.MemOk.irq (h : s.MemOk) (vf : Option Nat) (v : Nat) : (s.irq vf v).MemOk := h
/-- What a write in the scratchpad leaves in the four memories. -/
theorem State.spWrite_mem (s : State) (a : Nat) (bs : List Byte) (y : Option (Nat × Bool)) :
    (s.spWrite a bs y).mm = s.mm ∧ (s.spWrite a bs y).sp = writeBytes s.sp a bs ∧ (s.spWrite a bs y).host = s.host
      ∧ (s.spWrite a bs y).stagingArea = s.stagingArea := by
  unfold State.spWrite
  dsimp only
  split <;> exact ⟨rfl, rfl, rfl, rfl⟩
theorem State.MemOk.spWrite (h : s.MemOk) (a : Nat) (bs : List Byte) (y : Option (Nat × Bool)) : (s.spWrite a bs y).MemOk := by
  obtain ⟨h1, h2, h3, h4⟩ := s.spWrite_mem a bs y
  unfold State.MemOk
  rw [h1, h2, h3, h4]
  exact ⟨h.1, writeBytes_wf a bs h.2.1, h.2.2⟩
theorem State.MemOk.hostWrite (h : s.MemOk) (a : Nat) (bs : List Byte) : (s.hostWrite a bs).MemOk :=
  ⟨h.1, h.2.1, writeBytes_wf a bs h.2.2.1, h.2.2.2⟩
theorem State.MemOk.locWrite (h : s.MemOk) (l : Loc) (bs : List Byte) : (s.locWrite l bs).MemOk := by
  cases l with
  | main a => exact ⟨writeBytes_wf a bs h.1, h.2⟩
  | scratch a => exact h.spWrite a bs none

/-! ### What performs writes -/

theorem State.MemOk.perform (h : s.MemOk) (sel : Flight → Bool) (sc : Scope) : (s.perform sel sc).MemOk := by
  cases sc with
  | core => exact h
  | die => exact h
  | pkg => exact foldl_keeps State.MemOk _ (fun t x ht => ht.spWrite _ _ _) _ _ h
  | sys => exact foldl_keeps State.MemOk _ (fun t x ht => ht.spWrite _ _ _) _ _ h
theorem State.MemOk.performWarpFlights (h : s.MemOk) (r : WarpRef) (sc : Scope) : (s.performWarpFlights r sc).MemOk := h.perform _ _
theorem State.MemOk.prunePast (h : s.MemOk) : s.prunePast.MemOk := by
  unfold State.prunePast
  split <;> exact h
theorem State.MemOk.learn (h : s.MemOk) (r : WarpRef) : (s.learn r).MemOk := by
  unfold State.learn
  split <;> exact h
theorem State.MemOk.observe (h : s.MemOk) (r : WarpRef) : (s.observe r).MemOk := ((h.learn r).mapWarp _ _).prunePast
theorem State.MemOk.readNow (h : s.MemOk) (r : WarpRef) (ps : List (Nat × Nat)) : (s.readNow r ps).MemOk := by
  unfold State.readNow
  split
  · exact h
  · exact h.mapWarp _ _

/-! ### Loads, atomics and the store queue -/

theorem State.MemOk.closeLoad (h : s.MemOk) (r : WarpRef) (sel : Part → Bool) (id : Nat) : (s.closeLoad r sel id).MemOk := by
  have h0 : ({ s with fresh := s.fresh + 1 } : State).MemOk := h
  unfold State.closeLoad
  split
  · split
    · exact h0.setWarp _ _
    · exact h
  · exact h
theorem State.MemOk.closeLoads (h : s.MemOk) (r : WarpRef) (which : Late → Bool) (sel : Part → Bool) : (s.closeLoads r which sel).MemOk := by
  unfold State.closeLoads
  split
  · exact h
  · exact foldl_keeps State.MemOk _ (fun t id ht => ht.closeLoad r sel id) _ _ h
theorem State.MemOk.makeLoad (h : s.MemOk) (r : WarpRef) (id : Nat) (sel : Part → Bool) : (s.makeLoad r id sel).MemOk := by
  have next : ∀ (t : State) (w : Warp), t.MemOk → (State.setWarp { t with fresh := t.fresh + 1 } r w).MemOk := fun t w ht =>
    State.MemOk.setWarp (s := { t with fresh := t.fresh + 1 }) ht _ _
  unfold State.makeLoad
  split
  · exact h
  · split
    · exact h
    · rename_i l _
      have h0 : (s.closePlaces r (l.rest.filter sel)).MemOk := h.closeLoads r _ _
      dsimp only
      generalize s.closePlaces r (l.rest.filter sel) = s0 at h0 ⊢
      split
      · split
        · exact (next s0 _ h0).observe _
        · split
          · exact (next s0 _ h0).readNow _ _
          · exact next s0 _ h0
      · exact h
theorem State.MemOk.makeLoads (h : s.MemOk) (r : WarpRef) : (s.makeLoads r).MemOk := by
  unfold State.makeLoads
  split
  · exact h
  · refine foldl_keeps (fun x : Bool × State => x.2.MemOk) _ (fun acc l ha => ?_) _ _ h
    split
    · exact ha.makeLoad r l.id _
    · exact ha
theorem State.MemOk.startLoad (h : s.MemOk) (r : WarpRef) (l : Late) (first : Part → Bool) : (s.startLoad r l first).MemOk := by
  have h0 : ({ s with nextId := s.nextId + 1 } : State).MemOk := h
  unfold State.startLoad
  split
  · exact h
  · dsimp only
    split
    · exact h0.setWarp _ _
    · exact (h0.setWarp _ _).makeLoad _ _ _
theorem State.MemOk.atomLane (h : s.MemOk) (r : WarpRef) (core : Nat) (sp : StoreSpace) (op : AtomOp) (a b c : Nat) : (s.atomLane r core sp op a b c).2.MemOk := by
  have h0 : (s.settle a (atomBytes op)).MemOk := h.perform _ _
  cases sp <;> unfold State.atomLane <;> dsimp only <;> split
  · exact h
  · unfold State.rmwShared
    split
    · exact h.setBlock _
    · exact h
  · exact h0
  · exact h0.spWrite _ _ _
theorem State.MemOk.atomLanes (h : s.MemOk) (r : WarpRef) (core : Nat) (sp : StoreSpace) (op : AtomOp) (ys : List (Nat × Nat × Nat × Nat)) :
    (s.atomLanes r core sp op ys).2.MemOk := by
  induction ys generalizing s with
  | nil => exact h
  | cons y ys ih => exact ih (h.atomLane r core sp op _ _ _)
theorem State.MemOk.performAtomic (h : s.MemOk) (r : WarpRef) (sp : StoreSpace) (a : QueuedAtomic) : (s.performAtomic r sp a).MemOk := by
  unfold State.performAtomic
  split
  · exact h
  · have h1 := fun core => h.atomLanes r core sp a.op a.lanes
    dsimp only
    cases a.result with
    | none =>
      split
      · exact (h1 _).observe _
      · exact h1 _
    | some y =>
      split
      · exact ((h1 _).mapWarp _ _).observe _
      · exact (h1 _).mapWarp _ _
theorem State.MemOk.putStore (h : s.MemOk) (r : WarpRef) (e : StoreEntry) : (s.putStore r e).MemOk := by
  unfold State.putStore
  split
  · exact h.setBlock _
  · exact h.of_eq rfl rfl rfl rfl
  · exact h
theorem State.MemOk.beforeRelease (h : s.MemOk) (r : WarpRef) (e : StoreEntry) : (s.beforeRelease r e).MemOk := by
  unfold State.beforeRelease
  split
  · exact (h.closeLoads _ _ _).performWarpFlights _ _
  · exact h
theorem State.MemOk.leaveQueue (h : s.MemOk) (r : WarpRef) (e : StoreEntry) : (s.leaveQueue r e).MemOk := by
  unfold State.leaveQueue
  split
  · exact (h.beforeRelease r e).performAtomic _ _ _
  · exact (h.beforeRelease r e).putStore _ _
theorem State.MemOk.drainOne (h : s.MemOk) (r : WarpRef) : (s.drainOne r).MemOk := by
  have h1 := h.makeLoads r
  unfold State.drainOne
  dsimp only
  split
  · split
    · split
      · exact (h1.setWarp _ _).leaveQueue _ _
      · exact h1
    · exact h1
  · exact h1
theorem State.MemOk.drain (h : s.MemOk) (r : WarpRef) (n : Nat) : (State.drain r n s).MemOk := by
  induction n generalizing s with
  | zero => exact h.makeLoads r
  | succ n ih => exact ih (h.drainOne r)
theorem State.MemOk.performWarp (h : s.MemOk) (r : WarpRef) (sc : Scope) : (s.performWarp r sc).MemOk :=
  ((h.drain r _).closeLoads r _ _).performWarpFlights r sc

/-! ### Places and save records -/

theorem State.MemOk.poisonPlace (h : s.MemOk) (l : Loc) (bad : List Nat) : (s.poisonPlace l bad).MemOk := by
  cases l <;> exact h.of_eq rfl rfl rfl rfl
theorem State.MemOk.writePlace (h : s.MemOk) (l : Loc) (bs : List Byte) (bad : List Nat) : (s.writePlace l bs bad).MemOk := by
  cases l with
  | main p => exact (h.locWrite (.main p) bs).poisonPlace _ _
  | scratch p => exact ((h.perform _ _).locWrite (.scratch p) bs).poisonPlace _ _
theorem State.MemOk.writeRecord (h : s.MemOk) (b : Block) (n : Nat) : (s.writeRecord b n).MemOk :=
  foldl_keeps State.MemOk _ (fun t p ht => by
    split
    · exact ht.writePlace _ _ _
    · exact ht) _ _ h

/-! ### Records -/

theorem State.MemOk.ringRecord? (h : s.MemOk) {vf : Nat} {bs : List Byte} {t : State} (ht : s.ringRecord? vf bs = some t) : t.MemOk := by
  unfold State.ringRecord? at ht
  simp only at ht
  split at ht
  · cases ht; exact (((h.hostWrite _ _).hostWrite _ _).setVf _ _).irq _ _
  · cases ht
theorem State.MemOk.report (h : s.MemOk) (vf kind launch : Nat) (body : List Byte) : (s.report vf kind launch body).MemOk := by
  unfold State.report
  simp only
  split
  · exact (h.setVf _ _).ringRecord? ‹_›
  · split <;> exact h
theorem State.reportPf_mem (kind : Nat) : (s.reportPf kind).mm = s.mm ∧ (s.reportPf kind).sp = s.sp ∧ (s.reportPf kind).stagingArea = s.stagingArea := by
  unfold State.reportPf
  dsimp only
  split <;> exact ⟨rfl, rfl, rfl⟩
theorem State.reportPf_host (kind : Nat) : (s.reportPf kind).host = s.host ∨ ∃ a bs c cs, (s.reportPf kind).host = writeBytes (writeBytes s.host a bs) c cs := by
  unfold State.reportPf
  dsimp only
  split
  · exact .inr ⟨_, _, _, _, rfl⟩
  · exact .inl rfl
theorem State.MemOk.reportPf (h : s.MemOk) (kind : Nat) : (s.reportPf kind).MemOk := by
  obtain ⟨h1, h2, h4⟩ := State.reportPf_mem (s := s) kind
  unfold State.MemOk
  rw [h1, h2, h4]
  refine ⟨h.1, h.2.1, ?_, h.2.2.2⟩
  obtain e | ⟨a, bs, c, cs, e⟩ := State.reportPf_host (s := s) kind <;> rw [e]
  · exact h.2.2.1
  · exact writeBytes_wf _ _ (writeBytes_wf _ _ h.2.2.1)
theorem State.MemOk.park (h : s.MemOk) (vf launch va : Nat) (what : Parked) : (s.park vf launch va what).2.MemOk := h.report vf 2 launch _

/-! ### Barriers, and the end of lanes -/

theorem State.MemOk.setBarrier (h : s.MemOk) (blk b : Nat) (x : Barrier) : (s.setBarrier blk b x).MemOk := by
  unfold State.setBarrier
  split
  · split
    · exact h
    · split <;> exact h
  · exact h
theorem State.MemOk.mapBarWarps (h : s.MemOk) (blk b : Nat) (f : Warp → Warp) : (s.mapBarWarps blk b f).MemOk := by
  unfold State.mapBarWarps
  split <;> exact h
theorem State.MemOk.shareKnown (h : s.MemOk) (blk b : Nat) : (s.shareKnown blk b).MemOk := by
  unfold State.shareKnown
  split
  · exact h
  · split <;> exact h
theorem State.MemOk.noteArrival (h : s.MemOk) (r : WarpRef) (b n : Nat) : (s.noteArrival r b n).MemOk := by
  unfold State.noteArrival
  split <;> exact h
theorem State.MemOk.checkPhase (h : s.MemOk) (blk b : Nat) : (s.checkPhase blk b).MemOk := by
  unfold State.checkPhase
  simp only
  split
  · exact (((h.setBarrier _ _ _).mapBarWarps _ _ _).shareKnown _ _).prunePast
  · exact h
theorem State.MemOk.countBytes (h : s.MemOk) (blk b n : Nat) : (s.countBytes blk b n).MemOk := by
  unfold State.countBytes
  simp only
  split
  · exact (h.setBarrier _ _ _).checkPhase _ _
  · exact h.setBarrier _ _ _
theorem State.MemOk.checkArrive (h : s.MemOk) (r : WarpRef) (b : Nat) : (s.checkArrive r b).MemOk := by
  unfold State.checkArrive
  split
  · split
    · have h0 := h.performWarp r (if b < 16 then Scope.core else Scope.die)
      dsimp only
      generalize s.performWarp r (if b < 16 then Scope.core else Scope.die) = s0 at h0 ⊢
      split
      · exact h0.mapWarp _ _
      · exact ((h0.noteArrival _ _ _).mapWarp _ _).setBarrier _ _ _
    · exact h
  · exact h
theorem State.MemOk.retryArrivals (h : s.MemOk) (r : WarpRef) : (s.retryArrivals r).MemOk := by
  unfold State.retryArrivals
  split
  · exact foldl_keeps State.MemOk _ (fun t b ht => (ht.checkArrive r b).checkPhase _ _) _ _ h
  · exact h
theorem State.MemOk.noteBlock (h : s.MemOk) (blk : Nat) : (s.noteBlock blk).MemOk := by
  unfold State.noteBlock
  split
  · split
    · exact h.push _
    · exact h
  · exact h
theorem State.MemOk.warpEnd (h : s.MemOk) (r : WarpRef) : (s.warpEnd r).MemOk := by
  unfold State.warpEnd
  refine State.MemOk.noteBlock (foldl_keeps State.MemOk _ (fun t b ht => ?_) _ _ ?_) _
  · dsimp only
    split
    · exact (ht.setBarrier _ _ _).checkPhase _ _
    · exact ht
  · have h0 : ({ s with waitTab := s.waitTab.filter fun e => e.ref != r } : State).MemOk := h
    exact h0.mapWarp _ _
theorem State.MemOk.exitLanes (h : s.MemOk) (r : WarpRef) (m : Mask) : (s.exitLanes r m).MemOk := by
  unfold State.exitLanes
  split
  · exact h
  · dsimp only
    split
    · exact h
    · split
      · exact (h.setWarp _ _).warpEnd _
      · exact foldl_keeps State.MemOk _ (fun t b ht => (ht.checkArrive _ _).checkPhase _ _) _ _ (h.setWarp _ _)

/-! ### Traps -/

theorem State.MemOk.takeTrap (h : s.MemOk) (r : WarpRef) (pc : DWord) (m : Mask) (t : Trap) : (s.takeTrap r pc m t).MemOk := by
  have h0 : ({ s with issue := none } : State).MemOk := h
  unfold State.takeTrap
  split
  · dsimp only
    split
    · exact h0.setWarp _ _
    · split
      · exact State.MemOk.report (State.MemOk.report (State.MemOk.mapWarp ((h0.setWarp _ _).exitLanes _ _) _ _) _ _ _ _) _ _ _ _
      · exact State.MemOk.report (State.MemOk.mapWarp ((h0.setWarp _ _).exitLanes _ _) _ _) _ _ _ _
  · exact h
theorem State.MemOk.returnTrap (h : s.MemOk) (r : WarpRef) (mode : RttMode) (n : Nat) : (s.returnTrap r mode n).MemOk := by
  unfold State.returnTrap
  split
  · split
    · exact h.setWarp _ _
    · exact h
  · exact h

/-! ### The end of a step -/

theorem State.MemOk.takeTrapFree (h : s.MemOk) (r : WarpRef) (pc : DWord) (m : Mask) (t : Trap) : (s.takeTrapFree r pc m t).MemOk := by
  unfold State.takeTrapFree
  dsimp only
  split
  · exact (h.takeTrap _ _ _ _).mapWarp _ _
  · exact h.takeTrap _ _ _ _
theorem State.MemOk.teamTraps (h : s.MemOk) (blk : Nat) (ns : List Nat) (t : Trap) : (s.teamTraps blk ns t).MemOk :=
  foldl_keeps State.MemOk _ (fun u n hu => by
    split
    · split
      · exact hu.takeTrap _ _ _ _
      · exact hu
    · exact hu) _ _ h
theorem State.MemOk.issueOp (h : s.MemOk) (g : Signing) (ra rb : TileRes) (f x : Bool) : (s.issueOp g ra rb f x).MemOk := by
  unfold State.issueOp
  refine State.MemOk.mapBlock (foldl_keeps State.MemOk _ (fun u n hu => hu.mapWarp _ _) _ _ ?_) _ _
  exact h
theorem State.MemOk.holdSigning (h : s.MemOk) (g : Signing) (ws : List ViewWait) : (s.holdSigning g ws).MemOk := by
  unfold State.holdSigning
  split
  · exact h
  · exact foldl_keeps State.MemOk _ (fun u n hu => hu.mapWarp _ _) _ _ h
theorem State.MemOk.signingIssue (h : s.MemOk) (g : Signing) (ra rb : TileRes) (x : Bool) : (s.signingIssue g ra rb x).MemOk := by
  unfold State.signingIssue
  dsimp only
  split
  · exact h.teamTraps _ _ _
  · exact h.teamTraps _ _ _
  · exact h.teamTraps _ _ _
  · exact h.holdSigning _ _
  · split
    · exact h.holdSigning _ _
    · exact h.issueOp _ _ _ _ _
theorem State.MemOk.resolveSigning (h : s.MemOk) (g : Signing) (parked aborted : Bool) : (s.resolveSigning g parked aborted).MemOk := by
  have onFault : ∀ va : Nat, (if aborted then s.signingIssue g .wait .wait true
      else if parked then s else (s.park g.blk.vf g.blk.launch va (.sign g.blk.id g.team)).2).MemOk := by
    intro va
    split
    · exact h.signingIssue _ _ _ _
    · split
      · exact h
      · exact h.park _ _ _ _
  unfold State.resolveSigning
  dsimp only
  split
  · exact h.teamTraps _ _ _
  · exact h
  · exact onFault _
  · exact h.teamTraps _ _ _
  · exact h
  · exact onFault _
  · exact h.signingIssue _ _ _ _
theorem State.MemOk.completeSigning (h : s.MemOk) (blk team : Nat) : (s.completeSigning blk team).MemOk := by
  unfold State.completeSigning
  split
  · exact h
  · split
    · exact h
    · split
      · exact h.teamTraps _ _ _
      · dsimp only
        have h1 := h.resolveSigning
        split
        · exact h1 _ _ _
        · exact h1 _ _ _
theorem State.MemOk.checkRegrp (h : s.MemOk) (blk : Nat) : (s.checkRegrp blk).MemOk := by
  unfold State.checkRegrp
  split
  · exact h
  · dsimp only
    split
    · exact h
    · split
      · exact h
      · split
        · refine foldl_keeps State.MemOk _ (fun u n hu => ?_) _ _ ?_
          · split
            · split
              · exact hu.warpEnd _
              · exact hu
            · exact hu
          · exact h
        · refine foldl_keeps State.MemOk _ (fun u n hu => ?_) _ _ h
          split
          · split
            · exact hu.takeTrapFree _ _ _ _
            · exact hu
          · exact hu
theorem State.MemOk.teamEnds (h : s.MemOk) (blk : Nat) : (s.teamEnds blk).MemOk := by
  unfold State.teamEnds
  split
  · exact h
  · refine foldl_keeps State.MemOk _ (fun u n hu => ?_) _ _ (foldl_keeps State.MemOk _ (fun u e hu => ?_) _ _ h)
    · dsimp only
      split
      · split
        · split
          · exact hu
          · split
            · exact (hu.setWarp _ _).takeTrap _ _ _ _
            · exact hu.setWarp _ _
        · exact hu
      · exact hu
    · exact foldl_keeps State.MemOk _ (fun v n hv => hv.mapWarp _ _) _ _ hu
theorem State.MemOk.takeCondition (h : s.MemOk) (r : WarpRef) (x : Run × Trap) : (s.takeCondition r x).MemOk := by
  exact (h.mapWarp _ _).takeTrapFree _ _ _ _
theorem State.MemOk.takeConditions (h : s.MemOk) (blk : Nat) (r : WarpRef) (cand : Mask) (k : Nat) : (s.takeConditions blk r cand k).MemOk := by
  induction k generalizing s with
  | zero => exact h
  | succ k ih =>
    unfold State.takeConditions
    split
    · exact h
    · split
      · exact ih (h.takeCondition _ _)
      · exact h
/-- What ends the step of a word keeps the memories' form. -/
theorem State.MemOk.endStep (h : s.MemOk) (r : WarpRef) (cand : Mask) : (s.endStep r cand).MemOk := by
  unfold State.endStep
  split
  · exact h
  · exact ((foldl_keeps State.MemOk _ (fun t k ht => ht.completeSigning _ k) _ _ ((h.retryArrivals r).teamEnds _)).checkRegrp _ |>.teamEnds _).takeConditions _ _ _ _
theorem State.MemOk.trapWord (h : s.MemOk) (r : WarpRef) (pc : DWord) (run : Mask) (w : Warp) (t : Trap) : (s.trapWord r pc run w t).MemOk :=
  ((h.setWarp r w).takeTrapFree _ _ _ _).endStep _ _
theorem State.MemOk.beforeAccess (h : s.MemOk) (r : WarpRef) (i : Instr) (act : Mask) : (s.beforeAccess r i act).MemOk := by
  unfold State.beforeAccess
  split
  · exact h.makeLoads r
  · exact h
/-- A word whose own effect keeps the memories' form leaves them so, whatever stands before or against it. -/
theorem State.MemOk.issue (h : s.MemOk) (i : Instr) (body : Ctx → State → Res)
    (hb : ∀ c u v, u.MemOk → (body c u = .ok v ∨ body c u = .hold v) → v.MemOk) {t : State} (ht : Machine.issue i s body = .next t) : t.MemOk := by
  unfold Machine.issue at ht
  split at ht
  · cases ht; exact h
  · cases ht; exact h.trapWord _ _ _ _ _
  · rename_i c u hg
    have hu : u.MemOk := by
      unfold gate at hg
      split at hg
      · cases hg
      · split at hg
        · split at hg
          · cases hg
          · dsimp only at hg
            split at hg
            · cases hg
            · split at hg
              · cases hg
              · split at hg
                · cases hg
                · split at hg
                  · cases hg
                  · split at hg
                    · cases hg
                    · split at hg
                      · cases hg
                      · cases hg; exact (h.setWarp _ _).beforeAccess _ _ _
        · cases hg
    split at ht
    · cases ht; exact (hb _ _ _ hu (.inl ‹_›)).endStep _ _
    · cases ht; exact h.trapWord _ _ _ _ _
    · cases ht; exact hb _ _ _ hu (.inr ‹_›)

end Sys2Proof.Machine
end

