-- ==== Sys2Proof/Laws/Ops.lean ====
section
/-!
SUPPORT. What the shared operations can do. An outline of a state is that state with the fields that a group of operations may change
blanked; each operation of the group keeps the outline, so every other field is as it was.
-/
namespace Sys2Proof.Machine

/-! ### Outlines -/

/-- What performing accesses, barriers and the ends of lanes leave alone. -/
def State.offAccess (s : State) : State :=
  { s with
    sp := []
    spPois := []
    flight := []
    agenda := []
    blocks := []
    gangs := []
    waitTab := []
    past := []
    nextId := 0
    fresh := 0 }
/-- What reporting a record leaves alone. -/
def State.offReport (s : State) : State :=
  { s with
    host := []
    vfs := []
    frlost := 0
    hostOut := [] }
/-- What traps and the end of a step leave alone. -/
def State.offStep (s : State) : State :=
  { s.offAccess.offReport with
    issue := none
    faults := []
    ops := [] }

/-- A walk over a list keeps what each of its steps keeps. -/
theorem foldl_same {α β γ : Type} (p : α → γ) (f : α → β → α) (h : ∀ a b, p (f a b) = p a) (xs : List β) (a : α) : p (xs.foldl f a) = p a := by
  induction xs generalizing a with
  | nil => rfl
  | cons x xs ih => rw [List.foldl_cons, ih, h]

/-! ### Writes and their performing -/

variable (s : State)

@[simp] theorem State.setBlock_offAccess (b : Block) : (s.setBlock b).offAccess = s.offAccess := rfl
@[simp] theorem State.setWarp_offAccess (r : WarpRef) (w : Warp) : (s.setWarp r w).offAccess = s.offAccess := by
  unfold State.setWarp; split <;> rfl
@[simp] theorem State.mapWarp_offAccess (r : WarpRef) (f : Warp → Warp) : (s.mapWarp r f).offAccess = s.offAccess := by
  unfold State.mapWarp
  split
  · exact State.setWarp_offAccess s r _
  · rfl
@[simp] theorem State.mapBlock_offAccess (k : Nat) (f : Block → Block) : (s.mapBlock k f).offAccess = s.offAccess := by
  unfold State.mapBlock; split <;> rfl
@[simp] theorem State.push_offAccess (i : Instr) : (s.push i).offAccess = s.offAccess := rfl
@[simp] theorem State.spWrite_offAccess (a : Nat) (bs : List Byte) (y : Option (Nat × Bool)) : (s.spWrite a bs y).offAccess = s.offAccess := by
  unfold State.spWrite
  dsimp only
  split <;> rfl
@[simp] theorem State.perform_offAccess (sel : Flight → Bool) (sc : Scope) : (s.perform sel sc).offAccess = s.offAccess := by
  cases sc with
  | core => rfl
  | die => rfl
  | pkg => exact (foldl_same State.offAccess _ (fun t x => State.spWrite_offAccess t _ _ _) _ _).trans rfl
  | sys => exact (foldl_same State.offAccess _ (fun t x => State.spWrite_offAccess t _ _ _) _ _).trans rfl
@[simp] theorem State.performWarpFlights_offAccess (r : WarpRef) (sc : Scope) : (s.performWarpFlights r sc).offAccess = s.offAccess :=
  State.perform_offAccess s _ sc
@[simp] theorem State.prunePast_offAccess : s.prunePast.offAccess = s.offAccess := by
  unfold State.prunePast; split <;> rfl
@[simp] theorem State.learn_offAccess (r : WarpRef) : (s.learn r).offAccess = s.offAccess := by
  unfold State.learn; split <;> rfl
/-- An acquire changes what its warp has seen and what its releases cover, and drops what no warp may return: nothing else. -/
@[simp] theorem State.observe_offAccess (r : WarpRef) : (s.observe r).offAccess = s.offAccess := by
  unfold State.observe
  rw [State.prunePast_offAccess, State.mapWarp_offAccess, State.learn_offAccess]
@[simp] theorem State.readNow_offAccess (r : WarpRef) (ps : List (Nat × Nat)) : (s.readNow r ps).offAccess = s.offAccess := by
  unfold State.readNow
  split
  · rfl
  · exact State.mapWarp_offAccess s r _

/-! ### Loads -/

@[simp] theorem State.closeLoad_offAccess (r : WarpRef) (sel : Part → Bool) (id : Nat) : (s.closeLoad r sel id).offAccess = s.offAccess := by
  unfold State.closeLoad
  split
  · split
    · exact State.setWarp_offAccess _ r _
    · rfl
  · rfl
@[simp] theorem State.closeLoads_offAccess (r : WarpRef) (which : Late → Bool) (sel : Part → Bool) :
    (s.closeLoads r which sel).offAccess = s.offAccess := by
  unfold State.closeLoads
  split
  · rfl
  · exact foldl_same State.offAccess _ (fun t id => State.closeLoad_offAccess t r sel id) _ _
@[simp] theorem State.makeLoad_offAccess (r : WarpRef) (id : Nat) (sel : Part → Bool) : (s.makeLoad r id sel).offAccess = s.offAccess := by
  have next : ∀ (t : State) (w : Warp), (State.setWarp { t with fresh := t.fresh + 1 } r w).offAccess = t.offAccess := fun t w => State.setWarp_offAccess _ r w
  unfold State.makeLoad
  split
  · rfl
  · split
    · rfl
    · rename_i l _
      have h0 : (s.closePlaces r (l.rest.filter sel)).offAccess = s.offAccess := State.closeLoads_offAccess s r _ _
      dsimp only
      generalize s.closePlaces r (l.rest.filter sel) = s0 at h0 ⊢
      split
      · split
        · rw [State.observe_offAccess, next, h0]
        · split
          · rw [State.readNow_offAccess, next, h0]
          · rw [next, h0]
      · rfl
/-- Loads that make their accesses change what their warp holds and has seen: nothing else. -/
@[simp] theorem State.makeLoads_offAccess (r : WarpRef) : (s.makeLoads r).offAccess = s.offAccess := by
  unfold State.makeLoads
  split
  · rfl
  · refine (foldl_same (fun x : Bool × State => x.2.offAccess) _ (fun acc l => ?_) _ _)
    split
    · exact State.makeLoad_offAccess acc.2 r l.id _
    · rfl
@[simp] theorem State.startLoad_offAccess (r : WarpRef) (l : Late) (first : Part → Bool) : (s.startLoad r l first).offAccess = s.offAccess := by
  unfold State.startLoad
  split
  · rfl
  · dsimp only
    split
    · exact State.setWarp_offAccess _ r _
    · rw [State.makeLoad_offAccess]; exact State.setWarp_offAccess _ r _

/-! ### Atomics and the store queue -/

@[simp] theorem State.rmwScratch_offAccess (a n : Nat) (f : Nat → Nat) (c : Option Nat) : (s.rmwScratch a n f c).2.offAccess = s.offAccess := by
  exact State.spWrite_offAccess _ _ _ _
@[simp] theorem State.rmwShared_offAccess (k a n : Nat) (f : Nat → Nat) : (s.rmwShared k a n f).2.offAccess = s.offAccess := by
  unfold State.rmwShared; split <;> rfl
@[simp] theorem State.atomLane_offAccess (r : WarpRef) (core : Nat) (sp : StoreSpace) (op : AtomOp) (a b c : Nat) :
    (s.atomLane r core sp op a b c).2.offAccess = s.offAccess := by
  have h := State.perform_offAccess s (fun f => meets f.addr f.bytes.length a (atomBytes op)) .pkg
  cases sp <;> unfold State.atomLane <;> dsimp only <;> split
  · rfl
  · exact State.rmwShared_offAccess s r.blk a (atomBytes op) fun m => atomNew op m b c
  · exact h
  · exact (State.rmwScratch_offAccess _ a (atomBytes op) (fun m => atomNew op m b c) (some core)).trans h
@[simp] theorem State.atomLanes_offAccess (r : WarpRef) (core : Nat) (sp : StoreSpace) (op : AtomOp) (ys : List (Nat × Nat × Nat × Nat)) :
    (s.atomLanes r core sp op ys).2.offAccess = s.offAccess := by
  induction ys generalizing s with
  | nil => rfl
  | cons y ys ih => exact (ih _).trans (State.atomLane_offAccess s r core sp op _ _ _)
/-- An atomic that leaves the queue changes its location, its warp's result and what the warp has seen: nothing else. -/
@[simp] theorem State.performAtomic_offAccess (r : WarpRef) (sp : StoreSpace) (a : QueuedAtomic) : (s.performAtomic r sp a).offAccess = s.offAccess := by
  unfold State.performAtomic
  split
  · rfl
  · rename_i b _
    have h := State.atomLanes_offAccess s r b.core sp a.op a.lanes
    dsimp only
    generalize s.atomLanes r b.core sp a.op a.lanes = x at h ⊢
    have h1 : (match a.result with
        | none => x.2
        | some (id, d) => x.2.mapWarp r fun w => w.takeAtomic id d sp (atomBytes a.op) x.1).offAccess = s.offAccess := by
      split
      · exact h
      · rw [State.mapWarp_offAccess, h]
    split
    · rw [State.observe_offAccess]; exact h1
    · exact h1
@[simp] theorem State.putStore_offAccess (r : WarpRef) (e : StoreEntry) : (s.putStore r e).offAccess = s.offAccess := by
  unfold State.putStore; split <;> rfl
/-- What a release in the queue comes after is performed: the writes in flight and the loads of its warp change, nothing else. -/
@[simp] theorem State.beforeRelease_offAccess (r : WarpRef) (e : StoreEntry) : (s.beforeRelease r e).offAccess = s.offAccess := by
  unfold State.beforeRelease
  split
  · rw [State.performWarpFlights_offAccess, State.closeLoads_offAccess]
  · rfl
@[simp] theorem State.leaveQueue_offAccess (r : WarpRef) (e : StoreEntry) : (s.leaveQueue r e).offAccess = s.offAccess := by
  unfold State.leaveQueue
  split
  · rw [State.performAtomic_offAccess, State.beforeRelease_offAccess]
  · rw [State.putStore_offAccess, State.beforeRelease_offAccess]
@[simp] theorem State.drainOne_offAccess (r : WarpRef) : (s.drainOne r).offAccess = s.offAccess := by
  unfold State.drainOne
  dsimp only
  split
  · split
    · split
      · rw [State.leaveQueue_offAccess, State.setWarp_offAccess, State.makeLoads_offAccess]
      · exact State.makeLoads_offAccess s r
    · exact State.makeLoads_offAccess s r
  · exact State.makeLoads_offAccess s r
@[simp] theorem State.drain_offAccess (r : WarpRef) (n : Nat) : (State.drain r n s).offAccess = s.offAccess := by
  induction n generalizing s with
  | zero => exact State.makeLoads_offAccess s r
  | succ n ih => exact (ih _).trans (State.drainOne_offAccess s r)
@[simp] theorem State.drainAll_offAccess (r : WarpRef) : (s.drainAll r).offAccess = s.offAccess := State.drain_offAccess s r _
/-- Performing a warp's accesses changes the scratchpad, the blocks and the writes in flight, and wakes who waits: nothing else. -/
@[simp] theorem State.performWarp_offAccess (r : WarpRef) (sc : Scope) : (s.performWarp r sc).offAccess = s.offAccess := by
  unfold State.performWarp
  rw [State.performWarpFlights_offAccess, State.closeLoads_offAccess, State.drainAll_offAccess]

/-! ### Barriers, and the end of lanes -/

@[simp] theorem State.setBarrier_offAccess (blk b : Nat) (x : Barrier) : (s.setBarrier blk b x).offAccess = s.offAccess := by
  unfold State.setBarrier
  split
  · split
    · rfl
    · split <;> rfl
  · rfl
@[simp] theorem State.mapBarWarps_offAccess (blk b : Nat) (f : Warp → Warp) : (s.mapBarWarps blk b f).offAccess = s.offAccess := by
  unfold State.mapBarWarps; split <;> rfl
@[simp] theorem State.shareKnown_offAccess (blk b : Nat) : (s.shareKnown blk b).offAccess = s.offAccess := by
  unfold State.shareKnown
  split
  · rfl
  · split <;> rfl
@[simp] theorem State.noteArrival_offAccess (r : WarpRef) (b n : Nat) : (s.noteArrival r b n).offAccess = s.offAccess := by
  unfold State.noteArrival; split <;> rfl
@[simp] theorem State.checkPhase_offAccess (blk b : Nat) : (s.checkPhase blk b).offAccess = s.offAccess := by
  unfold State.checkPhase
  dsimp only
  split
  · rw [State.prunePast_offAccess, State.shareKnown_offAccess, State.mapBarWarps_offAccess, State.setBarrier_offAccess]
  · rfl
@[simp] theorem State.countBytes_offAccess (blk b n : Nat) : (s.countBytes blk b n).offAccess = s.offAccess := by
  unfold State.countBytes
  dsimp only
  split
  · rw [State.checkPhase_offAccess, State.setBarrier_offAccess]
  · exact State.setBarrier_offAccess s blk b _
@[simp] theorem State.checkArrive_offAccess (r : WarpRef) (b : Nat) : (s.checkArrive r b).offAccess = s.offAccess := by
  unfold State.checkArrive
  split
  · split
    · dsimp only
      have h0 := State.performWarp_offAccess s r (if b < 16 then Scope.core else Scope.die)
      generalize s.performWarp r (if b < 16 then Scope.core else Scope.die) = s0 at h0 ⊢
      split
      · rw [State.mapWarp_offAccess, h0]
      · rw [State.setBarrier_offAccess, State.mapWarp_offAccess, State.noteArrival_offAccess, h0]
    · rfl
  · rfl
@[simp] theorem State.retryArrivals_offAccess (r : WarpRef) : (s.retryArrivals r).offAccess = s.offAccess := by
  unfold State.retryArrivals
  split
  · exact foldl_same State.offAccess _ (fun t b => by rw [State.checkPhase_offAccess, State.checkArrive_offAccess]) _ _
  · rfl
@[simp] theorem State.noteBlock_offAccess (blk : Nat) : (s.noteBlock blk).offAccess = s.offAccess := by
  unfold State.noteBlock
  split
  · split <;> rfl
  · rfl
@[simp] theorem State.warpEnd_offAccess (r : WarpRef) : (s.warpEnd r).offAccess = s.offAccess := by
  unfold State.warpEnd
  dsimp only
  rw [State.noteBlock_offAccess, foldl_same State.offAccess, State.mapWarp_offAccess]
  · rfl
  · intro t b
    split
    · rw [State.checkPhase_offAccess, State.setBarrier_offAccess]
    · rfl
/-- The end of lanes changes the blocks, the barriers of their gangs, what is performed first and who waits: nothing else. -/
@[simp] theorem State.exitLanes_offAccess (r : WarpRef) (m : Mask) : (s.exitLanes r m).offAccess = s.offAccess := by
  unfold State.exitLanes
  split
  · rfl
  · dsimp only
    split
    · rfl
    · split
      · rw [State.warpEnd_offAccess, State.setWarp_offAccess]
      · rw [foldl_same State.offAccess _ (fun t b => by rw [State.checkPhase_offAccess, State.checkArrive_offAccess]), State.setWarp_offAccess]

/-! ### Records -/

@[simp] theorem State.hostWrite_offReport (a : Nat) (bs : List Byte) : (s.hostWrite a bs).offReport = s.offReport := rfl
@[simp] theorem State.setVf_offReport (n : Nat) (v : Vf) : (s.setVf n v).offReport = s.offReport := rfl
@[simp] theorem State.irq_offReport (vf : Option Nat) (n : Nat) : (s.irq vf n).offReport = s.offReport := rfl
theorem State.ringRecord?_offReport {t : State} {vf : Nat} {bs : List Byte} (h : s.ringRecord? vf bs = some t) : t.offReport = s.offReport := by
  unfold State.ringRecord? at h
  dsimp only at h
  split at h
  · cases h; rw [State.irq_offReport, State.setVf_offReport, State.hostWrite_offReport, State.hostWrite_offReport]
  · cases h
/-- A report changes host memory, the interface's registers, the count of lost records and what goes to the host: nothing else. -/
@[simp] theorem State.report_offReport (vf kind launch : Nat) (body : List Byte) : (s.report vf kind launch body).offReport = s.offReport := by
  unfold State.report
  dsimp only
  split
  · rename_i t ht
    rw [State.ringRecord?_offReport _ ht, State.setVf_offReport]
  · split
    · rw [State.setVf_offReport, State.setVf_offReport]
    · rfl
@[simp] theorem State.report_blocks (vf kind launch : Nat) (body : List Byte) : (s.report vf kind launch body).blocks = s.blocks := by
  show (s.report vf kind launch body).offReport.blocks = s.offReport.blocks
  rw [State.report_offReport]
@[simp] theorem State.report_warp? (vf kind launch : Nat) (body : List Byte) (r : WarpRef) : (s.report vf kind launch body).warp? r = s.warp? r := by
  unfold State.warp? State.block?; rw [State.report_blocks]
@[simp] theorem State.report_block? (vf kind launch : Nat) (body : List Byte) (k : Nat) : (s.report vf kind launch body).block? k = s.block? k := by
  unfold State.block?; rw [State.report_blocks]

/-! ### What a trap and the end of a step leave alone -/

theorem State.offStep_access {t u : State} (h : t.offAccess = u.offAccess) : t.offStep = u.offStep := by
  unfold State.offStep; rw [h]
theorem State.offStep_report {t u : State} (h : t.offReport = u.offReport) : t.offStep = u.offStep := by
  have : ∀ x : State, x.offStep = x.offReport.offStep := fun _ => rfl
  rw [this t, h, ← this u]
theorem State.takeTrap_offStep (r : WarpRef) (pc : DWord) (m : Mask) (t : Trap) : (s.takeTrap r pc m t).offStep = s.offStep := by
  have h0 : ({ s with issue := none } : State).offStep = s.offStep := rfl
  unfold State.takeTrap
  split
  · dsimp only
    split
    · exact (State.offStep_access (State.setWarp_offAccess _ _ _)).trans h0
    · have h1 : ∀ (w : Warp) (m : Mask), (((({ s with issue := none } : State).setWarp r w).exitLanes r m).mapWarp r Warp.leaveTrap).offStep = s.offStep := fun w m =>
        (State.offStep_access (by rw [State.mapWarp_offAccess, State.exitLanes_offAccess, State.setWarp_offAccess])).trans h0
      split
      · exact ((State.offStep_report (State.report_offReport _ _ _ _ _)).trans (State.offStep_report (State.report_offReport _ _ _ _ _))).trans (h1 _ _)
      · exact (State.offStep_report (State.report_offReport _ _ _ _ _)).trans (h1 _ _)
  · rfl
theorem State.returnTrap_offAccess (r : WarpRef) (mode : RttMode) (n : Nat) : (s.returnTrap r mode n).offAccess = s.offAccess := by
  unfold State.returnTrap
  split
  · split
    · exact State.setWarp_offAccess _ _ _
    · rfl
  · rfl

/-! ### Compares -/

/-- A compare of two integers, as its relation says. -/
theorem intCmp_eq (cmp : Cmp) (sg : Sign) (a b : Word) : intCmp cmp sg a b = match cmp with
    | .eq => decide (extInt sg a = extInt sg b)
    | .ne => decide (extInt sg a ≠ extInt sg b)
    | .lt => decide (extInt sg a < extInt sg b)
    | .le => decide (extInt sg a ≤ extInt sg b)
    | .gt => decide (extInt sg a > extInt sg b)
    | .ge => decide (extInt sg a ≥ extInt sg b) := by
  have he : (a == b) = decide (extInt sg a = extInt sg b) := by
    cases sg
    · simp only [extInt, BitVec.toInt_inj]; by_cases h : a = b <;> simp [h]
    · simp only [extInt, Int.natCast_inj, BitVec.toNat_inj]; by_cases h : a = b <;> simp [h]
  have hl : intCmp cmp sg a b = relOf cmp (decide (extInt sg a < extInt sg b)) (decide (extInt sg a = extInt sg b)) := by
    rw [← he]
    cases sg
    · rfl
    · simp [intCmp, extInt]; try rfl
  rw [hl]
  generalize extInt sg a = x
  generalize extInt sg b = y
  rcases lt_trichotomy x y with h | h | h
  · cases cmp <;> simp [relOf, h, h.ne, h.le, h.not_gt]
  · subst h; cases cmp <;> simp [relOf]
  · cases cmp <;> simp [relOf, h, h.ne', h.le, h.not_gt]
theorem combine_eq (cb : Comb) (t p : Bool) : combine cb t p = match cb with
    | .none => t
    | .and => t && p
    | .or => t || p
    | .andn => t && !p := by cases cb <;> rfl

/-! ### Loads that have nothing left to do -/

/-- Where every load of a warp has made its accesses, nothing is left to make. -/
theorem State.makeLoads_eq_self {s : State} {r : WarpRef} {w : Warp} (hw : s.warp? r = some w) (h : ∀ l ∈ w.late, l.rest = []) : s.makeLoads r = s := by
  have hn : w.late.filter (fun l => !l.rest.isEmpty) = [] := List.filter_eq_nil_iff.2 fun l hl => by simp [h l hl]
  simp only [State.makeLoads, hw, hn, List.foldl_nil]
/-- Where no load of a warp may return a newer value, none is made final. -/
theorem State.closeLoads_eq_self {s : State} {r : WarpRef} {w : Warp} (which : Late → Bool) (sel : Part → Bool) (hw : s.warp? r = some w)
    (h : ∀ l ∈ w.late, l.loose = []) : s.closeLoads r which sel = s := by
  have hn : w.late.filter (fun l => which l && l.loose.any sel) = [] := List.filter_eq_nil_iff.2 fun l hl => by simp [h l hl]
  simp only [State.closeLoads, hw, hn, List.map_nil, List.foldl_nil]

end Sys2Proof.Machine
end

