-- ==== Sys2Proof/Laws/Launch.lean ====
section
/-!
SUPPORT. Launches that end: what ending one leaves of an interface's queues, and who may wait for it.
-/
namespace Sys2Proof.Machine

/-- The read index of every queue, and whether it is halted, are as before: no launch that ends moves them (R328, R335). -/
structure SameQueues (s t : State) : Prop where
  qrd : ∀ n q, ((t.vf n).queue q).qrd = ((s.vf n).queue q).qrd
  halted : ∀ n q, ((t.vf n).queue q).halted = ((s.vf n).queue q).halted

theorem SameQueues.refl (s : State) : SameQueues s s := ⟨fun _ _ => rfl, fun _ _ => rfl⟩
theorem SameQueues.trans {s t u : State} (h : SameQueues s t) (k : SameQueues t u) : SameQueues s u :=
  ⟨fun n q => (k.qrd n q).trans (h.qrd n q), fun n q => (k.halted n q).trans (h.halted n q)⟩
theorem SameQueues.of_vfs {s t : State} (h : t.vfs = s.vfs) : SameQueues s t :=
  ⟨fun _ _ => by simp [State.vf, h], fun _ _ => by simp [State.vf, h]⟩
theorem SameQueues.foldl {α : Type} (f : State → α → State) (h : ∀ t x, SameQueues t (f t x)) (xs : List α) (s : State) : SameQueues s (xs.foldl f s) := by
  induction xs generalizing s with
  | nil => exact .refl s
  | cons x xs ih => exact (h s x).trans (ih (f s x))
/-- A new value of an interface that keeps its queues. -/
theorem SameQueues.setVf {s : State} {n : Nat} {v : Vf} (h : v.queues = (s.vf n).queues) : SameQueues s (s.setVf n v) := by
  constructor <;> intro m q <;> by_cases hm : m = n <;> simp [hm, Vf.queue, h]
/-- A new value of a queue that keeps its read index and its halt. -/
theorem SameQueues.setQueue {s : State} {n k : Nat} {x : Queue} (h1 : x.qrd = ((s.vf n).queue k).qrd) (h2 : x.halted = ((s.vf n).queue k).halted) :
    SameQueues s (s.setQueue n k x) := by
  constructor <;> intro m q <;> by_cases hm : m = n <;> by_cases hq : q = k <;> simp_all [State.setQueue]

theorem State.ringRecord?_sameQueues {s t : State} {n : Nat} {bs : List Byte} (h : s.ringRecord? n bs = some t) : SameQueues s t := by
  unfold State.ringRecord? at h
  simp only at h
  split at h
  · cases h
    refine SameQueues.trans (t := s.setVf n { s.vf n with frwr := (s.vf n).frwr + 1, event := (s.vf n).event ||| 2 }) (.setVf rfl) (.of_vfs rfl)
  · cases h
theorem State.report_sameQueues (s : State) (n kind launch : Nat) (bs : List Byte) : SameQueues s (s.report n kind launch bs) := by
  have h0 : SameQueues s (s.setVf n { s.vf n with records := (s.vf n).records + 1 }) := .setVf rfl
  unfold State.report
  simp only
  split
  · next h => exact h0.trans (State.ringRecord?_sameQueues h)
  · split
    · exact h0.trans (.setVf rfl)
    · exact h0.trans (.of_vfs rfl)
theorem State.post_sameQueues (s : State) (n : Nat) (q : Option Nat) (p : Posting) : SameQueues s (s.post n q p) := by
  unfold State.post
  split
  · exact .setQueue rfl rfl
  · exact .setVf rfl

@[simp] theorem State.spWrite_vfs (s : State) (a : Nat) (bs : List Byte) (w : Option (Nat × Bool)) : (s.spWrite a bs w).vfs = s.vfs := by
  unfold State.spWrite; simp only; split <;> rfl
theorem State.perform_vfs (s : State) (sel : Flight → Bool) (sc : Scope) : (s.perform sel sc).vfs = s.vfs := by
  have h : ∀ (xs : List (Bool × Flight)) (t : State), (xs.foldl (fun t x => t.spWrite x.2.addr x.2.bytes (some (x.2.core, x.2.die))) t).vfs = t.vfs := by
    intro xs; induction xs with
    | nil => intro t; rfl
    | cons x xs ih => intro t; simp [List.foldl, ih]
  unfold State.perform
  cases sc <;> simp [h]
theorem State.settle_vfs (s : State) (a n : Nat) : (s.settle a n).vfs = s.vfs := State.perform_vfs ..
theorem State.startContinuation_sameQueues (s : State) (l : Link) : SameQueues s (s.startContinuation l) := by
  have h : SameQueues s (s.overRecord l) := (SameQueues.of_vfs (State.spWrite_vfs ..)).trans (State.report_sameQueues ..)
  unfold State.startContinuation
  simp only
  split
  · split
    · exact .of_vfs rfl
    · exact h
  · exact h
theorem State.joinStep_sameQueues (s : State) (l : Link) (fault : Bool) : SameQueues s (s.joinStep l fault) := by
  unfold State.joinStep
  simp only
  split
  · exact (SameQueues.of_vfs (State.spWrite_vfs ..)).trans (State.startContinuation_sameQueues ..)
  · exact .of_vfs (State.spWrite_vfs ..)
theorem State.register?_sameQueues {s t : State} {l : Link} {core : Nat} (h : s.register? l core = some t) : SameQueues s t := by
  have h0 : SameQueues s (s.settle l.future 16) := .of_vfs (State.settle_vfs ..)
  unfold State.register? at h
  simp only at h
  split at h
  · split at h
    · cases h
    · cases h; exact h0.trans (.of_vfs (State.spWrite_vfs ..))
  · cases h; exact h0.trans (State.joinStep_sameQueues ..)
theorem State.registerAll_sameQueues (s : State) (b : Block) (xs : List (Nat × Nat)) : SameQueues s (s.registerAll b xs).1 := by
  induction xs generalizing s with
  | nil => exact .refl s
  | cons x xs ih =>
    unfold State.registerAll
    split
    · next h => exact (State.register?_sameQueues h).trans (ih _)
    · exact ih s
theorem State.performWarp_vfs (s : State) (r : WarpRef) (sc : Scope) : (s.performWarp r sc).vfs = s.vfs := by
  show (s.performWarp r sc).offAccess.vfs = s.offAccess.vfs
  rw [State.performWarp_offAccess]
theorem State.queueLinks_vfs (s : State) (r : WarpRef) (rods : Word) (id : Nat) (xs : List (Nat × Nat)) : (s.queueLinks r rods id xs).1.vfs = s.vfs := by
  induction xs generalizing s with
  | nil => rfl
  | cons x xs ih =>
    unfold State.queueLinks
    split
    · exact ih s
    · exact (ih _).trans (State.mapWarp_vfs ..)
theorem State.registerLanes_sameQueues (s : State) (r : WarpRef) (b : Block) (rods : Word) (xs : List (Nat × Nat)) :
    SameQueues s (s.registerLanes r b rods xs).1 := by
  unfold State.registerLanes
  split
  · exact .of_vfs (State.queueLinks_vfs ..)
  · exact (SameQueues.of_vfs (State.performWarp_vfs s r .pkg)).trans (State.registerAll_sameQueues ..)
theorem State.feedTables_sameQueues (s : State) : SameQueues s s.feedTables := by
  refine .foldl _ (fun t x => ?_) _ s
  unfold State.feedRun
  split
  · exact (State.registerLanes_sameQueues ..).trans (.of_vfs (State.mapWarp_vfs ..))
  · exact .refl t
theorem State.resolve?_sameQueues {s t : State} {f : Nat} {v : DWord} {fault : Bool} {tag : Nat} {core : Option Nat}
    (h : s.resolve? f v fault tag core = some t) : SameQueues s t := by
  unfold State.resolve? at h
  simp only at h
  split at h
  · cases h
  · cases h
    refine SameQueues.trans (.of_vfs ?_) ((SameQueues.foldl _ (fun t x => State.joinStep_sameQueues t x fault) _ _).trans (State.feedTables_sameQueues _))
    simp [State.settle_vfs]
theorem State.resolveDone_sameQueues (s : State) (l : Launch) : SameQueues s (s.resolveDone l) := by
  unfold State.resolveDone
  split
  · exact .refl s
  · next a _ =>
    simp only
    split
    · exact State.report_sameQueues ..
    · cases h : s.resolve? (physOf s l.vf a) (pairWord (BitVec.ofNat 32 l.created) (BitVec.ofNat 32 l.status)) (l.status != 0) (l.num % 2 ^ 16) with
      | none => exact State.report_sameQueues ..
      | some t => exact State.resolve?_sameQueues h
theorem State.setLaunch_sameQueues (s : State) (l : Launch) : SameQueues s (s.setLaunch l) := .of_vfs rfl
theorem State.retire_sameQueues (s : State) (ls : List Launch) : SameQueues s (s.retire ls) := by
  refine .foldl _ (fun t x => ?_) ls s
  split
  · exact (State.setLaunch_sameQueues ..).trans (State.resolveDone_sameQueues ..)
  · exact .refl t
theorem State.finish_sameQueues (s : State) (l : Launch) (status : Nat) : SameQueues s (s.finish l status) := by
  unfold State.finish
  simp only
  split
  · exact ((State.setLaunch_sameQueues ..).trans (State.post_sameQueues ..)).trans (State.retire_sameQueues ..)
  · exact (State.setLaunch_sameQueues ..).trans (State.post_sameQueues ..)
theorem State.advance_sameQueues (s : State) (n num : Nat) : SameQueues s (s.advance n num) := by
  unfold State.advance
  split
  · exact .refl s
  · next l _ =>
    split
    · exact .refl s
    · simp only
      have h : ∀ (xs : List Nat) (t : State), SameQueues t (xs.foldl (fun t i => match l.tileDone.find? fun x => x.1 == i with
          | some x => if t.postsTiles n l.queue then t.post n l.queue { tile := true, bytes := tileEntry l i x.2, irq := !l.noirq, launch := num } else t
          | none => t) t) := fun xs t => .foldl _ (fun t i => by
        split
        · split
          · exact State.post_sameQueues ..
          · exact .refl t
        · exact .refl t) xs t
      split
      · exact ((State.setLaunch_sameQueues ..).trans (h _ _)).trans (State.finish_sameQueues ..)
      · exact (State.setLaunch_sameQueues ..).trans (h _ _)
theorem State.tileEnd_sameQueues (n num : Nat) (k : Nat) (s : State) (ds : List (Nat × TileDone)) : SameQueues s (s.tileEnd n num ds k) := by
  have step : ∀ (s : State) (l : Launch), SameQueues s ((s.setLaunch l).advance n num) := fun s l =>
    (State.setLaunch_sameQueues ..).trans (State.advance_sameQueues ..)
  have prune : ∀ (t : State) (bs : List Block), SameQueues t ({ t with blocks := bs } : State).pruneGangs := fun _ _ => .of_vfs rfl
  induction k generalizing s ds with
  | zero =>
    unfold State.tileEnd
    split
    · exact step ..
    · exact .refl s
  | succ k ih =>
    unfold State.tileEnd
    split
    · exact .refl s
    · simp only
      split
      · exact step ..
      · split
        · exact step ..
        · refine .trans ?_ (ih ..)
          exact (step ..).trans (prune ..)
theorem State.noteHead_vfs (s : State) (k : Nat) : (s.noteHead k).vfs = s.vfs := by
  unfold State.noteHead
  dsimp only
  split
  · split <;> rfl
  · rfl
theorem State.noteHeads_vfs (s : State) : s.noteHeads.vfs = s.vfs :=
  foldl_same State.vfs (fun (t : State) (x : Nat × Leaf) => t.noteHead x.1) (fun t x => State.noteHead_vfs t x.1) _ _
/-- Ending a launch moves no read index and halts no queue. -/
theorem State.abortLaunch_sameQueues (s : State) (n num : Nat) (queued : Bool) : SameQueues s (s.abortLaunch n num queued) := by
  unfold State.abortLaunch
  split
  · exact .refl s
  · split
    · exact .refl s
    · simp only
      refine SameQueues.trans (.trans (.of_vfs ?_) (State.setLaunch_sameQueues ..)) (State.tileEnd_sameQueues ..)
      exact (State.noteHeads_vfs _).trans rfl

end Sys2Proof.Machine
end

