-- ==== Sys2Proof/Laws/PerInstr.lean ====
section
/-!
SUPPORT. Laws about every instruction as syntax, one lemma per constructor.
-/
namespace Sys2Proof.Laws

/-- The encoder has a word for the instruction exactly where the row of the opcode table is an instruction word (R51, Table 3-21); a
step of the machine has none. -/
def Encodable.Statement (i : Instr) : Prop := (encode? i).isSome = i.isWord

theorem Encodable.iadd h d a b : Encodable.Statement (.iadd h d a b) := rfl
theorem Encodable.isub h d a b : Encodable.Statement (.isub h d a b) := rfl
theorem Encodable.iadd3 h d a b c : Encodable.Statement (.iadd3 h d a b c) := rfl
theorem Encodable.imul h d a b : Encodable.Statement (.imul h d a b) := rfl
theorem Encodable.imulh h sg d a b : Encodable.Statement (.imulh h sg d a b) := rfl
theorem Encodable.imad h d a b c : Encodable.Statement (.imad h d a b c) := rfl
theorem Encodable.imadw h sg d a b c : Encodable.Statement (.imadw h sg d a b c) := rfl
theorem Encodable.imin h sg d a b : Encodable.Statement (.imin h sg d a b) := rfl
theorem Encodable.imax h sg d a b : Encodable.Statement (.imax h sg d a b) := rfl
theorem Encodable.iabs h d a : Encodable.Statement (.iabs h d a) := rfl
theorem Encodable.ineg h d a : Encodable.Statement (.ineg h d a) := rfl
theorem Encodable.ishl h d a b : Encodable.Statement (.ishl h d a b) := rfl
theorem Encodable.ishr h d a b : Encodable.Statement (.ishr h d a b) := rfl
theorem Encodable.ishra h d a b : Encodable.Statement (.ishra h d a b) := rfl
theorem Encodable.irot h d a b : Encodable.Statement (.irot h d a b) := rfl
theorem Encodable.idot4 h sa sb sat d a b c : Encodable.Statement (.idot4 h sa sb sat d a b c) := rfl
theorem Encodable.iaddi h d a imm : Encodable.Statement (.iaddi h d a imm) := rfl
theorem Encodable.imuli h d a imm : Encodable.Statement (.imuli h d a imm) := rfl
theorem Encodable.lop3 h d a b c tt : Encodable.Statement (.lop3 h d a b c tt) := rfl
theorem Encodable.bfx h sg d a b : Encodable.Statement (.bfx h sg d a b) := rfl
theorem Encodable.bfi h d a b c : Encodable.Statement (.bfi h d a b c) := rfl
theorem Encodable.brev h d a : Encodable.Statement (.brev h d a) := rfl
theorem Encodable.popc h d a : Encodable.Statement (.popc h d a) := rfl
theorem Encodable.clz h d a : Encodable.Statement (.clz h d a) := rfl
theorem Encodable.ctz h d a : Encodable.Statement (.ctz h d a) := rfl
theorem Encodable.prmt h d a b c : Encodable.Statement (.prmt h d a b c) := rfl
theorem Encodable.isetp h cmp sg comb pd a b pc : Encodable.Statement (.isetp h cmp sg comb pd a b pc) := rfl
theorem Encodable.isetpi h cmp sg pd a imm : Encodable.Statement (.isetpi h cmp sg pd a imm) := rfl
theorem Encodable.isel h d a b pc : Encodable.Statement (.isel h d a b pc) := rfl
theorem Encodable.lea h w64 sh d a b : Encodable.Statement (.lea h w64 sh d a b) := rfl
theorem Encodable.mov h d a : Encodable.Statement (.mov h d a) := rfl
theorem Encodable.movi h d imm : Encodable.Statement (.movi h d imm) := rfl
theorem Encodable.movh h d imm : Encodable.Statement (.movh h d imm) := rfl
theorem Encodable.movs h d sr : Encodable.Statement (.movs h d sr) := rfl
theorem Encodable.vrd h d idx : Encodable.Statement (.vrd h d idx) := rfl
theorem Encodable.srd h d idx : Encodable.Statement (.srd h d idx) := rfl
theorem Encodable.vtos h d a : Encodable.Statement (.vtos h d a) := rfl
theorem Encodable.sadd h d a b : Encodable.Statement (.sadd h d a b) := rfl
theorem Encodable.ssub h d a b : Encodable.Statement (.ssub h d a b) := rfl
theorem Encodable.smul h d a b : Encodable.Statement (.smul h d a b) := rfl
theorem Encodable.slop3 h d a b c tt : Encodable.Statement (.slop3 h d a b c tt) := rfl
theorem Encodable.sshl h d a b : Encodable.Statement (.sshl h d a b) := rfl
theorem Encodable.sshr h sg d a b : Encodable.Statement (.sshr h sg d a b) := rfl
theorem Encodable.ssetp h cmp sg comb pd a b pc : Encodable.Statement (.ssetp h cmp sg comb pd a b pc) := rfl
theorem Encodable.smovi h d imm : Encodable.Statement (.smovi h d imm) := rfl
theorem Encodable.smovh h d imm : Encodable.Statement (.smovh h d imm) := rfl
theorem Encodable.fadd h r ftz d a b : Encodable.Statement (.fadd h r ftz d a b) := rfl
theorem Encodable.fsub h r ftz d a b : Encodable.Statement (.fsub h r ftz d a b) := rfl
theorem Encodable.fmul h r ftz d a b : Encodable.Statement (.fmul h r ftz d a b) := rfl
theorem Encodable.ffma h r ftz d a b c : Encodable.Statement (.ffma h r ftz d a b c) := rfl
theorem Encodable.fmin h ftz d a b : Encodable.Statement (.fmin h ftz d a b) := rfl
theorem Encodable.fmax h ftz d a b : Encodable.Statement (.fmax h ftz d a b) := rfl
theorem Encodable.fsetp h cmp un comb ftz pd a b pc : Encodable.Statement (.fsetp h cmp un comb ftz pd a b pc) := rfl
theorem Encodable.frnd h r ftz d a : Encodable.Statement (.frnd h r ftz d a) := rfl
theorem Encodable.fclass h f d a : Encodable.Statement (.fclass h f d a) := rfl
theorem Encodable.fscale h r ftz d a b : Encodable.Statement (.fscale h r ftz d a b) := rfl
theorem Encodable.dadd h r ftz d a b : Encodable.Statement (.dadd h r ftz d a b) := rfl
theorem Encodable.dsub h r ftz d a b : Encodable.Statement (.dsub h r ftz d a b) := rfl
theorem Encodable.dmul h r ftz d a b : Encodable.Statement (.dmul h r ftz d a b) := rfl
theorem Encodable.dfma h r ftz d a b c : Encodable.Statement (.dfma h r ftz d a b c) := rfl
theorem Encodable.dmin h ftz d a b : Encodable.Statement (.dmin h ftz d a b) := rfl
theorem Encodable.dmax h ftz d a b : Encodable.Statement (.dmax h ftz d a b) := rfl
theorem Encodable.dsetp h cmp un comb ftz pd a b pc : Encodable.Statement (.dsetp h cmp un comb ftz pd a b pc) := rfl
theorem Encodable.drnd h r ftz d a : Encodable.Statement (.drnd h r ftz d a) := rfl
theorem Encodable.hadd2 h r ftz bf d a b : Encodable.Statement (.hadd2 h r ftz bf d a b) := rfl
theorem Encodable.hmul2 h r ftz bf d a b : Encodable.Statement (.hmul2 h r ftz bf d a b) := rfl
theorem Encodable.hfma2 h r ftz bf d a b c : Encodable.Statement (.hfma2 h r ftz bf d a b c) := rfl
theorem Encodable.hmin2 h ftz bf d a b : Encodable.Statement (.hmin2 h ftz bf d a b) := rfl
theorem Encodable.hmax2 h ftz bf d a b : Encodable.Statement (.hmax2 h ftz bf d a b) := rfl
theorem Encodable.hsetp2 h cmp un comb ftz bf pd a b pc : Encodable.Statement (.hsetp2 h cmp un comb ftz bf pd a b pc) := rfl
theorem Encodable.cvt h dst src r sat d a : Encodable.Statement (.cvt h dst src r sat d a) := rfl
theorem Encodable.cvti h dst src r sat d a : Encodable.Statement (.cvti h dst src r sat d a) := rfl
theorem Encodable.qscl h band sat d a b : Encodable.Statement (.qscl h band sat d a b) := rfl
theorem Encodable.qpk4 h d a b : Encodable.Statement (.qpk4 h d a b) := rfl
theorem Encodable.qxp4 h r d a b : Encodable.Statement (.qxp4 h r d a b) := rfl
theorem Encodable.sfq h fn ftz q a : Encodable.Statement (.sfq h fn ftz q a) := rfl
theorem Encodable.qpop h d q : Encodable.Statement (.qpop h d q) := rfl
theorem Encodable.qlen h d q : Encodable.Statement (.qlen h d q) := rfl
theorem Encodable.shfl h mode w64 d a b pl : Encodable.Statement (.shfl h mode w64 d a b pl) := rfl
theorem Encodable.qex h dir w64 d a : Encodable.Statement (.qex h dir w64 d a) := rfl
theorem Encodable.vote h k pd pa : Encodable.Statement (.vote h k pd pa) := rfl
theorem Encodable.ballot h d pa : Encodable.Statement (.ballot h d pa) := rfl
theorem Encodable.matchv h w64 d a : Encodable.Statement (.matchv h w64 d a) := rfl
theorem Encodable.redux h op d a : Encodable.Statement (.redux h op d a) := rfl
theorem Encodable.scan h op exc d a : Encodable.Statement (.scan h op exc d a) := rfl
theorem Encodable.topk h k d a : Encodable.Statement (.topk h k d a) := rfl
theorem Encodable.regrp h desc d a n j : Encodable.Statement (.regrp h desc d a n j) := rfl
theorem Encodable.elect h pd : Encodable.Statement (.elect h pd) := rfl
theorem Encodable.actm h d : Encodable.Statement (.actm h d) := rfl
theorem Encodable.bra h imm : Encodable.Statement (.bra h imm) := rfl
theorem Encodable.brx h a : Encodable.Statement (.brx h a) := rfl
theorem Encodable.call h imm : Encodable.Statement (.call h imm) := rfl
theorem Encodable.callx h a frame : Encodable.Statement (.callx h a frame) := rfl
theorem Encodable.ret h : Encodable.Statement (.ret h) := rfl
theorem Encodable.exit h : Encodable.Statement (.exit h) := rfl
theorem Encodable.yield h : Encodable.Statement (.yield h) := rfl
theorem Encodable.nap h n : Encodable.Statement (.nap h n) := rfl
theorem Encodable.trap h n : Encodable.Statement (.trap h n) := rfl
theorem Encodable.bkpt h n : Encodable.Statement (.bkpt h n) := rfl
theorem Encodable.rtt h mode : Encodable.Statement (.rtt h mode) := rfl
theorem Encodable.nop h : Encodable.Statement (.nop h) := rfl
theorem Encodable.jenter h j : Encodable.Statement (.jenter h j) := rfl
theorem Encodable.jquit h j : Encodable.Statement (.jquit h j) := rfl
theorem Encodable.jquitm h mask : Encodable.Statement (.jquitm h mask) := rfl
theorem Encodable.jwait h j : Encodable.Statement (.jwait h j) := rfl
theorem Encodable.jtest h k pd j : Encodable.Statement (.jtest h k pd j) := rfl
theorem Encodable.jmask h part d j : Encodable.Statement (.jmask h part d j) := rfl
theorem Encodable.bari h bar warps b : Encodable.Statement (.bari h bar warps b) := rfl
theorem Encodable.barx h bar b : Encodable.Statement (.barx h bar b) := rfl
theorem Encodable.bara h d bar : Encodable.Statement (.bara h d bar) := rfl
theorem Encodable.barw h bar b : Encodable.Statement (.barw h bar b) := rfl
theorem Encodable.bar h bar : Encodable.Statement (.bar h bar) := rfl
theorem Encodable.barq h pd bar b : Encodable.Statement (.barq h pd bar b) := rfl
theorem Encodable.lds h sz ord d ad : Encodable.Statement (.lds h sz ord d ad) := rfl
theorem Encodable.sts h sz ord d ad : Encodable.Statement (.sts h sz ord d ad) := rfl
theorem Encodable.ldx h sz ord sc d ad : Encodable.Statement (.ldx h sz ord sc d ad) := rfl
theorem Encodable.stx h sz ord sc d ad : Encodable.Statement (.stx h sz ord sc d ad) := rfl
theorem Encodable.ldk h sz d ad : Encodable.Statement (.ldk h sz d ad) := rfl
theorem Encodable.stk h sz d ad : Encodable.Statement (.stk h sz d ad) := rfl
theorem Encodable.ldw h wide ord sc d ad : Encodable.Statement (.ldw h wide ord sc d ad) := rfl
theorem Encodable.atoms h op o d a b c : Encodable.Statement (.atoms h op o d a b c) := rfl
theorem Encodable.atomx h op o sc d a b c : Encodable.Statement (.atomx h op o sc d a b c) := rfl
theorem Encodable.redx h op o sc a b : Encodable.Statement (.redx h op o sc a b) := rfl
theorem Encodable.fence h k sc : Encodable.Statement (.fence h k sc) := rfl
theorem Encodable.fencer h rel all sc dyn mask sA : Encodable.Statement (.fencer h rel all sc dyn mask sA) := rfl
theorem Encodable.roddef h rs k a b : Encodable.Statement (.roddef h rs k a b) := rfl
theorem Encodable.ldf h wide d ad : Encodable.Statement (.ldf h wide d ad) := rfl
theorem Encodable.fres h d ad : Encodable.Statement (.fres h d ad) := rfl
theorem Encodable.fflt h d ad : Encodable.Statement (.fflt h d ad) := rfl
theorem Encodable.freg h d ad : Encodable.Statement (.freg h d ad) := rfl
theorem Encodable.fpoll h wide d ad : Encodable.Statement (.fpoll h wide d ad) := rfl
theorem Encodable.spawn h noargs pd a b c : Encodable.Statement (.spawn h noargs pd a b c) := rfl
theorem Encodable.lnch h pd a b c : Encodable.Statement (.lnch h pd a b c) := rfl
theorem Encodable.mma h st j d a b c : Encodable.Statement (.mma h st j d a b c) := rfl
theorem Encodable.mmas h st j d a b c : Encodable.Statement (.mmas h st j d a b c) := rfl
theorem Encodable.mmat h st j d a b c : Encodable.Statement (.mmat h st j d a b c) := rfl
theorem Encodable.msync h st : Encodable.Statement (.msync h st) := rfl
theorem Encodable.mchg h st d : Encodable.Statement (.mchg h st d) := rfl
theorem Encodable.bcp h dst src bar a : Encodable.Statement (.bcp h dst src bar a) := rfl
theorem Encodable.bcpp h pull scr bar a p g : Encodable.Statement (.bcpp h pull scr bar a p g) := rfl
theorem Encodable.bmc h src bar a mask : Encodable.Statement (.bmc h src bar a mask) := rfl
theorem Encodable.bga h dst src bar a ix : Encodable.Statement (.bga h dst src bar a ix) := rfl
theorem Encodable.bsc h dst src bar a ix : Encodable.Statement (.bsc h dst src bar a ix) := rfl
theorem Encodable.bfill h dst bar a : Encodable.Statement (.bfill h dst bar a) := rfl
theorem Encodable.bpfx h bar a : Encodable.Statement (.bpfx h bar a) := rfl
theorem Encodable.vmark h pd a b : Encodable.Statement (.vmark h pd a b) := rfl
theorem Encodable.vstamp h gen d a b : Encodable.Statement (.vstamp h gen d a b) := rfl
theorem Encodable.vwait h all pd a b : Encodable.Statement (.vwait h all pd a b) := rfl
theorem Encodable.vrefr h all pd a b : Encodable.Statement (.vrefr h all pd a b) := rfl
theorem Encodable.iaddPaired p : Encodable.Statement (.iaddPaired p) := rfl
theorem Encodable.isubPaired p : Encodable.Statement (.isubPaired p) := rfl
theorem Encodable.iminPaired p : Encodable.Statement (.iminPaired p) := rfl
theorem Encodable.imaxPaired p : Encodable.Statement (.imaxPaired p) := rfl
theorem Encodable.andPaired p : Encodable.Statement (.andPaired p) := rfl
theorem Encodable.orPaired p : Encodable.Statement (.orPaired p) := rfl
theorem Encodable.xorPaired p : Encodable.Statement (.xorPaired p) := rfl
theorem Encodable.andnPaired p : Encodable.Statement (.andnPaired p) := rfl
theorem Encodable.ishlPaired p : Encodable.Statement (.ishlPaired p) := rfl
theorem Encodable.ishrPaired p : Encodable.Statement (.ishrPaired p) := rfl
theorem Encodable.ishraPaired p : Encodable.Statement (.ishraPaired p) := rfl
theorem Encodable.movPaired p : Encodable.Statement (.movPaired p) := rfl
theorem Encodable.inegPaired p : Encodable.Statement (.inegPaired p) := rfl
theorem Encodable.iabsPaired p : Encodable.Statement (.iabsPaired p) := rfl
theorem Encodable.popcPaired p : Encodable.Statement (.popcPaired p) := rfl
theorem Encodable.clzPaired p : Encodable.Statement (.clzPaired p) := rfl
theorem Encodable.brevPaired p : Encodable.Statement (.brevPaired p) := rfl
theorem Encodable.movsPaired p : Encodable.Statement (.movsPaired p) := rfl
theorem Encodable.imulPaired p : Encodable.Statement (.imulPaired p) := rfl
theorem Encodable.faddPaired p : Encodable.Statement (.faddPaired p) := rfl
theorem Encodable.fsubPaired p : Encodable.Statement (.fsubPaired p) := rfl
theorem Encodable.fmulPaired p : Encodable.Statement (.fmulPaired p) := rfl
theorem Encodable.fminPaired p : Encodable.Statement (.fminPaired p) := rfl
theorem Encodable.fmaxPaired p : Encodable.Statement (.fmaxPaired p) := rfl
theorem Encodable.fnegPaired p : Encodable.Statement (.fnegPaired p) := rfl
theorem Encodable.fabsPaired p : Encodable.Statement (.fabsPaired p) := rfl
theorem Encodable.hadd2Paired p : Encodable.Statement (.hadd2Paired p) := rfl
theorem Encodable.hmul2Paired p : Encodable.Statement (.hmul2Paired p) := rfl
theorem Encodable.hmin2Paired p : Encodable.Statement (.hmin2Paired p) := rfl
theorem Encodable.hmax2Paired p : Encodable.Statement (.hmax2Paired p) := rfl
theorem Encodable.issueOpportunity quad : Encodable.Statement (.issueOpportunity quad) := rfl
theorem Encodable.yieldWindowEnd w : Encodable.Statement (.yieldWindowEnd w) := rfl
theorem Encodable.napWake w : Encodable.Statement (.napWake w) := rfl
theorem Encodable.stallExpiry w : Encodable.Statement (.stallExpiry w) := rfl
theorem Encodable.fixedLatencyLanding w : Encodable.Statement (.fixedLatencyLanding w) := rfl
theorem Encodable.resultLanding w id : Encodable.Statement (.resultLanding w id) := rfl
theorem Encodable.storeDrain w sc n : Encodable.Statement (.storeDrain w sc n) := rfl
theorem Encodable.sfqFill w lane q : Encodable.Statement (.sfqFill w lane q) := rfl
theorem Encodable.waitTableWake addr : Encodable.Statement (.waitTableWake addr) := rfl
theorem Encodable.waitTableReread w lane : Encodable.Statement (.waitTableReread w lane) := rfl
theorem Encodable.blockEnd blk : Encodable.Statement (.blockEnd blk) := rfl
theorem Encodable.matrixOpStart core : Encodable.Statement (.matrixOpStart core) := rfl
theorem Encodable.matrixOpComplete op : Encodable.Statement (.matrixOpComplete op) := rfl
theorem Encodable.transferChunk job chunk : Encodable.Statement (.transferChunk job chunk) := rfl
theorem Encodable.remoteSignal vf dev peerVf addr val : Encodable.Statement (.remoteSignal vf dev peerVf addr val) := rfl
theorem Encodable.peerRowResend job row : Encodable.Statement (.peerRowResend job row) := rfl
theorem Encodable.taskStart vf n pl : Encodable.Statement (.taskStart vf n pl) := rfl
theorem Encodable.continuationStart vf n pl : Encodable.Statement (.continuationStart vf n pl) := rfl
theorem Encodable.viewRefresh vf handle : Encodable.Statement (.viewRefresh vf handle) := rfl
theorem Encodable.walkStart vf num : Encodable.Statement (.walkStart vf num) := rfl
theorem Encodable.walkTile vf num : Encodable.Statement (.walkTile vf num) := rfl
theorem Encodable.tileHandoff vf num : Encodable.Statement (.tileHandoff vf num) := rfl
theorem Encodable.leafAccept leaf : Encodable.Statement (.leafAccept leaf) := rfl
theorem Encodable.blockCreate leaf n pl : Encodable.Statement (.blockCreate leaf n pl) := rfl
theorem Encodable.gangPlace leaf n pls : Encodable.Statement (.gangPlace leaf n pls) := rfl
theorem Encodable.gangAgeExpiry leaf : Encodable.Statement (.gangAgeExpiry leaf) := rfl
theorem Encodable.completionPost vf q : Encodable.Statement (.completionPost vf q) := rfl
theorem Encodable.rampInterval die : Encodable.Statement (.rampInterval die) := rfl
theorem Encodable.commandHoldRelease vf q : Encodable.Statement (.commandHoldRelease vf q) := rfl
theorem Encodable.quantumExpiry vf q : Encodable.Statement (.quantumExpiry vf q) := rfl
theorem Encodable.engineGroupIdle vf g : Encodable.Statement (.engineGroupIdle vf g) := rfl
theorem Encodable.preemptRequest blk : Encodable.Statement (.preemptRequest blk) := rfl
theorem Encodable.preemptSave blk : Encodable.Statement (.preemptSave blk) := rfl
theorem Encodable.blockResume blk pls : Encodable.Statement (.blockResume blk pls) := rfl
theorem Encodable.softError : Encodable.Statement (.softError) := rfl
theorem Encodable.uncorrectableError t : Encodable.Statement (.uncorrectableError t) := rfl
theorem Encodable.storeQueueLoss w n : Encodable.Statement (.storeQueueLoss w n) := rfl
theorem Encodable.dispatchCoreError : Encodable.Statement (.dispatchCoreError) := rfl
theorem Encodable.queueTableError vf q : Encodable.Statement (.queueTableError vf q) := rfl
theorem Encodable.qwrWrite vf q val : Encodable.Statement (.qwrWrite vf q val) := rfl
theorem Encodable.launch vf q : Encodable.Statement (.launch vf q) := rfl
theorem Encodable.bundle vf q : Encodable.Statement (.bundle vf q) := rfl
theorem Encodable.wrdesc vf q : Encodable.Statement (.wrdesc vf q) := rfl
theorem Encodable.wrrec vf q : Encodable.Statement (.wrrec vf q) := rfl
theorem Encodable.migrate vf q : Encodable.Statement (.migrate vf q) := rfl
theorem Encodable.migrationComplete vf handle tile : Encodable.Statement (.migrationComplete vf handle tile) := rfl
theorem Encodable.viewreg vf q handle addrs : Encodable.Statement (.viewreg vf q handle addrs) := rfl
theorem Encodable.viewdereg vf q : Encodable.Statement (.viewdereg vf q) := rfl
theorem Encodable.inval vf q : Encodable.Statement (.inval vf q) := rfl
theorem Encodable.suspend vf q : Encodable.Statement (.suspend vf q) := rfl
theorem Encodable.resume vf q : Encodable.Statement (.resume vf q) := rfl
theorem Encodable.abort vf q : Encodable.Statement (.abort vf q) := rfl
theorem Encodable.status vf q : Encodable.Statement (.status vf q) := rfl
theorem Encodable.fresp vf q : Encodable.Statement (.fresp vf q) := rfl
theorem Encodable.hostBar2Write vf off bytes : Encodable.Statement (.hostBar2Write vf off bytes) := rfl
theorem Encodable.hostBar2Read bar off len : Encodable.Statement (.hostBar2Read bar off len) := rfl
theorem Encodable.hostBar4Access vf off write len : Encodable.Statement (.hostBar4Access vf off write len) := rfl
theorem Encodable.unsupportedRequest posted : Encodable.Statement (.unsupportedRequest posted) := rfl
theorem Encodable.qcrdWrite vf q val : Encodable.Statement (.qcrdWrite vf q val) := rfl
theorem Encodable.firmwareLoad len : Encodable.Statement (.firmwareLoad len) := rfl
theorem Encodable.attest : Encodable.Statement (.attest) := rfl
theorem Encodable.timesetWrite ns : Encodable.Statement (.timesetWrite ns) := rfl
theorem Encodable.ppsPulse : Encodable.Statement (.ppsPulse) := rfl
theorem Encodable.vfcluWrite vf mask : Encodable.Statement (.vfcluWrite vf mask) := rfl
theorem Encodable.vfctlEnWrite vf en : Encodable.Statement (.vfctlEnWrite vf en) := rfl
theorem Encodable.functionLevelReset vf : Encodable.Statement (.functionLevelReset vf) := rfl
theorem Encodable.zeroingComplete vf : Encodable.Statement (.zeroingComplete vf) := rfl
theorem Encodable.registerWrite vf off val : Encodable.Statement (.registerWrite vf off val) := rfl
theorem Encodable.deviceReset : Encodable.Statement (.deviceReset) := rfl
theorem Encodable.selfTestComplete failure : Encodable.Statement (.selfTestComplete failure) := rfl
theorem Encodable.fullServiceEntry : Encodable.Statement (.fullServiceEntry) := rfl
theorem Encodable.powerWindow watts : Encodable.Statement (.powerWindow watts) := rfl
theorem Encodable.fabricRequest vf dev peerVf r : Encodable.Statement (.fabricRequest vf dev peerVf r) := rfl
theorem Encodable.fabricPortFailure port : Encodable.Statement (.fabricPortFailure port) := rfl
theorem Encodable.flushingReadComplete vf : Encodable.Statement (.flushingReadComplete vf) := rfl
theorem Encodable.fabricResponse job row a : Encodable.Statement (.fabricResponse job row a) := rfl
theorem Encodable.fabricPortTrained port : Encodable.Statement (.fabricPortTrained port) := rfl

end Sys2Proof.Laws
end

