-- ==== Sys2Proof/Tests/Slice0.lean ====
section
/-!
SUPPORT. Tests: words the manual writes out, ill-formed terms, results computed by hand from the manual's tables, and for each
statement a concrete state and operands that meet its hypotheses. `decide` evaluates each.
-/
open Sys2Proof Sys2Proof.Machine
namespace Sys2Proof.Tests
set_option Elab.async false

/-! ### Decoding: words written out from the manual's encodings (Tables 3-9 to 3-16 and 3-21; the examples of chapters 7 to 15) -/

abbrev H : Hdr := ⟨0, false, false, 7⟩
/-- Under ?p1. -/
abbrev H1 : Hdr := ⟨0, false, false, 1⟩
/-- A full-form word written field by field (Table 3-9): 0, STALL, Y, GN, GP, OP, D, A, B, C, M. -/
def wordOf (stall : BitVec 3) (y gn : BitVec 1) (gp : BitVec 3) (op : BitVec 9) (d a b c : BitVec 10) (m : BitVec 6) : BitVec 64 :=
  0#1 ++ stall ++ y ++ gn ++ gp ++ op ++ d ++ a ++ b ++ c ++ m

theorem test_decode_integer :
    decode (0b0#1 ++ 0b000#3 ++ 0b0#1 ++ 0b0#1 ++ 0b111#3 ++ 0b000000000#9 ++ 8#10 ++ 1#10 ++ 2#10 ++ 0#10 ++ 0b000000#6) = .ok (.iadd H 8 1 (.v 2))
    ∧ decode 0x3383C0400402036A = .ok (.lop3 ⟨3, false, false, 7⟩ 4 1 2 3 0x6A) := by decide
theorem test_decode_float :
    decode 0x0390C06008030101 = .ok (.ffma H .rz false 6 2 (.v 3) 4)
    ∧ decode 0x039C009020120000 = .ok (.cvt H .bf16 .f32 .rn false 9 8) := by decide
theorem test_decode_lanes : decode 0x03A400200C050063 = .ok (.shfl H .xor false 2 3 (.s 5) 1) := by decide
theorem test_decode_control :
    decode 0x00B0000003FFFFFF = .ok (.bra H1 (-1)) ∧ decode 0x03B0C00018000100 = .ok (.callx H 6 4)
    ∧ decode 0x03B2000000000007 = .ok (.trap H 7) ∧ decode 0x03B2800000000002 = .ok (.rtt H .skip) := by decide
theorem test_decode_sets :
    decode 0x03B4C00000000003 = .ok (.jwait H 3) ∧ decode 0x0134800000000600 = .ok (.jquitm ⟨0, false, false, 2⟩ 6) := by decide
theorem test_decode_barriers :
    decode 0x03B8000000140060 = .ok (.bari H ⟨false, 0⟩ 1 (.s 20)) ∧ decode 0x03B9000004000010 = .ok (.bar H ⟨true, 1⟩) := by decide
theorem test_decode_memory :
    decode 0x03C080302200040A = .ok (.ldx H .b4 true .pkg 3 ⟨false, 8, 16⟩)
    ∧ decode 0x03C0C0602900100A = .ok (.stx H .b4 true .die 6 ⟨false, 10, 64⟩) := by decide
theorem test_decode_atomics :
    decode 0x03C2404023020002 = .ok (.atomx H .add32 .ar .pkg 4 8 2 0) ∧ decode 0x03C2404020020000 = .ok (.atomx H .add32 .rlx .core 4 8 2 0)
    ∧ decode 0x03C24040210200EE = .ok (.atomx H .cas32 .acq .pkg 4 8 2 3) := by decide
theorem test_decode_fence : decode 0x03C4400000040106 = .ok (.fencer H true false .pkg false 257 0) := by decide
theorem test_decode_futures :
    decode 0x00C8402030000023 = .ok (.fres H1 2 ⟨true, 12, 0⟩) ∧ decode 0x03C8C06028000023 = .ok (.freg H 6 ⟨true, 10, 0⟩)
    ∧ decode 0x03C8008038000023 = .ok (.ldf H false 8 ⟨true, 14, 0⟩) ∧ decode 0x03C9002000000023 = .ok (.fpoll H false 2 ⟨true, 0, 0⟩) := by decide
theorem test_decode_spawn : decode 0x03CA001000020520 = .ok (.spawn H false 1 0 2 20) := by decide
theorem test_decode_matrix :
    decode 0x03D0000080301000 = .ok (.mma H 0 0 0 32 48 64) ∧ decode 0x03D0800010301100 = .ok (.mmat H 0 0 0 4 48 68)
    ∧ decode 0x03D0C00000000010 = .ok (.msync H 1) := by decide
theorem test_decode_transfers :
    decode 0x03D4000040000002 = .ok (.bcp H .sh .mm 0 16) ∧ decode 0x03D48000400003C6 = .ok (.bmc H .sp 0 16 15) := by decide
theorem test_decode_views :
    decode 0x03D8001010050020 = .ok (.vmark H 1 4 5) ∧ decode 0x03D8404020090021 = .ok (.vstamp H true 4 8 9)
    ∧ decode 0x03D8802020090020 = .ok (.vwait H false 2 8 9) := by decide
theorem test_decode_paired :
    decode 0x8002005C120A0570 = .ok (.iaddPaired ⟨0, ⟨8, 1, false, 7, .rn, false⟩, .fmul, ⟨10, 5, false, 7, .rn, false⟩⟩)
    ∧ decode 0xC701819C1C070770 = .ok (.movsPaired ⟨4, ⟨6, 6, false, 7, .rn, false⟩, .movs, ⟨7, 7, false, 7, .rn, false⟩⟩) := by decide
/-- Words written field by field (Table 3-9): one of each of the groups' plain formats. -/
theorem test_decode_fields :
    decode (wordOf 0 0 0 7 0x000 4 1 2 0 0) = .ok (.iadd H 4 1 (.v 2))
    ∧ decode (wordOf 5 1 1 7 0x001 4 1 3 0 0x20) = .ok (.isub ⟨5, true, true, 7⟩ 4 1 (.s 3))
    ∧ decode (wordOf 0 0 0 7 0x012 4 1 0 0 0) = .ok (.brev H 4 1) ∧ decode (wordOf 0 0 0 7 0x028 4 1 2 0 0) = .ok (.sadd H 4 1 2)
    ∧ decode (wordOf 0 0 0 7 0x02F 4 0 0x3FF 0x3FF 0x3F) = .ok (.smovi H 4 (-1)) ∧ decode (wordOf 0 0 0 7 0x050 4 2 6 0 0) = .ok (.dadd H .rn false 4 2 (.v 6))
    ∧ decode (wordOf 0 0 0 7 0x0D0 0 0 0 0 5) = .ok (.jenter H 5) ∧ decode (wordOf 0 0 0 7 0x144 8 0 0 0 0) = .ok (.mchg H 0 8) := by decide
/-- R73: an unassigned OP, a used reserved field, an unassigned paired opcode in each slot. -/
theorem test_decode_rejects :
    decode (wordOf 0 0 0 7 0x1FF 0 0 0 0 0) = .error ⟨1, 0, 0x1FF⟩ ∧ decode (wordOf 0 0 0 7 0x000 4 1 2 1 0) = .error ⟨2, 0, 0⟩
    ∧ decode 0x87820070000000F0 = .error ⟨1, 1, 0x1E⟩ := by decide
/-- A pull names no signal register (R248), and a conversion to E2M1 takes no mode, whatever its source code (R118): fields that must be 0. -/
theorem test_decode_must_be_zero :
    decode (wordOf 0 0 0 7 0x151 0 16 0 0 0b110001) = .ok (.bcpp H true true 0 16 0 0) ∧ decode (wordOf 0 0 0 7 0x151 0 16 0 1 0b110001) = .error ⟨2, 0, 0⟩
    ∧ decode (wordOf 0 0 0 7 0x151 0 16 0 2 0b110001) = .error ⟨2, 0, 0⟩ ∧ decode (wordOf 0 0 0 7 0x070 9 8 0x76 0 1) = .error ⟨2, 0, 0⟩ := by decide

/-! ### Well-formedness: an ill-formed term for each check -/

theorem test_wf_alignment : ∀ i ∈ [Instr.imadw H .s 5 0 (.v 0) 0, .imadw H .s 4 0 (.v 0) 1, .lea H true 0 4 1 (.v 0), .vrd H 5 0x18,
    .srd H 5 0x18, .fclass H .f64 0 1, .dadd H .rn false 5 0 (.v 0), .dsub H .rn false 4 1 (.v 0), .dmul H .rn false 4 0 (.v 3),
    .dmin H false 4 0 (.s 3), .dmax H false 5 0 (.v 0), .dfma H .rn false 4 0 (.v 0) 7, .dsetp H .eq false .none false 0 1 (.v 0) 0,
    .drnd H .rn false 5 0, .cvt H .f64 .f32 .rn false 5 0, .cvti H .f32 .i64 .rn false 4 1, .qpk4 H 0 4 (.v 0), .qxp4 H .rn 4 0 (.v 0),
    .shfl H .idx true 5 0 (.v 0) 0, .qex H .h true 4 1, .matchv H true 0 1, .brx H 1, .callx H 1 0, .lds H .b8 false 5 ⟨false, 0, 0⟩,
    .sts H .b16 false 6 ⟨false, 0, 0⟩, .ldx H .b4 false .core 0 ⟨false, 1, 0⟩, .stx H .b4 false .core 0 ⟨true, 1, 0⟩,
    .ldw H true false .core 5 ⟨false, 0, 0⟩, .atoms H .add64 .rlx 5 0 0 0, .atomx H .add32 .rlx .core 4 1 0 0,
    .redx H .add64 .rlx .core 0 1, .roddef H .sp 0 1 0, .ldf H true 6 ⟨false, 0, 0⟩, .fpoll H false 5 ⟨false, 0, 0⟩, .fres H 5 ⟨false, 0, 0⟩,
    .freg H 4 ⟨false, 1, 0⟩, .spawn H false 0 0 1 0, .lnch H 0 0 1 0, .bcp H .sh .mm 0 4, .bmc H .sp 0 4 1, .bfill H .sh 0 4, .bpfx H 0 4,
    .bcpp H true true 0 16 0 1, .bga H .sh .mm 0 16 1, .bsc H .sh .mm 0 4 0, .vstamp H false 5 0 0], i.wf = false := by decide
theorem test_wf_fields : ∀ i ∈ [Instr.isetp H .eq .s .none 0 0 (.v 0) 1, .fsetp H .eq false .none false 0 0 (.v 0) 1,
    .hsetp2 H .eq false .none false false 0 0 (.v 0) 1, .ssetp H .eq .s .none 0 0 0 1, .vrd H 4 0x06,
    .srd H 4 0, .sadd ⟨0, false, false, 1⟩ 0 0 0, .smovi ⟨0, false, true, 7⟩ 0 0, .cvt H .f32 .i32 .rn false 0 0, .cvti H .f32 .f16 .rn false 0 0,
    .cvti H .i8 .i32 .rz false 0 0, .qscl H true true 0 0 (.v 0), .qscl H true false 0 0 (.v 1), .topk H 0 4 0, .topk H 9 4 0,
    .regrp H false 0 0 0 0, .regrp H false 0 0 65 0, .bari H ⟨true, 4⟩ 1 (.v 0), .bari H ⟨false, 0⟩ 65 (.v 0), .barx H ⟨true, 0⟩ (.v 0),
    .bara H 0 ⟨true, 4⟩, .barw H ⟨true, 5⟩ (.v 0), .bar H ⟨true, 6⟩, .barq H 0 ⟨true, 7⟩ (.v 0), .lds H .b4 false 0 ⟨true, 128, 0⟩,
    .ldx H .b4 false .pkg 0 ⟨false, 0, 0⟩, .ldw H false false .die 0 ⟨false, 0, 0⟩, .atoms H .add32 .rlx 0 0 0 1, .redx H .cas32 .rlx .core 0 0,
    .redx H .exch32 .rlx .core 0 0, .redx H .add32 .acq .core 0 0, .redx H .add32 .ar .core 0 0, .fencer H true false .core false 1 1,
    .spawn H true 0 0 2 0, .bcpp H true true 0 16 0 2, .vwait H true 0 0 1, .vrefr H true 0 0 1, .iaddPaired ⟨0, ⟨0, 0, false, 7, .rz, false⟩, .iadd, ⟨0, 0, false, 7, .rn, false⟩⟩,
    .iaddPaired ⟨0, ⟨0, 0, false, 7, .rn, true⟩, .iadd, ⟨0, 0, false, 7, .rn, false⟩⟩,
    .iaddPaired ⟨0, ⟨0, 0, false, 7, .rn, false⟩, .movs, ⟨0, 128, false, 7, .rn, false⟩⟩], i.wf = false := by decide

/-! ### States for tests -/

/-- The warp that `withFetchWord` places after reset. -/
def me : WarpRef := ⟨0, 0⟩
/-- The machine about to issue the word after reset, its warp changed by `f`. -/
def probe (i : Instr) (f : Warp → Warp := id) : State := (State.reset.withFetchWord 64 (encode i).toNat).mapWarp me f
/-- The same with one live lane. -/
def solo (i : Instr) (f : Warp → Warp := id) : State :=
  { probe i fun w => f { w with
      live := 1
      helpers := 0
      runs := w.runs.map fun r => { r with lanes := 1 } } with issue := some ⟨me, 1, none⟩ }
/-- The vector registers of lane 0, from v0 on; the scalar registers, from s0 on; a predicate of lane 0. -/
def vregs (xs : List Word) (w : Warp) : Warp := (xs.zip (List.range xs.length)).foldl (fun w x => w.put (.v 0 x.2) x.1) w
def sregs (xs : List Word) (w : Warp) : Warp := (xs.zip (List.range xs.length)).foldl (fun w x => w.put (.s x.2) x.1) w
/-- The warp, and the block, after a step. -/
def warpAfter (s : State) : Option Warp := match step s with
  | .next t => t.warp? me
  | _ => none
def after (s : State) : Option State := match step s with
  | .next t => some t
  | _ => none
/-- What a step queues for a register: a fixed-latency or a scoreboarded result. -/
def queuedFor (s : State) (r : RegId) : Option Word := (warpAfter s).bind fun w =>
  match w.pend.find? fun p => p.reg == r with
  | some p => some p.val
  | none => (w.late.findSome? fun l => (l.writes.reverse.find? fun x => x.1 == r).map (·.2))
/-- The result in v8 of lane 0, from the registers given. -/
def v8 (i : Instr) (xs : List Word) : Option Word := queuedFor (solo i (vregs xs)) (.v 0 8)
def v9 (i : Instr) (xs : List Word) : Option Word := queuedFor (solo i (vregs xs)) (.v 0 9)
def p1 (i : Instr) (xs : List Word) : Option Word := queuedFor (solo i (vregs xs)) (.p 0 1)
/-- The result in s8, from the scalar registers given. -/
def s8 (i : Instr) (xs : List Word) : Option Word := queuedFor (solo i (sregs xs)) (.s 8)
/-- The cause of the trap that a step takes. -/
def causeOf (s : State) : Option Word := (warpAfter s).map fun w => w.trec.cause

/-! ### Results, computed by hand from the tables of chapters 5 and 7 -/

theorem test_iadd_wraps : v8 (.iadd H 8 1 (.v 2)) [0, 0xFFFFFFFF, 2] = some 1 := by decide +kernel
theorem test_isub : v8 (.isub H 8 1 (.v 2)) [0, 1, 2] = some 0xFFFFFFFF := by decide +kernel
theorem test_iadd3 : v8 (.iadd3 H 8 1 (.v 2) 3) [0, 0x80000000, 0x80000000, 7] = some 7 := by decide +kernel
theorem test_imul : v8 (.imul H 8 1 (.v 2)) [0, 0x10001, 0x10001] = some 0x20001 := by decide +kernel
theorem test_imulh_signs : v8 (.imulh H .s 8 1 (.v 2)) [0, 0xFFFFFFFF, 2] = some 0xFFFFFFFF
    ∧ v8 (.imulh H .u 8 1 (.v 2)) [0, 0xFFFFFFFF, 2] = some 1 := by decide +kernel
theorem test_imad : v8 (.imad H 8 1 (.v 2) 3) [0, 3, 5, 7] = some 22 := by decide +kernel
theorem test_imadw : v8 (.imadw H .s 8 1 (.v 2) 4) [0, 0xFFFFFFFF, 3, 0, 1, 0] = some 0xFFFFFFFE
    ∧ v9 (.imadw H .s 8 1 (.v 2) 4) [0, 0xFFFFFFFF, 3, 0, 1, 0] = some 0xFFFFFFFF := by decide +kernel
theorem test_imin_imax_signs : v8 (.imin H .s 8 1 (.v 2)) [0, 0xFFFFFFFF, 2] = some 0xFFFFFFFF ∧ v8 (.imin H .u 8 1 (.v 2)) [0, 0xFFFFFFFF, 2] = some 2
    ∧ v8 (.imax H .s 8 1 (.v 2)) [0, 0xFFFFFFFF, 2] = some 2 ∧ v8 (.imax H .u 8 1 (.v 2)) [0, 0xFFFFFFFF, 2] = some 0xFFFFFFFF := by decide +kernel
theorem test_iabs_ineg : v8 (.iabs H 8 1) [0, 0x80000000] = some 0x80000000 ∧ v8 (.ineg H 8 1) [0, 1] = some 0xFFFFFFFF := by decide +kernel
theorem test_shifts : v8 (.ishl H 8 1 (.v 2)) [0, 3, 33] = some 6 ∧ v8 (.ishr H 8 1 (.v 2)) [0, 0x80000000, 31] = some 1
    ∧ v8 (.ishra H 8 1 (.v 2)) [0, 0x80000000, 31] = some 0xFFFFFFFF ∧ v8 (.irot H 8 1 (.v 2)) [0, 0x80000001, 1] = some 3 := by decide +kernel
theorem test_idot4_saturates : v8 (.idot4 H .s .u false 8 1 (.v 2) 3) [0, 0xFF000001, 0x02000003, 10] = some 11
    ∧ v8 (.idot4 H .u .u true 8 1 (.v 2) 3) [0, 1, 1, 0x7FFFFFFF] = some 0x7FFFFFFF := by decide +kernel
theorem test_immediates : v8 (.iaddi H 8 1 (-1)) [0, 5] = some 4 ∧ v8 (.imuli H 8 1 (-2)) [0, 5] = some 0xFFFFFFF6 := by decide +kernel
theorem test_lop3_and_xor : v8 (.lop3 H 8 1 2 3 0x6A) [0, 0xFF00, 0x0FF0, 0xAAAA] = some (0xAAAA ^^^ 0x0F00) := by decide +kernel
theorem test_bit_fields : v8 (.bfx H .s 8 1 (.v 2)) [0, 0x000000F0, 0x0704] = some 0xFFFFFFFF ∧ v8 (.bfx H .u 8 1 (.v 2)) [0, 0xF0, 0x0704] = some 0xF
    ∧ v8 (.bfx H .s 8 1 (.v 2)) [0, 0xF0, 0x0407] = some 0 ∧ v8 (.bfi H 8 1 (.v 2) 3) [0, 0x5, 0x0704, 0xFFFF] = some 0xFF5F := by decide +kernel
theorem test_bit_counts : v8 (.brev H 8 1) [0, 1] = some 0x80000000 ∧ v8 (.popc H 8 1) [0, 0xF0F0] = some 8 ∧ v8 (.clz H 8 1) [0, 1] = some 31
    ∧ v8 (.clz H 8 1) [0, 0] = some 32 ∧ v8 (.ctz H 8 1) [0, 0x80000000] = some 31 ∧ v8 (.ctz H 8 1) [0, 0] = some 32 := by decide +kernel
theorem test_prmt_modes : v8 (.prmt H 8 1 (.v 2) 3) [0, 0x80112233, 0x44556677, 0x18130807] = some 0xFFFF0044 := by decide +kernel
theorem test_isetp_signs : p1 (.isetp H .lt .s .none 1 1 (.v 2) 0) [0, 0xFFFFFFFF, 0] = some 1 ∧ p1 (.isetp H .lt .u .none 1 1 (.v 2) 0) [0, 0xFFFFFFFF, 0] = some 0
    ∧ p1 (.isetpi H .ge .s 1 1 (-1)) [0, 0xFFFFFFFF] = some 1 := by decide +kernel
theorem test_isel_lea : v8 (.isel H 8 1 (.v 2) 0) [0, 1, 2] = some 2 ∧ v8 (.isel H 8 1 (.v 2) 7) [0, 1, 2] = some 1
    ∧ v9 (.lea H true 4 8 2 (.v 1)) [0, 0x10000000, 0xFFFFFFFF, 0] = some 1 ∧ v8 (.lea H false 2 8 1 (.v 2)) [0, 1, 3] = some 13 := by decide +kernel
theorem test_moves : v8 (.mov H 8 1) [0, 7] = some 7 ∧ v8 (.movi H 8 (-1)) [] = some 0xFFFFFFFF
    ∧ v8 (.movh H 8 0xABCD) [0, 0, 0, 0, 0, 0, 0, 0, 0xFFFF1234] = some 0xABCD1234 ∧ v8 (.vrd H 8 4) [] = some 16 := by decide +kernel
theorem test_scalar_moves : queuedFor (solo (.movs H 8 1) (sregs [0, 9])) (.v 0 8) = some 9 ∧ s8 (.srd H 8 3) [] = some 1
    ∧ queuedFor (solo (.vtos H 8 1) (vregs [0, 5])) (.s 8) = some 5 := by decide +kernel
theorem test_scalar_arithmetic : s8 (.sadd H 8 1 2) [0, 0xFFFFFFFF, 2] = some 1 ∧ s8 (.ssub H 8 1 2) [0, 1, 2] = some 0xFFFFFFFF
    ∧ s8 (.smul H 8 1 2) [0, 3, 5] = some 15 ∧ s8 (.slop3 H 8 1 2 3 0x80) [0, 0xF, 0xA, 0x6] = some 2 := by decide +kernel
theorem test_scalar_shifts : s8 (.sshl H 8 1 2) [0, 1, 4] = some 16 ∧ s8 (.sshr H .s 8 1 2) [0, 0x80000000, 31] = some 0xFFFFFFFF
    ∧ s8 (.sshr H .u 8 1 2) [0, 0x80000000, 31] = some 1 ∧ s8 (.smovi H 8 (-1)) [] = some 0xFFFFFFFF
    ∧ s8 (.smovh H 8 1) [0, 0, 0, 0, 0, 0, 0, 0, 7] = some 0x10007 := by decide +kernel
theorem test_ssetp : queuedFor (solo (.ssetp H .gt .u .none 1 1 2 0) (sregs [0, 0xFFFFFFFF, 2])) (.p 0 1) = some 1 := by decide +kernel
/-- 1.5 + 0.5; 1 − 1; 1 · 2^−149 toward +∞ under no flush; 1 + 2^−24 to nearest even and upward. -/
theorem test_fadd : v8 (.fadd H .rn false 8 1 (.v 2)) [0, 0x3FC00000, 0x3F000000] = some 0x40000000
    ∧ v8 (.fsub H .rd false 8 1 (.v 2)) [0, 0x3F800000, 0x3F800000] = some 0x80000000
    ∧ v8 (.fadd H .rn false 8 1 (.v 2)) [0, 0x3F800000, 0x33800000] = some 0x3F800000
    ∧ v8 (.fadd H .ru false 8 1 (.v 2)) [0, 0x3F800000, 0x33800000] = some 0x3F800001 := by decide +kernel
theorem test_fmul_ffma : v8 (.fmul H .rn false 8 1 (.v 2)) [0, 0xC0000000, 0x40400000] = some 0xC0C00000
    ∧ v8 (.fmul H .rn false 8 1 (.v 2)) [0, 0x7F000000, 0x7F000000] = some 0x7F800000
    ∧ v8 (.ffma H .rn false 8 1 (.v 2) 3) [0, 0x3F800001, 0x3F800001, 0xBF800002] = some 0x28800000 := by decide +kernel
theorem test_fmin_nan : v8 (.fmin H false 8 1 (.v 2)) [0, 0x7FC00000, 0x3F800000] = some 0x3F800000
    ∧ v8 (.fmax H false 8 1 (.v 2)) [0, 0x80000000, 0] = some 0 := by decide +kernel
theorem test_fsetp_unordered : p1 (.fsetp H .eq false .none false 1 1 (.v 2) 0) [0, 0x7FC00000, 0x7FC00000] = some 0
    ∧ p1 (.fsetp H .eq true .none false 1 1 (.v 2) 0) [0, 0x7FC00000, 0] = some 1 ∧ p1 (.fsetp H .eq false .none false 1 1 (.v 2) 0) [0, 0x80000000, 0] = some 1 := by
  decide +kernel
/-- 2.5 to nearest even is 2; −0.5 upward is −0; 1 · 2^3. -/
theorem test_frnd_fscale : v8 (.frnd H .rn false 8 1) [0, 0x40200000] = some 0x40000000 ∧ v8 (.frnd H .ru false 8 1) [0, 0xBF000000] = some 0x80000000
    ∧ v8 (.fscale H .rn false 8 1 (.v 2)) [0, 0x3F800000, 3] = some 0x41000000 := by decide +kernel
theorem test_fp64 : v9 (.dadd H .rn false 8 2 (.v 4)) [0, 0, 0, 0x3FF00000, 0, 0x3FF00000] = some 0x40000000
    ∧ v9 (.dsub H .rn false 8 2 (.v 4)) [0, 0, 0, 0x3FF00000, 0, 0x40000000] = some 0xBFF00000
    ∧ v9 (.dmul H .rn false 8 2 (.v 4)) [0, 0, 0, 0x40000000, 0, 0x40080000] = some 0x40180000
    ∧ v9 (.dfma H .rn false 8 2 (.v 4) 6) [0, 0, 0, 0x40000000, 0, 0x40000000, 0, 0x3FF00000] = some 0x40140000 := by decide +kernel
theorem test_fp64_minmax : v9 (.dmin H false 8 2 (.v 4)) [0, 0, 0, 0x3FF00000, 0, 0x40000000] = some 0x3FF00000
    ∧ v9 (.dmax H false 8 2 (.v 4)) [0, 0, 0, 0x3FF00000, 0, 0x40000000] = some 0x40000000
    ∧ p1 (.dsetp H .lt false .none false 1 2 (.v 4) 0) [0, 0, 0, 0x3FF00000, 0, 0x40000000] = some 1
    ∧ v9 (.drnd H .rd false 8 2) [0, 0, 0, 0xBFE00000] = some 0xBFF00000 := by decide +kernel
theorem test_packed16 : v8 (.hadd2 H .rn false false 8 1 (.v 2)) [0, 0x3C003C00, 0x40003C00] = some 0x42004000
    ∧ v8 (.hmul2 H .rn false true 8 1 (.v 2)) [0, 0x40003F80, 0x40404000] = some 0x40C04000
    ∧ v8 (.hfma2 H .rn false false 8 1 (.v 2) 3) [0, 0x40003C00, 0x40003C00, 0x3C003C00] = some 0x45004000 := by decide +kernel
theorem test_packed16_minmax : v8 (.hmin2 H false false 8 1 (.v 2)) [0, 0x3C004000, 0x40003C00] = some 0x3C003C00
    ∧ v8 (.hmax2 H false false 8 1 (.v 2)) [0, 0x3C004000, 0x40003C00] = some 0x40004000
    ∧ p1 (.hsetp2 H .lt false .none false false 0 1 (.v 2) 0) [0, 0x3C004000, 0x40003C00] = some 1 := by decide +kernel
theorem test_conversions : v8 (.cvt H .f16 .f32 .rn false 8 1) [0, 0x3F800000] = some 0x3C00 ∧ v8 (.cvt H .e4m3 .f32 .rn true 8 1) [0, 0x47800000] = some 0x7E
    ∧ v8 (.cvti H .f32 .i32 .rn false 8 1) [0, 0xFFFFFFFF] = some 0xBF800000 ∧ v8 (.cvti H .n32 .f32 .rz false 8 1) [0, 0x40700000] = some 3 := by decide +kernel
theorem test_actm_ballot : queuedFor (probe (.actm H 8)) (.v 3 8) = some 0xFFFF ∧ queuedFor (probe (.ballot H 8 7)) (.v 0 8) = some 0xFFFF
    ∧ queuedFor (probe (.elect H 1)) (.p 0 1) = some 1 ∧ queuedFor (probe (.elect H 1)) (.p 1 1) = some 0 := by decide +kernel
theorem test_shfl_qex : queuedFor (probe (.shfl H .xor false 8 1 (.v 2) 1) fun w => (w.put (.v 1 1) 77).put (.v 0 2) 1) (.v 0 8) = some 77
    ∧ queuedFor (probe (.qex H .v false 8 1) fun w => w.put (.v 2 1) 55) (.v 0 8) = some 55 := by decide +kernel
theorem test_redux_scan : queuedFor (probe (.redux H .add 8 1) fun w => (w.put (.v 0 1) 3).put (.v 15 1) 4) (.v 7 8) = some 7
    ∧ queuedFor (probe (.scan H .add true 8 1) fun w => (w.put (.v 0 1) 3).put (.v 1 1) 4) (.v 1 8) = some 3
    ∧ queuedFor (probe (.matchv H false 8 1) fun w => w.put (.v 0 1) 3) (.v 1 8) = some 0xFFFE
    ∧ queuedFor (probe (.vote H .any 1 2) fun w => w.put (.p 3 2) 1) (.p 0 1) = some 1 := by decide +kernel
theorem test_paired : v8 (.iaddPaired ⟨0, ⟨8, 1, false, 7, .rn, false⟩, .fneg, ⟨9, 2, false, 7, .rn, false⟩⟩) [0, 4, 0x3F800000, 0, 0, 0, 0, 0, 3] = some 7
    ∧ v9 (.iaddPaired ⟨0, ⟨8, 1, false, 7, .rn, false⟩, .fneg, ⟨9, 2, false, 7, .rn, false⟩⟩) [0, 4, 0x3F800000] = some 0xBF800000 := by decide +kernel

/-! ### Witnesses: for each statement, states and operands that meet its hypotheses together -/

/-- The next state of an outcome. -/
def nextOf : Out → Option State
  | .next t => some t
  | _ => none
/-- What a word's effect has at hand, where nothing stands before it. -/
def gone? (i : Instr) (s : State) : Option (Ctx × State) := match gate i s with
  | .go c t => some (c, t)
  | _ => none
theorem issues_of_gone {i : Instr} {s : State} {x : Ctx × State} (h : x ∈ gone? i s) : Issues i s x.1 x.2 := by
  unfold gone? at h
  split at h
  · rename_i c t hg
    cases h
    exact issues_of_gate hg
  · cases h
theorem reaches {i : Instr} {s : State} {P : Ctx → State → Prop} (h : ∃ x ∈ gone? i s, P x.1 x.2) : ∃ c t, Issues i s c t ∧ P c t := by
  obtain ⟨x, hx, hp⟩ := h
  exact ⟨x.1, x.2, issues_of_gone hx, hp⟩
theorem all_reach {L : List Instr} {f : Instr → State} {P : Ctx → State → Prop} (h : ∀ i ∈ L, ∃ x ∈ gone? i (f i), P x.1 x.2) :
    ∀ i ∈ L, ∃ c t, Issues i (f i) c t ∧ P c t := fun i hi => reaches (h i hi)
theorem noFpx {L : List Instr} {f : Instr → State} (h : ∀ i ∈ L, ∃ x ∈ gone? i (f i), (x.2.vf x.1.blk.vf).fpxctl.setWidth 5 = (0 : BitVec 5)) :
    ∀ i ∈ L, ∃ c t, Issues i (f i) c t ∧ ∀ g, c.NoFpx t g := fun i hi => by
  obtain ⟨c, t, hc, hp⟩ := all_reach (P := fun c t => (t.vf c.blk.vf).fpxctl.setWidth 5 = (0 : BitVec 5)) h i hi
  exact ⟨c, t, hc, fun g l _ => by rw [hp]; simp⟩
/-- Warp.Quiet and Block.Quiet, computed. -/
def quiet (b : Block) : Bool := b.warps.all fun w => !w.endedNow && w.heldTeam.isNone && ((List.range 20).all fun k => !w.arrivalDue k)
  && ((w.live == 0 && w.runs.isEmpty) || (!w.live.sub w.signed && w.runs.any fun r => r.wait.isNone))
theorem quiet_of {b : Block} (h : quiet b = true) : b.Quiet := fun w hw => by
  have := List.all_eq_true.1 h w hw
  simpa [Warp.Quiet, and_assoc, -List.all_eq_true, List.all_eq_true (p := fun k => !w.arrivalDue k)] using this

theorem witness_EncodeThenDecode : ∀ i ∈ [Instr.iadd H 1023 1023 (.s 127), .vwait ⟨7, true, true, 7⟩ true 7 127 0,
    .hmax2Paired ⟨7, ⟨255, 255, true, 7, .rn, true⟩, .movs, ⟨255, 127, true, 7, .rn, false⟩⟩], i.isWord = true ∧ i.wf = true := by decide
theorem witness_DecodedWordsEncodeBack : ∃ i, decode 0x0390C06008030101 = .ok i := ⟨_, test_decode_float.1⟩
theorem witness_IllFormedWordsAreRejected :
    (let w : BitVec 64 := wordOf 0 0 0 7 0x1FF 0 0 0 0 0; w.getLsbD 63 = false ∧ opAssigned (w.extractLsb' 46 9).toNat = false)
    ∧ (let w : BitVec 64 := 0x8780000000000000; w.getLsbD 63 = true ∧ 0x1E ≤ (w.extractLsb' 54 6).toNat)
    ∧ (let w : BitVec 64 := 0x800000001E000000; w.getLsbD 63 = true ∧ (w.extractLsb' 54 6).toNat < 0x1E ∧ 0x1E ≤ (w.extractLsb' 24 6).toNat)
    ∧ (let m : BitVec 6 := 0x20; m.getLsbD 5 = true ∧ 128 ≤ (128 : BitVec 10).toNat) := by decide
theorem witness_StepRunsTheDecodedWord : let s := probe (.nop H); ∃ l ∈ s.issue, ∃ b ∈ s.block? l.ref.blk, ∃ w ∈ s.warp? l.ref,
    ∃ r ∈ w.runs.find? fun r => r.lanes == l.d0 && r.wait.isNone,
    ∃ p ∈ s.translate b.vf (runEntry b (w.landDue s.clock) r).early r.pc.toNat false true,
      s.locPois p = false ∧ decode (BitVec.ofNat 64 (leValue (s.locBytes p 8))) = .ok (.nop H) := by decide +kernel
theorem witness_EveryStepCompletes : State.reset.issue = none ∧ State.reset.agenda = []
    ∧ Instr.softError.isWord = false ∧ (Instr.nop H).isWord = true := by decide
theorem witness_StepKeepsMemoriesCanonical : State.reset.MemOk ∧ ∃ t, step State.reset = .next t := ⟨reset_memOk, _, rfl⟩
theorem witness_RegisterReadAfterWrite : 0 < 1024 ∧ 1023 < 1024 ∧ 6 < 7 ∧ 7 < 8 := by decide
theorem witness_MemoryReadAfterWrite : (2 ^ 20 - 4) + [(1 : Byte), 2, 3, 4].length ≤ 2 ^ 20 ∧ 2 ^ 20 - 1 < 2 ^ 20 := by decide
theorem witness_BitFunctionsByBits : 0 < 32 ∧ 31 < 32 ∧ (0 : Word) = 0 ∧ (0x80000000 : Word) ≠ 0 := by decide
theorem witness_PermuteBytes : 0 < 4 ∧ 3 < 4 := by decide
theorem witness_ClassesAreExclusive : ∀ F ∈ [Fmt.f16, Fmt.bf16, Fmt.f32, Fmt.f64], F ∈ [Fmt.f16, Fmt.bf16, Fmt.f32, Fmt.f64] := fun _ h => h
theorem witness_SpecialRegisters : (3 : Nat) < 4 ∧ (7 : Nat) < 8 := by decide
theorem witness_FixedLatencyResultsLand : (newWarp fetchEntry 0 [] [] 0).pend = [] := by decide +kernel
theorem witness_IntegerArithmetic : ∀ i ∈ [Instr.iadd H 8 1 (.v 2), .isub H 8 1 (.s 2), .iadd3 H 8 1 (.v 2) 3, .imul H 8 1 (.v 2), .imulh H .s 8 1 (.v 2),
    .imad H 8 1 (.v 2) 3, .imadw H .u 8 1 (.v 2) 4, .imin H .s 8 1 (.v 2), .imax H .u 8 1 (.v 2), .iabs H 8 1, .ineg H 8 1, .ishl H 8 1 (.v 2),
    .ishr H 8 1 (.v 2), .ishra H 8 1 (.v 2), .irot H 8 1 (.v 2), .idot4 H .s .u true 8 1 (.v 2) 3, .iaddi H 8 1 5, .imuli H 8 1 5],
    ∃ c t, Issues i (probe i) c t ∧ c.act ≠ 0 := all_reach (by decide +kernel)
theorem witness_BitInstructionsWriteTheirFunction : ∀ i ∈ [Instr.lop3 H 8 1 2 3 0x6A, .bfx H .s 8 1 (.v 2), .bfi H 8 1 (.v 2) 3, .brev H 8 1, .popc H 8 1,
    .clz H 8 1, .ctz H 8 1, .prmt H 8 1 (.v 2) 3], ∃ c t, Issues i (probe i) c t ∧ c.act ≠ 0 := all_reach (by decide +kernel)
theorem witness_ComparesAndSelects : ∀ i ∈ [Instr.isetp H .lt .s .andn 1 1 (.v 2) 3, .isetpi H .lt .s 1 1 5, .isel H 8 1 (.v 2) 3, .lea H false 2 8 1 (.v 2),
    .lea H true 2 8 2 (.v 1)], ∃ c t, Issues i (probe i) c t ∧ c.act ≠ 0 := all_reach (by decide +kernel)
theorem witness_Moves : (∀ i ∈ [Instr.mov H 8 1, .movi H 8 5, .movh H 8 5, .movs H 8 1, .vrd H 8 0x18, .vrd H 8 0, .srd H 8 0x18, .srd H 8 4, .vtos H 8 1],
    ∃ c t, Issues i (probe i) c t ∧ c.act ≠ 0) ∧ ∀ i ∈ [Instr.srd ⟨0, false, false, 0⟩ 8 4, .vtos ⟨0, false, false, 0⟩ 8 1], ∃ c t, Issues i (probe i) c t ∧ c.act = 0 :=
  ⟨all_reach (by decide +kernel), all_reach (by decide +kernel)⟩
theorem witness_ScalarInstructions : ∀ i ∈ [Instr.sadd H 8 1 2, .ssub H 8 1 2, .smul H 8 1 2, .slop3 H 8 1 2 3 0x6A, .sshl H 8 1 2, .sshr H .s 8 1 2, .sshr H .u 8 1 2,
    .smovi H 8 5, .smovh H 8 5, .ssetp H .lt .s .and 1 1 2 3], ∃ c t, Issues i (probe i) c t ∧ c.act ≠ 0 := all_reach (by decide +kernel)
theorem witness_ScalarCompareWritesEveryLane : ∃ c t, Issues (.ssetp H .lt .s .and 1 1 2 3) (probe (.ssetp H .lt .s .and 1 1 2 3)) c t ∧ c.w.live ≠ 0 :=
  reaches (by decide +kernel)
theorem witness_FloatResults : ∀ i ∈ [Instr.fadd H .rn false 8 1 (.v 2), .fsub H .rn false 8 1 (.v 2), .fmul H .rn false 8 1 (.v 2), .ffma H .rn false 8 1 (.v 2) 3,
    .fmin H false 8 1 (.v 2), .fmax H false 8 1 (.v 2), .frnd H .rn false 8 1, .fscale H .rn false 8 1 (.v 2), .dadd H .rn false 8 2 (.v 4),
    .dsub H .rn false 8 2 (.v 4), .dmul H .rn false 8 2 (.v 4), .dfma H .rn false 8 2 (.v 4) 6, .dmin H false 8 2 (.v 4), .dmax H false 8 2 (.v 4),
    .drnd H .rn false 8 2, .hadd2 H .rn false true 8 1 (.v 2), .hmul2 H .rn false false 8 1 (.v 2), .hfma2 H .rn false false 8 1 (.v 2) 3,
    .hmin2 H false false 8 1 (.v 2), .hmax2 H false false 8 1 (.v 2)], ∃ c t, Issues i (probe i) c t ∧ ∀ g, c.NoFpx t g := noFpx (by decide +kernel)
theorem witness_FloatCompares : ∀ i ∈ [Instr.fsetp H .lt false .and false 1 1 (.v 2) 3, .dsetp H .lt true .none false 1 2 (.v 4) 0,
    .hsetp2 H .lt false .or false true 1 1 (.v 2) 3, .fclass H .f32 8 1, .fclass H .f64 8 2, .fclass H .f16 8 1, .fclass H .bf16 8 1],
    ∃ c t, Issues i (probe i) c t ∧ ∀ g, c.NoFpx t g := noFpx (by decide +kernel)
theorem witness_Conversions : ∀ i ∈ [Instr.cvt H .f16 .f32 .rn false 8 1, .cvt H .f64 .f32 .rn false 8 1, .cvti H .f32 .i32 .rn false 8 1, .cvti H .i64 .f64 .rz false 8 2,
    .qscl H false false 8 1 (.v 2), .qscl H true false 8 1 (.v 0), .qpk4 H 8 16 (.v 2), .qxp4 H .rn 8 1 (.v 2)],
    ∃ c t, Issues i (probe i) c t ∧ ∀ g, c.NoFpx t g := noFpx (by decide +kernel)

/-- The interface's HX_FPXCTL with every exception enabled. -/
def fpx (s : State) : State := s.setVf 0 { s.vf 0 with fpxctl := 0x1F }
/-- Operands that are signalling NaNs in every format of 16 bits or more but FP16, and as a tensor scale. -/
def snans (w : Warp) : Warp := vregs [0, 0, 0x7F817F81, 0x7FF00001, 0x7F810001, 0x7FF00001, 0, 0] w
/-- A word that issues on them raises an enabled exception, where `f` gives those of a lane. -/
def raises (i : Instr) (f : Ctx → Nat → Flags) : Prop := ∃ c t, Issues i (fpx (solo i snans)) c t
  ∧ (c.live.foldl (fun x l => x ||| f c l) 0) &&& (t.vf c.blk.vf).fpxctl.setWidth 5 ≠ 0
theorem raises_of {i : Instr} {f : Ctx → Nat → Flags} (h : ∃ x ∈ gone? i (fpx (solo i snans)),
    (x.1.live.foldl (fun y l => y ||| f x.1 l) 0) &&& (x.2.vf x.1.blk.vf).fpxctl.setWidth 5 ≠ 0) : raises i f := reaches h
/-- The exceptions of an operation on the halves of two words. -/
def packed (f : Nat → Nat → Nat × Flags) (x y : Word) : Flags :=
  (f (x.extractLsb' 0 16).toNat (y.extractLsb' 0 16).toNat).2 ||| (f (x.extractLsb' 16 16).toNat (y.extractLsb' 16 16).toNat).2
theorem witness_EnabledExceptionsTrapFpx : raises (Instr.fadd H .rn false 8 2 (.v 4)) (fun c l => (Fmt.f32.fadd .rn false (c.v l 2).toNat (bval c.w (.v 4) l).toNat).2)
    ∧ raises (Instr.fsub H .rn false 8 2 (.v 4)) (fun c l => (Fmt.f32.fsub .rn false (c.v l 2).toNat (bval c.w (.v 4) l).toNat).2)
    ∧ raises (Instr.fmul H .rn false 8 2 (.v 4)) (fun c l => (Fmt.f32.fmul .rn false (c.v l 2).toNat (bval c.w (.v 4) l).toNat).2)
    ∧ raises (Instr.ffma H .rn false 8 2 (.v 4) 6) (fun c l => (Fmt.f32.ffma .rn false (c.v l 2).toNat (bval c.w (.v 4) l).toNat (c.v l 6).toNat).2)
    ∧ raises (Instr.fmin H false 8 2 (.v 4)) (fun c l => (Fmt.f32.minmax false false (c.v l 2).toNat (bval c.w (.v 4) l).toNat).2)
    ∧ raises (Instr.fmax H false 8 2 (.v 4)) (fun c l => (Fmt.f32.minmax true false (c.v l 2).toNat (bval c.w (.v 4) l).toNat).2)
    ∧ raises (Instr.frnd H .rn false 8 2) (fun c l => (Fmt.f32.frnd .rn false (c.v l 2).toNat).2)
    ∧ raises (Instr.fscale H .rn false 8 2 (.v 4)) (fun c l => (Fmt.f32.fscale .rn false (c.v l 2).toNat (bval c.w (.v 4) l).toInt).2)
    ∧ raises (Instr.dadd H .rn false 8 2 (.v 4)) (fun c l => (Fmt.f64.fadd .rn false (c.v64 l 2).toNat (bval64 c.w (.v 4) l).toNat).2)
    ∧ raises (Instr.dsub H .rn false 8 2 (.v 4)) (fun c l => (Fmt.f64.fsub .rn false (c.v64 l 2).toNat (bval64 c.w (.v 4) l).toNat).2)
    ∧ raises (Instr.dmul H .rn false 8 2 (.v 4)) (fun c l => (Fmt.f64.fmul .rn false (c.v64 l 2).toNat (bval64 c.w (.v 4) l).toNat).2)
    ∧ raises (Instr.dfma H .rn false 8 2 (.v 4) 6) (fun c l => (Fmt.f64.ffma .rn false (c.v64 l 2).toNat (bval64 c.w (.v 4) l).toNat (c.v64 l 6).toNat).2)
    ∧ raises (Instr.dmin H false 8 2 (.v 4)) (fun c l => (Fmt.f64.minmax false false (c.v64 l 2).toNat (bval64 c.w (.v 4) l).toNat).2)
    ∧ raises (Instr.dmax H false 8 2 (.v 4)) (fun c l => (Fmt.f64.minmax true false (c.v64 l 2).toNat (bval64 c.w (.v 4) l).toNat).2)
    ∧ raises (Instr.drnd H .rn false 8 2) (fun c l => (Fmt.f64.frnd .rn false (c.v64 l 2).toNat).2)
    ∧ raises (Instr.hadd2 H .rn false true 8 2 (.v 4)) (fun c l => packed (Fmt.bf16.fadd .rn false) (c.v l 2) (bval c.w (.v 4) l))
    ∧ raises (Instr.hmul2 H .rn false true 8 2 (.v 4)) (fun c l => packed (Fmt.bf16.fmul .rn false) (c.v l 2) (bval c.w (.v 4) l))
    ∧ raises (Instr.hfma2 H .rn false true 8 2 (.v 4) 6) (fun c l => (Fmt.bf16.ffma .rn false ((c.v l 2).extractLsb' 0 16).toNat ((bval c.w (.v 4) l).extractLsb' 0 16).toNat ((c.v l 6).extractLsb' 0 16).toNat).2
      ||| (Fmt.bf16.ffma .rn false ((c.v l 2).extractLsb' 16 16).toNat ((bval c.w (.v 4) l).extractLsb' 16 16).toNat ((c.v l 6).extractLsb' 16 16).toNat).2)
    ∧ raises (Instr.hmin2 H false true 8 2 (.v 4)) (fun c l => packed (Fmt.bf16.minmax false false) (c.v l 2) (bval c.w (.v 4) l))
    ∧ raises (Instr.hmax2 H false true 8 2 (.v 4)) (fun c l => packed (Fmt.bf16.minmax true false) (c.v l 2) (bval c.w (.v 4) l))
    ∧ raises (Instr.fsetp H .lt false .none false 1 2 (.v 4) 0) (fun c l => (floatCmp Fmt.f32 .lt false false (c.v l 2).toNat (bval c.w (.v 4) l).toNat).2)
    ∧ raises (Instr.dsetp H .lt false .none false 1 2 (.v 4) 0) (fun c l => (floatCmp Fmt.f64 .lt false false (c.v64 l 2).toNat (bval64 c.w (.v 4) l).toNat).2)
    ∧ raises (Instr.hsetp2 H .lt false .none false true 0 2 (.v 4) 0) (fun c l => (floatCmp Fmt.bf16 .lt false false ((c.v l 2).extractLsb' 0 16).toNat ((bval c.w (.v 4) l).extractLsb' 0 16).toNat).2 ||| (floatCmp Fmt.bf16 .lt false false ((c.v l 2).extractLsb' 16 16).toNat ((bval c.w (.v 4) l).extractLsb' 16 16).toNat).2)
    ∧ raises (Instr.cvt H .f16 .f32 .rn false 8 2) (fun c l => (convert .f16 .f32 .rn false (c.v l 2).toNat).2)
    ∧ raises (Instr.cvti H .n32 .f32 .rn false 8 2) (fun c l => (convert .n32 .f32 .rn false (c.v l 2).toNat).2)
    ∧ raises (Instr.qscl H false false 8 2 (.v 4)) (fun c l => (qsclOf false false (c.v l 2) (bval c.w (.v 4) l)).2)
    ∧ raises (Instr.qpk4 H 8 0 (.v 4)) (fun c l => (qpk4Of ((List.range 8).map fun j => c.w.rv l j) (bval c.w (.v 4) l)).2)
    ∧ raises (Instr.qxp4 H .rn 8 2 (.v 4)) (fun c l => (List.range 8).foldl (fun x j => x ||| (qxp4Of .rn ((c.v l 2).extractLsb' (4 * j) 4).toNat ((bval c.w (.v 4) l).extractLsb' 0 8).toNat ((bval c.w (.v 4) l).extractLsb' 16 16).toNat).2) 0) :=
  ⟨raises_of (by decide +kernel), raises_of (by decide +kernel), raises_of (by decide +kernel), raises_of (by decide +kernel), raises_of (by decide +kernel), raises_of (by decide +kernel), raises_of (by decide +kernel), raises_of (by decide +kernel), raises_of (by decide +kernel), raises_of (by decide +kernel), raises_of (by decide +kernel), raises_of (by decide +kernel), raises_of (by decide +kernel), raises_of (by decide +kernel), raises_of (by decide +kernel), raises_of (by decide +kernel), raises_of (by decide +kernel), raises_of (by decide +kernel), raises_of (by decide +kernel), raises_of (by decide +kernel), raises_of (by decide +kernel), raises_of (by decide +kernel), raises_of (by decide +kernel), raises_of (by decide +kernel), raises_of (by decide +kernel), raises_of (by decide +kernel), raises_of (by decide +kernel), raises_of (by decide +kernel)⟩
/-- FADD beside MOV in slot 0, HMAX2 beside it in slot 1. -/
theorem witness_EnabledExceptionsTrapFpx_paired :
    (let p : Pair := ⟨0, ⟨2, 4, false, 7, .rn, false⟩, .mov, ⟨10, 6, false, 7, .rn, false⟩⟩
      ∃ c t, Issues (pairInstr .fadd p) (fpx (solo (pairInstr .fadd p) snans)) c t
      ∧ ((guardMask c.w false 7 c.run.lanes).lanes 64).foldl (fun y l => y ||| (Fmt.f32.fadd .rn false (c.w.rv l 2).toNat (c.w.rv l 4).toNat).2) 0
        &&& (t.vf c.blk.vf).fpxctl.setWidth 5 ≠ 0)
    ∧ (let p : Pair := ⟨0, ⟨10, 6, false, 7, .rn, false⟩, .hmax2, ⟨2, 4, false, 7, .rn, false⟩⟩
      ∃ c t, Issues (pairInstr .mov p) (fpx (solo (pairInstr .mov p) (vregs [0, 0, 0x7D01, 0, 0]))) c t
      ∧ ((guardMask c.w false 7 c.run.lanes).lanes 64).foldl (fun y l => y ||| (Fmt.f16.minmax true false ((c.w.rv l 2).extractLsb' 0 16).toNat ((c.w.rv l 4).extractLsb' 0 16).toNat).2) 0
        &&& (t.vf c.blk.vf).fpxctl.setWidth 5 ≠ 0) := ⟨reaches (by decide +kernel), reaches (by decide +kernel)⟩
theorem witness_NansAreCanonical : (Fmt.f32.decode 0x7FC12345).isNan = true ∧ Fmt.f32.decode 0x7F800001 = .nan true ∧ (Fmt.f16.decode 0x7E00).isNan = true
    ∧ (Fmt.bf16.decode 0xFFC1).isNan = true ∧ (Fmt.f64.decode 0x7FF8000000000000).isNan = true ∧ Fmt.f16.decode 0x7C01 = .nan true ∧ Fmt.bf16.decode 0x7F81 = .nan true
    ∧ Fmt.f64.decode 0x7FF0000000000001 = .nan true ∧ (Fmt.e4m3.decode 0x7F).isNan = true ∧ (Fmt.e5m2.decode 0x7D).isNan = true ∧ (Fmt.f32.decode 0x3F800000).isNan = false
    ∧ (Fmt.f32.decode (redFold .fadd [0x7FC00001]).toNat).isNan = true ∧ (Fmt.f32.decode (redFold .fmin [0x7F800001, 0x7FC00000]).toNat).isNan = true := by decide +kernel
/-- Finite, infinite and NaN operands of each format, and the operands of the HF4 words at the edges of their clauses. -/
theorem witness_RoundedResults : (∀ F ∈ [Fmt.f16, .bf16, .f32, .f64], (F.decode 1).isFin = true ∧ (F.decode F.maxCode).isFin = true ∧ F.decode F.infCode = .inf false
      ∧ F.decode (F.infCode + F.signBit) = .inf true ∧ (F.decode F.nan).isNan = true ∧ F.maxCode < 2 * F.signBit)
    ∧ (∀ F ∈ [Fmt.e4m3, .e5m2, .e2m1], (F.decode 1).isFin = true ∧ 1 < 2 * F.signBit) ∧ Fmt.e5m2.decode 0xFC = .inf true ∧ (Fmt.e4m3.decode 0xFF).isNan = true
    ∧ (Fmt.f32.decode 0x44800000).isFin = true ∧ [(0 : Word), 1, 2, 3, 4, 5, 6, 0x7F800000].length = 8
    ∧ (Fmt.bf16.decode 0x3F80).isFin = true ∧ (Fmt.bf16.decode 0x7F80).isFin = false ∧ Fmt.bf16.decode 0x7F80 = .inf false ∧ Fmt.f32.decode 0x7F800000 = .inf false := by decide +kernel
theorem witness_RoundedResults_values : (Fmt.bf16.decode 0).val = 0 ∧ (Fmt.bf16.decode 0xBF80).val < 0 ∧ 0 < (Fmt.bf16.decode 0x3F80).val
    ∧ 31 < |(Fmt.f32.decode 0x44800000).val| / (6 * (Fmt.bf16.decode 0x3F80).val) ∧ |(Fmt.f32.decode 0x3F800000).val| / (6 * (Fmt.bf16.decode 0x3F80).val) ≤ 31
    ∧ (Fmt.e3m5.decode 0).val = 0 ∧ (Fmt.e3m5.decode 0x40).val ≠ 0 ∧ (Fmt.f32.decode 1).val ≠ 0 := by decide +kernel
theorem witness_ExactZeroSums : Fmt.f32 ∈ [Fmt.f32, Fmt.f64] ∧ 0 < 1 ∧ 1 ≤ Fmt.f32.maxCode ∧ Fmt.f64.maxCode ≤ Fmt.f64.maxCode := by decide +kernel
theorem witness_SpecialFunctionQueues : (∀ i ∈ [Instr.sfq H .rcp false true 1, .qlen H 8 false], ∃ c t, Issues i (probe i) c t ∧ c.act ≠ 0)
    ∧ ∃ c t, Issues (.qpop H 8 true) (solo (.qpop H 8 true) fun w => w.setQueue 0 1 [⟨5, true⟩]) c t ∧ c.act ≠ 0 :=
  ⟨all_reach (by decide +kernel), reaches (by decide +kernel)⟩
theorem witness_CrossLaneResults : ∀ i ∈ [Instr.shfl H .up false 8 1 (.v 2) 1, .shfl H .idx true 8 2 (.s 2) 1, .qex H .d true 8 2, .vote H .uni 1 2, .ballot H 8 2,
    .matchv H true 8 2, .redux H .fadd 8 1, .scan H .fmax true 8 1, .topk H 8 8 1, .elect H 1, .actm H 8],
    ∃ c t, Issues i (probe i) c t ∧ c.live ≠ [] := all_reach (by decide +kernel)
def pairOps : List PairOp := [.iadd, .isub, .imin, .imax, .and, .or, .xor, .andn, .ishl, .ishr, .ishra, .mov, .ineg, .iabs, .popc, .clz, .fadd, .fsub, .fmul,
  .fmin, .fmax, .fneg, .fabs, .hadd2, .hmul2, .hmin2, .hmax2, .brev, .movs, .imul]
/-- Each operation in slot 0, beside a MOV of other registers. -/
theorem witness_PairedWords : ∀ i ∈ pairOps.map fun o => pairInstr o ⟨0, ⟨8, 1, false, 7, .rn, false⟩, .mov, ⟨10, 2, false, 7, .rn, false⟩⟩,
    ∃ c t, Issues i (probe i) c t ∧ ∀ g, c.NoFpx t g := noFpx (by decide +kernel)
/-- Words under a guard that holds on no lane. -/
abbrev Z : Hdr := ⟨0, false, true, 7⟩
def offWords : List Instr := [.iadd Z 8 1 (.v 2), .qlen Z 8 true, .fadd Z .rn false 8 1 (.v 2), .shfl Z .up false 8 1 (.v 2) 1, .jtest Z .mem 1 3, .sfq Z .rcp false true 1, .qpop Z 8 true, .vtos Z 8 1, .srd Z 8 3,
  .regrp Z true 8 16 64 3, .exit Z, .yield Z, .nap Z 5, .trap Z 7, .bkpt Z 7, .rtt Z .skip, .nop Z, .jenter Z 3, .jquit Z 3, .jquitm Z 8, .jwait Z 3, .bari Z ⟨false, 0⟩ 1 (.v 2),
  .barx Z ⟨false, 0⟩ (.v 2), .bara Z 8 ⟨false, 0⟩, .barw Z ⟨false, 0⟩ (.v 2), .bar Z ⟨false, 0⟩, .barq Z 1 ⟨false, 0⟩ (.s 2), .lds Z .b4 true 8 ⟨false, 1, 0⟩, .sts Z .b4 true 8 ⟨false, 1, 0⟩,
  .ldx Z .b4 true .pkg 8 ⟨false, 2, 0⟩, .stx Z .b4 true .pkg 8 ⟨false, 2, 0⟩, .ldk Z .b4 8 ⟨false, 1, 0⟩, .stk Z .b4 8 ⟨false, 1, 0⟩, .ldw Z false true .pkg 8 ⟨false, 2, 0⟩,
  .atoms Z .add32 .ar 8 1 2 0, .atomx Z .add32 .ar .pkg 8 2 4 0, .redx Z .add32 .rel .pkg 2 4, .fence Z .full .sys, .fencer Z true false .pkg false 257 0, .roddef Z .sh 2 4 6,
  .ldf Z false 8 ⟨false, 2, 0⟩, .fpoll Z true 8 ⟨false, 2, 0⟩, .fres Z 8 ⟨false, 2, 0⟩, .fflt Z 8 ⟨false, 2, 0⟩, .freg Z 8 ⟨false, 2, 0⟩, .spawn Z true 1 20 0 2, .lnch Z 1 20 0 2,
  .mma Z 0 3 0 32 48 64, .mmas Z 1 3 0 32 48 64, .mmat Z 3 3 0 4 48 68, .msync Z 1, .mchg Z 0 8, .bcp Z .sh .mm 0 16, .bfill Z .sp 0 16, .bpfx Z 0 16, .bmc Z .sp 0 16 1,
  .bga Z .sh .mm 0 16 0, .bsc Z .mm .sh 0 16 0, .bcpp Z true true 0 16 0 0, .vmark Z 1 8 9, .vstamp Z true 4 8 9, .vwait Z false 2 8 9, .vrefr Z true 2 8 0]
theorem witness_GuardedOffWordsChangeNothing : ∀ i ∈ offWords,
    (i.laneResult = true ∨ i.needsLane = true) ∧ ∃ c t, Issues i (probe i) c t ∧ c.act = 0 ∧ c.all = 0 ∧ ∀ b, t.block? c.ref.blk = some b → b.Quiet := fun i hi => by
  refine ⟨(by decide +kernel : ∀ i ∈ offWords, (i.laneResult = true ∨ i.needsLane = true)) i hi, ?_⟩
  obtain ⟨c, t, h, h1, h2, h3⟩ := all_reach (f := probe) (P := fun c t => c.act = 0 ∧ c.all = 0 ∧ (t.block? c.ref.blk).all quiet = true)
    (L := offWords) (by decide +kernel) i hi
  exact ⟨c, t, h, h1, h2, fun b hb => quiet_of (by simpa [hb] using h3)⟩
theorem witness_RegisterWordsFrame : ∀ i ∈ [Instr.iadd H 8 1 (.v 2), .sadd H 8 1 2], (i.laneResult = true ∨ i.scalarResult = true)
    ∧ ∃ c t, Issues i (probe i) c t ∧ (t.vf c.blk.vf).fpxctl.setWidth 5 = (0 : BitVec 5) ∧ (∀ b, t.block? c.ref.blk = some b → b.Quiet)
      ∧ ∃ u, exec i (probe i) = .next u := fun i hi => by
  refine ⟨(by decide : ∀ i ∈ [Instr.iadd H 8 1 (.v 2), .sadd H 8 1 2], (i.laneResult = true ∨ i.scalarResult = true)) i hi, ?_⟩
  obtain ⟨c, t, h, h1, h2⟩ := all_reach (f := probe) (P := fun c t => (t.vf c.blk.vf).fpxctl.setWidth 5 = (0 : BitVec 5) ∧ (t.block? c.ref.blk).all quiet = true)
    (L := [Instr.iadd H 8 1 (.v 2), .sadd H 8 1 2]) (by decide +kernel) i hi
  refine ⟨c, t, h, h1, fun b hb => quiet_of (by simpa [hb] using h2), ?_⟩
  have hn : ∀ i ∈ [Instr.iadd H 8 1 (.v 2), .sadd H 8 1 2], (nextOf (exec i (probe i))).isSome = true := by decide +kernel
  have := hn i hi
  unfold nextOf at this
  split at this
  · rename_i u hu; exact ⟨u, hu⟩
  · cases this

/-! ### A small world: a code table, a handle table, a master tensor of one element and a view of it, in the scratchpad -/

def poke (a : Nat) (bs : List Byte) (s : State) : State := { s with sp := writeBytes s.sp a bs }
/-- A code-table entry (Table 21-2) of a kind: one warp of 16 lanes and 16 registers, over handle 1. -/
def codeBytes (kind : Nat) : List Byte := leBytes 8 0x1000 ++ leBytes 8 0 ++ leBytes 4 (kind * 2 ^ 30) ++ leBytes 2 16 ++ leBytes 2 16 ++ leBytes 1 1 ++ leBytes 1 1
  ++ leBytes 1 1 ++ leBytes 1 0 ++ leBytes 4 0 ++ leBytes 4 0 ++ leBytes 4 1 ++ List.replicate 140 0 ++ leBytes 2 0x8000
/-- A descriptor (Table 17-1) of one FP32 element: the master, or a view of it. -/
def descBytes (view : Bool) : List Byte := leBytes 4 (2 ^ 31 + (if view then 2 ^ 30 else 0) + 17) ++ leBytes 4 1 ++ leBytes 4 1 ++ leBytes 4 0 ++ leBytes 4 0
  ++ leBytes 4 0 ++ leBytes 8 0 ++ leBytes 8 (if view then 0x30100 else 0x30000) ++ leBytes 8 0 ++ leBytes 8 0 ++ leBytes 4 (if view then 1 else 0) ++ leBytes 4 0
/-- A placement record (Table 17-2) with one copy in main memory of die 0, read as a scratchpad address. -/
def recBytes (addr : Nat) : List Byte := leBytes 4 0 ++ leBytes 4 0x10 ++ leBytes 8 0 ++ leBytes 8 addr
def world (s : State) : State :=
  let t := [(0x10100, codeBytes 1), (0x10200, codeBytes 2), (0x10300, codeBytes 3), (0x20100, descBytes false), (0x20200, descBytes true),
    (0x30000, recBytes 0x40000), (0x30100, recBytes 0x40100)].foldl (fun s x => poke x.1 x.2 s) s
  { t.setVf 0 { t.vf 0 with
      ctab := 0x10000
      earlyCode := [1, 2, 3]
      htab := 0x20000
      earlyTh := [1, 2]
      traph := 3
      vfclu := 0xFFFF } with views := [{ vf := 0, handle := 2, master := 1, stamps := [], homes := [], reg := none }] }
theorem test_world : ((world (probe (.nop H))).handler? 0).isSome = true ∧ ((world (probe (.nop H))).codeEntry? 0 2).map (·.isTask) = some true
    ∧ ((world (probe (.nop H))).desc? 0 2).map (·.master) = some 1
    ∧ (((world (probe (.nop H))).desc? 0 1).bind fun d => (world (probe (.nop H))).record? 0 d 0) = some ⟨.resident, 0, [⟨.main 0, 0x40000⟩]⟩ := by decide +kernel
/-- The block's barrier b0, ready with one expected warp, or lost. -/
def withBar (lost : Bool) (s : State) : State :=
  s.setBarrier 0 0 { ready := true, phase := 0, expW := 2, arrW := 0, expB := 0, arrB := 0, lost := lost }
/-- Trap level of the lanes of the warp. -/
def trapLevel (w : Warp) : Warp := { w with trap := some { mask := w.live, depth := [], sp := [], handler := fetchEntry } }
/-- Every live lane is a member of j3. -/
def joined (w : Warp) : Warp := w.setJset 3 { w.jset 3 with member := w.live }

theorem witness_ControlTransfers :
    (∀ i ∈ [Instr.bra H (-1), .brx H 2], ∃ c t, Issues i (probe i) c t ∧ c.live ≠ [])
    ∧ (∃ c t, Issues (.call H 1) (probe (.call H 1)) c t ∧ c.live ≠ [] ∧ ∀ l ∈ c.live, callBad c.blk c.w 0 l = false)
    ∧ (∃ c t, Issues (.callx H 2 1023) (probe (.callx H 2 1023)) c t ∧ ∀ l ∈ c.live, callBad c.blk c.w (16 * (1023 : BitVec 10).toNat) l = false)
    ∧ (∃ c t, Issues (.ret H) (probe (.ret H)) c t ∧ c.live ≠ [] ∧ ∀ l ∈ c.live, retTrap c.blk c.w l = none)
    ∧ (∃ c t, Issues (.ret H) (solo (.ret H) fun w => w.call 0 0 0x1008) c t ∧ (∀ l ∈ c.live, retTrap c.blk c.w l = none) ∧ c.w.depth1 0 = 1) :=
  ⟨all_reach (by decide +kernel), reaches (by decide +kernel), reaches (by decide +kernel), reaches (by decide +kernel), reaches (by decide +kernel)⟩
/-- The frame that fills the stack of the test block, 65,536 bytes, to its end. -/
theorem witness_CallThenReturn : ∃ w ∈ (probe (.nop H)).warp? me, callBad (fetchBlock 0 0) w 0 (65536 - 16) = false
    ∧ (fetchBlock 0 0).decl.stack ≤ 2 ^ 20 ∧ (w.sp1 0).toNat % 16 = 0 := by decide +kernel
theorem witness_ThreadControl :
    (∀ i ∈ [Instr.exit H, .yield H, .nap H 5, .nap H 0, .nop H, .trap H 7, .bkpt H 7, .rtt H .skip], ∃ c t, Issues i (probe i) c t ∧ c.act ≠ 0 ∧ c.w.trap = none)
    ∧ (∀ i ∈ [Instr.exit H, .rtt H .retry], ∃ c t, Issues i (probe i trapLevel) c t ∧ c.act ≠ 0 ∧ c.w.trap.isSome = true) :=
  ⟨all_reach (by decide +kernel), all_reach (by decide +kernel)⟩
theorem witness_TrapEntryAndReturn :
    (let s := world (probe (.nop H)); ∃ b ∈ s.block? 0, ∃ w ∈ s.warp? me, w.trap = none ∧ (s.handler? b.vf).isSome = true)
    ∧ (let u := probe (.nop H) trapLevel; ∃ k ∈ u.block? 0, ∃ v ∈ u.warp? me, ∃ lvl ∈ v.trap, k.vf = 0 ∧ lvl.mask &&& v.live ≠ 0) := by decide +kernel
theorem witness_RejoinSets :
    (∀ i ∈ [Instr.jenter H 3, .jquit H 3, .jquitm H 0xFFFF, .jwait H 3, .jtest H .empty 1 15, .jmask H .dep 8 3], ∃ c t, Issues i (probe i) c t ∧ c.act ≠ 0 ∧ c.live ≠ [])
    ∧ ∃ c t, Issues (.jwait H 3) (probe (.jwait H 3) joined) c t ∧ c.act &&& (c.w.jset 3).member ≠ 0 := ⟨all_reach (by decide +kernel), reaches (by decide +kernel)⟩
theorem witness_BarrierInstructions :
    (∃ c t, Issues (.bari H ⟨false, 0⟩ 1 (.s 2)) (probe (.bari H ⟨false, 0⟩ 1 (.s 2))) c t ∧ c.act ≠ 0 ∧ 1 ≤ t.canArrive c.blk false)
    ∧ (∀ i ∈ [Instr.barx H ⟨false, 0⟩ (.v 2), .bara H 8 ⟨false, 0⟩, .bar H ⟨false, 0⟩, .barw H ⟨false, 0⟩ (.v 2), .barq H 1 ⟨false, 0⟩ (.s 2)],
      ∃ c t, Issues i (withBar false (probe i)) c t ∧ c.act ≠ 0 ∧ (t.barrier c.ref.blk 0).ready = true ∧ (t.barrier c.ref.blk 0).lost = false)
    ∧ (∃ c t, Issues (.regrp H true 8 16 64 3) (probe (.regrp H true 8 16 64 3) joined) c t ∧ c.act ≠ 0 ∧ c.act &&& ~~~(c.w.jset 3).member = 0
      ∧ ∀ l ∈ c.live, c.w.depth1 l = 0) :=
  ⟨reaches (by decide +kernel), all_reach (f := fun i => withBar false (probe i)) (by decide +kernel), reaches (by decide +kernel)⟩
theorem witness_LostBarriersTrap : ∀ i ∈ [Instr.barx H ⟨false, 0⟩ (.v 2), .bara H 8 ⟨false, 0⟩, .bar H ⟨false, 0⟩, .barw H ⟨false, 0⟩ (.v 2), .barq H 1 ⟨false, 0⟩ (.s 2)],
    (∃ c t, Issues i (probe i) c t ∧ c.act ≠ 0 ∧ (t.barrier c.ref.blk 0).ready = false)
    ∧ ∃ c t, Issues i (withBar true (probe i)) c t ∧ c.act ≠ 0 ∧ (t.barrier c.ref.blk 0).lost = true := fun i hi =>
  ⟨all_reach (f := probe) (P := fun c t => c.act ≠ 0 ∧ (t.barrier c.ref.blk 0).ready = false) (L := [Instr.barx H ⟨false, 0⟩ (.v 2), .bara H 8 ⟨false, 0⟩,
      .bar H ⟨false, 0⟩, .barw H ⟨false, 0⟩ (.v 2), .barq H 1 ⟨false, 0⟩ (.s 2)]) (by decide +kernel) i hi,
    all_reach (f := fun i => withBar true (probe i)) (P := fun c t => c.act ≠ 0 ∧ (t.barrier c.ref.blk 0).lost = true) (L := [Instr.barx H ⟨false, 0⟩ (.v 2),
      .bara H 8 ⟨false, 0⟩, .bar H ⟨false, 0⟩, .barw H ⟨false, 0⟩ (.v 2), .barq H 1 ⟨false, 0⟩ (.s 2)]) (by decide +kernel) i hi⟩
theorem witness_QuietStepsEnd : ∃ b, (probe (.nop H)).block? 0 = some b ∧ b.Quiet := by
  have h : ∃ b ∈ (probe (.nop H)).block? 0, quiet b = true := by decide +kernel
  exact h.elim fun b hb => ⟨b, hb.1, quiet_of hb.2⟩
/-- One store in the queue of the warp. -/
def queued (space : StoreSpace) (s : State) : State := s.mapWarp me fun w => { w with
  storeQ := [{ space := space, addr := 64, bytes := [1, 2, 3, 4], rel := none, rods := 0, lost := false, seq := 0 }] }
/-- A load of one word into v8 of lane 0 that has been made and has yet to land. -/
def loaded : Late := { id := 7, kind := .load, writes := [(.v 0 8, 5)], rods := 0 }
/-- A load that has yet to make its access. -/
def waiting : Late := { id := 6, kind := .load, writes := [], rods := 0, rest := [{ lane := 0, reg := 20, space := .shared, addr := 64, len := 4 }] }
/-- An atomic that stays in the queue of the warp, lost. -/
def stuck : StoreEntry :=
  { space := .shared, addr := 0, bytes := [], rel := none, rods := 0, lost := true, seq := 0, atom := some ⟨.add32, .rlx, [(0, 64, 3, 0)], none⟩ }
/-- A write that an agent outside the cores performed. -/
def wroteOver (s : State) : State := { s with past := [⟨0, none, 64, [9, 9, 9, 9]⟩] }
theorem witness_LoadsAndStores :
    (∃ c t, Issues (.lds H .b4 false 8 ⟨false, 1, 4⟩) (probe (.lds H .b4 false 8 ⟨false, 1, 4⟩)) c t ∧ c.live ≠ []
      ∧ (let a := sharedAccess t c (sharedEA c.w ⟨false, 1, 4⟩); ∀ l ∈ c.live, a.ea l % 4 = 0 ∧ a.out l 4 = false ∧ a.pois l 4 = false))
    ∧ (∃ c t, Issues (.ldx H .b16 true .pkg 8 ⟨true, 2, 16⟩) (probe (.ldx H .b16 true .pkg 8 ⟨true, 2, 16⟩)) c t ∧ c.live ≠ []
      ∧ (let a := scratchAccess t c 1 (fun l => (scratchEA c.w ⟨true, 2, 16⟩ l).toNat); ∀ l ∈ c.live, a.ea l % 16 = 0 ∧ a.out l 16 = false ∧ a.pois l 16 = false))
    ∧ (∃ c t, Issues (.ldk H .b1 8 ⟨false, 1, 7⟩) (probe (.ldk H .b1 8 ⟨false, 1, 7⟩)) c t ∧ c.live ≠ []
      ∧ (let a := stackAccess t c (stackEA c.w ⟨false, 1, 7⟩); ∀ l ∈ c.live, a.ea l % 1 = 0 ∧ a.out l 1 = false ∧ a.pois l 1 = false))
    ∧ (∃ c t, Issues (.sts H .b4 true 8 ⟨false, 1, 4⟩) (probe (.sts H .b4 true 8 ⟨false, 1, 4⟩)) c t ∧ c.live ≠ []
      ∧ (let a := sharedAccess t c (sharedEA c.w ⟨false, 1, 4⟩); ∀ l ∈ c.live, a.ea l % 4 = 0 ∧ a.out l 4 = false))
    ∧ (∃ c t, Issues (.stx H .b8 false .core 8 ⟨false, 2, -8⟩) (probe (.stx H .b8 false .core 8 ⟨false, 2, -8⟩) fun w =>
        (List.range 16).foldl (fun w l => w.put (.v l 2) 8) w) c t ∧ c.live ≠ []
      ∧ (let a := scratchAccess t c 1 (fun l => (scratchEA c.w ⟨false, 2, -8⟩ l).toNat); ∀ l ∈ c.live, a.ea l % 8 = 0 ∧ a.out l 8 = false))
    ∧ (∃ c t, Issues (.stk H .b4 8 ⟨false, 1, 4⟩) (probe (.stk H .b4 8 ⟨false, 1, 4⟩)) c t ∧ c.live ≠ []
      ∧ (let a := stackAccess t c (stackEA c.w ⟨false, 1, 4⟩); ∀ l ∈ c.live, a.ea l % 4 = 0 ∧ a.out l 4 = false))
    ∧ (∀ held ∈ [false, true], ∃ c t, Issues (.ldw H true true .pkg 8 ⟨false, 2, 0⟩) (probe (.ldw H true true .pkg 8 ⟨false, 2, 0⟩) fun w => { w with
          storeQ := if held then [stuck] else [] }) c t ∧ c.live ≠ []
      ∧ (let a := scratchAccess t c 1 (fun l => (scratchEA c.w ⟨false, 2, 0⟩ l).toNat); (∀ l ∈ c.live, a.ea l % 8 = 0 ∧ a.out l 8 = false ∧ a.pois l 8 = false)
        ∧ ((t.warp? c.ref).getD c.w).heldNow (accessRods t c a c.live 8) (c.lanes.map fun l => { lane := l, reg := 8, space := .scratch, addr := physOf t c.blk.vf (a.ea l), len := 8 }) = held))
    ∧ (∀ held ∈ [false, true], let s := probe (.nop H) fun w => { w with late := if held then [waiting] else [] }
      ∃ w ∈ s.warp? me, (s.block? 0).isSome = true ∧ w.heldNow waiting.rods waiting.rest = held ∧ waiting.rest ≠ [] ∧ s.past = []
        ∧ (∀ x ∈ w.late, x.loose = [] ∧ x.id < s.nextId + 7) ∧ ∀ e ∈ w.storeQ, e.seq < s.nextId)
    ∧ (let s := wroteOver (probe (.nop H)); ∃ w ∈ s.warp? me, (s.looseRead 0 w [] 0 64 4 1).1 = [9, 9, 9, 9] ∧ (s.looseRead 0 w [] 1 64 4 1).1 = [0, 0, 0, 0]
      ∧ s.newerBytes 0 { lane := 0, reg := 8, space := .scratch, addr := 64, len := 4 } 1 = some ([0, 0, 0, 0], 1)) := by
  refine ⟨reaches (by decide +kernel), reaches (by decide +kernel), reaches (by decide +kernel), reaches (by decide +kernel), reaches (by decide +kernel),
    reaches (by decide +kernel), ?_, by decide +kernel, by decide +kernel⟩
  have h : ∀ held ∈ [false, true], ∃ y ∈ gone? (.ldw H true true .pkg 8 ⟨false, 2, 0⟩) (probe (.ldw H true true .pkg 8 ⟨false, 2, 0⟩) fun w => { w with
          storeQ := if held then [stuck] else [] }), y.1.live ≠ []
      ∧ (let a := scratchAccess y.2 y.1 1 (fun l => (scratchEA y.1.w ⟨false, 2, 0⟩ l).toNat); (∀ l ∈ y.1.live, a.ea l % 8 = 0 ∧ a.out l 8 = false ∧ a.pois l 8 = false)
        ∧ ((y.2.warp? y.1.ref).getD y.1.w).heldNow (accessRods y.2 y.1 a y.1.live 8) (y.1.lanes.map fun l => { lane := l, reg := 8, space := .scratch, addr := physOf y.2 y.1.blk.vf (a.ea l), len := 8 }) = held) := by decide +kernel
  exact fun x hx => reaches (h x hx)
/-- The one live lane's address is not a multiple of the size. -/
def astray (i : Instr) (xs : List Word) (n : Nat) (ea : Ctx → Nat) : Prop := ∃ c t, Issues i (solo i (vregs xs)) c t ∧ c.live = [0] ∧ ea c % n ≠ 0
theorem astray_of {i : Instr} {xs : List Word} {n : Nat} {ea : Ctx → Nat} (h : ∃ x ∈ gone? i (solo i (vregs xs)), x.1.live = [0] ∧ ea x.1 % n ≠ 0) : astray i xs n ea := reaches h
/-- Its address is a multiple of the size, and a condition holds of it. -/
def strays (i : Instr) (f : State → State) (xs : List Word) (n : Nat) (ea : Ctx → Nat) (P : Ctx → State → Prop) : Prop :=
  ∃ c t, Issues i (f (solo i (vregs xs))) c t ∧ c.live = [0] ∧ ea c % n = 0 ∧ P c t
theorem strays_of {i : Instr} {f : State → State} {xs : List Word} {n : Nat} {ea : Ctx → Nat} {P : Ctx → State → Prop}
    (h : ∃ x ∈ gone? i (f (solo i (vregs xs))), x.1.live = [0] ∧ ea x.1 % n = 0 ∧ P x.1 x.2) : strays i f xs n ea P := reaches h
def shAt (imm : BitVec 18) (c : Ctx) : Nat := sharedEA c.w ⟨false, 1, imm⟩ 0
def skAt (imm : BitVec 18) (c : Ctx) : Nat := stackEA c.w ⟨false, 1, imm⟩ 0
def sxAt (imm : BitVec 18) (c : Ctx) : Nat := (scratchEA c.w ⟨false, 2, imm⟩ 0).toNat
abbrev outside (ea : Ctx → Nat) (n : Nat) (c : Ctx) (t : State) : Prop := (t.vf c.blk.vf).scratch? (ea c) = none ∨ (t.vf c.blk.vf).scratch? (ea c + n - 1) = none
theorem witness_MisalignedAccessesTrap : (∀ i ∈ [Instr.lds H .b4 false 8 ⟨false, 1, 2⟩, .sts H .b4 true 8 ⟨false, 1, 2⟩], astray i [] 4 (shAt 2))
    ∧ (∀ i ∈ [Instr.ldx H .b4 false .core 8 ⟨false, 2, 2⟩, .stx H .b4 false .core 8 ⟨false, 2, 2⟩, .ldw H false true .pkg 8 ⟨false, 2, 2⟩], astray i [] 4 (sxAt 2))
    ∧ (∀ i ∈ [Instr.ldk H .b4 8 ⟨false, 1, 2⟩, .stk H .b4 8 ⟨false, 1, 2⟩], astray i [] 4 (skAt 2))
    ∧ astray (.atoms H .add32 .ar 8 1 2 0) [0, 2] 4 (fun c => (c.v 0 1).toNat)
    ∧ (∀ i ∈ [Instr.atomx H .cas64 .ar .pkg 8 2 4 6, .redx H .add64 .rel .die 2 4], astray i [0, 0, 4] 8 fun c => (c.v64 0 2).toNat)
    ∧ (∀ i ∈ [Instr.ldf H false 8 ⟨false, 2, 8⟩, .fpoll H true 8 ⟨false, 2, 8⟩, .fres H 8 ⟨false, 2, 8⟩, .fflt H 8 ⟨false, 2, 8⟩, .freg H 8 ⟨false, 2, 8⟩], astray i [] 16 (sxAt 8))
    ∧ astray (.freg H 8 ⟨false, 2, 0⟩) [0, 0, 0, 0, 0, 0, 0, 0, 64, 0] 128 (fun c => (c.v64 0 8).toNat) := by
  refine ⟨fun i hi => astray_of ?_, fun i hi => astray_of ?_, fun i hi => astray_of ?_, astray_of (by decide +kernel), fun i hi => astray_of ?_, fun i hi => astray_of ?_,
    astray_of (by decide +kernel)⟩ <;> revert i <;> decide +kernel
theorem witness_MisalignedAccessesTrap_bounds :
    (∀ i ∈ [Instr.lds H .b4 false 8 ⟨false, 1, -4⟩, .sts H .b4 true 8 ⟨false, 1, -4⟩], strays i id [] 4 (shAt (-4)) fun c _ => c.blk.decl.shared < shAt (-4) c + 4)
    ∧ (∀ i ∈ [Instr.ldk H .b4 8 ⟨false, 1, -4⟩, .stk H .b4 8 ⟨false, 1, -4⟩], strays i id [] 4 (skAt (-4)) fun c _ => c.blk.decl.stack < skAt (-4) c + 4)
    ∧ (∀ i ∈ [Instr.ldx H .b4 false .core 8 ⟨false, 2, 0⟩, .stx H .b4 false .core 8 ⟨false, 2, 0⟩, .ldw H false true .pkg 8 ⟨false, 2, 0⟩, .atomx H .add32 .ar .pkg 8 2 4 6,
        .redx H .add32 .rel .die 2 4], strays i id [0, 0, 0, 2] 4 (sxAt 0) (outside (sxAt 0) 4))
    ∧ strays (.atoms H .add32 .ar 8 1 2 0) id [0, 65536] 4 (fun c => (c.v 0 1).toNat) (fun c _ => c.blk.decl.shared < (c.v 0 1).toNat + 4)
    ∧ (∀ i ∈ [Instr.ldf H false 8 ⟨false, 2, 0⟩, .fpoll H true 8 ⟨false, 2, 0⟩, .fres H 8 ⟨false, 2, 0⟩, .fflt H 8 ⟨false, 2, 0⟩, .freg H 8 ⟨false, 2, 0⟩],
        strays i id [0, 0, 0, 2] 16 (sxAt 0) (outside (sxAt 0) 16))
    ∧ strays (.freg H 8 ⟨false, 2, 0⟩) id [0, 0, 0, 0, 0, 0, 0, 0, 0, 2] 128 (fun c => (c.v64 0 8).toNat) (outside (fun c => (c.v64 0 8).toNat) 128) := by
  refine ⟨fun i hi => strays_of ?_, fun i hi => strays_of ?_, fun i hi => strays_of ?_, strays_of (by decide +kernel), fun i hi => strays_of ?_, strays_of (by decide +kernel)⟩
    <;> (try revert i) <;> decide +kernel
/-- Words 0 of the scratchpad, of shared memory and of the stack of lane 0 are poisoned. -/
def poisonedAll (s : State) : State := ({ s with spPois := [0] } : State).mapBlock 0 fun b => { b with
  sharedPois := [0]
  warps := b.warps.map fun w => { w with stackPois := [0] } }
theorem witness_MisalignedAccessesTrap_poison :
    strays (.lds H .b4 false 8 ⟨false, 1, 0⟩) poisonedAll [] 4 (shAt 0) (fun c t => (sharedAccess t c (sharedEA c.w ⟨false, 1, 0⟩)).pois 0 4 = true ∧ ¬c.blk.decl.shared < shAt 0 c + 4)
    ∧ strays (.ldk H .b4 8 ⟨false, 1, 0⟩) poisonedAll [] 4 (skAt 0) (fun c t => (stackAccess t c (stackEA c.w ⟨false, 1, 0⟩)).pois 0 4 = true ∧ ¬c.blk.decl.stack < skAt 0 c + 4)
    ∧ (∀ i ∈ [Instr.ldx H .b4 false .core 8 ⟨false, 2, 0⟩, .ldw H false true .pkg 8 ⟨false, 2, 0⟩, .atomx H .add32 .ar .pkg 8 2 4 6, .redx H .add32 .rel .die 2 4],
        strays i poisonedAll [] 4 (sxAt 0) fun c t => (scratchAccess t c 1 fun l => (scratchEA c.w ⟨false, 2, 0⟩ l).toNat).pois 0 4 = true ∧ ¬outside (sxAt 0) 4 c t)
    ∧ strays (.atoms H .add32 .ar 8 1 2 0) poisonedAll [] 4 (fun c => (c.v 0 1).toNat) (fun c t => (sharedAccess t c fun l => (c.v l 1).toNat).pois 0 4 = true ∧ ¬c.blk.decl.shared < (c.v 0 1).toNat + 4)
    ∧ (∀ i ∈ [Instr.ldf H false 8 ⟨false, 2, 0⟩, .fpoll H true 8 ⟨false, 2, 0⟩],
        strays i poisonedAll [] 16 (sxAt 0) fun c t => (scratchAccess t c 3 fun l => (scratchEA c.w ⟨false, 2, 0⟩ l).toNat).pois 0 16 = true ∧ ¬outside (sxAt 0) 16 c t) := by
  refine ⟨strays_of (by decide +kernel), strays_of (by decide +kernel), fun i hi => strays_of ?_, strays_of (by decide +kernel), fun i hi => strays_of ?_⟩
    <;> (try revert i) <;> decide +kernel
theorem witness_StoresReachTheirAddresses : (∀ x ∈ [StoreSpace.shared, .scratch], let s := queued x (probe (.nop H));
      ∃ w ∈ s.warp? me, ∃ e ∈ w.storeQ.head?, e.lost = false ∧ e.rel = none ∧ e.atom = none ∧ e.fut = none ∧ e.space = x ∧ (s.block? 0).isSome = true
        ∧ w.landed e.after = true ∧ (∀ l ∈ w.late, l.rest = []) ∧ (∀ k < 20, w.arrivalDue k = false) ∧ ∀ y ∈ s.waitTab, y.ref = me → y.woken = false)
    ∧ (let s := (queued .scratch (probe (.nop H))).mapWarp me fun w => { w with storeQ := w.storeQ.map fun e => { e with rel := some .pkg } }
      ∃ w ∈ s.warp? me, ∃ e ∈ w.storeQ.head?, e.lost = false ∧ e.rel = some .pkg ∧ s.jobsBefore me e.seq = false ∧ w.landed e.after = true ∧ ∀ l ∈ w.late, l.rest = [])
    ∧ (let s : State := { probe (.nop H) with flight := [⟨0, 0, 0, false, 64, [1, 2, 3, 4], 0, [], 0⟩] }; ∃ f ∈ s.flight.head?, s.flight = [f] ∧ f.blk = me.blk ∧ f.warp = me.num
      ∧ (s.warp? me).isSome = true) := by decide +kernel
theorem witness_StoresReachTheirAddresses_futures : ∀ k ∈ [FutureKind.link, .full, .fault], let s := (probe (.nop H)).mapWarp me fun w => { w with storeQ := [{
          space := .scratch, addr := 0, bytes := [], rel := some .pkg, rods := 0, lost := false, fut := some { kind := k, place := 64, arg := 128 } }] }
      ∃ w ∈ s.warp? me, ∃ e ∈ w.storeQ.head?, e.lost = false ∧ e.rel = some .pkg ∧ s.jobsBefore me e.seq = false ∧ w.landed e.after = true ∧ (∀ l ∈ w.late, l.rest = [])
        ∧ e.fut = some { kind := k, place := 64, arg := 128 } := by decide +kernel
/-- An atomic add of 3 by lane 0 at 64, alone in the queue of the warp, whose result is `loaded`. -/
def adding (space : StoreSpace) (s : State) : State := s.mapWarp me fun w => { w with
  late := [{ loaded with queued := true }]
  storeQ := [{ space := space, addr := 0, bytes := [], rel := none, rods := 0, lost := false, seq := 8, atom := some ⟨.add32, .ar, [(0, 64, 3, 0)], some (7, 8)⟩ }] }
theorem witness_AtomicsReadModifyWrite :
    (∀ i ∈ [Instr.atoms ⟨0, false, false, 0⟩ .add32 .ar 8 1 2 0, .atomx ⟨0, false, false, 0⟩ .cas64 .ar .pkg 8 2 4 6, .redx ⟨0, false, false, 0⟩ .inc .rel .die 2 4], ∃ c t, Issues i (probe i) c t ∧ c.act = 0)
    ∧ (∃ c t, Issues (.atoms H .add32 .ar 8 1 2 0) (probe (.atoms H .add32 .ar 8 1 2 0)) c t ∧ c.act ≠ 0
      ∧ (let x := sharedAccess t c fun l => (c.v l 1).toNat; ∀ l ∈ c.live, x.ea l % 4 = 0 ∧ x.out l 4 = false ∧ x.pois l 4 = false))
    ∧ (∃ c t, Issues (.atomx H .cas64 .ar .pkg 8 2 4 6) (probe (.atomx H .cas64 .ar .pkg 8 2 4 6)) c t ∧ c.act ≠ 0
      ∧ (let x := scratchAccess t c 1 fun l => (c.v64 l 2).toNat; ∀ l ∈ c.live, x.ea l % 8 = 0 ∧ x.out l 8 = false ∧ x.pois l 8 = false))
    ∧ (∃ c t, Issues (.redx H .inc .rel .die 2 4) (probe (.redx H .inc .rel .die 2 4)) c t ∧ c.act ≠ 0
      ∧ (let x := scratchAccess t c 1 fun l => (c.v64 l 2).toNat; ∀ l ∈ c.live, x.ea l % 4 = 0 ∧ x.out l 4 = false ∧ x.pois l 4 = false))
    ∧ (∀ x ∈ [StoreSpace.shared, .scratch], let s := adding x (probe (.nop H)); (s.block? 0).isSome = true ∧ ∃ w ∈ s.warp? me, ∃ e ∈ w.storeQ.head?, w.storeQ = [e]
      ∧ e.lost = false ∧ e.rel = none ∧ e.fut = none ∧ w.landed e.after = true ∧ (∀ l ∈ w.late, l.rest = []) ∧ e.atom.isSome = true ∧ (w.late.find? fun l => l.id == 7).isSome = true)
    ∧ (∀ bad ∈ [[], [16]], let s : State := { probe (.nop H) with spPois := bad }; decide (∃ i ∈ s.spPois, 64 < 4 * i + 4 ∧ 4 * i < 64 + 4) = (bad != []))
    ∧ ∀ bad ∈ [[], [16]], let s := (probe (.nop H)).mapBlock 0 fun b => { b with sharedPois := bad }; ∃ b ∈ s.block? 0,
      decide (∃ i ∈ b.sharedPois, 64 < 4 * i + 4 ∧ 4 * i < 64 + 4) = (bad != []) :=
  ⟨all_reach (by decide +kernel), reaches (by decide +kernel), reaches (by decide +kernel), reaches (by decide +kernel), by decide +kernel, by decide +kernel, by decide +kernel⟩
/-- The view's stamp of group 0, and the generation of its source tile. -/
def stamped (pois : Bool) (src : Nat) (s : State) : State :=
  { s with
    views := [{ vf := 0, handle := 2, master := 1, stamps := [(0, ⟨pois, 0⟩)], homes := [], reg := none }]
    gens := Sparse.set 0 [] (genKey 0 1 0) (BitVec.ofNat 32 src) }
/-- The state of the tables, with the rods of a mask in s4. -/
def viewFence (i : Instr) : State := world (probe i fun w => w.put (.s 4) 0x10000)
/-- The run has sampled the groups of its fence already; and the block has a rod over the view's tiles. -/
def sampled (w : Warp) : Warp := { w with runs := w.runs.map fun r => { r with samples := some [] } }
def rodded (s : State) : State := s.mapBlock 0 fun b => { b with rods := listSet (b.rods ++ List.replicate (32 - b.rods.length) []) 16 [⟨.th, 2, 0⟩] }
theorem witness_FencesAndRods :
    (∀ i ∈ [Instr.fence H .full .sys, .fence H .acq .pkg, .fence H .rel .core, .fencer H true false .pkg false 257 0, .fencer H true false .sys true 0 4,
      .roddef H .th 15 4 6], ∃ c t, Issues i (probe i) c t ∧ c.act ≠ 0)
    ∧ (∃ c t, Issues (.fencer H false true .pkg false 1 0) (probe (.fencer H false true .pkg false 1 0) sampled) c t ∧ c.act ≠ 0 ∧ c.run.samples = some [])
    ∧ (∃ c t, Issues (.fencer H false true .pkg false 1 0) (probe (.fencer H false true .pkg false 1 0)) c t ∧ c.act ≠ 0 ∧ c.run.samples = none
      ∧ fenceViews t c.blk (fencerMask c.blk c.w true false 1 0).1 = [] ∧ (fencerMask c.blk c.w true false 1 0).2 = true ∧ ∀ l ∈ c.w.late, l.kind ≠ .load)
    ∧ (let put := fun w : Warp => { w with late := [loaded] }
      ∃ c t, Issues (.fencer H false true .pkg false 1 0) (probe (.fencer H false true .pkg false 1 0) put) c t ∧ c.act ≠ 0 ∧ c.run.samples = none
      ∧ fenceViews t c.blk (fencerMask c.blk c.w true false 1 0).1 = [] ∧ ∃ l ∈ c.w.late.head?, l.kind = .load)
    ∧ (∀ x ∈ [(false, 0), (true, 0), (false, 1)], let i := Instr.fencer H false false .pkg true 0 4
      ∃ c t, Issues i (rodded (stamped x.1 x.2 (viewFence i))) c t ∧ c.act ≠ 0 ∧ c.run.samples = none
      ∧ (fencerMask c.blk c.w false true 0 4).2 = false ∧ fenceViews t c.blk (fencerMask c.blk c.w false true 0 4).1 = [] ++ (2, 0) :: []
      ∧ (t.sampleGroups c.blk.vf [(2, 0)]).length = 1
      ∧ ((t.staleOf (t.sampleGroups c.blk.vf [(2, 0)]) = []) ↔ x.2 = 0) ∧ (x.2 = 0 → ((t.poisonedOf (t.sampleGroups c.blk.vf [(2, 0)])).isSome = x.1))) := by
  refine ⟨all_reach (by decide +kernel), reaches (by decide +kernel), reaches (by decide +kernel), reaches (by decide +kernel), ?_⟩
  have h : ∀ x ∈ [(false, 0), (true, 0), (false, 1)], let i := Instr.fencer H false false .pkg true 0 4
      ∃ y ∈ gone? i (rodded (stamped x.1 x.2 (viewFence i))), y.1.act ≠ 0 ∧ y.1.run.samples = none
      ∧ (fencerMask y.1.blk y.1.w false true 0 4).2 = false ∧ fenceViews y.2 y.1.blk (fencerMask y.1.blk y.1.w false true 0 4).1 = [] ++ (2, 0) :: []
      ∧ (y.2.sampleGroups y.1.blk.vf [(2, 0)]).length = 1
      ∧ ((y.2.staleOf (y.2.sampleGroups y.1.blk.vf [(2, 0)]) = []) ↔ x.2 = 0) ∧ (x.2 = 0 → ((y.2.poisonedOf (y.2.sampleGroups y.1.blk.vf [(2, 0)])).isSome = x.1)) := by
    decide +kernel
  exact fun x hx => reaches (h x hx)
/-- A future at 64 in a state, with `n` links of its slice. -/
def linked (st : Nat) (n : Nat) : State := { poke 64 [BitVec.ofNat 8 st] State.reset with links := List.replicate n ⟨64, 128, 0, 1, .bulk, 0⟩ }
/-- A resolution of the future at 64 waits in the store queue. -/
def claimed : State := (probe (.nop H)).mapWarp me fun w => { w with storeQ := [{
  space := .scratch, addr := 0, bytes := [], rel := some .pkg, rods := 0, lost := false, fut := some { kind := .full, place := 64, arg := 5 } }] }
theorem witness_FuturesAndContinuations : (∀ i ∈ [Instr.fpoll H true 8 ⟨false, 2, 0⟩, .ldf H false 8 ⟨false, 2, 0⟩, .fres H 8 ⟨false, 2, 0⟩, .fflt H 8 ⟨false, 2, 0⟩,
      .freg H 8 ⟨false, 2, 0⟩], (∃ c t, Issues i (probe i) c t ∧ c.act ≠ 0
      ∧ (let x := scratchAccess t c 3 (fun l => (scratchEA c.w ⟨false, 2, 0⟩ l).toNat); ∀ l ∈ c.live, x.ea l % 16 = 0 ∧ x.out l 16 = false ∧ x.pois l 16 = false)
      ∧ ∀ l ∈ c.live, (c.v64 l 8).toNat % 128 = 0 ∧ outOfWindow t c.blk.vf (c.v64 l 8).toNat 128 = false))
    ∧ (∀ i ∈ [Instr.fpoll ⟨0, false, false, 0⟩ true 8 ⟨false, 2, 0⟩, .ldf ⟨0, false, false, 0⟩ false 8 ⟨false, 2, 0⟩, .fres ⟨0, false, false, 0⟩ 8 ⟨false, 2, 0⟩, .fflt ⟨0, false, false, 0⟩ 8 ⟨false, 2, 0⟩,
      .freg ⟨0, false, false, 0⟩ 8 ⟨false, 2, 0⟩], ∃ c t, Issues i (probe i) c t ∧ c.act = 0)
    ∧ (∀ held ∈ [false, true], ∃ c t, Issues (.ldf H false 8 ⟨false, 2, 0⟩) (probe (.ldf H false 8 ⟨false, 2, 0⟩) fun w => { w with
          storeQ := if held then [stuck] else [] }) c t
      ∧ (let x := scratchAccess t c 3 (fun l => (scratchEA c.w ⟨false, 2, 0⟩ l).toNat); ((t.warp? c.ref).getD c.w).heldNow (accessRods t c x c.live 16)
        (c.lanes.map fun l => { lane := l, reg := 8, space := .scratch, addr := physOf t c.blk.vf (x.ea l), len := 16, skip := 8 }) = held))
    ∧ (∀ i ∈ [Instr.fres H 8 ⟨false, 2, 0⟩, .fflt H 8 ⟨false, 2, 0⟩, .freg H 8 ⟨false, 2, 0⟩], ∀ held ∈ [false, true], ∃ c t, Issues i (probe i fun w => { w with
          storeQ := if held then [stuck] else [] }) c t ∧ c.act ≠ 0 ∧ t.futureHeld c.ref (accessRods t c (scratchAccess t c 3 (fun l => (scratchEA c.w ⟨false, 2, 0⟩ l).toNat)) c.live 16) = held)
    ∧ (let s := claimed; s.claim? 64 = some .full ∧ u8 (readBytes (s.settle 64 16).sp 64 16) 0 % 4 = 0)
    ∧ (linked 0 0).claim? 64 = none
    ∧ (∀ x ∈ [(0, 0), (1, 0), (2, 0)], futState ((linked x.1 x.2).settle 64 16) 64 = x.1 ∧ (linked x.1 x.2).links.length < 4096)
    ∧ futState ((linked 0 4096).settle 64 16) 64 = 0 ∧ (((linked 0 4096).settle 64 16).links.filter fun y => y.future / 2 ^ 30 == 64 / 2 ^ 30).length = 4096 := by
  refine ⟨all_reach (by decide +kernel), all_reach (by decide +kernel), ?_, fun i hi held hh => ?_, by decide +kernel, by decide +kernel, by decide +kernel, by decide +kernel, by decide +kernel⟩
  · have h : ∀ held ∈ [false, true], ∃ y ∈ gone? (.ldf H false 8 ⟨false, 2, 0⟩) (probe (.ldf H false 8 ⟨false, 2, 0⟩) fun w => { w with
          storeQ := if held then [stuck] else [] }),
      (let x := scratchAccess y.2 y.1 3 (fun l => (scratchEA y.1.w ⟨false, 2, 0⟩ l).toNat); ((y.2.warp? y.1.ref).getD y.1.w).heldNow (accessRods y.2 y.1 x y.1.live 16)
        (y.1.lanes.map fun l => { lane := l, reg := 8, space := .scratch, addr := physOf y.2 y.1.blk.vf (x.ea l), len := 16, skip := 8 }) = held) := by decide +kernel
    exact fun x hx => reaches (h x hx)
  · have h : ∀ i ∈ [Instr.fres H 8 ⟨false, 2, 0⟩, .fflt H 8 ⟨false, 2, 0⟩, .freg H 8 ⟨false, 2, 0⟩], ∀ held ∈ [false, true], ∃ y ∈ gone? i (probe i fun w => { w with
          storeQ := if held then [stuck] else [] }), y.1.act ≠ 0
        ∧ y.2.futureHeld y.1.ref (accessRods y.2 y.1 (scratchAccess y.2 y.1 3 (fun l => (scratchEA y.1.w ⟨false, 2, 0⟩ l).toNat)) y.1.live 16) = held := by decide +kernel
    exact reaches (h i hi held hh)
theorem witness_SpawnAndLaunch :
    (∃ c t, Issues (.spawn H true 1 20 0 2) (world (probe (.spawn H true 1 20 0 2) fun w => w.put (.s 20) 2)) c t ∧ c.act ≠ 0
      ∧ (t.performWarp c.ref .pkg).spawnReason c.blk true (c.s 20).toNat (c.w.rs64 0).toNat = 0)
    ∧ (∃ c t, Issues (.spawn H false 1 20 0 2) (probe (.spawn H false 1 20 0 2)) c t ∧ c.act ≠ 0
      ∧ (t.performWarp c.ref .pkg).spawnReason c.blk false (c.s 20).toNat (c.w.rs64 0).toNat ≠ 0)
    ∧ (∃ c t, Issues (.lnch H 1 20 0 2) (world (probe (.lnch H 1 20 0 2) fun w => w.put (.s 20) 1)) c t ∧ c.act ≠ 0
      ∧ (let u := t.performWarp c.ref .pkg; u.lnchReason c.blk (c.s 20).toNat (c.w.rs64 0).toNat
        (u.spView c.blk.core (((u.warp? c.ref).map (·.storeQ)).getD []) (physOf u c.blk.vf (c.w.rs64 0).toNat) 128) = 0)
      ∧ ((t.performWarp c.ref .pkg).codeEntry? c.blk.vf (c.s 20).toNat).isSome = true)
    ∧ (∃ c t, Issues (.lnch H 1 20 0 2) (probe (.lnch H 1 20 0 2)) c t ∧ c.act ≠ 0
      ∧ (let u := t.performWarp c.ref .pkg; u.lnchReason c.blk (c.s 20).toNat (c.w.rs64 0).toNat
        (u.spView c.blk.core (((u.warp? c.ref).map (·.storeQ)).getD []) (physOf u c.blk.vf (c.w.rs64 0).toNat) 128) ≠ 0)) :=
  ⟨reaches (by decide +kernel), reaches (by decide +kernel), reaches (by decide +kernel), reaches (by decide +kernel)⟩

/-- A matrix operation of the block, on registers, INT8 with an INT32 accumulator. -/
def matOp (started : Bool) : MatOp :=
  { id := 9, core := 0, blk := 0, team := 0, st := 0, op := 0x140, fmt := 0x777, dst := 0, srcA := .regs [] [] 0 [], srcB := .regs [] [] 0 [], positions := [],
    acc := [], reads := [], rods := 0, started := started, parked := none, aborted := false, warps := [0] }
/-- The team's last operation on stream 0. -/
def lastOp (s : State) : State :=
  { s.mapBlock 0 fun b => { b with teams := [{ avg := 0, lastOp := [(0, 10)], charge := [], passed := 0 }] } with ops := [matOp false] }
theorem witness_MatrixWords :
    (∀ i ∈ [Instr.mma H 0 3 0 32 48 64, .mmas H 1 3 0 32 48 64, .mmat H 3 3 0 4 48 68], (∃ c t, Issues i (probe i joined) c t ∧ c.act ≠ 0 ∧ (c.w.jset 3).member = c.w.live)
      ∧ ∃ c t, Issues i (probe i) c t ∧ c.act ≠ 0 ∧ (c.w.jset 3).member ≠ c.w.live)
    ∧ (∃ c t, Issues (.mma H 0 3 0 32 48 64) (probe (.mma H 0 3 0 32 48 64) fun w => { (List.range 16).foldl (fun w l => w.put (.v l 64) 0x10000) w with sPois := [32] }) c t ∧ c.act ≠ 0
      ∧ (pairPois c.w { op := 0x140, d := 0, a := 32, b := 48, c := 64, st := 0, j := 3 } c.act).isSome = true)
    ∧ (∃ c t, Issues (.msync H 3) (probe (.msync H 3)) c t ∧ c.act ≠ 0)
    ∧ (∃ c t, Issues (.mchg H 0 8) (probe (.mchg H 0 8)) c t ∧ ∃ tm ∈ c.blk.teams[c.ref.num / c.blk.decl.team]?, Sparse.get 0 tm.lastOp 0 = 0)
    ∧ (∃ c t, Issues (.mchg H 0 8) (lastOp (probe (.mchg H 0 8))) c t ∧ ∃ tm ∈ c.blk.teams[c.ref.num / c.blk.decl.team]?, Sparse.get 0 tm.lastOp 0 = 10
      ∧ (t.op? (10 - 1)).isSome = true) := by
  refine ⟨fun i hi => ⟨?_, ?_⟩, reaches (by decide +kernel), reaches (by decide +kernel), reaches (by decide +kernel), reaches (by decide +kernel)⟩
  · exact all_reach (f := fun i => probe i joined) (P := fun c _ => c.act ≠ 0 ∧ (c.w.jset 3).member = c.w.live)
      (L := [Instr.mma H 0 3 0 32 48 64, .mmas H 1 3 0 32 48 64, .mmat H 3 3 0 4 48 68]) (by decide +kernel) i hi
  · exact all_reach (f := probe) (P := fun c _ => c.act ≠ 0 ∧ (c.w.jset 3).member ≠ c.w.live)
      (L := [Instr.mma H 0 3 0 32 48 64, .mmas H 1 3 0 32 48 64, .mmat H 3 3 0 4 48 68]) (by decide +kernel) i hi
theorem witness_IntegerMatrixElements : (let fmt : Word := 0x777; fmt.extractLsb' 0 4 = 7 ∧ fmt.extractLsb' 4 4 = 7 ∧ fmt.extractLsb' 8 4 = 7 ∧ fmt.getLsbD 14 = false)
    ∧ (∀ y ∈ [false, false], y = false) ∧ ∀ y ∈ [0, 127, 128, 255], y < 256 := by decide
/-- A row of 64 bytes from 0 to 256, in s16 to s23; a peer word in s0, an index list at the start of shared memory. -/
def descRegs (rows : Nat) (w : Warp) : Warp := [(16, 0), (18, 256), (20, 64), (21, BitVec.ofNat 32 rows), (22, 64), (23, 64)].foldl (fun w x => w.put (.s x.1) x.2) w
/-- What a transfer word needs beside its own checks, for its sides. -/
def mayStart (i : Instr) (dst : Option XSpace) (src : Option (Option XSpace)) (srows drows : Nat) (list : List Range := []) : Prop := ∀ rows ∈ [0, 1],
  ∃ c t, Issues i (probe i (descRegs rows)) c t ∧ c.act ≠ 0 ∧ (let d := xdesc c.w 16
    descTrap (t.vf c.blk.vf) c.blk.decl.shared ⟨d, ⟨0, dst, d.dst, d.dpitch, if drows = 0 then d.rows else 0⟩,
      src.map fun y => ⟨1, y, d.src, d.spitch, if srows = 0 then d.rows else 0⟩, if d.rows = 0 then [] else list⟩ = none
    ∧ c.run.samples = none ∧ d.rows = rows ∧ d.len = 64
    ∧ t.readGroups c.blk.vf ((src.map fun y => (⟨1, y, d.src, d.spitch, if srows = 0 then d.rows else 0⟩ : Side).ranges d.len).getD []) = [])
theorem mayStart_of {i : Instr} {dst : Option XSpace} {src : Option (Option XSpace)} {m n : Nat} {list : List Range} (h : ∀ rows ∈ [0, 1],
    ∃ x ∈ gone? i (probe i (descRegs rows)), x.1.act ≠ 0 ∧ (let d := xdesc x.1.w 16
    descTrap (x.2.vf x.1.blk.vf) x.1.blk.decl.shared ⟨d, ⟨0, dst, d.dst, d.dpitch, if n = 0 then d.rows else 0⟩,
      src.map fun y => ⟨1, y, d.src, d.spitch, if m = 0 then d.rows else 0⟩, if d.rows = 0 then [] else list⟩ = none
    ∧ x.1.run.samples = none ∧ d.rows = rows ∧ d.len = 64
    ∧ x.2.readGroups x.1.blk.vf ((src.map fun y => (⟨1, y, d.src, d.spitch, if m = 0 then d.rows else 0⟩ : Side).ranges d.len).getD []) = [])) : mayStart i dst src m n list :=
  fun rows hr => reaches (h rows hr)
theorem witness_TransferWords : mayStart (.bcp H .sh .mm 0 16) (some .sh) (some (some .mm)) 0 0 ∧ mayStart (.bfill H .sp 0 16) (some .sp) none 0 0
    ∧ mayStart (.bpfx H 0 16) (some .sp) (some (some .mm)) 0 0 ∧ mayStart (.bmc H .sp 0 16 1) (some .sh) (some (some .sp)) 0 0
    ∧ mayStart (.bga H .sh .mm 0 16 0) (some .sh) (some (some .mm)) 1 0 [⟨.sh, 0, 4⟩] ∧ mayStart (.bsc H .mm .sh 0 16 0) (some .mm) (some (some .sh)) 0 1 [⟨.sh, 0, 4⟩]
    ∧ listTrap 65536 0 0 = none ∧ listTrap 65536 0 1 = none ∧ mayStart (.bcpp H true true 0 16 0 0) (some .sp) (some none) 0 0
    ∧ peerIll true 0 0x80 = none :=
  ⟨mayStart_of (by decide +kernel), mayStart_of (by decide +kernel), mayStart_of (by decide +kernel), mayStart_of (by decide +kernel), mayStart_of (by decide +kernel),
    mayStart_of (by decide +kernel), by decide, by decide, mayStart_of (by decide +kernel), by decide⟩
/-- The descriptor with one register changed, and a transfer that issues with it and an active lane and whose counts are in range. -/
def descWith (n : Nat) (x : Word) (w : Warp) : Warp := (descRegs 1 w).put (.s n) x
def misfits (i : Instr) (f : Warp → Warp) (P : Ctx → State → Reach → Prop) : Prop := ∃ c t, Issues i (probe i f) c t ∧ c.act ≠ 0 ∧ ∃ x ∈ reachOf i c.w,
  x.d.w4.toNat < 2 ^ 28 ∧ x.d.w5.toNat < 2 ^ 27 ∧ x.d.rows * x.d.len ≤ 0xFFFFFFFC ∧ P c t x
theorem misfits_of {i : Instr} {f : Warp → Warp} {P : Ctx → State → Reach → Prop} (h : ∃ y ∈ gone? i (probe i f), y.1.act ≠ 0 ∧ ∃ x ∈ reachOf i y.1.w,
  x.d.w4.toNat < 2 ^ 28 ∧ x.d.w5.toNat < 2 ^ 27 ∧ x.d.rows * x.d.len ≤ 0xFFFFFFFC ∧ P y.1 y.2 x) : misfits i f P := reaches h
theorem witness_MisalignedAccessesTrap_transfers :
    (∀ y ∈ [(16, 2), (18, 258), (20, 62), (22, 66), (23, 66)], misfits (.bcp H .sh .mm 0 16) (descWith y.1 y.2) fun _ _ x =>
      ([x.d.dst, x.d.src, x.d.len, x.d.spitch, x.d.dpitch].filter fun z => z % 4 != 0) = [y.2.toNat])
    ∧ misfits (.bcp H .sh .mm 0 16) (descWith 16 65536) (fun c _ x => x.dst.space = some .sh ∧ 0 < x.dst.rows ∧ 0 < x.d.len ∧ c.blk.decl.shared < x.dst.addr + (x.dst.rows - 1) * x.dst.pitch + x.d.len)
    ∧ misfits (.bcp H .sh .mm 0 16) (descWith 17 1) (fun _ _ x => x.dst.space = some .sh ∧ 2 ^ 32 ≤ x.dst.addr)
    ∧ misfits (.bfill H .sp 0 16) (descWith 17 2) (fun c t x => x.dst.space = some .sp ∧ 0 < x.d.len ∧ 0 < x.dst.rows ∧ (t.vf c.blk.vf).inWindow (x.dst.addr + 0 * x.dst.pitch) x.d.len = false)
    ∧ misfits (.bga H .sh .mm 0 16 0) (descWith 0 2) (fun c _ _ => (c.s 0).toNat % 4 ≠ 0)
    ∧ misfits (.bsc H .mm .sh 0 16 0) (descWith 0 65536) (fun c _ x => (c.s 0).toNat % 4 = 0 ∧ 0 < x.d.rows ∧ c.blk.decl.shared < (c.s 0).toNat + 4 * x.d.rows)
    ∧ misfits (.bcpp H false true 0 16 0 2) (fun w => (descWith 0 0x183 w).put (.s 2) 2) (fun c _ _ => peerIll false 2 (c.s 0) = none ∧ (c.s 0).getLsbD 8 = true ∧ (c.w.rs64 2).toNat % 4 ≠ 0)
    ∧ misfits (.bcpp H true true 0 16 0 0) (descWith 0 0x83) (fun c t _ => peerIll true 0 (c.s 0) = none ∧ (c.s 0).getLsbD 8 = false ∧ (t.vf c.blk.vf).bound? ((c.s 0).toNat % 256) = none) := by
  refine ⟨fun y hy => misfits_of ?_, misfits_of (by decide +kernel), misfits_of (by decide +kernel), misfits_of (by decide +kernel), misfits_of (by decide +kernel),
    misfits_of (by decide +kernel), misfits_of (by decide +kernel), misfits_of (by decide +kernel)⟩
  revert y; decide +kernel
def viewState (i : Instr) (h : Word) : State := world (probe i fun w => w.put (.s 8) h)
theorem witness_ViewWords :
    (∃ c t, Issues (.vmark H 1 8 9) (viewState (.vmark H 1 8 9) 1) c t ∧ c.act ≠ 0
      ∧ ∃ m ∈ (t.performWarp c.ref .pkg).desc? c.blk.vf ((c.s 8).toNat % 2 ^ 20), m.view = false ∧ (c.s 9).toNat < m.tiles)
    ∧ (∃ c t, Issues (.vmark H 1 8 9) (viewState (.vmark H 1 8 9) 2) c t ∧ c.act ≠ 0
      ∧ ∃ m ∈ (t.performWarp c.ref .pkg).desc? c.blk.vf ((c.s 8).toNat % 2 ^ 20), m.view = true)
    ∧ (∃ c t, Issues (.vstamp H true 4 8 9) (viewState (.vstamp H true 4 8 9) 2) c t ∧ c.act ≠ 0 ∧ ∃ v ∈ t.view? c.blk.vf ((c.s 8).toNat % 2 ^ 20),
      ∃ m ∈ t.desc? c.blk.vf ((c.s 8).toNat % 2 ^ 20), v.handle = 2 ∧ m.hasGroup ((c.s 8).toNat / 2 ^ 20 * 2 ^ 32 + (c.s 9).toNat) = true)
    ∧ (∃ c t, Issues (.vstamp H false 4 8 9) (viewState (.vstamp H false 4 8 9) 0) c t ∧ c.act ≠ 0 ∧ t.view? c.blk.vf ((c.s 8).toNat % 2 ^ 20) = none)
    ∧ (∃ c t, Issues (.vstamp H false 4 8 9) (world (probe (.vstamp H false 4 8 9) fun w => (w.put (.s 8) 2).put (.s 9) 999)) c t ∧ c.act ≠ 0
      ∧ ∃ m ∈ t.desc? c.blk.vf ((c.s 8).toNat % 2 ^ 20), m.hasGroup ((c.s 8).toNat / 2 ^ 20 * 2 ^ 32 + (c.s 9).toNat) = false)
    ∧ (∀ i ∈ [Instr.vwait H false 2 8 9, .vrefr H true 2 8 0], ∃ c t, Issues i (viewState i 0) c t ∧ c.act ≠ 0 ∧ t.named? c true 8 0 = none ∧ t.named? c false 8 9 = none)
    ∧ (∀ x ∈ [(false, 0), (true, 0), (false, 1)], ∃ c t, Issues (.vwait H false 2 8 9) (stamped x.1 x.2 (viewState (.vwait H false 2 8 9) 2)) c t ∧ c.act ≠ 0
      ∧ t.named? c false 8 9 = some [(2, 0)] ∧ ((t.staleOf (t.sampleGroups c.blk.vf [(2, 0)]) = []) ↔ x.2 = 0)
      ∧ (x.2 = 0 → ((t.poisonedOf (t.sampleGroups c.blk.vf [(2, 0)])).isSome = x.1)))
    ∧ (∃ c t, Issues (.vrefr H true 2 8 0) (viewState (.vrefr H true 2 8 0) 2) c t ∧ c.act ≠ 0 ∧ t.named? c true 8 0 = some [(2, 0)]) := by
  refine ⟨reaches (by decide +kernel), reaches (by decide +kernel), reaches (by decide +kernel), reaches (by decide +kernel), reaches (by decide +kernel), ?_, ?_,
    reaches (by decide +kernel)⟩
  · exact all_reach (f := fun i => viewState i 0) (by decide +kernel)
  · have h : ∀ x ∈ [(false, 0), (true, 0), (false, 1)], ∃ y ∈ gone? (.vwait H false 2 8 9) (stamped x.1 x.2 (viewState (.vwait H false 2 8 9) 2)), y.1.act ≠ 0
      ∧ y.2.named? y.1 false 8 9 = some [(2, 0)] ∧ ((y.2.staleOf (y.2.sampleGroups y.1.blk.vf [(2, 0)]) = []) ↔ x.2 = 0)
      ∧ (x.2 = 0 → ((y.2.poisonedOf (y.2.sampleGroups y.1.blk.vf [(2, 0)])).isSome = x.1)) := by decide +kernel
    exact fun x hx => reaches (h x hx)
/-- One run of lane 0 parked on the word at 64, which differs from its register. -/
def parkedOn (tab : List WaitEntry) (s : State) : State :=
  { (poke 64 [1, 0, 0, 0] s).mapWarp me fun w => { w with
      live := 1
      runs := w.runs.map fun r => { r with
        lanes := 1
        wait := some (.word false false 8 0 [(0, 64)]) } } with waitTab := tab }
theorem witness_IssueAndLanding :
    (let s : State := { probe (.nop H) with issue := none }; (s.quad 0).busy ≤ s.clock ∧ (s.quad 0).last ≤ s.clock ∧ 0 / 4 ∉ s.idling ∧ (s.vf 0).holdsPosts = false
      ∧ ∃ r ∈ s.holdRequested.pickWarp 0, ∃ k ∈ s.holdRequested.block? r.blk, ∃ v ∈ s.holdRequested.warp? r,
        (s.holdRequested.selectRuns k r.num { s.holdRequested.ageRuns k r.num v with picked := s.clock }).isSome = true)
    ∧ (∃ w ∈ (probe (.nop H)).warp? me, w.signed = 0)
    ∧ (let s := probe (.nop H) fun w => { w with late := [loaded] }
      ∃ w ∈ s.warp? me, w.signed = 0 ∧ (∃ l ∈ w.late.find? (fun y => y.id == 7), (l.kind = .load ∨ l.kind = .plain) ∧ l.loose = [] ∧ l.queued = false)
      ∧ (∀ y ∈ w.late, y.rest = []) ∧ (∀ k < 20, w.arrivalDue k = false) ∧ ∀ e ∈ s.waitTab, e.ref = me → e.woken = false)
    ∧ (let s := probe (.nop H) fun w => w.setQueue 0 0 [⟨1, true⟩, ⟨2, false⟩]; ∃ w ∈ s.warp? me, w.queue 0 0 = [⟨1, true⟩] ++ ⟨2, false⟩ :: [])
    ∧ (∀ tab ∈ [[], [⟨me, 64, 4, true⟩]], let s := parkedOn tab (probe (.nop H)); ∃ b ∈ s.block? 0, ∃ w ∈ s.warp? me, ∃ run ∈ w.runs.head?, w.runs = [run] ∧ run.lanes ≠ 0
      ∧ run.wait = some (.word false false 8 0 [(0, 64)]) ∧ s.spView b.core w.storeQ 64 4 ≠ storeBytes w 8 0 4
      ∧ s.waitPois me (.word false false 8 0 [(0, 64)]) (0, 64) = false ∧ w.heldNow 0 [{ lane := 0, reg := 8, space := .scratch, addr := 64, len := 4 }] = false ∧ (∀ y ∈ w.late, y.loose = [])
      ∧ s.waitTab.filter (fun e => e.addr == 64 && e.woken) = tab) :=
  ⟨by decide +kernel, by decide +kernel, by decide +kernel, by decide +kernel, by decide +kernel⟩

/-- A transfer job of the block with one chunk: 4 bytes of a pattern into shared memory, or a row of a pull. -/
def job (kind : JobKind) (sent later : Bool) : Job :=
  { id := 5, vf := 0, blk := 0, warp := 0, staging := false, kind := kind, dst := .sh, src := .sh, dstAddr := 0, srcAddr := 0x100, len := 4, rows := 1, sPitch := 4,
    dPitch := 4, pattern := 7, bar := 0, list := 0, limit := 0, cores := 0, dev := 3, peer := 0x83, sig := 0,
    chunks := [⟨0, 0, 0, 4, none, sent, none, later⟩], reads := [], writes := [], rods := 0, failed := false }
def withJob (j : Job) : State := { (probe (.nop H)).setVf 0 { (probe (.nop H)).vf 0 with fbind := [(3, 0x85)] } with
  jobs := [j]
  ports := 1 }
/-- A launch of the code table's entry 1, waiting or as given, number 1 of interface 0. -/
def launch (kernel : CodeEntry) (phase : Phase) : Launch :=
  { vf := 0, num := 1, kernel := kernel, queue := some 0, noirq := false, cls := .interactive, deadline := 0, stamp := 0, arrival := 0,
    opts := { args := List.replicate 16 0, bad := [], spill := 0, nearest := false, cont := false, fetch := false, count := none, pfx := none, done := none, pred := none },
    phase := phase, tiles := 1, countWord := 1, next := 0, deferred := [], clusters := [0], handing := none, tileDone := [], completed := 0, posted := 0, created := 0,
    status := 0, suspended := false, aborted := false, bundle := none, parkedRec := none, doneAt := 0, retired := false, quantumFired := false, started := 0, lostRecs := [], bind := 0 }
/-- The kernel of entry 1, in a gang of two under `gang`. -/
def kernelOf (gang : Bool) : CodeEntry := { CodeEntry.ofBytes true (codeBytes 1) with cluster := if gang then 2 else 1 }
def noBlocks (s : State) : State := { s with
  blocks := []
  issue := none }
def withLaunch (l : Launch) (s : State) : State := { s with launches := [l] }
def task (cont : Bool) : PendTask :=
  { vf := 0, die := 0, num := 2, args := [1, 2, 3], bad := [], depth := 1, launch := 1, cls := .bulk, deadline := 0, owner := none, cstat := if cont then 1 else 0, record := 0 }
def endedBlock (asTask : Bool) (s : State) : State := s.mapBlock 0 fun b => { b with
  task := asTask
  warps := b.warps.map fun w => { w with ended := true } }

theorem witness_TransferWords_sends :
    (let j : Job := { job .push true false with peer := 0x183 }; let s := withJob j; j.kind = .push ∧ j.peer.getLsbD 8 = true ∧ j.failed = false ∧ s.ports ≠ 0 ∧ (s.vf j.vf).bound? j.dev = some 5)
    ∧ (let j := job .push true false; ¬(j.kind = .push ∧ j.peer.getLsbD 8 = true ∧ j.failed = false))
    ∧ State.reset.ports = 0 := by decide +kernel
theorem witness_EngineSteps_matrix :
    (let s : State := { probe (.nop H) with ops := [matOp false] }; (∀ p ∈ s.coreOps 0, p.started = false) ∧ ∃ o ∈ s.granted 0, s.op? o.id = some o
      ∧ s.operandVa o = none ∧ (s.block? o.blk).isSome = true)
    ∧ (let s : State := { probe (.nop H) with ops := [matOp true] }; ∃ o ∈ s.op? 9, o.started = true ∧ (s.block? o.blk).isSome = true
      ∧ o.accBad = [] ∧ s.commitHeld 0 o.reads = false ∧ (∃ A ∈ s.operandData o true, ∀ x ∈ A.bad, x = false) ∧ ∃ B ∈ s.operandData o false, ∀ x ∈ B.bad, x = false) := by decide +kernel
theorem witness_EngineSteps_chunks :
    (∀ x ∈ [(JobKind.fill, false), (.pull, false)], let s := withJob (job x.1 x.2 false); ∃ j ∈ s.job? 5, ∃ b ∈ s.block? j.blk, ∃ c ∈ j.chunks.find? (fun c => c.id == 0),
      s.chunkFree j c = true ∧ s.served b j = true ∧ s.ports ≠ 0)
    ∧ (let s := withJob (job .fill false false); ∃ j ∈ s.job? 5, ∃ b ∈ s.block? j.blk, ∃ c ∈ j.chunks.find? (fun c => c.id == 0),
      match (s.setJob j).chunkBytes b j c with
      | .ok (bs, bad) => (match (s.setJob j).writeChunk b j (j.dstAddr + c.row * j.dPitch + c.off) bs bad with
        | .ok _ => True
        | _ => False)
      | _ => False) := by
  refine ⟨by decide +kernel, ?_⟩
  have h : ((withJob (job .fill false false)).job? 5) = some (job .fill false false) := by decide +kernel
  refine ⟨_, h, fetchBlock 0 0, by decide +kernel, ⟨0, 0, 0, 4, none, false, none, false⟩, by decide +kernel, ?_⟩
  exact trivial
theorem witness_EngineSteps_peers :
    (∀ bad ∈ [[], [16]], let s : State := { (probe (.nop H)).setVf 0 { (probe (.nop H)).vf 0 with fbind := [(3, 0x85)] } with spPois := bad }
      (s.vf 0).bound? 3 = some 5 ∧ 64 % 4 = 0 ∧ outOfWindow s 0 64 4 = false ∧ decide (physOf s 0 64 / 4 ∈ s.spPois) = (bad != []))
    ∧ (let s := withJob (job .pull false true); s.commits.find? (fun c => c.id == 5) = none ∧ s.migrating.find? (fun m => m.id == 5) = none ∧ s.ports ≠ 0
      ∧ ∃ j ∈ s.job? 5, (s.block? j.blk).isSome = true ∧ ∃ c ∈ j.chunks.find? (fun c => c.id == 0), c.later = true) := by decide +kernel
theorem witness_EngineSteps_tasks : ∀ cont ∈ [false, true], let s := world (probe (.nop H)); let k := task cont;
    ∃ e ∈ s.codeEntry? k.vf k.num, e.isTask = true ∧ s.drained k.after = true ∧ s.covered k.cover = true ∧ s.deferredUse e = false ∧ (∀ l ∈ s.launch? k.vf k.launch, l.suspended = false)
      ∧ s.taskPlace k e.asTask ⟨1, 0, 0⟩ = true := by decide +kernel
/-- A refresh of the view's one group, at a stage, with what is left to commit. -/
def refreshing (stage : RefreshStage) (far : List (List FabMsg)) (near : List (List (Nat × List Byte))) : Commit :=
  { id := 7, vf := 0, handle := 2, group := 0, gen := 0, stage := stage, parked := none, rows := [], far := far, near := near }
theorem witness_EngineSteps_refresh :
    (let s : State := { world (probe (.nop H)) with dirty := [⟨0, 2, 0, false⟩] }; s.commits = []
      ∧ (∃ x ∈ s.dirty.find? (fun y => y.vf == 0 && y.handle == 2 && !s.dirtyHeld y), x.group = 0) ∧ (s.view? 0 2).isSome = true)
    ∧ (let s : State := { world (probe (.nop H)) with commits := [refreshing .source [] []] }; ∃ v ∈ s.view? 0 2, ∃ d ∈ s.desc? 0 2, ∃ m ∈ s.desc? 0 v.master,
      s.commits.find? (fun c => c.vf == 0 && c.handle == 2 && s.commitMoves c v d m) = some (refreshing .source [] [])
      ∧ ∃ r ∈ s.record? 0 m (sourceTile d m 0), r.state = .resident ∧ ∃ c ∈ r.copies.head?, c.home = .main 0 ∧ s.tileMoving v d (groupTile 0) = false
        ∧ (match buildGroup d m 0 (fun i => s.readTileElem {} 0 m true c.addr none i) with
          | .ok _ => true
          | _ => false) = true)
    ∧ (∀ c ∈ [refreshing .ready [] [], refreshing .commit [[]] [], refreshing .commit [] [[(0, [1, 2, 3, 4])]], refreshing .commit [] []],
      let s : State := { world (probe (.nop H)) with commits := [c] }; ∃ v ∈ s.view? 0 2, ∃ d ∈ s.desc? 0 2, ∃ m ∈ s.desc? 0 v.master,
      s.commits.find? (fun c => c.vf == 0 && c.handle == 2 && s.commitMoves c v d m) = some c ∧ s.groupInUse c = false
        ∧ ∃ r ∈ s.record? 0 d (groupTile c.group), ∀ x ∈ r.copies, x.peerDev? = none → (s.putCopy 0 d x c.near.flatten).isSome = true)
    ∧ (∀ c ∈ [refreshing .ready [] [], refreshing .ready [] [[(0, [1, 2, 3, 4])]]], let s : State := { world (probe (.nop H)) with commits := [c] }; ∃ d ∈ s.desc? 0 2,
      ∃ r ∈ s.record? 0 d (groupTile c.group), (allSome (c.near.map fun ws => match (r.copies.filter fun x => x.peerDev?.isNone).head? with
        | some x => s.heldCopy 0 d x ws
        | none => some [])).isSome = true)
    ∧ (let s : State := { world (probe (.nop H)) with commits := [refreshing .probe [] []] }; ∃ v ∈ s.view? 0 2, ∃ d ∈ s.desc? 0 2, ∃ m ∈ s.desc? 0 v.master,
      (s.commits.find? fun c => c.vf == 0 && c.handle == 2 && s.commitMoves c v d m) = some (refreshing .probe [] []))
    ∧ (let s : State := { world (probe (.nop H)) with commits := [refreshing .commit [] [[(10 ^ 30, [1])]]] }; ∃ d ∈ s.desc? 0 2, ∃ r ∈ s.record? 0 d (groupTile 0),
      ((r.copies.filter fun x => x.peerDev?.isNone).foldl (fun (acc : Option State) x => acc.bind fun t => t.putCopy 0 d x [(10 ^ 30, [1])]) (some s)) = none) := by decide +kernel
theorem witness_EngineSteps_blockEnd : ∀ asTask ∈ [true, false], let s := withLaunch (launch (kernelOf false) .walked) (endedBlock asTask (probe (.nop H)));
    ∃ b ∈ s.block? 0, (∀ w ∈ b.warps, w.ended = true) ∧ s.jobs = [] ∧ s.ops = [] ∧ b.parked = false ∧ b.task = asTask
      ∧ ∃ l ∈ (((List.range b.warps.length).foldl (fun t n => t.performWarp ⟨0, n⟩ .pkg) s).unpin b.vf b.pins).launch? b.vf b.launch,
        b.tile < l.completed + Config.window := by decide +kernel

/-- Queue 0 of interface 0, enabled and bound, with `n` commands pending whose bytes are given by offset. -/
def hostState (n : Nat) (words : List (Nat × Nat)) (s : State) : State :=
  { s.setVf 0 { s.vf 0 with queues := [(0, { Queue.reset with qbase := 0x1000, qcomp := 0x6000, qcfg := 0x80444000, qwr := BitVec.ofNat 32 n, bind := 0xA0000000 })] } with
    host := words.foldl (fun m x => writeBytes m (0x1000 + x.1) (leBytes 4 x.2)) [] }
/-- The tables, the launch, and a leaf's queue. -/
def walkState (gang : Bool) (phase : Phase) : State := withLaunch (launch (kernelOf gang) phase) (noBlocks (world (probe (.nop H))))
def leafEntry (gang : Bool) (resume : Option Nat) : LeafEntry :=
  { vf := 0, launch := 1, tiles := [(0, 0, 0)], gang := gang, cls := .interactive, deadline := 0, resume := resume, accepted := 0, headSince := some 0, aged := false }
def withLeaf (e : LeafEntry) (incoming : Bool) (s : State) : State :=
  s.setLeaf 0 { incoming := if incoming then [e] else [], queue := if incoming then [] else [e] }
theorem witness_WalkSteps_walk :
    (let s := hostState 0 [] (walkState false .waiting); ∃ l ∈ s.launch? 0 1, s.mayWalk l = true ∧ l.bundle = none ∧ s.predFault l = false ∧ min (match l.opts.count with
        | some a => (readWord s.sp (physOf s 0 a)).toNat
        | none => l.tiles) l.tiles ≠ 0)
    ∧ (let s := walkState false .walking; ∃ l ∈ s.launch? 0 1, l.phase = .walking ∧ l.handing = none ∧ l.suspended = false ∧ s.coreHalted = false ∧ l.parkedRec = none
      ∧ l.next ∉ l.lostRecs ∧ l.kernel.cluster < 2 ∧ l.bundle = none ∧ l.next < l.tiles ∧ ∃ d ∈ s.desc? 0 l.kernel.overTh, ∃ x ∈ s.record? 0 d l.next, x.state ≠ .moving
        ∧ (match s.placeTile { l with next := l.next + 1 } l.next x with
          | .leaf _ _ => true
          | _ => false) = true)
    ∧ (let s := withLaunch { launch (kernelOf false) .walking with handing := some (0, [(0, 0, 0)]) } (walkState false .walking);
      ∃ l ∈ s.launch? 0 1, l.handing = some (0, [(0, 0, 0)]) ∧ (s.leaf 0).incoming.length < Config.linkPermits)
    ∧ (let s := withLeaf (leafEntry false none) true (walkState false .walked); (s.leaf 0).incoming = [leafEntry false none] ∧ s.queued 0 + 1 ≤ Config.leafQueue) :=
  ⟨by decide +kernel, by decide +kernel, by decide +kernel, by decide +kernel⟩
theorem witness_WalkSteps_create :
    (let s := withLeaf (leafEntry false none) false (walkState false .walked); let pl : Place := ⟨0, 0, 0⟩; (s.leaf 0).queue[0]? = some (leafEntry false none)
      ∧ ∃ l ∈ s.launch? 0 1, l.suspended = false ∧ s.orderOk 0 0 (leafEntry false none) = true ∧ s.mayCreate 0 1 = true ∧ pl.core / 4 = 0 
      ∧ (match s.tileReady l 0 0 0 (s.stageLost 0 (leafEntry false none)) with
        | .ok xs => s.fits 0 l.kernel pl (s.layout l pl xs).2.1
        | _ => false) = true)
    ∧ (let s := withLeaf (leafEntry true none) false (walkState true .walked); let pls : List Place := [⟨0, 0, 0⟩]; (s.leaf 0).queue[0]? = some (leafEntry true none)
      ∧ ∃ l ∈ s.launch? 0 1, l.suspended = false ∧ s.orderOk 0 0 (leafEntry true none) = true ∧ s.mayCreate 0 1 = true ∧ s.gangHere 0 none = false 
      ∧ distinctCores pls = true ∧ (∀ p ∈ pls, p.core / 4 = 0)
      ∧ (match s.tileReady l 0 0 0 (s.stageLost 0 (leafEntry true none)) with
        | .ok xs =>
          let v := (s.clearStage 0 (leafEntry true none)).leaveLeaf 0 0
          let g : Gang := {
            id := s.nextId
            cluster := 0
            created := l.kernel.created
            bars := List.replicate 4 { ready := true, phase := 0, expW := l.kernel.created, arrW := 0, expB := 0, arrB := 0, lost := false } }
          (({ v with
            nextId := s.nextId + 1
            gangs := v.gangs ++ [g] } : State).createGang l s.nextId [((0, 0, 0), ⟨0, 0, 0⟩, xs)]).isSome
        | _ => false) = true) := by decide +kernel
theorem witness_WalkSteps_timers :
    (let s : State := { withLeaf (leafEntry true none) false (walkState true .walked) with clock := 10 ^ 6 }; let u := s.noteHead 0
      ∃ e ∈ (u.leaf 0).queue.head?, e.aged = false ∧ ∃ k ∈ e.headSince, (u.vf e.vf).gangage.toNat % 2 ^ 16 * u.mhz < u.clock - k)
    ∧ (let s : State := { State.reset with
        clock := 10 ^ 4
        ramp := 0x80000101 }; s.ramp.getLsbD 31 = true ∧ max 1 (s.ramp.toNat % 256) * s.mhz ≤ (s.clock - Sparse.get 0 s.rampAt 3) * 10) := by decide +kernel

/-- The block of the launch after it has stopped, marked for saving, in early service, where the save area is read as scratchpad. -/
def stopped (s : State) : State := { (endedBlock false s).mapBlock 0 fun b => { b with preempt := .requested } with level := 1 }
def savedState : State := { withLeaf (leafEntry false (some 0)) false (noBlocks (probe (.nop H))) with
  saved := [fetchBlock 0 0]
  level := 1 }
theorem witness_PreemptionAndErrors :
    (let s := withLaunch { launch (kernelOf false) .walked with suspended := true } (probe (.nop H)); ∃ b ∈ s.block? 0, s.mayPreempt b = true ∧ b.parked = false)
    ∧ (let s := (stopped (probe (.nop H))).holdRequested; ∃ b ∈ s.block? 0, (∀ x ∈ s.unitOf b, s.blockStopped x = true) ∧ s.faults = []
      ∧ ∀ x ∈ s.unitOf b, s.saveFault x true = none)
    ∧ (let s := savedState; ∃ b ∈ s.saved.find? (fun x => x.id == 0), (s.leaf b.clu).queue = [leafEntry false (some 0)] ∧ s.savedUnit b = [b] ∧ s.faults = [] ∧ s.resumeOk b.clu 0 (leafEntry false (some 0)) = true ∧ b.gang = none
      ∧ s.saveFault b false = none ∧ ((s.leaveLeaf b.clu 0).restoreBlock b ⟨1, 0, 0⟩).isSome = true ∧ s.recordKept b = true)
    ∧ (let s := queued .shared (probe (.nop H)); (s.block? 0).isSome = true ∧ ∃ w ∈ s.warp? me, w.storeQ[0]?.isSome = true) := by decide +kernel

/-- A command of an opcode at the head of the queue of the world, in early service, where tables lie in the scratchpad. -/
def cmd (opc : Nat) (words : List (Nat × Nat)) : State := { hostState 1 ((0, opc) :: words) (noBlocks (world (probe (.nop H)))) with level := 1 }
def taken (s : State) (opc : Nat) : Bool := let bs := s.entry 0 0 ((s.vf 0).queue 0).qrd
  s.mayTake 0 0 && u8 bs 0 == opc && !headerBad bs && zeros bs 64 128
theorem witness_HostCommands_launch : taken (cmd 1 [(16, 1)]) 1 = true
    ∧ (let s := hostState 3 [(0, 2), (16, 2), (256, 1), (272, 1), (512, 1), (528, 1)] (noBlocks (world (probe (.nop H)))); let x := (s.vf 0).queue 0
      taken s 2 = true ∧ 2 < (x.qwr - x.qrd).toNat ∧ (∀ k, k < 2 → u8 (s.entry 0 0 (x.qrd + BitVec.ofNat 32 (k + 1))) 0 = 1)
      ∧ (s.submitSubs 0 0 false (if (s.vf 0).lastLaunch ≥ 0xFFFFFFFF then 1 else (s.vf 0).lastLaunch + 1, 2) 2 (0 :: x.recent) s).2.1 = false) := by decide +kernel
theorem witness_HostCommands_tables :
    (let s := cmd 3 [(16, 5), (24, 0x8000), (0x7000, 2 ^ 31 + 17), (0x7004, 1), (0x7008, 1), (0x700C, 1), (0x7010, 1), (0x7014, 1)]; let d := readBytes s.host 0x8000 256
      taken s 3 = true ∧ u64 (s.entry 0 0 0) 24 = 0x8000 ∧ u32 d 0 / 2 ^ 31 = 1 ∧ descBad d = false
      ∧ (s.vaWrite 0 false ((s.vf 0).htab.toNat + 256 * 5) d).isSome = true)
    ∧ (let s := cmd 4 [(16, 1), (24, 0x8000)]; taken s 4 = true ∧ ∃ d ∈ s.desc? 0 1, (s.recBytes 0 d 0).isSome = true ∧ s.pinnedTile 0 1 0 = false
      ∧ (s.vaWrite 0 d.early (d.ptab + 64 * 0) (readBytes s.host 0x8000 64)).isSome = true) := by decide +kernel
def moving (s : State) : State := { s with migrating := [⟨7, 0, 0, 1, 0, 0, 4, 0, 0x40000, 0, 0x40200, true, [], false⟩] }
theorem witness_HostCommands_migrate :
    (let s := cmd 5 [(16, 1), (48, 0x40200)]; taken s 5 = true ∧ s.migrating = [] ∧ ∃ d ∈ s.desc? 0 1, (s.recBytes 0 d 0).isSome = true ∧ s.pinnedTile 0 1 0 = false
      ∧ ∃ y ∈ s.record? 0 d 0, y.state = .resident ∧ ∃ src ∈ y.copies[0]?, src.isPeer = false ∧ ∃ dst ∈ s.home? 0 0 0x40200, dst.isPeer = false)
    ∧ (let s := moving (world (probe (.nop H))); ∃ m ∈ s.migrating.find? (fun m => m.vf == 0 && m.handle == 1 && m.tile == 0), m.rows = [] ∧ m.failed = false
      ∧ ∃ src ∈ s.home? 0 m.fromCode m.fromAddr, src.isPeer = false ∧ ∃ dst ∈ s.home? 0 m.toCode m.toAddr, dst.isPeer = false
        ∧ ∃ w ∈ ({ s with migrating := s.migrating.filter fun y => y.id != m.id } : State).copyWords m src 0 m.len,
          (({ s with migrating := s.migrating.filter fun y => y.id != m.id } : State).putWords m dst 0 w.1 w.2).isSome = true) := by decide +kernel
/-- A view of one INT-free format kept at the address 0x40300: QUANT to BF16 (Table 21-6). -/
theorem witness_HostCommands_views :
    (let s := cmd 6 [(24, 0x8000), (0x7000, 1), (0x7004, 1 + 32)]; taken s 6 = true ∧ s.views.find? (fun v => v.vf == 0 && v.reg == some 0) = none ∧ s.desc? 0 3 = none
      ∧ s.view? 0 3 = none ∧ (match s.registerView 0 0 3 (readBytes s.host 0x8000 32) [0x40300] with
        | .ok _ => true
        | _ => false) = true)
    ∧ (let s0 := cmd 6 [(24, 0x8000)]; let s := ({ s0 with views := s0.views.map fun v => { v with reg := some 0 } } : State).setQueue 0 0 { (s0.vf 0).queue 0 with started := true }
      ((s.vf 0).queue 0).started = true ∧ s.queueUp 0 0 = true ∧ s.coreHalted = false ∧ u8 (s.entry 0 0 0) 0 = 6 ∧ headerBad (s.entry 0 0 0) = false ∧ zeros (s.entry 0 0 0) 64 128 = true
      ∧ ∃ v ∈ s.views.find? (fun v => v.vf == 0 && v.reg == some 0), s.building 0 v.handle = false)
    ∧ (let s := cmd 7 [(16, 2)]; taken s 7 = true ∧ (s.view? 0 2).isSome = true ∧ s.commits = [] ∧ s.viewReaders 0 2 = false)
    ∧ taken (cmd 8 []) 8 = true := by decide +kernel
theorem witness_HostCommands_launches : ∀ opc ∈ [9, 10, 11, 12], let s := withLaunch (launch (kernelOf false) .walked) (cmd opc [(24, 0x8000), (32, 1)]);
    taken s opc = true ∧ ∃ l ∈ s.launch? 0 1, s.blocksOf 0 l.num = [] ∧ s.faults = [] ∧ (s.abortLaunch 0 l.num true).blocksOf 0 l.num = [] := by decide +kernel
theorem witness_HostCommands_fresp : let s : State := { cmd 13 [(32, 4), (36, 1)] with faults := [⟨0, 4, .walk 1 0, none⟩] }
    taken s 13 = true ∧ (∃ f ∈ s.faults.find? fun f => f.vf == 0 && f.recno == 4 && f.abort.isNone, f.what = .walk 1 0) ∧ u8 (s.entry 0 0 0) 36 ≤ 1 := by decide +kernel
theorem witness_HostCommands_events :
    (let s := cmd 8 []; let t := s.setQueue 0 0 { (s.vf 0).queue 0 with held := true }; ((t.vf 0).queue 0).held = true)
    ∧ (let s := hostState 1 [(0, 8)] (noBlocks (world (probe (.nop H)))); let x := (s.vf 0).queue 0
      let t : State := { withLaunch { launch (kernelOf false) .walking with queue := some 1, bind := 0xA0010000 } s with clock := 10 ^ 9 }
      (∃ l ∈ t.launches.find? (fun l => l.vf == 0 && l.queue == some 1 && (l.phase == .walking || l.phase == .walked) && !l.quantumFired
          && l.bind.toNat / 2 ^ 16 % 2 ^ 10 != 0 && decide (l.bind.toNat / 2 ^ 16 % 2 ^ 10 * 10 * t.mhz ≤ t.clock - l.started)
          && (List.range 32).any fun p => p != 1 && bindGroup ((t.vf 0).queue p).bind == bindGroup l.bind && t.queueWaits 0 p), l.num = 1) ∧ x.held = false)
    ∧ (let s := State.reset.setVf 0 { State.reset.vf 0 with idle := 0 }; (s.vf 0).idle.getLsbD 7 = false ∧ s.groupBusy 0 7 = false)
    ∧ (let s := cmd 8 []; let t := s.setQueue 0 0 { (s.vf 0).queue 0 with posts := [⟨false, [], true, 0⟩] }; let x := (t.vf 0).queue 0
      (∃ p ∈ x.posts.head?, p.tile = false) ∧ x.qcfg.getLsbD 31 = true ∧ (x.lwr.toNat + 2 ^ 16 - x.qcrd.toNat % 2 ^ 16) % 2 ^ 16 < 2 ^ lrsz x.qcfg) := by decide +kernel

theorem witness_HostAndDeviceSteps_port :
    (let s := noBlocks (probe (.nop H)); s.ingress 0 64 2 = [] ∧ s.flight = []
      ∧ (List.range 2).map (fun k => (s.vf 0).scratch? (64 + k)) = [64, 65].map some ∧ s.level = 2) ∧ 0 + 64 ≤ 2 ^ 26 := by decide +kernel
theorem witness_HostAndDeviceSteps_installed : (0 : DWord).toNat + 0 + max (min 0 64) ([] : List Byte).length ≤ Config.installed := by simp
theorem witness_HostAndDeviceSteps_device :
    (let s : State := { State.reset with timeWritten := some 5 }; s.timeRuns = false ∧ s.timeWritten = some 5)
    ∧ State.reset.level = 0 ∧ State.reset.launches = [] ∧ (imageOk (readBytes State.reset.stagingArea 0 64) = true ∨ imageOk (readBytes State.reset.stagingArea 0 64) = false)
    ∧ (let img : Image := ⟨64, [], 1⟩; ({ State.reset with image := some img } : State).image = some img)
    ∧ (let s : State := { State.reset with
         level := 1
         trained := true }; s.level = 1 ∧ s.trained = true ∧ s.coreHalted = false ∧ s.blocks = [] ∧ s.level ≠ 2 ∧ s.serves 0 = true ∧ s.serves 1 = false)
    ∧ (let s : State := { State.reset with level := 2 }; s.serves 127 = true ∧ (s.vf 5).vfctl.getLsbD 1 = false ∧ (s.vf 5).vfctl.getLsbD 0 = false)
    ∧ (let s := State.reset.setVf 5 { State.reset.vf 5 with
         vfctl := 2
         vfclu := 1 }; (s.vf 5).vfctl.getLsbD 1 = true ∧ (s.vf 5).enWaits = false ∧ (s.vf 5).vfclu.getLsbD (64 / 2 ^ 30 * 16 + 64 % 2 ^ 30 / Config.sliceBytes) = true) := by
  refine ⟨by decide +kernel, by decide +kernel, by decide +kernel, ?_, by decide +kernel, by decide +kernel, by decide +kernel, by decide +kernel⟩
  cases imageOk (readBytes State.reset.stagingArea 0 64) <;> simp
/-- HX_VFCLU of interface 5, which is disabled, and writes it does not take: EN or ZBUSY set, clusters of another interface, interface 0 in early service. -/
theorem witness_HostAndDeviceSteps_clusters :
    ((State.reset.vf 5).vfctl &&& 3 = 0 ∧ State.reset.vfs = [] ∧ State.reset.level ≠ 1)
    ∧ (let s := State.reset.setVf 5 { State.reset.vf 5 with
         vfctl := 1
         vfclu := 1 }; (s.vf 5).vfctl &&& 3 ≠ 0 ∧ (s.vf 5).vfctl.getLsbD 0 = true ∧ ∃ x ∈ s.vfs.head?, x.1 ≠ 4 ∧ x.2.vfclu &&& 1 ≠ 0)
    ∧ ({ State.reset with level := 1 } : State).level = 1 := by decide +kernel
theorem witness_HostAndDeviceSteps_fabric :
    (let s := (probe (.nop H)).setVf 0 { (probe (.nop H)).vf 0 with fbind := [(3, 0x85)] }; (s.vf 0).bound? 3 = some 5 ∧ (s.vf 0).inWindow 64 4 = true ∧ physOf s 0 64 / 4 ∉ s.spPois)
    ∧ (let s := withJob (job .push true false); s.commits = [] ∧ s.migrating = [] ∧ s.signals = [] ∧ ∃ j ∈ s.job? 5, (s.block? j.blk).isSome = true ∧ j.kind = .push
      ∧ ∃ c ∈ j.chunks.find? (fun c => c.id == 0), c.sent = true)
    ∧ (let s : State := { State.reset with signals := [(7, 5)] }; s.commits = [] ∧ s.migrating = [] ∧ s.signals.find? (fun x => x.1 == 7) = some (7, 5))
    ∧ (let s : State := { State.reset with ports := 0x20001 }; s.ports &&& ~~~BitVec.ofNat 18 (2 ^ 17) ≠ 0) := by decide +kernel
/-- Values that turn the pacing on and off. -/
theorem witness_HostAndDeviceSteps_pacing : let w := fun (x : BitVec 128) => x.setWidth 32 &&& (0x8000FFFF : Word); (w 0).getLsbD 31 = false ∧ (w 0x80000101).getLsbD 31 = true
    ∧ ({ State.reset with ramp := 0x80000101 } : State).ramp.getLsbD 31 = true ∧ ({ State.reset with ramp := 0x101 } : State).ramp.getLsbD 31 = false := by decide

/-! ### Results of control, memory and system words and of steps, by hand from chapters 9 to 21 -/

def pcAfter (s : State) : Option DWord := (warpAfter s).bind fun w => w.runs.head?.map (·.pc)
theorem test_branches : pcAfter (solo (.bra H (-1))) = some 0xFF8 ∧ pcAfter (solo (.bra ⟨0, false, false, 0⟩ 4)) = some 0x1008
    ∧ pcAfter (solo (.brx H 2) (vregs [0, 0, 0x2007, 0])) = some 0x2000 := by decide +kernel
theorem test_call_ret : (let s := solo (.call H 2); pcAfter s = some 0x1010 ∧ (warpAfter s).map (fun w => (w.sp1 0, w.depth1 0)) = some (16, 1))
    ∧ pcAfter (solo (.ret H) fun w => w.call 0 32 0x3000) = some 0x3000
    ∧ (warpAfter (solo (.callx H 2 2) (vregs [0, 0, 0x2000, 0]))).map (fun w => w.sp1 0) = some 48 := by decide +kernel
theorem test_exit_nap : (warpAfter (solo (.exit H))).map (·.live) = some 0 ∧ (warpAfter (solo (.nap H 5))).bind (fun w => w.runs.head?.bind (·.wait)) = some (.nap 6)
    ∧ pcAfter (solo (.nop H)) = some 0x1008 ∧ (warpAfter (solo (.yield H))).bind (fun w => w.runs.head?.bind (·.yieldEnd)) = some 33 := by decide +kernel
theorem test_traps : causeOf (world (solo (.trap H 7))) = some 0x14 ∧ (warpAfter (world (solo (.bkpt H 9)))).map (fun w => (w.trec.info, w.trec.pc, w.trap.isSome)) = some (9, 0x1000, true)
    ∧ causeOf (world (solo (.rtt H .auto))) = some 0x16 ∧ pcAfter (solo (.rtt H .skip) fun w => { trapLevel w with
      trec := { w.trec with pc := 0x2000 }
      runs := w.runs.map fun r => { r with handler := true } }) = some 0x2008 := by decide +kernel
theorem test_sets : (warpAfter (solo (.jenter H 3))).map (fun w => (w.jset 3).member) = some 1
    ∧ (warpAfter (solo (.jquit H 3) joined)).map (fun w => (w.jset 3).member) = some 0 ∧ (warpAfter (solo (.jquitm H 8) joined)).map (fun w => (w.jset 3).member) = some 0
    ∧ pcAfter (solo (.jwait H 3) joined) = some 0x1008 ∧ queuedFor (solo (.jtest H .mem 1 3) joined) (.p 0 1) = some 1
    ∧ queuedFor (solo (.jmask H .mem 8 3) joined) (.v 0 8) = some 1 := by decide +kernel
theorem test_barriers : ((after (solo (.bari H ⟨false, 0⟩ 1 (.v 2)) (vregs [0, 0, 9]))).map fun t => (t.barrier 0 0).ready && (t.barrier 0 0).expB == 9) = some true
    ∧ ((after (withBar false (solo (.barx H ⟨false, 0⟩ (.v 2)) (vregs [0, 0, 5])))).map fun t => (t.barrier 0 0).expB) = some 5
    ∧ ((after (withBar false (solo (.bara H 8 ⟨false, 0⟩)))).map fun t => (t.barrier 0 0).arrW) = some 1
    ∧ (warpAfter (withBar false (solo (.barw H ⟨false, 0⟩ (.v 2))))).bind (fun w => w.runs.head?.map (·.wait.isSome)) = some true
    ∧ queuedFor (withBar false (solo (.barq H 1 ⟨false, 0⟩ (.v 2)))) (.p 0 1) = some 0 := by decide +kernel
theorem test_barrier_traps : causeOf (world (solo (.bar H ⟨false, 0⟩))) = some 0x0A ∧ causeOf (world (solo (.lds H .b4 false 8 ⟨false, 1, 2⟩))) = some 4
    ∧ causeOf (world (solo (.lds H .b4 false 8 ⟨false, 1, -4⟩))) = some 5 := by decide +kernel
theorem test_loads : queuedFor ((solo (.lds H .b4 false 8 ⟨false, 1, 64⟩)).mapBlock 0 fun b => b.sharedWrite 64 [1, 2, 3, 0x84]) (.v 0 8) = some 0x84030201
    ∧ queuedFor ((solo (.lds H .b1 false 8 ⟨false, 1, 67⟩)).mapBlock 0 fun b => b.sharedWrite 64 [1, 2, 3, 0x84]) (.v 0 8) = some 0x84
    ∧ queuedFor (poke 64 [1, 2, 3, 4, 5, 6, 7, 8] (solo (.ldx H .b8 false .core 8 ⟨false, 2, 64⟩))) (.v 0 9) = some 0x08070605
    ∧ queuedFor (solo (.ldk H .b2 8 ⟨false, 1, 16⟩) fun w => w.stackWrite 0 16 [0xAA, 0xBB]) (.v 0 8) = some 0xBBAA := by decide +kernel
theorem test_stores : (warpAfter (solo (.sts H .b2 false 3 ⟨false, 1, 64⟩) (vregs [0, 0, 0, 0x11223344]))).bind (fun w => w.storeQ.head?.map fun e => (e.addr, e.bytes)) = some (64, [0x44, 0x33])
    ∧ (warpAfter (solo (.stx H .b4 true .pkg 3 ⟨false, 4, 64⟩) (vregs [0, 0, 0, 7]))).bind (fun w => w.storeQ.head?.map fun e => (e.bytes, e.rel)) = some ([7, 0, 0, 0], some .pkg)
    ∧ (warpAfter (solo (.stk H .b4 3 ⟨false, 1, 16⟩) (vregs [0, 0, 0, 7]))).map (fun w => w.stackByte 0 16) = some 7
    ∧ (warpAfter (solo (.ldw H false false .core 8 ⟨false, 2, 64⟩))).bind (fun w => w.runs.head?.bind (·.wait)) = some (.word false false 8 0 [(0, 64)]) := by decide +kernel
theorem test_atomics : (let s := poke 64 [5] (solo (.atomx H .add32 .rlx .core 8 2 4 0) (vregs [0, 0, 64, 0, 3]));
      queuedFor s (.v 0 8) = some 5 ∧ (after s).map (fun t => readWord t.sp 64) = some 8)
    ∧ (after (poke 64 [5] (solo (.redx H .dec .rlx .core 2 4) (vregs [0, 0, 64, 0, 3])))).map (fun t => readWord t.sp 64) = some 3
    ∧ queuedFor ((solo (.atoms H .exch32 .rlx 8 1 2 0) (vregs [0, 64, 9])).mapBlock 0 fun b => b.sharedWrite 64 [6, 0, 0, 0]) (.v 0 8) = some 6 := by decide +kernel
theorem test_fences : pcAfter (solo (.fence H .full .pkg)) = some 0x1008 ∧ pcAfter (solo (.fencer H true true .pkg false 0 0)) = some 0x1008
    ∧ ((after (solo (.roddef H .sh 2 4 6) (sregs [0, 0, 0, 0, 64, 0, 16]))).bind fun t => (t.block? 0).bind fun b => b.rods[18]?) = some [⟨.sh, 64, 16⟩] := by decide +kernel
theorem test_futures : queuedFor (poke 64 [1] (solo (.fpoll H true 8 ⟨true, 0, 64⟩))) (.v 0 8) = some 1
    ∧ (after (solo (.fres H 2 ⟨true, 0, 64⟩) (vregs [0, 0, 5, 6]))).map (fun t => (readWord t.sp 64 &&& 3, readWord t.sp 72, readWord t.sp 76)) = some (1, 5, 6)
    ∧ (after (solo (.fflt H 2 ⟨true, 0, 64⟩))).map (fun t => readWord t.sp 64 &&& 3) = some 2
    ∧ (after (solo (.freg H 2 ⟨true, 0, 64⟩) (vregs [0, 0, 128, 0]))).map (fun t => t.links.length) = some 1
    ∧ (warpAfter (solo (.ldf H false 8 ⟨true, 0, 64⟩))).bind (fun w => w.runs.head?.map (·.wait.isSome)) = some true := by decide +kernel
theorem test_spawns : (after (world (solo (.spawn H true 1 20 0 2) fun w => w.put (.s 20) 2))).map (fun t => t.tasks.map (·.num)) = some [2]
    ∧ queuedFor (solo (.spawn H true 1 20 0 2)) (.s 2) = some 4
    ∧ (after (world (solo (.lnch H 1 20 0 2) fun w => w.put (.s 20) 1))).map (fun t => t.launches.length) = some 1 := by decide +kernel
theorem test_streams : pcAfter (solo (.msync H 1)) = some 0x1008 ∧ queuedFor (solo (.mchg H 1 8)) (.v 0 8) = some 0 := by decide +kernel
theorem test_transfers : ∀ i ∈ [Instr.bcp H .sh .mm 0 16, .bfill H .sp 0 16, .bpfx H 0 16, .bmc H .sp 0 16 1, .bga H .sh .mm 0 16 0],
    (after (probe i (descRegs 1))).map (fun t => t.jobs.map fun j => (j.len, j.rows)) = some [(64, 1)]
    ∧ (after (probe i (descRegs 0))).map (fun t => t.jobs.length) = some 0 := by decide +kernel
theorem test_views : (after (viewState (.vmark H 1 8 9) 1)).map (fun t => t.gen 0 1 0) = some 1 ∧ queuedFor (stamped false 5 (viewState (.vstamp H true 4 8 9) 2)) (.v 0 4) = some 5
    ∧ queuedFor (viewState (.vstamp H false 4 8 9) 0) (.v 0 5) = some 0x80000000 ∧ queuedFor (viewState (.vwait H false 2 8 9) 0) (.p 0 2) = some 0
    ∧ (after (viewState (.vrefr H false 2 8 9) 2)).map (fun t => t.dirty.length) = some 1 := by decide +kernel
def stepOf (i : Instr) (s : State) : Option State := nextOf (exec i s)
theorem test_drain : ((stepOf (.storeDrain me .core 0) (queued .shared (probe (.nop H)))).bind fun t => (t.block? 0).map fun b => (b.sharedByte 64, b.sharedByte 67)) = some (1, 4)
    ∧ (stepOf (.storeDrain me .core 0) (queued .scratch (probe (.nop H)))).map (fun t => (t.flight.length, readWord t.sp 64)) = some (1, 0) := by decide +kernel
theorem test_chunk : ((stepOf (.transferChunk 5 0) (withJob (job .fill false false))).bind fun t => (t.block? 0).map fun b => (b.sharedByte 0, b.sharedByte 1, t.jobs.length)) = some (7, 0, 0)
    ∧ (stepOf (.transferChunk 5 0) (withJob (job .pull false false))).map (fun t => t.fab.length) = some 1 := by decide +kernel
theorem test_landings : ((stepOf (.fixedLatencyLanding me) (probe (.nop H) fun w => { w with pend := [⟨.v 0 8, 5, 0⟩] })).bind fun t => (t.warp? me).map fun w => (w.rv 0 8, w.pend.length)) = some (5, 0)
    ∧ ((stepOf (.resultLanding me 7) (probe (.nop H) fun w => { w with late := [loaded] })).bind fun t => (t.warp? me).map fun w => (w.rv 0 8, w.late.length)) = some (5, 0) := by
  decide +kernel
theorem test_errors : (stepOf .softError State.reset).map (·.cecnt) = some 1 ∧ (stepOf (.uncorrectableError (.scratch 66)) State.reset).map (·.spPois) = some [16]
    ∧ (stepOf .dispatchCoreError State.reset).map (fun t => (t.coreHalted, t.uecnt)) = some (true, 1) := by decide +kernel
theorem test_host : (stepOf (.qwrWrite 0 0 3) { State.reset with level := 2 }).map (fun t => ((t.vf 0).queue 0).qwr) = some 3
    ∧ (stepOf (.inval 0 0) (cmd 8 [])).map (fun t => (((t.vf 0).queue 0).qrd, ((t.vf 0).queue 0).posts.length)) = some (1, 1)
    ∧ (stepOf (.hostBar2Read (.window 0) 64 2) (poke 64 [7, 8] (noBlocks (probe (.nop H))))).map (fun t => t.hostOut) = some [.readData [7, 8]] := by decide +kernel
theorem test_launch : (stepOf (.launch 0 0) (cmd 1 [(16, 1)])).map (fun t => t.launches.map (·.num)) = some [1]
    ∧ (stepOf (.walkStart 0 1) (hostState 0 [] (walkState false .waiting))).bind (fun t => (t.launch? 0 1).map (·.phase)) = some .walking := by decide +kernel
theorem test_device : (stepOf .deviceReset (probe (.nop H))).map (fun t => (t.level, t.blocks.length)) = some (0, 0)
    ∧ (stepOf (.registerWrite (some 3) 0x04 0xFF) { State.reset with level := 2 }).map (fun t => (t.vf 3).fpxctl) = some 0x1F := by decide +kernel

end Sys2Proof.Tests
end

section
/-!
Every instruction completes, and what a step of the machine is in each case.
-/
namespace Sys2Proof.Machine

/-- An outcome that is a next state. -/
def Completes (o : Out) : Prop := ∃ t, o = .next t

theorem Completes.next (t : State) : Completes (.next t) := ⟨t, rfl⟩
theorem issue_completes (i : Instr) (s : State) (body : Ctx → State → Res) : Completes (issue i s body) := issue_next i s body

/-! The words that share one shape of effect -/

theorem perLane_completes (i : Instr) (s : State) (d : BitVec 10) (f : Warp → Nat → Word) :
    Completes (perLane i s d f) := issue_completes _ _ _
theorem perLane64_completes (i : Instr) (s : State) (d : BitVec 10) (f : Warp → Nat → DWord) :
    Completes (perLane64 i s d f) := issue_completes _ _ _
theorem perLaneP_completes (i : Instr) (s : State) (pd : Nat) (f : Warp → Nat → Bool) :
    Completes (perLaneP i s pd f) := issue_completes _ _ _
theorem scalarOp_completes (i : Instr) (s : State) (d : BitVec 7) (f : Warp → Word) :
    Completes (scalarOp i s d f) := issue_completes _ _ _
theorem perLaneF_completes (i : Instr) (s : State) (f : Warp → Nat → List (RegId × Word) × Flags) :
    Completes (perLaneF i s f) := issue_completes _ _ _
theorem callTo_completes (i : Instr) (frame : Nat) (target : Ctx → Nat → DWord) (s : State) :
    Completes (callTo i frame target s) := issue_completes _ _ _
theorem trapLanes_completes (i : Instr) (cause : Nat) (n : BitVec 16) (s : State) :
    Completes (trapLanes i cause n s) := issue_completes _ _ _
theorem barOp_completes (i : Instr) (b : Bar) (s : State) (f : Ctx → State → Barrier → State) :
    Completes (barOp i b s f) := issue_completes _ _ _
theorem loadOp_completes (i : Instr) (s : State) (n d : Nat) (sp : Option StoreSpace) (acq : Bool) (acc : State → Ctx → Access) :
    Completes (loadOp i s n d sp acq acc) := issue_completes _ _ _
theorem storeOp_completes (i : Instr) (s : State) (n d : Nat) (rel : Option Scope) (sp : StoreSpace) (acc : State → Ctx → Access) :
    Completes (storeOp i s n d rel sp acc) := issue_completes _ _ _
theorem atomOp_completes (i : Instr) (s : State) (op : AtomOp) (o : Order) (sc : Scope) (d : Option Nat) (b c0 : Nat) (sp : StoreSpace) (acc : State → Ctx → Access) :
    Completes (atomOp i s op o sc d b c0 sp acc) := issue_completes _ _ _
theorem resolveOp_completes (i : Instr) (fault : Bool) (d : BitVec 10) (ad : MAddr) (s : State) :
    Completes (resolveOp i fault d ad s) := issue_completes _ _ _
theorem signOp_completes (i : Instr) (word : MatWord) (s : State) :
    Completes (signOp i word s) := issue_completes _ _ _
theorem transferOp_completes (i : Instr) (s : State) (req : Ctx → XReq) :
    Completes (transferOp i s req) := issue_completes _ _ _
theorem pairedOp_completes (i : Instr) (op : PairOp) (p : Pair) (r0 : Slot → Warp → Nat → Word × Flags) (s : State) :
    Completes (pairedOp i op p r0 s) := issue_completes _ _ _
theorem execLea_completes (h : Hdr) (w64 : Bool) (sh : BitVec 3) (d a : BitVec 10) (b : BSrc) (s : State) : Completes (execLea h w64 sh d a b s) := by
  unfold execLea
  split
  · exact perLane64_completes _ _ _ _
  · exact perLane_completes _ _ _ _

/-- A word completes as `issue` does; a step of the machine is written as a next state. -/
theorem exec_completes (i : Instr) (s : State) : Completes (exec i s) := by
  cases i with
  | iadd | isub | iadd3 | imul | imulh | imad | imin | imax | iabs | ineg | ishl | ishr | ishra | irot | idot4 | iaddi | imuli | lop3 | bfx | bfi
    | brev | popc | clz | ctz | prmt | isel | mov | movi | movh | movs | fclass | qlen =>
    unfold exec
    exact perLane_completes _ _ _ _
  | imadw =>
    unfold exec
    exact perLane64_completes _ _ _ _
  | isetp | isetpi | jtest =>
    unfold exec
    exact perLaneP_completes _ _ _ _
  | vrd | srd | vtos | ssetp | sfq | qpop | shfl | qex | vote | ballot | matchv | redux | scan | topk | regrp | elect | actm | bra | brx | ret
    | exit | yield | nap | rtt | nop | jenter | jquit | jquitm | jwait | jmask | bari | stk | ldw | fence | fencer | roddef | ldf | freg | fpoll
    | spawn | lnch | msync | mchg | vmark | vstamp | vwait | vrefr =>
    unfold exec
    exact issue_completes _ _ _
  | sadd | ssub | smul | slop3 | sshl | sshr | smovi | smovh =>
    unfold exec
    exact scalarOp_completes _ _ _ _
  | fadd | fsub | fmul | ffma | fmin | fmax | fsetp | frnd | fscale | dadd | dsub | dmul | dfma | dmin | dmax | dsetp | drnd | hadd2 | hmul2
    | hfma2 | hmin2 | hmax2 | hsetp2 | cvt | cvti | qscl | qpk4 | qxp4 =>
    unfold exec
    exact perLaneF_completes _ _ _
  | call | callx =>
    unfold exec
    exact callTo_completes _ _ _ _
  | trap | bkpt =>
    unfold exec
    exact trapLanes_completes _ _ _ _
  | barx | bara | barw | bar | barq =>
    unfold exec
    exact barOp_completes _ _ _ _
  | lds | ldx | ldk =>
    unfold exec
    exact loadOp_completes _ _ _ _ _ _ _
  | sts | stx =>
    unfold exec
    exact storeOp_completes _ _ _ _ _ _ _
  | atoms | atomx | redx =>
    unfold exec
    exact atomOp_completes _ _ _ _ _ _ _ _ _ _
  | fres | fflt =>
    unfold exec
    exact resolveOp_completes _ _ _ _ _
  | mma | mmas | mmat =>
    unfold exec
    exact signOp_completes _ _ _
  | bcp | bcpp | bmc | bga | bsc | bfill | bpfx =>
    unfold exec
    exact transferOp_completes _ _ _
  | iaddPaired | isubPaired | iminPaired | imaxPaired | andPaired | orPaired | xorPaired | andnPaired | ishlPaired | ishrPaired | ishraPaired
    | movPaired | inegPaired | iabsPaired | popcPaired | clzPaired | brevPaired | movsPaired | imulPaired | faddPaired | fsubPaired | fmulPaired
    | fminPaired | fmaxPaired | fnegPaired | fabsPaired | hadd2Paired | hmul2Paired | hmin2Paired | hmax2Paired =>
    unfold exec
    exact pairedOp_completes _ _ _ _ _
  | lea =>
    unfold exec
    exact execLea_completes _ _ _ _ _ _ _
  | issueOpportunity | yieldWindowEnd | napWake | stallExpiry | fixedLatencyLanding | resultLanding | storeDrain | sfqFill | waitTableWake
    | waitTableReread | blockEnd | matrixOpStart | matrixOpComplete | transferChunk | remoteSignal | peerRowResend | taskStart
    | continuationStart | viewRefresh | walkStart | walkTile | tileHandoff | leafAccept | blockCreate | gangPlace | gangAgeExpiry
    | completionPost | rampInterval | commandHoldRelease | quantumExpiry | engineGroupIdle | preemptRequest | preemptSave | blockResume
    | softError | uncorrectableError | storeQueueLoss | dispatchCoreError | queueTableError | qwrWrite | launch | bundle | wrdesc | wrrec
    | migrate | migrationComplete | viewreg | viewdereg | inval | suspend | resume | abort | status | fresp | hostBar2Write | hostBar2Read
    | hostBar4Access | unsupportedRequest | qcrdWrite | firmwareLoad | attest | timesetWrite | ppsPulse | vfcluWrite | vfctlEnWrite
    | functionLevelReset | zeroingComplete | registerWrite | deviceReset | selfTestComplete | fullServiceEntry | powerWindow | fabricRequest
    | fabricPortFailure | flushingReadComplete | fabricResponse | fabricPortTrained =>
    unfold exec
    exact .next _

variable {s : State}

theorem step_word {l : Latch} {i : Instr} {t : State} (hi : s.issue = some l) (hl : s.latched l = .word i) (he : exec i s = .next t) :
    step s = .next (t.afterWord l) := by
  simp only [step, hi, hl, he]
theorem step_other {l : Latch} {t : State} (hi : s.issue = some l) (hl : s.latched l = .other t) : step s = .next (t.afterWord l) := by
  simp only [step, hi, hl]
theorem step_nil (hi : s.issue = none) (ha : s.agenda = []) : step s = .next (s.tick []) := by
  simp only [step, hi, ha]
theorem step_tick {rest : List Move} (hi : s.issue = none) (ha : s.agenda = .tick :: rest) : step s = .next (s.tick rest) := by
  simp only [step, hi, ha]
theorem step_act {i : Instr} {rest : List Move} (hi : s.issue = none) (ha : s.agenda = .act i :: rest) (hw : i.isWord = false) :
    step s = exec i { s with agenda := rest } := by
  simp only [step, hi, ha, hw, Bool.false_eq_true, if_false]
theorem step_actWord {i : Instr} {rest : List Move} (hi : s.issue = none) (ha : s.agenda = .act i :: rest) (hw : i.isWord = true) :
    step s = .fault .agendaNotStep := by
  simp only [step, hi, ha, hw, if_true]

/-- With a run latched, a step has a next state. -/
theorem step_next_of_latched {l : Latch} (hi : s.issue = some l) : ∃ t, step s = .next t := by
  cases hl : s.latched l with
  | word i =>
    obtain ⟨t, he⟩ := exec_completes i s
    exact ⟨_, step_word hi hl he⟩
  | other t => exact ⟨_, step_other hi hl⟩

/-- Settles O7. -/
theorem everyStepCompletes : Obligations.EveryStepCompletes := by
  unfold Obligations.EveryStepCompletes
  refine ⟨exec_completes, fun s => ?_, fun s hi => ⟨step_nil hi, fun _ => step_tick hi, fun _ _ => step_act hi, fun _ _ => step_actWord hi⟩⟩
  cases hi : s.issue with
  | some l => exact .inl (step_next_of_latched hi)
  | none =>
    match ha : s.agenda with
    | [] => exact .inl ⟨_, step_nil hi ha⟩
    | .tick :: rest => exact .inl ⟨_, step_tick hi ha⟩
    | .act i :: rest =>
      cases hw : i.isWord with
      | true => exact .inr ⟨step_actWord hi ha hw, rfl, i, rest, rfl, hw⟩
      | false =>
        obtain ⟨t, he⟩ := exec_completes i { s with agenda := rest }
        exact .inl ⟨t, (step_act hi ha hw).trans he⟩

end Sys2Proof.Machine
end

section
/-!
Every step keeps the canonical form of the memories: the words.
-/
namespace Sys2Proof.Machine

/-- A next state that an outcome gives has its memories in canonical form. -/
def KeepsMem (o : Out) : Prop := ∀ t, o = .next t → t.MemOk
/-- A state that a word's own effect gives has its memories in canonical form. -/
def Res.MemOk : Res → Prop
  | .ok t => t.MemOk
  | .hold t => t.MemOk
  | .trap _ => True

theorem KeepsMem.next {t : State} (h : t.MemOk) : KeepsMem (.next t) := fun _ e => by cases e; exact h

theorem State.MemOk.ite {p : Prop} [Decidable p] {s t : State} (hs : s.MemOk) (ht : t.MemOk) : (if p then s else t).MemOk := by
  split
  · exact hs
  · exact ht
theorem Res.MemOk.ite {p : Prop} [Decidable p] {x y : Res} (hx : x.MemOk) (hy : y.MemOk) : (if p then x else y).MemOk := by
  split
  · exact hx
  · exact hy

variable {s : State}

theorem issue_keepsMem (h : s.MemOk) {i : Instr} {body : Ctx → State → Res} (hb : ∀ c u, u.MemOk → (body c u).MemOk) :
    KeepsMem (issue i s body) := fun _ ht =>
  h.issue i body (fun c u v hu hv => by
    have := hb c u hu
    obtain hv | hv := hv <;> rw [hv] at this <;> exact this) ht

/-! ### What words do to a state -/

theorem State.MemOk.fixed (h : s.MemOk) (c : Ctx) (ws : List (RegId × Word)) : (c.fixed s ws).MemOk := h.mapWarp _ _
theorem State.MemOk.late (h : s.MemOk) (c : Ctx) (k : LateKind) (rods : Word) (ws : List (RegId × Word)) : (c.late s k rods ws).MemOk := by
  unfold Ctx.late
  split
  · exact h
  · apply State.MemOk.mapWarp
    exact h
theorem State.MemOk.block (h : s.MemOk) (c : Ctx) (m : Mask) (x : Wait) : (c.block s m x).MemOk := by
  unfold Ctx.block
  split
  · exact h
  · exact h.mapWarp _ _
theorem State.MemOk.blockRun (h : s.MemOk) (c : Ctx) (x : Wait) : (c.blockRun s x).MemOk := h.mapWarp _ _
theorem State.MemOk.jump (h : s.MemOk) (c : Ctx) (ts : List (Nat × DWord)) : (c.jump s ts).MemOk := h.mapWarp _ _
theorem State.MemOk.holdSamples (h : s.MemOk) (c : Ctx) (ws : List ViewWait) : (c.holdSamples s ws).MemOk := h.mapWarp _ _
theorem State.MemOk.flushed (h : s.MemOk) (c : Ctx) (sc : Scope) : (c.flushed s sc).MemOk := by
  unfold Ctx.flushed
  split
  · exact h.blockRun _ _
  · exact h
theorem State.MemOk.settle (h : s.MemOk) (a n : Nat) : (s.settle a n).MemOk := h.perform _ _
theorem State.MemOk.closePlaces (h : s.MemOk) (r : WarpRef) (ps : List Part) : (s.closePlaces r ps).MemOk := h.closeLoads _ _ _
theorem State.MemOk.drainAll (h : s.MemOk) (r : WarpRef) : (s.drainAll r).MemOk := h.drain _ _
theorem State.MemOk.rmwScratch (h : s.MemOk) (a n : Nat) (f : Nat → Nat) (k : Option Nat) : (s.rmwScratch a n f k).2.MemOk := by
  unfold State.rmwScratch
  exact h.spWrite _ _ _
theorem State.MemOk.setQueue (h : s.MemOk) (vf q : Nat) (x : Queue) : (s.setQueue vf q x).MemOk := h

/-! ### Words that write registers -/

theorem perLane_keepsMem (h : s.MemOk) (i : Instr) (d : BitVec 10) (f : Warp → Nat → Word) : KeepsMem (perLane i s d f) :=
  issue_keepsMem h fun c _ hu => hu.fixed c _
theorem perLane64_keepsMem (h : s.MemOk) (i : Instr) (d : BitVec 10) (f : Warp → Nat → DWord) : KeepsMem (perLane64 i s d f) :=
  issue_keepsMem h fun c _ hu => hu.fixed c _
theorem perLaneP_keepsMem (h : s.MemOk) (i : Instr) (pd : Nat) (f : Warp → Nat → Bool) : KeepsMem (perLaneP i s pd f) :=
  issue_keepsMem h fun c _ hu => hu.fixed c _
theorem scalarOp_keepsMem (h : s.MemOk) (i : Instr) (d : BitVec 7) (f : Warp → Word) : KeepsMem (scalarOp i s d f) :=
  issue_keepsMem h fun c _ hu => hu.fixed c _
theorem perLaneF_keepsMem (h : s.MemOk) (i : Instr) (f : Warp → Nat → List (RegId × Word) × Flags) : KeepsMem (perLaneF i s f) :=
  issue_keepsMem h fun c u hu => by
    split
    · trivial
    · exact hu.fixed c _
theorem pairedOp_keepsMem (h : s.MemOk) (i : Instr) (op : PairOp) (p : Pair) (r : Slot → Warp → Nat → Word × Flags) :
    KeepsMem (pairedOp i op p r s) :=
  issue_keepsMem h fun c u hu => by
    dsimp only
    split
    · trivial
    · exact hu.fixed c _
theorem execLea_keepsMem (h : s.MemOk) (hd : Hdr) (w64 : Bool) (sh : BitVec 3) (d a : BitVec 10) (b : BSrc) : KeepsMem (execLea hd w64 sh d a b s) := by
  unfold execLea
  split
  · exact perLane64_keepsMem h _ _ _
  · exact perLane_keepsMem h _ _ _
theorem execSrd_keepsMem (h : s.MemOk) (hd : Hdr) (d : BitVec 7) (x : BitVec 6) : KeepsMem (execSrd hd d x s) :=
  issue_keepsMem h fun c _ hu => State.MemOk.ite hu (hu.fixed c _)
theorem execVtos_keepsMem (h : s.MemOk) (hd : Hdr) (d : BitVec 7) (a : BitVec 10) : KeepsMem (execVtos hd d a s) :=
  issue_keepsMem h fun c u hu => by
    simp only [Res.MemOk]
    split
    · exact hu
    · exact hu.fixed c _
theorem execQpop_keepsMem (h : s.MemOk) (hd : Hdr) (d : BitVec 10) (q : Bool) : KeepsMem (execQpop hd d q s) :=
  issue_keepsMem h fun _ _ hu => State.MemOk.late (hu.mapWarp _ _) _ _ _ _

/-! ### Control -/

theorem execRegrp_keepsMem (h : s.MemOk) (hd : Hdr) (desc : Bool) (d a : BitVec 10) (n : BitVec 7) (j : BitVec 4) :
    KeepsMem (execRegrp hd desc d a n j s) :=
  issue_keepsMem h fun _ _ hu => .ite hu (.ite trivial (hu.blockRun _ _))
theorem callTo_keepsMem (h : s.MemOk) (i : Instr) (frame : Nat) (target : Ctx → Nat → DWord) : KeepsMem (callTo i frame target s) :=
  issue_keepsMem h fun c u hu => by
    split
    · trivial
    · exact (hu.mapWarp _ _).jump _ _
theorem execRet_keepsMem (h : s.MemOk) (hd : Hdr) : KeepsMem (execRet hd s) :=
  issue_keepsMem h fun c u hu => by
    split
    · trivial
    · exact ((hu.mapWarp _ _).jump _ _).exitLanes _ _
theorem execExit_keepsMem (h : s.MemOk) (hd : Hdr) : KeepsMem (execExit hd s) :=
  issue_keepsMem h fun c u hu => by
    split
    · exact hu
    · split
      · exact (hu.mapWarp _ _).exitLanes _ _
      · exact hu.exitLanes _ _
theorem execYield_keepsMem (h : s.MemOk) (hd : Hdr) : KeepsMem (execYield hd s) :=
  issue_keepsMem h fun _ _ hu => State.MemOk.ite hu (hu.mapWarp _ _)
theorem execNap_keepsMem (h : s.MemOk) (hd : Hdr) (n : BitVec 16) : KeepsMem (execNap hd n s) :=
  issue_keepsMem h fun _ _ hu => State.MemOk.ite hu (hu.block _ _ _)
theorem trapLanes_keepsMem (h : s.MemOk) (i : Instr) (cause : Nat) (n : BitVec 16) : KeepsMem (trapLanes i cause n s) :=
  issue_keepsMem h fun _ _ hu => State.MemOk.ite hu (hu.takeTrap _ _ _ _)
theorem execRtt_keepsMem (h : s.MemOk) (hd : Hdr) (m : RttMode) : KeepsMem (execRtt hd m s) :=
  issue_keepsMem h fun _ _ hu => .ite hu (.ite (hu.returnTrap _ _ _) trivial)
theorem execJenter_keepsMem (h : s.MemOk) (hd : Hdr) (j : BitVec 4) : KeepsMem (execJenter hd j s) :=
  issue_keepsMem h fun c u hu => by
    split
    · exact hu
    · exact hu.mapWarp _ _
theorem execJquit_keepsMem (h : s.MemOk) (hd : Hdr) (j : BitVec 4) : KeepsMem (execJquit hd j s) :=
  issue_keepsMem h fun _ _ hu => State.MemOk.ite hu (hu.mapWarp _ _)
theorem execJquitm_keepsMem (h : s.MemOk) (hd : Hdr) (m : BitVec 16) : KeepsMem (execJquitm hd m s) :=
  issue_keepsMem h fun _ _ hu => State.MemOk.ite hu (hu.mapWarp _ _)
theorem execJwait_keepsMem (h : s.MemOk) (hd : Hdr) (j : BitVec 4) : KeepsMem (execJwait hd j s) :=
  issue_keepsMem h fun _ _ hu => State.MemOk.ite hu (((hu.mapWarp _ _).block _ _ _).mapWarp _ _)
theorem barOp_keepsMem (h : s.MemOk) (i : Instr) (b : Bar) {f : Ctx → State → Barrier → State} (hf : ∀ c u x, u.MemOk → (f c u x).MemOk) :
    KeepsMem (barOp i b s f) :=
  issue_keepsMem h fun c u hu => by
    split
    · exact hu
    · split
      · trivial
      · exact hf c u _ hu
theorem execBari_keepsMem (h : s.MemOk) (hd : Hdr) (bar : Bar) (n : BitVec 7) (b : BSrc) : KeepsMem (execBari hd bar n b s) :=
  issue_keepsMem h fun _ _ hu => .ite hu <|
    State.MemOk.checkPhase (State.MemOk.setBarrier (.ite hu (hu.mapBarWarps _ _ _)) _ _ _) _ _
theorem execBarx_keepsMem (h : s.MemOk) (hd : Hdr) (bar : Bar) (b : BSrc) : KeepsMem (execBarx hd bar b s) :=
  barOp_keepsMem h _ _ fun _ _ _ hu => (hu.setBarrier _ _ _).checkPhase _ _
theorem execBara_keepsMem (h : s.MemOk) (hd : Hdr) (d : BitVec 10) (bar : Bar) : KeepsMem (execBara hd d bar s) :=
  barOp_keepsMem h _ _ fun c _ _ hu => (((hu.late c _ _ _).mapWarp _ _).checkArrive _ _).checkPhase _ _
theorem execBarw_keepsMem (h : s.MemOk) (hd : Hdr) (bar : Bar) (b : BSrc) : KeepsMem (execBarw hd bar b s) :=
  barOp_keepsMem h _ _ fun c _ _ hu => .ite (hu.blockRun c _) hu
theorem execBar_keepsMem (h : s.MemOk) (hd : Hdr) (bar : Bar) : KeepsMem (execBar hd bar s) :=
  barOp_keepsMem h _ _ fun c _ _ hu => (((hu.blockRun c _).mapWarp _ _).checkArrive _ _).checkPhase _ _
theorem execBarq_keepsMem (h : s.MemOk) (hd : Hdr) (pd : BitVec 3) (bar : Bar) (b : BSrc) : KeepsMem (execBarq hd pd bar b s) :=
  barOp_keepsMem h _ _ fun c _ _ hu => hu.fixed c _

/-! ### Loads, stores and atomics -/

theorem loadOp_keepsMem (h : s.MemOk) (i : Instr) (n d : Nat) (sp : Option StoreSpace) (acq : Bool) (acc : State → Ctx → Access) :
    KeepsMem (loadOp i s n d sp acq acc) :=
  issue_keepsMem h fun c u hu => by
    dsimp only
    split
    · trivial
    · split
      · exact hu
      · cases sp with
        | none => exact hu.late c _ _ _
        | some x => exact hu.startLoad _ _ _
theorem State.MemOk.landResult (h : s.MemOk) (r : WarpRef) (id : Nat) : (s.landResult r id).MemOk := by
  have h1 := h.makeLoads r
  unfold State.landResult
  dsimp only
  split
  · split
    · exact h1
    · exact (h1.closeLoad _ _ _).mapWarp _ _
  · exact h1
theorem storeOp_keepsMem (h : s.MemOk) (i : Instr) (n d : Nat) (rel : Option Scope) (sp : StoreSpace) (acc : State → Ctx → Access) :
    KeepsMem (storeOp i s n d rel sp acc) :=
  issue_keepsMem h fun c u hu => by
    dsimp only
    split
    · trivial
    · simp only [Res.MemOk]
      split
      · exact hu
      · apply State.MemOk.mapWarp
        exact hu
theorem execStk_keepsMem (h : s.MemOk) (hd : Hdr) (sz : Size) (d : BitVec 10) (ad : MAddr) : KeepsMem (execStk hd sz d ad s) :=
  issue_keepsMem h fun c u hu => by
    dsimp only
    split
    · trivial
    · exact hu.mapWarp _ _
theorem atomOp_keepsMem (h : s.MemOk) (i : Instr) (op : AtomOp) (o : Order) (sc : Scope) (d : Option Nat) (b c0 : Nat) (sp : StoreSpace)
    (acc : State → Ctx → Access) : KeepsMem (atomOp i s op o sc d b c0 sp acc) :=
  issue_keepsMem h fun c u hu => by
    dsimp only
    split
    · trivial
    · split
      · exact hu
      · refine State.MemOk.drainAll (State.MemOk.mapWarp ?_ _ _) _
        exact hu.closePlaces _ _

/-! ### Waiting on a word -/

theorem State.MemOk.waitOn (h : s.MemOk) (r : WarpRef) (a n : Nat) (woken : Bool) : (s.waitOn r a n woken).MemOk := by
  unfold State.waitOn
  split
  · exact h
  · split <;> exact h
theorem State.MemOk.pruneWaits (h : s.MemOk) (r : WarpRef) : (s.pruneWaits r).MemOk := h
theorem State.MemOk.rereadRun (h : s.MemOk) (r : WarpRef) (run : Run) (sel : Nat → Nat → Bool) : (s.rereadRun r run sel).MemOk := by
  unfold State.rereadRun
  split
  · exact h
  · rename_i wait _
    dsimp only
    split
    · exact ((h.mapWarp _ _).takeTrap _ _ _ _).pruneWaits r
    · have h0 := fun ps qs => (h.closePlaces r ps).readNow r qs
      split
      · exact h
      · have h1 : ∀ (ps : List Part) (qs : List (Nat × Nat)) (w : Warp),
            (({ (s.closePlaces r ps).readNow r qs with nextId := ((s.closePlaces r ps).readNow r qs).nextId + 1 } : State).setWarp r w).MemOk := fun ps qs w => by
          apply State.MemOk.setWarp
          exact h0 ps qs
        split
        · exact h0 _ _
        · apply State.MemOk.pruneWaits
          have h2 := fun ps qs w => State.MemOk.ite (p := wait.acquires = true) ((h1 ps qs w).observe r) (h1 ps qs w)
          exact .ite ((h2 _ _ _).mapWarp _ _) (h2 _ _ _)
theorem State.MemOk.reread (h : s.MemOk) (r : WarpRef) (sel : Nat → Nat → Bool) : (s.reread r sel).MemOk := by
  unfold State.reread
  dsimp only
  split
  · refine foldl_keeps State.MemOk _ (fun t run ht => ?_) _ _ (h.makeLoads r)
    split
    · exact ht
    · exact ht.rereadRun _ _ _
  · exact h
theorem State.MemOk.parkRun (h : s.MemOk) (c : Ctx) (x : Wait) (woken : Bool) : (c.park s x woken).MemOk := by
  unfold Ctx.park
  split
  · exact h
  · exact foldl_keeps State.MemOk _ (fun t y ht => ht.waitOn _ _ _ _) _ _ (h.blockRun _ _)
theorem State.MemOk.waitLoad (h : s.MemOk) (c : Ctx) (a : Access) (n regs : Nat) (x : Wait) (stay : Nat → Bool) : (c.waitLoad s a n regs x stay).MemOk := by
  unfold Ctx.waitLoad
  dsimp only
  split
  · apply State.MemOk.parkRun
    split
    · exact h
    · exact h.startLoad _ _ _
  · apply State.MemOk.parkRun
    split
    · exact (((h.closePlaces _ _).readNow _ _).late c _ _ _).observe _
    · exact ((h.closePlaces _ _).readNow _ _).late c _ _ _
theorem execLdw_keepsMem (h : s.MemOk) (hd : Hdr) (wide ord : Bool) (sc : Scope) (d : BitVec 10) (ad : MAddr) : KeepsMem (execLdw hd wide ord sc d ad s) :=
  issue_keepsMem h fun c u hu => by
    dsimp only
    split
    · trivial
    · exact hu.waitLoad _ _ _ _ _ _
theorem execWaitTableWake_keepsMem (h : s.MemOk) (a : Nat) : KeepsMem (execWaitTableWake a s) :=
  .next <| foldl_keeps State.MemOk _ (fun _ e ht => ht.reread e.ref _) _ _
    (foldl_keeps State.MemOk _ (fun _ e ht => ht.makeLoads e.ref) (s.waitTab.filter fun e => e.addr == a && e.woken) s h)
theorem State.MemOk.rewake (h : s.MemOk) (r : WarpRef) : (s.rewake r).MemOk := h

/-! ### Fences and rods -/

theorem execFence_keepsMem (h : s.MemOk) (hd : Hdr) (k : FenceKind) (sc : Scope) : KeepsMem (execFence hd k sc s) :=
  issue_keepsMem h fun c u hu => by
    dsimp only
    split
    · exact hu
    · have h1 := hu.performWarp c.ref sc
      cases k
      · exact ((h1.observe _).flushed _ _)
      · exact (hu.observe _)
      · exact h1.flushed _ _
theorem State.MemOk.performRods (h : s.MemOk) (r : WarpRef) (m : Word) (sc : Scope) : (s.performRods r m sc).MemOk := by
  unfold State.performRods
  split
  · exact h
  · exact ((h.drain r _).closeLoads r _ _).perform _ _
theorem State.MemOk.acquireRods (h : s.MemOk) (r : WarpRef) (m : Word) : (s.acquireRods r m).MemOk := (h.learn r).mapWarp _ _
theorem execFencer_keepsMem (h : s.MemOk) (hd : Hdr) (rel all : Bool) (sc : Scope) (dyn : Bool) (mask : BitVec 16) (sA : BitVec 7) :
    KeepsMem (execFencer hd rel all sc dyn mask sA s) :=
  issue_keepsMem h fun c u hu => by
    have order : ∀ m : Word × Bool, (if m.2 then u.observe c.ref else if m.1 == 0 then u else u.acquireRods c.ref m.1).MemOk := fun m =>
      .ite (hu.observe _) (.ite hu (hu.acquireRods _ _))
    dsimp only
    split
    · exact hu
    · split
      · exact State.MemOk.ite ((hu.performWarp _ _).flushed c _) (.ite hu ((hu.performRods _ _ _).flushed c _))
      · split
        · exact order _
        · split
          · trivial
          · exact hu.holdSamples c _
          · split
            · exact hu.holdSamples c _
            · exact order _
theorem execRoddef_keepsMem (h : s.MemOk) (hd : Hdr) (rs : RodSpace) (k : BitVec 4) (a b : BitVec 7) : KeepsMem (execRoddef hd rs k a b s) :=
  issue_keepsMem h fun _ _ hu => State.MemOk.ite hu (hu.mapBlock _ _)
theorem execFlushingReadComplete_keepsMem (h : s.MemOk) (vf : Nat) : KeepsMem (execFlushingReadComplete vf s) :=
  .next (.ite h h)

end Sys2Proof.Machine
end

section
/-!
Every step keeps the canonical form of the memories: futures, matrix operations, transfers and views.
-/
namespace Sys2Proof.Machine

/-- A state that an optional result gives has its memories in canonical form. -/
def KeepsOpt (o : Option State) : Prop := ∀ t, o = some t → t.MemOk

theorem KeepsOpt.none : KeepsOpt none := fun _ e => by cases e
theorem KeepsOpt.some {s : State} (h : s.MemOk) : KeepsOpt (some s) := fun _ e => by cases e; exact h
theorem KeepsOpt.getD {o : Option State} {s : State} (ho : KeepsOpt o) (h : s.MemOk) : (o.getD s).MemOk := by
  cases o with
  | none => exact h
  | some t => exact ho t rfl
theorem KeepsOpt.bind {o : Option State} {f : State → Option State} (ho : KeepsOpt o) (hf : ∀ t, t.MemOk → KeepsOpt (f t)) : KeepsOpt (o.bind f) := by
  cases o with
  | none => exact .none
  | some t => exact hf t (ho t rfl)
theorem KeepsOpt.bindOf {α : Type} (o : Option α) {f : α → Option State} (hf : ∀ x, KeepsOpt (f x)) : KeepsOpt (o.bind f) := by
  cases o with
  | none => exact .none
  | some x => exact hf x
theorem KeepsOpt.map {α : Type} (o : Option α) {f : α → State} (hf : ∀ x, (f x).MemOk) : KeepsOpt (o.map f) := by
  cases o with
  | none => exact .none
  | some x => exact .some (hf x)
/-- What every step of a walk that may stop keeps, the walk keeps. -/
theorem KeepsOpt.foldl {α : Type} {f : State → α → Option State} (hf : ∀ t x, t.MemOk → KeepsOpt (f t x)) (xs : List α) {o : Option State}
    (ho : KeepsOpt o) : KeepsOpt (xs.foldl (fun acc x => acc.bind fun t => f t x) o) :=
  foldl_keeps KeepsOpt _ (fun _ x h => h.bind fun t ht => hf t x ht) xs o ho

variable {s : State}

/-! ### Futures -/

theorem State.MemOk.overRecord (h : s.MemOk) (l : Link) : (s.overRecord l).MemOk := (h.spWrite _ _ _).report _ _ _ _
theorem State.MemOk.startContinuation (h : s.MemOk) (l : Link) : (s.startContinuation l).MemOk := by
  unfold State.startContinuation
  dsimp only
  split
  · split
    · exact h
    · exact h.overRecord l
  · exact h.overRecord l
theorem State.MemOk.joinStep (h : s.MemOk) (l : Link) (fault : Bool) : (s.joinStep l fault).MemOk :=
  have h1 := fun x => h.spWrite l.record x none
  .ite ((h1 _).startContinuation l) (h1 _)
theorem State.MemOk.register? (h : s.MemOk) (l : Link) (core : Nat) : KeepsOpt (s.register? l core) := by
  have h0 := h.settle l.future 16
  unfold State.register?
  dsimp only
  split
  · split
    · exact .none
    · exact .some (h0.spWrite _ _ _)
  · exact .some (h0.joinStep _ _)
theorem State.MemOk.registerAll (h : s.MemOk) (b : Block) (xs : List (Nat × Nat)) : (s.registerAll b xs).1.MemOk := by
  induction xs generalizing s with
  | nil => exact h
  | cons x xs ih =>
    unfold State.registerAll
    split
    · exact ih (h.register? _ _ _ ‹_›)
    · exact ih h
theorem State.MemOk.queueFuture (h : s.MemOk) (r : WarpRef) (rods : Word) (id : Nat) (f : QueuedFuture) : (s.queueFuture r rods id f).MemOk := h.mapWarp _ _
theorem State.MemOk.queueLinks (h : s.MemOk) (r : WarpRef) (rods : Word) (id : Nat) (xs : List (Nat × Nat)) : (s.queueLinks r rods id xs).1.MemOk := by
  induction xs generalizing s with
  | nil => exact h
  | cons x xs ih =>
    unfold State.queueLinks
    split
    · exact ih h
    · exact ih (h.queueFuture _ _ _ _)
theorem State.MemOk.registerLanes (h : s.MemOk) (r : WarpRef) (b : Block) (rods : Word) (xs : List (Nat × Nat)) : (s.registerLanes r b rods xs).1.MemOk := by
  unfold State.registerLanes
  split
  · apply State.MemOk.queueLinks
    exact h
  · exact (h.performWarp r .pkg).registerAll b xs
theorem State.MemOk.feedRun (h : s.MemOk) (r : WarpRef) (run : Run) : (s.feedRun r run).MemOk := by
  unfold State.feedRun
  split
  · exact (h.registerLanes _ _ _ _).mapWarp _ _
  · exact h
theorem State.MemOk.feedTables (h : s.MemOk) : s.feedTables.MemOk := foldl_keeps State.MemOk _ (fun _ x ht => ht.feedRun x.1 x.2) _ _ h
theorem State.MemOk.resolve? (h : s.MemOk) (f : Nat) (v : DWord) (fault : Bool) (tag : Nat) (core : Option Nat) : KeepsOpt (s.resolve? f v fault tag core) := by
  unfold State.resolve?
  dsimp only
  split
  · exact .none
  · refine .some (State.MemOk.feedTables (foldl_keeps State.MemOk _ (fun _ l ht => ht.joinStep l fault) _ _ ?_))
    exact (h.settle f 16).spWrite _ _ _
theorem State.MemOk.queueResolve? (h : s.MemOk) (r : WarpRef) (rods : Word) (id f : Nat) (v : DWord) (fault : Bool) :
    KeepsOpt (s.queueResolve? r rods id f v fault) := by
  unfold State.queueResolve?
  split
  · exact .some (h.queueFuture _ _ _ _)
  · exact .none
theorem State.MemOk.leaveFuture (h : s.MemOk) (r : WarpRef) (e : StoreEntry) (f : QueuedFuture) : (s.leaveFuture r e f).MemOk := by
  have h1 := h.beforeRelease r e
  unfold State.leaveFuture
  split
  · exact h
  · dsimp only
    split
    · exact (KeepsOpt.getD (h1.register? _ _) h1).feedTables
    · exact KeepsOpt.getD (h1.resolve? _ _ _ _ _) h1
theorem State.MemOk.drainNext (h : s.MemOk) (r : WarpRef) : (s.drainNext r).MemOk := by
  have h1 := h.makeLoads r
  unfold State.drainNext
  dsimp only
  split
  · exact h1
  · split
    · exact h1
    · split
      · exact .ite ((h1.setWarp _ _).leaveFuture _ _ _) h1
      · exact h.drainOne r
theorem State.MemOk.drainWhole (h : s.MemOk) (r : WarpRef) (n : Nat) : (State.drainWhole r n s).MemOk := by
  induction n generalizing s with
  | zero => exact h
  | succ n ih => exact ih (h.drainNext r)
theorem State.MemOk.resolveLanes (h : s.MemOk) {f : State → Nat → Option State} (hf : ∀ t l, t.MemOk → KeepsOpt (f t l)) (found : State → Nat → Nat)
    (ls : List Nat) : (Machine.resolveLanes f found ls s).1.MemOk := by
  induction ls generalizing s with
  | nil => exact h
  | cons l ls ih =>
    unfold Machine.resolveLanes
    split
    · exact ih (hf _ _ h _ ‹_›)
    · exact ih h
theorem resolveOp_keepsMem (h : s.MemOk) (i : Instr) (fault : Bool) (d : BitVec 10) (ad : MAddr) : KeepsMem (resolveOp i fault d ad s) :=
  issue_keepsMem h fun c u hu => by
    dsimp only
    split
    · trivial
    · split
      · exact hu
      · have h1 : ∀ rods : Word, (if u.futureHeld c.ref rods then
            Machine.resolveLanes (fun t l => t.queueResolve? c.ref rods u.nextId (physOf u c.blk.vf ((futureAccess u c ad).ea l)) (c.w.rv64 l d.toNat) fault)
              (fun t l => t.futureFound c.ref (physOf u c.blk.vf ((futureAccess u c ad).ea l))) c.live { u with nextId := u.nextId + 1 }
          else Machine.resolveLanes
            (fun t l => t.resolve? (physOf u c.blk.vf ((futureAccess u c ad).ea l)) (c.w.rv64 l d.toNat) fault (c.blk.launch % 2 ^ 16) (some c.blk.core))
            (fun t l => t.futureFound c.ref (physOf u c.blk.vf ((futureAccess u c ad).ea l))) c.live (u.performWarp c.ref .pkg)).1.MemOk := fun rods => by
          split
          · refine State.MemOk.resolveLanes ?_ (fun t l ht => ht.queueResolve? _ _ _ _ _ _) _ _
            exact hu
          · exact (hu.performWarp _ _).resolveLanes (fun t l ht => ht.resolve? _ _ _ _ _) _ _
        simp only [Res.MemOk]
        split
        · exact h1 _
        · exact (h1 _).takeTrap _ _ _ _
theorem execLdf_keepsMem (h : s.MemOk) (hd : Hdr) (wide : Bool) (d : BitVec 10) (ad : MAddr) : KeepsMem (execLdf hd wide d ad s) :=
  issue_keepsMem h fun c u hu => by
    dsimp only
    split
    · trivial
    · exact hu.waitLoad _ _ _ _ _ _
theorem execFpoll_keepsMem (h : s.MemOk) (hd : Hdr) (wide : Bool) (d : BitVec 10) (ad : MAddr) : KeepsMem (execFpoll hd wide d ad s) :=
  issue_keepsMem h fun c u hu => by
    dsimp only
    split
    · trivial
    · exact State.MemOk.ite hu (hu.startLoad _ _ _)
theorem execFreg_keepsMem (h : s.MemOk) (hd : Hdr) (d : BitVec 10) (ad : MAddr) : KeepsMem (execFreg hd d ad s) :=
  issue_keepsMem h fun c u hu => by
    dsimp only
    split
    · trivial
    · split
      · exact hu
      · have h1 := hu.registerLanes c.ref c.blk
        exact State.MemOk.ite (h1 _ _) ((h1 _ _).blockRun c _)

/-! ### Matrix operations -/

theorem State.MemOk.settleAll (h : s.MemOk) : s.settleAll.MemOk := foldl_keeps State.MemOk _ (fun _ _ ht => ht.endStep _ _) _ _ h
theorem State.MemOk.setOp (h : s.MemOk) (o : MatOp) : (s.setOp o).MemOk := h
theorem State.MemOk.parkOp (h : s.MemOk) (b : Block) (o : MatOp) (va : Nat) : (s.parkOp b o va).MemOk := State.MemOk.setOp (h.park _ _ _ _) _
theorem State.MemOk.startOp (h : s.MemOk) (core : Nat) : (s.startOp core).MemOk := by
  unfold State.startOp
  split
  · exact h
  · split
    · exact h
    · split
      · exact h
      · split
        · exact h.parkOp _ _ _
        · exact h
theorem State.MemOk.finishOp (h : s.MemOk) (id : Nat) : (s.finishOp id).MemOk := by
  unfold State.finishOp
  split
  · exact h
  · split
    · exact h
    · split
      · apply State.MemOk.noteBlock
        refine .ite ?_ ?_
        · apply State.MemOk.report
          exact h
        · exact h
      · split
        · exact h.parkOp _ _ _
        · exact h
      · exact h
theorem signOp_keepsMem (h : s.MemOk) (i : Instr) (word : MatWord) : KeepsMem (signOp i word s) :=
  issue_keepsMem h fun c u hu => by
    split
    · exact hu
    · split
      · trivial
      · exact .ite trivial (hu.block c _ _)
theorem execMsync_keepsMem (h : s.MemOk) (hd : Hdr) (st : BitVec 2) : KeepsMem (execMsync hd st s) :=
  issue_keepsMem h fun c _ hu => State.MemOk.ite hu (hu.block c _ _)

/-! ### Transfers -/

theorem State.MemOk.setJob (h : s.MemOk) (j : Job) : (s.setJob j).MemOk := h
theorem State.MemOk.setView (h : s.MemOk) (v : View) : (s.setView v).MemOk := h
theorem State.MemOk.markDirty (h : s.MemOk) (vf handle g : Nat) (ahead : Bool) : (s.markDirty vf handle g ahead).MemOk := by
  unfold State.markDirty
  dsimp only
  split
  · exact h
  · exact .ite h h
theorem State.MemOk.followGen (h : s.MemOk) (v : View) (k : Nat) (g : Word) : (s.followGen v k g).MemOk := by
  unfold State.followGen
  exact .ite h (.ite h (.ite h h))
theorem State.MemOk.rise (h : s.MemOk) (vf handle tile : Nat) (m : Desc) (hit : Desc → Nat → Bool) : (s.rise vf handle tile m hit).MemOk := by
  unfold State.rise
  refine foldl_keeps State.MemOk _ (fun t vh ht => ?_) _ _ ?_
  · split
    · refine foldl_keeps State.MemOk _ (fun u k hu => ?_) _ _ ht
      split
      · exact hu.markDirty _ _ _ _
      · split
        · exact hu.followGen _ _ _
        · exact hu
    · exact ht
  · exact h
theorem State.MemOk.startJob (h : s.MemOk) (c : Ctx) (x : XReq) (flag : Option Bool) : (c.startJob s x flag).MemOk := by
  unfold Ctx.startJob
  dsimp only
  split
  · split
    · exact h
    · apply State.MemOk.late
      exact h
  · exact h
theorem State.MemOk.sendSignal (h : s.MemOk) (j : Job) : (s.sendSignal j).MemOk := by
  unfold State.sendSignal
  exact .ite h (.ite h (h.report _ _ _ _))
theorem State.MemOk.endJob (h : s.MemOk) (j : Job) : (s.endJob j).MemOk := by
  refine State.MemOk.noteBlock (State.MemOk.mapWarp (State.MemOk.sendSignal ?_ _) _ _) _
  exact h
theorem transferOp_keepsMem (h : s.MemOk) (i : Instr) (req : Ctx → XReq) : KeepsMem (transferOp i s req) :=
  issue_keepsMem h fun c u hu => by
    dsimp only
    split
    · exact hu
    · split
      · trivial
      · split
        · trivial
        · exact hu.holdSamples c _
        · refine State.MemOk.ite (.ite ?_ hu) (hu.startJob c _ _)
          apply State.MemOk.endJob
          exact hu
theorem State.MemOk.writeChunk (h : s.MemOk) (b : Block) (j : Job) (a : Nat) (bs : List Byte) (bad : List Nat) {t : State}
    (ht : s.writeChunk b j a bs bad = .ok t) : t.MemOk := by
  unfold State.writeChunk at ht
  split at ht
  · split at ht
    · cases ht
    · cases ht; exact h.writePlace _ _ _
  · cases ht; exact h.writePlace _ _ _
  · cases ht; exact foldl_keeps State.MemOk _ (fun _ _ hu => hu.mapBlock _ _) _ _ h
theorem State.MemOk.raiseFor (h : s.MemOk) (j : Job) : (s.raiseFor j).MemOk := by
  unfold State.raiseFor
  exact .ite h (foldl_keeps State.MemOk _ (fun _ _ hu => hu.rise _ _ _ _ _) _ _ h)
theorem State.MemOk.endChunk (h : s.MemOk) (b : Block) (j : Job) (id n : Nat) (counted : Bool) : (s.endChunk b j id n counted).MemOk := by
  unfold State.endChunk
  dsimp only
  have h2 : ∀ (p : Prop) [Decidable p] (j1 : Job), (if p then (s.setJob j1).raiseFor j1 else s.setJob j1).MemOk := fun p _ j1 => .ite ((h.setJob j1).raiseFor j1) (h.setJob j1)
  have h3 : ∀ (p : Prop) [Decidable p] (u : State), u.MemOk → (if p then (s.receivers b j).foldl (fun t x => t.countBytes x.id j.bar n) u else u).MemOk :=
    fun p _ u hu => .ite (foldl_keeps State.MemOk _ (fun _ _ ht => ht.countBytes _ _ _) _ _ hu) hu
  exact .ite ((h3 _ _ (h2 _ _)).endJob _) (h3 _ _ (h2 _ _))
theorem State.MemOk.loseChunk (h : s.MemOk) (b : Block) (j : Job) (id n : Nat) : (s.loseChunk b j id n).MemOk := (h.endChunk _ _ _ _ _).report _ _ _ _
theorem State.MemOk.parkChunk (h : s.MemOk) (b : Block) (j : Job) (id va : Nat) : (s.parkChunk b j id va).MemOk := State.MemOk.setJob (h.park _ _ _ _) _
theorem State.MemOk.sendRow (h : s.MemOk) (b : Block) (j : Job) (c : Chunk) (m : FabMsg) : (s.sendRow b j c m).MemOk := by
  unfold State.sendRow
  exact .ite (h.loseChunk _ _ _ _) h
theorem State.MemOk.sendChunk (h : s.MemOk) (b : Block) (j : Job) (c : Chunk) : (s.sendChunk b j c).MemOk := by
  unfold State.sendChunk
  dsimp only
  split
  · exact h.sendRow _ _ _ _
  · split
    · exact h.parkChunk _ _ _ _
    · exact h.sendRow _ _ _ _
theorem State.MemOk.placeChunk (h : s.MemOk) (b : Block) (j : Job) (c : Chunk) (r : Except Nat (List Byte × List Nat)) : (s.placeChunk b j c r).MemOk := by
  unfold State.placeChunk
  split
  · exact .ite (h.endChunk _ _ _ _ _) (h.parkChunk _ _ _ _)
  · split
    · exact h.endChunk _ _ _ _ _
    · split
      · exact .ite (h.endChunk _ _ _ _ _) (h.parkChunk _ _ _ _)
      · exact (h.writeChunk _ _ _ _ _ ‹_›).endChunk _ _ _ _ _
theorem execTransferChunk_keepsMem (h : s.MemOk) (job chunk : Nat) : KeepsMem (execTransferChunk job chunk s) := by
  refine .next ?_
  split
  · exact h
  · split
    · dsimp only
      split
      · exact h
      · exact .ite h (.ite ((h.setJob _).sendChunk _ _ _) ((h.setJob _).placeChunk _ _ _ _))
    · exact h
theorem State.MemOk.answerChunk (h : s.MemOk) (job chunk : Nat) (abort : Bool) : (s.answerChunk job chunk abort).MemOk := by
  unfold State.answerChunk
  split
  · exact h
  · dsimp only
    split
    · refine .ite (h.setJob _) (.ite ((h.setJob _).sendRow _ _ _ _) (.ite ((h.setJob _).endChunk _ _ _ _ _) ?_))
      split
      · exact (h.setJob _).endChunk _ _ _ _ _
      · split
        · exact (h.setJob _).endChunk _ _ _ _ _
        · exact ((h.setJob _).writeChunk _ _ _ _ _ ‹_›).endChunk _ _ _ _ _
    · exact h.setJob _

/-! ### The fabric -/

theorem State.MemOk.resendRow (h : s.MemOk) (job row : Nat) : (s.resendRow job row).MemOk := by
  unfold State.resendRow
  split
  · exact h
  · split
    · exact .ite (h.sendChunk _ _ _) h
    · exact h.setJob _
    · exact h
theorem State.MemOk.answerRow (h : s.MemOk) (job row : Nat) (a : FabAnswer) : (s.answerRow job row a).MemOk := by
  unfold State.answerRow
  split
  · exact h
  · split
    · split
      · exact h
      · split
        · exact h.loseChunk _ _ _ _
        · exact h.setJob _
        · exact .ite (h.endChunk _ _ _ _ _) (.ite h (h.placeChunk _ _ _ _))
    · exact h
theorem State.MemOk.answerSignal (h : s.MemOk) (job vf : Nat) (a : FabAnswer) : (s.answerSignal job vf a).MemOk := by
  unfold State.answerSignal
  dsimp only
  split
  · apply State.MemOk.report
    exact h
  · exact h
  · exact h
theorem execRemoteSignal_keepsMem (h : s.MemOk) (vf dev peerVf addr : Nat) (v : BitVec 16) : KeepsMem (execRemoteSignal vf dev peerVf addr v s) := by
  refine .next (.ite ?_ (.ite (h.report _ _ _ _) ?_))
  · apply State.MemOk.report
    exact h
  · exact .ite (h.settle _ _) ((h.settle _ _).rmwScratch _ _ _ _)
theorem State.MemOk.answer (h : s.MemOk) (dev peerVf : Nat) (a : FabAnswer) : (s.answer dev peerVf a).MemOk := h
theorem execFabricRequest_keepsMem (h : s.MemOk) (vf dev peerVf : Nat) (r : FabRequest) : KeepsMem (execFabricRequest vf dev peerVf r s) := by
  have refuse := (h.answer dev peerVf .refused).report vf 6 0 []
  have put : ∀ a, ((s.park vf 0 a (.peer dev peerVf)).2.answer dev peerVf .later).MemOk := fun a => (h.park _ _ _ _).answer _ _ _
  refine .next ?_
  dsimp only
  split
  · exact refuse
  · split
    · split
      · split
        · exact put _
        · exact h.answer _ _ _
      · exact .ite refuse (h.answer _ _ _)
    · split
      · split
        · exact put _
        · refine State.MemOk.answer (foldl_keeps State.MemOk _ (fun t x ht => ?_) _ _ h) _ _ _
          split
          · exact ht.writePlace _ _ _
          · exact ht
      · exact .ite refuse (State.MemOk.answer (foldl_keeps State.MemOk _ (fun _ _ ht => ht.writePlace _ _ _) _ _ h) _ _ _)
theorem State.MemOk.answerPeer (h : s.MemOk) (vf dev peerVf : Nat) (abort : Bool) : (s.answerPeer vf dev peerVf abort).MemOk := by
  unfold State.answerPeer
  exact .ite ((h.answer _ _ _).report _ _ _ _) h
theorem State.MemOk.portDown (h : s.MemOk) (port : Nat) : (s.portDown port).MemOk := by
  unfold State.portDown
  dsimp only
  split
  · exact h
  · refine foldl_keeps State.MemOk _ (fun t x ht => ?_) _ _ ?_
    · split
      · split
        · exact ht.loseChunk _ _ _ _
        · exact ht
      · exact ht
    · exact h

/-! ### Views -/

theorem State.MemOk.wakeRun (h : s.MemOk) (r : WarpRef) (run : Run) : (s.wakeRun r run).MemOk := by
  unfold State.wakeRun
  split
  · dsimp only
    split
    · exact h.setWarp _ _
    · exact .ite (h.setWarp _ _) ((h.setWarp _ _).takeTrap _ _ _ _)
    · refine State.MemOk.observe (State.MemOk.setWarp ?_ _ _) _
      exact h
  · exact h
theorem State.MemOk.wakeViews (h : s.MemOk) : s.wakeViews.MemOk := by
  refine State.MemOk.settleAll (foldl_keeps State.MemOk _ (fun t r ht => ?_) _ _ h)
  split
  · exact foldl_keeps State.MemOk _ (fun _ _ hu => hu.wakeRun _ _) _ _ ht
  · exact ht
theorem execVmark_keepsMem (h : s.MemOk) (hd : Hdr) (pd : BitVec 3) (a b : BitVec 7) : KeepsMem (execVmark hd pd a b s) :=
  issue_keepsMem h fun c u hu => by
    have h1 := hu.performWarp c.ref .pkg
    split
    · exact hu
    · simp only [Res.MemOk]
      split
      · exact .ite ((h1.rise _ _ _ _ _).late c _ _ _) (h1.late c _ _ _)
      · exact h1.late c _ _ _
theorem execVstamp_keepsMem (h : s.MemOk) (hd : Hdr) (gen : Bool) (d : BitVec 10) (a b : BitVec 7) : KeepsMem (execVstamp hd gen d a b s) :=
  issue_keepsMem h fun c _ hu => State.MemOk.ite hu (hu.late c _ _ _)
theorem execVwait_keepsMem (h : s.MemOk) (hd : Hdr) (all : Bool) (pd : BitVec 3) (a b : BitVec 7) : KeepsMem (execVwait hd all pd a b s) :=
  issue_keepsMem h fun c u hu => by
    split
    · exact hu
    · split
      · exact hu.late c _ _ _
      · split
        · exact (hu.late c _ _ _).observe _
        · trivial
        · exact hu.blockRun c _
theorem execVrefr_keepsMem (h : s.MemOk) (hd : Hdr) (all : Bool) (pd : BitVec 3) (a b : BitVec 7) : KeepsMem (execVrefr hd all pd a b s) :=
  issue_keepsMem h fun c u hu => by
    split
    · exact hu
    · split
      · exact hu.late c _ _ _
      · exact State.MemOk.late (foldl_keeps State.MemOk _ (fun _ _ ht => ht.markDirty _ _ _ _) _ _ hu) c _ _ _
theorem State.MemOk.stampGroup (h : s.MemOk) (vf hd g : Nat) (x : Stamp) : (s.stampGroup vf hd g x).MemOk := by
  unfold State.stampGroup
  split
  · exact (h.setView _).wakeViews
  · exact h
theorem State.MemOk.failGroup (h : s.MemOk) (vf hd g : Nat) (gen : Word) : (s.failGroup vf hd g gen).MemOk := (h.stampGroup _ _ _ _).report _ _ _ _
theorem State.MemOk.setCommit (h : s.MemOk) (c : Commit) : (s.setCommit c).MemOk := h
theorem State.MemOk.dropCommit (h : s.MemOk) (c : Commit) : (s.dropCommit c).MemOk := h
theorem State.MemOk.putCopy (h : s.MemOk) (vf : Nat) (d : Desc) (c : Copy) (ws : List (Nat × List Byte)) : KeepsOpt (s.putCopy vf d c ws) :=
  KeepsOpt.foldl (fun _ _ ht => .map _ fun _ => ht.writePlace _ _ _) (c.pieces ws) (.some h)
theorem State.MemOk.restoreCopy (h : s.MemOk) (vf : Nat) (d : Desc) (c : Copy) (xs : List (Nat × List Byte × List Nat)) : (s.restoreCopy vf d c xs).MemOk :=
  foldl_keeps State.MemOk _ (fun t x ht => by
    split
    · exact ht.writePlace _ _ _
    · exact ht) _ _ h
theorem State.MemOk.restoreNear (h : s.MemOk) (c : Commit) : (s.restoreNear c).MemOk := by
  unfold State.restoreNear
  split
  · exact h
  · split
    · exact foldl_keeps State.MemOk _ (fun _ _ ht => ht.restoreCopy _ _ _ _) _ _ h
    · exact h
theorem State.MemOk.failCommit (h : s.MemOk) (c : Commit) : (s.failCommit c).MemOk := ((h.restoreNear c).dropCommit c).failGroup _ _ _ _
theorem State.MemOk.undoCommit (h : s.MemOk) (c : Commit) : (s.undoCommit c).MemOk := by
  unfold State.undoCommit
  exact .ite (h.setCommit _) (.ite (h.failCommit c) h)
theorem State.MemOk.beginCommit (h : s.MemOk) (c : Commit) (d : Desc) (steps : List (List (Nat × List Byte))) : (s.beginCommit c d steps).MemOk := by
  unfold State.beginCommit
  split
  · exact h.failCommit c
  · exact .ite (h.failCommit c) (h.setCommit _)
theorem State.MemOk.rebuild (h : s.MemOk) (c : Commit) (d m : Desc) (elem : Nat → Option (Nat × Nat × Nat × Bool)) {onFault : State} (hf : onFault.MemOk) :
    (s.rebuild c d m elem onFault).MemOk := by
  unfold State.rebuild
  split
  · exact hf
  · exact h.failCommit c
  · exact h.beginCommit _ _ _
theorem State.MemOk.parkCommit (h : s.MemOk) (c : Commit) (va : Nat) : (s.parkCommit c va).MemOk := State.MemOk.setCommit (h.park _ _ _ _) _
theorem State.MemOk.advanceCommit (h : s.MemOk) (c : Commit) (v : View) (d m : Desc) : (s.advanceCommit c v d m).MemOk := by
  unfold State.advanceCommit
  split
  case h_1 => exact h
  case h_2 =>
    dsimp only
    split
    · exact h.parkCommit _ _
    · split
      · exact h
      · split
        · split
          · exact .ite (h.failCommit c) h
          · exact h.rebuild _ _ _ _ (h.parkCommit _ _)
          · exact h.rebuild _ _ _ _ h
        · exact h.failCommit c
  case h_3 =>
    split
    · exact h
    · split
      · exact h.failCommit c
      · split
        · exact h.failCommit c
        · split
          · exact h.failCommit c
          · exact h
  case h_4 => exact .ite (h.setCommit _) h
  case h_5 => exact h
  case h_6 =>
    split
    · exact h
    · split
      · exact h
      · split
        · rename_i t ht
          have ht : t.MemOk := by
            refine KeepsOpt.bindOf _ (fun r => ?_) t ht
            exact KeepsOpt.foldl (fun _ _ hu => hu.putCopy _ _ _ _) r.near (.some h)
          exact ht.setCommit _
        · exact h.undoCommit c
      · exact (h.dropCommit c).stampGroup _ _ _ _

theorem State.MemOk.discardBuild (h : s.MemOk) (c : Commit) : (s.discardBuild c).MemOk := (h.dropCommit c).markDirty _ _ _ _
theorem State.MemOk.stepCommit (h : s.MemOk) (c : Commit) (v : View) (d m : Desc) : (s.stepCommit c v d m).MemOk := by
  unfold State.stepCommit
  refine .ite ?_ ?_
  · apply State.MemOk.discardBuild
    exact h
  · apply State.MemOk.advanceCommit
    exact h
theorem execViewRefresh_keepsMem (h : s.MemOk) (vf hd : Nat) : KeepsMem (execViewRefresh vf hd s) := by
  refine .next ?_
  split
  · split
    · exact h.stepCommit _ _ _ _
    · split <;> exact h
  · exact h
theorem State.MemOk.answerView (h : s.MemOk) (vf hd g : Nat) (abort : Bool) : (s.answerView vf hd g abort).MemOk := by
  unfold State.answerView
  split
  · exact .ite (h.failCommit _) h
  · exact h
theorem State.MemOk.fetched (h : s.MemOk) (c : Commit) (data : List Byte) (bad : List Nat) : (s.fetched c data bad).MemOk := by
  unfold State.fetched
  split
  · exact h.rebuild _ _ _ _ (h.dropCommit c)
  · exact h
theorem State.MemOk.answerCommit (h : s.MemOk) (c : Commit) (row : Nat) (a : FabAnswer) : (s.answerCommit c row a).MemOk := by
  unfold State.answerCommit
  split
  · exact h
  · dsimp only
    split
    · exact h
    · exact h.fetched _ _ _
    · exact h.setCommit _
    · exact h.setCommit _
    · exact h.undoCommit _
    · exact h.undoCommit _
    · exact h.failCommit _
theorem State.MemOk.resendCommit (h : s.MemOk) (c : Commit) (row : Nat) : (s.resendCommit c row).MemOk := by
  unfold State.resendCommit
  split <;> exact h
theorem State.MemOk.vaWrite (h : s.MemOk) (vf : Nat) (early : Bool) (va : Nat) (bs : List Byte) : KeepsOpt (s.vaWrite vf early va bs) :=
  KeepsOpt.foldl (fun _ _ ht => .map _ fun _ => ht.writePlace _ _ _) (linePieces va bs.length) (.some h)
theorem State.MemOk.rewritten (h : s.MemOk) (vf hd : Nat) : (s.rewritten vf hd).MemOk := by
  unfold State.rewritten
  exact .ite (h.setVf _ _) h
theorem State.MemOk.registerView (h : s.MemOk) (vf q hd : Nat) (bs : List Byte) (addrs : List Nat) {t : State}
    (ht : s.registerView vf q hd bs addrs = .ok t) : t.MemOk := by
  unfold State.registerView at ht
  dsimp only at ht
  split at ht
  · cases ht
  · split at ht
    · cases ht
    · split at ht
      · cases ht
      · split at ht
        · cases ht
        · rename_i u hu
          cases ht
          have hu : u.MemOk := KeepsOpt.bind (h.vaWrite _ _ _ _) (fun _ hv => (hv.rewritten _ _).vaWrite _ _ _ _) u hu
          refine foldl_keeps State.MemOk _ (fun _ _ hv => hv.markDirty _ _ _ _) _ _ ?_
          exact hu
theorem State.MemOk.dropView (h : s.MemOk) (vf hd : Nat) : (s.dropView vf hd).MemOk := by
  unfold State.dropView
  dsimp only
  split
  · exact h
  · rename_i x _
    have h1 : ((s.vaWrite vf ((s.vf vf).thEarly hd) ((s.vf vf).htab.toNat + 256 * hd) (List.replicate 256 0)).getD s).MemOk := (h.vaWrite _ _ _ _).getD h
    generalize (s.vaWrite vf ((s.vf vf).thEarly hd) ((s.vf vf).htab.toNat + 256 * hd) (List.replicate 256 0)).getD s = s1 at h1
    split
    · exact (h1.vaWrite _ _ _ _).getD h1
    · exact h1

end Sys2Proof.Machine
end

section
/-!
Every step keeps the canonical form of the memories: launches, blocks and tasks.
-/
namespace Sys2Proof.Machine

variable {s : State}

/-! ### Completion -/

theorem State.MemOk.setLaunch (h : s.MemOk) (l : Launch) : (s.setLaunch l).MemOk := h
theorem State.MemOk.setLeaf (h : s.MemOk) (k : Nat) (l : Leaf) : (s.setLeaf k l).MemOk := h
theorem State.MemOk.post (h : s.MemOk) (vf : Nat) (q : Option Nat) (p : Posting) : (s.post vf q p).MemOk := by
  cases q <;> exact h
theorem State.MemOk.resolveDone (h : s.MemOk) (l : Launch) : (s.resolveDone l).MemOk := by
  unfold State.resolveDone
  split
  · exact h
  · have note := fun bs => h.report l.vf 6 l.num bs
    exact .ite (note _) ((h.resolve? _ _ _ _ _).getD (note _))
theorem State.MemOk.retire (h : s.MemOk) (ls : List Launch) : (s.retire ls).MemOk :=
  foldl_keeps State.MemOk _ (fun t x ht => by
    split
    · exact (ht.setLaunch _).resolveDone _
    · exact ht) _ _ h
theorem State.MemOk.finish (h : s.MemOk) (l : Launch) (status : Nat) : (s.finish l status).MemOk := by
  have h1 := fun l1 p => (h.setLaunch l1).post l.vf l.queue p
  exact .ite ((h1 _ _).retire _) (h1 _ _)
/-- Posting the entries of some tiles, where the ring takes them, keeps the memories' form. -/
theorem State.MemOk.postWhere (h : s.MemOk) (p : Prop) [Decidable p] (vf : Nat) (q : Option Nat) (x : Posting) : (if p then s.post vf q x else s).MemOk :=
  .ite (h.post _ _ _) h
theorem State.MemOk.advance (h : s.MemOk) (vf num : Nat) : (s.advance vf num).MemOk := by
  unfold State.advance
  split
  · exact h
  · split
    · exact h
    · rename_i l _ _
      have h1 : ∀ (l1 : Launch) (xs : List Nat), (xs.foldl (fun t i => match l.tileDone.find? fun x => x.1 == i with
          | some x => if t.postsTiles vf l.queue then t.post vf l.queue { tile := true, bytes := tileEntry l i x.2, irq := !l.noirq, launch := num } else t
          | none => t) (s.setLaunch l1)).MemOk := fun l1 xs => foldl_keeps State.MemOk _ (fun t i ht => by
        split
        · exact ht.postWhere _ _ _ _
        · exact ht) _ _ (h.setLaunch l1)
      exact .ite ((h1 _ _).finish _ _) (h1 _ _)
theorem State.MemOk.pruneGangs (h : s.MemOk) : s.pruneGangs.MemOk := h
theorem State.MemOk.tileEnd (h : s.MemOk) (vf num : Nat) (ds : List (Nat × TileDone)) (k : Nat) : (s.tileEnd vf num ds k).MemOk := by
  induction k generalizing s ds with
  | zero =>
    unfold State.tileEnd
    split
    · exact (h.setLaunch _).advance _ _
    · exact h
  | succ k ih =>
    unfold State.tileEnd
    split
    · exact h
    · have h1 := fun l => (h.setLaunch l).advance vf num
      dsimp only
      split
      · exact h1 _
      · split
        · exact h1 _
        · apply ih
          apply State.MemOk.pruneGangs
          exact h1 _
theorem State.MemOk.tilesDone (h : s.MemOk) (vf num : Nat) (ds : List (Nat × TileDone)) : (s.tilesDone vf num ds).MemOk := h.tileEnd _ _ _ _
theorem State.MemOk.submit (h : s.MemOk) (vf : Nat) (e : CodeEntry) (bad : Bool) (q : Option Nat) (noirq : Bool) (cls : QClass) (deadline stamp : DWord)
    (arrival : Nat) (o : LaunchOpts) (bundle : Option (Nat × Nat)) : (s.submit vf e bad q noirq cls deadline stamp arrival o bundle).2.MemOk := by
  unfold State.submit
  refine .ite ?_ h
  apply State.MemOk.finish
  exact h

/-! ### The walk -/

theorem State.MemOk.beginWalk (h : s.MemOk) (l0 : Launch) : (s.beginWalk l0).MemOk := by
  unfold State.beginWalk
  refine .ite (State.MemOk.finish (foldl_keeps State.MemOk _ (fun t x ht => ht.postWhere _ _ _ _) _ _ ?_) _ _) (.ite ?_ ?_)
  · exact (h.setLaunch _).setLaunch _
  · exact (h.setLaunch _).finish _ _
  · exact h.setLaunch _
theorem execWalkStart_keepsMem (h : s.MemOk) (vf num : Nat) : KeepsMem (execWalkStart vf num s) := by
  refine .next ?_
  split
  · exact h
  · refine .ite (foldl_keeps State.MemOk _ (fun t x ht => ?_) _ _ h) h
    split
    · exact ht.beginWalk _
    · exact ht
theorem State.MemOk.decideUnit (h : s.MemOk) (l : Launch) (recs : List (Nat × Rec)) : (s.decideUnit l recs).MemOk := by
  unfold State.decideUnit
  apply State.MemOk.tilesDone
  split
  · exact h.setLaunch _
  · apply State.MemOk.setLaunch
    exact h
theorem State.MemOk.parkWalk (h : s.MemOk) (l : Launch) (tile va : Nat) : (s.parkWalk l tile va).MemOk := State.MemOk.setLaunch (h.park _ _ _ _) _
theorem execWalkTile_keepsMem (h : s.MemOk) (vf num : Nat) : KeepsMem (execWalkTile vf num s) := by
  refine .next ?_
  split
  · exact h
  · split
    · exact h
    · split
      · split
        · exact h
        · dsimp only
          split
          · exact h.parkWalk _ _ _
          · exact .ite (.ite h (h.setLaunch _)) (h.decideUnit _ _)
      · split
        · exact h
        · split
          · exact .ite ((h.setLaunch _).tilesDone _ _ _) (h.parkWalk _ _ _)
          · exact (h.setLaunch _).tilesDone _ _ _
      · exact h
theorem State.MemOk.answerWalk (h : s.MemOk) (vf num tile : Nat) (abort : Bool) : (s.answerWalk vf num tile abort).MemOk := by
  unfold State.answerWalk
  split
  · exact h
  · exact h.setLaunch _
theorem State.MemOk.settleWalk (h : s.MemOk) (vf num : Nat) : (s.settleWalk vf num).MemOk := by
  unfold State.settleWalk
  split
  · exact .ite ((h.setLaunch _).advance _ _) h
  · exact h
theorem execTileHandoff_keepsMem (h : s.MemOk) (vf num : Nat) : KeepsMem (execTileHandoff vf num s) := by
  refine .next ?_
  split
  · exact h
  · split
    · exact h
    · exact .ite h (((h.setLeaf _ _).setLaunch _).settleWalk _ _)

/-! ### Leaves -/

theorem State.MemOk.noteHead (h : s.MemOk) (k : Nat) : (s.noteHead k).MemOk := by
  unfold State.noteHead
  dsimp only
  split
  · exact .ite (h.setLeaf _ _) h
  · exact h
theorem State.MemOk.noteHeads (h : s.MemOk) : s.noteHeads.MemOk := foldl_keeps State.MemOk _ (fun _ _ ht => ht.noteHead _) _ _ h
theorem execLeafAccept_keepsMem (h : s.MemOk) (k : Nat) : KeepsMem (execLeafAccept k s) := by
  refine .next ?_
  split
  · exact h
  · refine .ite h (State.MemOk.noteHead (State.MemOk.setLeaf ?_ _ _) _)
    exact h
theorem execGangAgeExpiry_keepsMem (h : s.MemOk) (k : Nat) : KeepsMem (execGangAgeExpiry k s) :=
  .next (.ite ((h.noteHead k).setLeaf _ _) (h.noteHead k))
theorem State.MemOk.countStart (h : s.MemOk) (die : Nat) : (s.countStart die).MemOk := by
  unfold State.countStart
  exact .ite h h
theorem State.MemOk.countEnd (h : s.MemOk) (core : Nat) : (s.countEnd core).MemOk := by
  unfold State.countEnd
  exact .ite h h
theorem State.MemOk.setRamp (h : s.MemOk) (w : Word) : (s.setRamp w).MemOk := by
  unfold State.setRamp
  exact .ite h (.ite h h)
theorem execRampInterval_keepsMem (h : s.MemOk) (die : Nat) : KeepsMem (execRampInterval die s) := .next (.ite h h)

/-! ### Blocks -/

theorem State.MemOk.stageCopy (h : s.MemOk) (b : Block) (x : Staged) : (s.stageCopy b x).MemOk := h
theorem State.MemOk.wakeGroups (h : s.MemOk) (clu : Nat) : (s.wakeGroups clu).MemOk := h
theorem State.MemOk.createBlock (h : s.MemOk) (l : Launch) (t : Nat × Nat × Nat) (pl : Place) (gang : Option Nat) (st : List Staged) (n sbase : Nat) :
    (s.createBlock l t pl gang st n sbase).MemOk := by
  have step : ∀ (u : State) (b : Block), u.MemOk → ((((st.filter (·.copied)).foldl (fun u x => u.stageCopy b x) u).countStart b.die).wakeGroups b.clu).MemOk :=
    fun u b hu => State.MemOk.wakeGroups (State.MemOk.countStart (foldl_keeps State.MemOk _ (fun _ _ ht => ht.stageCopy _ _) _ _ hu) _) _
  have start : ∀ b : Block, (State.checkPhase { s with nextId := s.nextId + 1, fresh := s.fresh + l.kernel.created + 1, blocks := s.blocks ++ [b] } s.nextId 15).MemOk := fun b => by
    apply State.MemOk.checkPhase
    exact h
  unfold State.createBlock
  dsimp only
  split
  · exact State.MemOk.setLaunch (step _ _ (start _)) _
  · exact step _ _ (start _)
theorem State.MemOk.unpin (h : s.MemOk) (vf : Nat) (ps : List (Nat × Nat)) : (s.unpin vf ps).MemOk := h
theorem State.MemOk.leaveLeaf (h : s.MemOk) (k n : Nat) : (s.leaveLeaf k n).MemOk := (h.setLeaf _ _).noteHead _
theorem State.MemOk.leafStatus (h : s.MemOk) (l : Launch) (ts : List (Nat × Nat × Nat)) (stat : Nat → Nat) : (s.leafStatus l ts stat).MemOk :=
  (h.unpin _ _).tilesDone _ _ _
theorem State.MemOk.clearStage (h : s.MemOk) (k : Nat) (e : LeafEntry) : (s.clearStage k e).MemOk := h
theorem State.MemOk.parkStage (h : s.MemOk) (k : Nat) (e : LeafEntry) (va : Nat) : (s.parkStage k e va).MemOk := by
  unfold State.parkStage
  exact .ite h (h.park _ _ _ _)
theorem execBlockCreate_keepsMem (h : s.MemOk) (leaf n : Nat) (pl : Place) : KeepsMem (execBlockCreate leaf n pl s) := by
  refine .next ?_
  split
  · exact h
  · rename_i e _
    have h1 := (h.clearStage leaf e).leaveLeaf leaf n
    split
    · split
      · exact h
      · split
        · exact h
        · exact h.parkStage _ _ _
        · exact h1.leafStatus _ _ _
        · exact .ite (h1.createBlock _ _ _ _ _ _ _) h
    · exact h
theorem State.MemOk.createGang (h : s.MemOk) (l : Launch) (gang : Nat) (xs : List ((Nat × Nat × Nat) × Place × List (ToStage × Copy))) :
    KeepsOpt (s.createGang l gang xs) := by
  induction xs generalizing s with
  | nil => exact .some h
  | cons x xs ih =>
    unfold State.createGang
    dsimp only
    split
    · exact ih (h.createBlock _ _ _ _ _ _ _)
    · exact .none
theorem execGangPlace_keepsMem (h : s.MemOk) (leaf n : Nat) (pls : List Place) : KeepsMem (execGangPlace leaf n pls s) := by
  refine .next ?_
  split
  · exact h
  · rename_i e _
    split
    · exact h
    · split
      · exact h
      · dsimp only
        split
        · exact foldl_keeps State.MemOk _ (fun _ _ ht => ht.parkStage _ _ _) _ _ h
        · split
          · exact h
          · split
            · exact h
            · split
              · exact h
              · rename_i t ht
                have ht : t.MemOk := by
                  refine State.MemOk.createGang ?_ _ _ _ t ht
                  have h1 := (h.clearStage leaf e).leaveLeaf leaf n
                  exact .ite h1 h1
                exact .ite ht (ht.leafStatus _ _ _)
theorem State.MemOk.failOwned (h : s.MemOk) (b : Block) : (s.failOwned b).MemOk :=
  foldl_keeps State.MemOk _ (fun _ _ ht => (ht.resolve? _ _ _ _ _).getD ht) _ _ h
theorem State.MemOk.finishWarp (h : s.MemOk) (r : WarpRef) : (s.finishWarp r).MemOk := (h.drainWhole _ _).performWarp _ _
theorem execBlockEnd_keepsMem (h : s.MemOk) (blk : Nat) : KeepsMem (execBlockEnd blk s) := by
  refine .next ?_
  split
  · exact h
  · split
    · exact h
    · extract_lets s1 s2 s3 gone
      have h1 : s1.MemOk := foldl_keeps State.MemOk _ (fun _ _ ht => ht.finishWarp _) _ _ h
      have h3 : s3.MemOk := (State.MemOk.unpin (.ite (h1.failOwned _) h1) _ _).countEnd _
      have hg : gone.MemOk := h3
      split
      · exact hg
      · split
        · exact .ite (h3.mapBlock _ _) (hg.tilesDone _ _ _)
        · exact hg

/-! ### Aborts and postings -/

theorem State.MemOk.abortLaunch (h : s.MemOk) (vf num : Nat) (queued : Bool) : (s.abortLaunch vf num queued).MemOk := by
  unfold State.abortLaunch
  split
  · exact h
  · refine .ite h (State.MemOk.tilesDone (State.MemOk.setLaunch (State.MemOk.unpin (State.MemOk.noteHeads ?_) _ _) _) _ _ _)
    exact h
theorem State.MemOk.setRing (h : s.MemOk) (vf : Nat) (q : Option Nat) (x : Queue) : (s.setRing vf q x).MemOk := by
  cases q <;> exact h
theorem execCompletionPost_keepsMem (h : s.MemOk) (vf q : Nat) : KeepsMem (execCompletionPost vf q s) := by
  refine .next ?_
  extract_lets
  split
  · exact h
  · have h1 := fun a bs b cs q x => ((h.hostWrite a bs).hostWrite b cs).setRing vf q x
    exact .ite h (.ite ((h1 _ _ _ _ _ _).irq _ _) (h1 _ _ _ _ _ _))

/-! ### Spawning -/

theorem State.MemOk.spawnResult (h : s.MemOk) (c : Ctx) (pd : BitVec 3) (sr : BitVec 7) (ok : Bool) (x : Nat) : (c.spawnResult s pd sr ok x).MemOk := h.late c _ _ _
theorem State.MemOk.enqueueTask (h : s.MemOk) (b : Block) (num : Nat) (args : List Word) (bad after : List Nat) (cover : Cover) :
    (s.enqueueTask b num args bad after cover).MemOk := h.mapBlock b.id fun x => { x with reserve := x.reserve - 1 }
theorem execSpawn_keepsMem (h : s.MemOk) (hd : Hdr) (noargs : Bool) (pd : BitVec 3) (a b c : BitVec 7) : KeepsMem (execSpawn hd noargs pd a b c s) :=
  issue_keepsMem h fun x _ hu => .ite hu <|
    have h1 := hu.performWarp x.ref .pkg
    State.MemOk.ite ((h1.enqueueTask _ _ _ _ _ _).spawnResult x _ _ _ _) (h1.spawnResult x _ _ _ _)
theorem State.MemOk.launchAfter (h : s.MemOk) (vf num : Nat) (ids : List Nat) (cover : Cover) : (s.launchAfter vf num ids cover).MemOk := by
  unfold State.launchAfter
  split <;> exact h
theorem execLnch_keepsMem (h : s.MemOk) (hd : Hdr) (pd : BitVec 3) (a b c : BitVec 7) : KeepsMem (execLnch hd pd a b c s) :=
  issue_keepsMem h fun x u hu => by
    have h1 := hu.performWarp x.ref .pkg
    split
    · exact hu
    · simp only [Res.MemOk]
      split
      · exact ((h1.submit _ _ _ _ _ _ _ _ _ _ _).launchAfter _ _ _ _).spawnResult x _ _ _ _
      · exact h1.spawnResult x _ _ _ _

/-! ### Tasks -/

theorem State.MemOk.createTask (h : s.MemOk) (t : PendTask) (d : CodeEntry) (pl : Place) : (s.createTask t d pl).MemOk := by
  refine State.MemOk.wakeGroups (State.MemOk.countStart ?_ _) _
  exact h
theorem State.MemOk.returnEntry (h : s.MemOk) (owner : Option Nat) : (s.returnEntry owner).MemOk := by
  cases owner <;> exact h
theorem State.MemOk.startTask? (h : s.MemOk) (t : PendTask) (pl : Place) : KeepsOpt (s.startTask? t pl) := by
  unfold State.startTask?
  split
  · split
    · exact .some (h.createTask _ _ _)
    · exact .none
  · exact .none
theorem execTaskStart_keepsMem (h : s.MemOk) (vf n : Nat) (pl : Place) : KeepsMem (execTaskStart vf n pl s) := by
  refine .next ?_
  split
  · exact h
  · refine .ite h (KeepsOpt.getD (State.MemOk.startTask? (State.MemOk.returnEntry ?_ _) _ _) h)
    exact h
theorem execContinuationStart_keepsMem (h : s.MemOk) (vf n : Nat) (pl : Place) : KeepsMem (execContinuationStart vf n pl s) := by
  refine .next ?_
  split
  · exact h
  · refine .ite h (KeepsOpt.getD (State.MemOk.startTask? ?_ _ _) h)
    exact h

end Sys2Proof.Machine
end

section
/-!
Every step keeps the canonical form of the memories: issue, time, pre-emption and errors.
-/
namespace Sys2Proof.Machine

variable {s : State}

/-! ### Issue, and what falls due -/

theorem State.MemOk.holdRequested (h : s.MemOk) : s.holdRequested.MemOk := h
theorem State.MemOk.setQuad (h : s.MemOk) (q : Nat) (x : Quad) : (s.setQuad q x).MemOk := h
theorem State.MemOk.setIssue (h : s.MemOk) (l : Option Latch) : ({ s with issue := l } : State).MemOk := h
theorem execIssueOpportunity_keepsMem (h : s.MemOk) (q : Nat) : KeepsMem (execIssueOpportunity q s) := by
  have h0 := h.holdRequested
  refine .next (.ite h ?_)
  dsimp only
  split
  · exact h0
  · split
    · split
      · exact h0
      · exact ((h0.setWarp _ _).setQuad _ _).setIssue _
    · exact h0
/-- The state after a PC that gives no word. -/
theorem State.MemOk.latched_other (h : s.MemOk) {l : Latch} {t : State} (ht : s.latched l = .other t) : t.MemOk := by
  unfold State.latched at ht
  split at ht
  · split at ht
    · cases ht
      exact h
    · dsimp only at ht
      split at ht <;> cases ht
      · exact h.trapWord _ _ _ _ _
      · exact h.trapWord _ _ _ _ _
      · exact State.MemOk.setWarp (h.park _ _ _ _) _ _
  · cases ht
    exact h
theorem State.MemOk.mergeRuns (h : s.MemOk) (r : WarpRef) : (s.mergeRuns r).MemOk := by
  unfold State.mergeRuns
  split
  · exact h.setWarp _ _
  · exact h
theorem State.MemOk.afterWord (h : s.MemOk) (l : Latch) : (s.afterWord l).MemOk := by
  unfold State.afterWord
  split
  · exact h
  · apply State.MemOk.mergeRuns
    exact h
theorem State.MemOk.resumeSigning (h : s.MemOk) (r : WarpRef) : (s.resumeSigning r).MemOk := .ite h (h.endStep _ _)
theorem execFixedLatencyLanding_keepsMem (h : s.MemOk) (r : WarpRef) : KeepsMem (execFixedLatencyLanding r s) := .next ((h.mapWarp _ _).resumeSigning _)
theorem execResultLanding_keepsMem (h : s.MemOk) (r : WarpRef) (id : Nat) : KeepsMem (execResultLanding r id s) :=
  .next <| State.MemOk.resumeSigning (.ite (((h.landResult r id).retryArrivals r).rewake r) h) r
theorem execStoreDrain_keepsMem (h : s.MemOk) (r : WarpRef) (sc : Scope) (n : Nat) : KeepsMem (execStoreDrain r sc n s) := by
  refine .next ?_
  split
  · exact ((h.drainNext r).retryArrivals r).rewake r
  · split
    · exact .ite (h.perform _ _) h
    · exact h

/-! ### The passing of a cycle -/

theorem State.MemOk.noteBusy (h : s.MemOk) (vf : Nat) : (s.noteBusy vf).MemOk := .ite h (h.setVf _ _)
theorem State.MemOk.passTime (h : s.MemOk) : s.passTime.MemOk := by
  unfold State.passTime
  exact .ite h h
theorem State.MemOk.tick (h : s.MemOk) (rest : List Move) : (s.tick rest).MemOk := by
  unfold State.tick
  split
  · exact h
  · exact h.noteHeads.passTime

/-! ### Pre-emption -/

theorem State.MemOk.requestPreempt (h : s.MemOk) (b : Block) : (s.requestPreempt b).MemOk := h
theorem execPreemptRequest_keepsMem (h : s.MemOk) (blk : Nat) : KeepsMem (execPreemptRequest blk s) := by
  refine .next ?_
  split
  · exact .ite (h.requestPreempt _) h
  · exact h
theorem State.MemOk.saveBlock (h : s.MemOk) (b : Block) : (s.saveBlock b).MemOk := by
  unfold State.saveBlock
  apply State.MemOk.writeRecord
  exact h.perform _ _
theorem State.MemOk.requeue (h : s.MemOk) (b : Block) : (s.requeue b).MemOk := h
theorem execPreemptSave_keepsMem (h : s.MemOk) (blk : Nat) : KeepsMem (execPreemptSave blk s) := by
  have h0 := h.holdRequested
  refine .next ?_
  dsimp only
  split
  · exact h0
  · refine .ite h0 ?_
    split
    · exact h0.park _ _ _ _
    · have h1 : ∀ us : List Block, (us.foldl (fun t x => t.saveBlock x) s.holdRequested).MemOk := fun us =>
        foldl_keeps State.MemOk _ (fun _ _ ht => ht.saveBlock _) _ _ h0
      exact .ite (h1 _) ((h1 _).requeue _)
theorem State.MemOk.answerSave (h : s.MemOk) (blk : Nat) : (s.answerSave blk).MemOk := h
theorem State.MemOk.answerFetch (h : s.MemOk) (r : WarpRef) (recno : Nat) (abort : Bool) : (s.answerFetch r recno abort).MemOk := by
  unfold State.answerFetch
  split
  · exact h
  · exact .ite (((h.exitLanes r _).mapWarp r _).endStep r _) (h.setWarp r _)
/-- What an answer to a fault does, from a state in which the fault has gone or stays. -/
theorem State.MemOk.answerFault (h : s.MemOk) (f : ParkedFault) (abort : Bool) : (s.answerFault f abort).MemOk := by
  unfold State.answerFault
  extract_lets keep gone
  have hk : keep.MemOk := h
  have hg : gone.MemOk := h
  refine .ite hk ?_
  split
  · exact hg.answerChunk _ _ _
  · exact hg.answerFetch _ _ _
  · split
    · exact hg.setOp _
    · exact hg
  · exact .ite (hk.completeSigning _ _) (hg.completeSigning _ _)
  · exact hg.answerView _ _ _ _
  · exact hg.answerWalk _ _ _ _
  · exact .ite hk hg
  · exact hg.answerSave _
  · exact hg.answerPeer _ _ _ _
theorem State.MemOk.waitAgain (h : s.MemOk) (r : WarpRef) : (s.waitAgain r).MemOk := by
  have h1 := h.reread r fun _ _ => true
  unfold State.waitAgain
  dsimp only
  split
  · exact h1
  · refine foldl_keeps State.MemOk _ (fun t run ht => ?_) _ _ h1
    split
    · exact foldl_keeps State.MemOk _ (fun _ _ hu => hu.waitOn _ _ _ _) _ _ ht
    · exact foldl_keeps State.MemOk _ (fun _ _ hu => hu.waitOn _ _ _ _) _ _ ht
    · exact ht
theorem State.MemOk.catchUp (h : s.MemOk) (blk : Nat) : (s.catchUp blk).MemOk :=
  (foldl_keeps State.MemOk _ (fun _ _ ht => ht.answerFault _ _) _ _ h).wakeViews.noteBlock _
theorem State.MemOk.restoreBlock (h : s.MemOk) (b : Block) (pl : Place) : KeepsOpt (s.restoreBlock b pl) := by
  unfold State.restoreBlock
  dsimp only
  split
  · refine .some <| State.MemOk.wakeGroups (State.MemOk.feedTables <| State.MemOk.catchUp
      (foldl_keeps State.MemOk _ (fun _ _ ht => ht.waitAgain _) _ _ ?_) _) _
    exact h
  · exact .none
theorem State.MemOk.restoreAll (h : s.MemOk) (xs : List (Block × Place)) : KeepsOpt (s.restoreAll xs) := by
  induction xs generalizing s with
  | nil => exact .some h
  | cons x xs ih => exact (h.restoreBlock _ _).bind fun _ ht => ih ht
theorem State.MemOk.failRecord (h : s.MemOk) (b : Block) : (s.failRecord b).MemOk :=
  foldl_keeps State.MemOk _ (fun t n ht => by
    split
    · exact ((ht.exitLanes _ _).mapWarp _ _).endStep _ _
    · exact ht) _ _ ((h.report _ _ _ _).abortLaunch _ _ _)
theorem execBlockResume_keepsMem (h : s.MemOk) (blk : Nat) (pls : List Place) : KeepsMem (execBlockResume blk pls s) := by
  refine .next ?_
  split
  · exact h
  · dsimp only
    split
    · exact h
    · refine .ite h ?_
      split
      · exact h.park _ _ _ _
      · split
        · exact h
        · exact foldl_keeps State.MemOk _ (fun _ _ ht => ht.failRecord _) _ _ ((h.leaveLeaf _ _).restoreAll _ _ ‹_›)

/-! ### Errors -/

theorem State.MemOk.errorReport (h : s.MemOk) (vf : Option Nat) (launch : Nat) : (s.errorReport vf launch).MemOk := by
  cases vf with
  | none =>
    apply State.MemOk.reportPf
    exact h
  | some n =>
    apply State.MemOk.report
    exact h
theorem State.MemOk.blockError (h : s.MemOk) (blk : Nat) : (s.blockError blk).MemOk := by
  unfold State.blockError
  split
  · exact h.errorReport _ _
  · exact h
theorem execUncorrectableError_keepsMem (h : s.MemOk) (t : ErrTarget) : KeepsMem (execUncorrectableError t s) := by
  refine .next ?_
  cases t with
  | scratch a | main a =>
    apply State.MemOk.errorReport
    exact h
  | shared blk a => exact (h.mapBlock _ _).blockError _
  | stack r l a => exact (h.mapWarp _ _).blockError _
  | vreg r l n => exact (h.mapWarp _ _).blockError _
  | sreg r n => exact (h.mapWarp _ _).blockError _
  | unowned => exact h.errorReport _ _
theorem execStoreQueueLoss_keepsMem (h : s.MemOk) (r : WarpRef) (n : Nat) : KeepsMem (execStoreQueueLoss r n s) := by
  refine .next ?_
  split
  · refine .ite (State.MemOk.report ?_ _ _ _ _) h
    exact h.setWarp _ _
  · exact h
theorem State.MemOk.fatal (h : s.MemOk) : s.fatal.MemOk := by
  unfold State.fatal
  extract_lets s1
  have h1 : s1.MemOk := foldl_keeps State.MemOk _ (fun t n ht => .ite ((ht.setVf n _).irq _ _) (ht.setVf n _)) _ _ h
  apply State.MemOk.irq
  exact h1
theorem execDispatchCoreError_keepsMem (h : s.MemOk) : KeepsMem (execDispatchCoreError s) := by
  refine .next (State.MemOk.fatal (State.MemOk.reportPf (foldl_keeps State.MemOk _ (fun _ _ ht => ht.abortLaunch _ _ _) _ _ ?_) _))
  exact h
theorem State.MemOk.setUecnt (h : s.MemOk) (x : Word) : ({ s with uecnt := x } : State).MemOk := h
theorem execQueueTableError_keepsMem (h : s.MemOk) (vf q : Nat) : KeepsMem (execQueueTableError vf q s) := by
  unfold execQueueTableError
  extract_lets x s0 mine s1 v
  have h1 : s1.MemOk := (foldl_keeps State.MemOk _ (fun _ _ ht => ht.abortLaunch _ _ _) _ _ (h.setQueue vf q _)).report _ _ _ _
  exact .next (((h1.setVf _ _).setUecnt _).irq _ _)

end Sys2Proof.Machine
end

section
/-!
Every step keeps the canonical form of the memories: the host, the interfaces and the firmware.
-/
namespace Sys2Proof.Machine

variable {s : State}

/-! ### Command queues -/

/-- The state that a command comes to has its memories in canonical form. -/
def CmdRes.MemOk : CmdRes → Prop
  | .done t _ => t.MemOk
  | .refuse t => t.MemOk
  | .wait t => t.MemOk

theorem CmdRes.MemOk.ite {p : Prop} [Decidable p] {x y : CmdRes} (hx : x.MemOk) (hy : y.MemOk) : (if p then x else y).MemOk := by
  split
  · exact hx
  · exact hy

theorem State.MemOk.passCommand (h : s.MemOk) (vf q lnum : Nat) : (s.passCommand vf q lnum).MemOk := (h.hostWrite _ _).setVf _ _
theorem State.MemOk.takeTurn (h : s.MemOk) (vf q : Nat) : (s.takeTurn vf q).MemOk := h
theorem State.MemOk.endCommand (h : s.MemOk) (vf q : Nat) (bs : List Byte) (status result : Nat) : (s.endCommand vf q bs status result).MemOk :=
  (h.post _ _ _).passCommand _ _ _
theorem command_keepsMem (h : s.MemOk) (vf q opc : Nat) {run : List Byte → State → CmdRes} (hr : ∀ bs t, t.MemOk → (run bs t).MemOk) :
    KeepsMem (command vf q opc s run) := by
  unfold command
  extract_lets x bs s1
  have h1 : s1.MemOk := .ite h (h.takeTurn _ _)
  have h2 := hr bs s1 h1
  refine .next (.ite h (.ite (h1.endCommand _ _ _ _ _) ?_))
  split
  all_goals
    rename_i he
    rw [he] at h2
  · exact State.MemOk.endCommand h2 _ _ _ _ _
  · exact State.MemOk.endCommand h2 _ _ _ _ _
  · exact State.MemOk.setQueue h2 _ _ _

/-! ### LAUNCH and BUNDLE -/

theorem State.MemOk.submitEntry (h : s.MemOk) (vf q : Nat) (recent : List Nat) (bs : List Byte) (i : Word) (bad : Bool) (bundle : Option (Nat × Nat)) :
    (s.submitEntry vf q recent bs i bad bundle).2.MemOk := h.submit _ _ _ _ _ _ _ _ _ _ _
theorem execLaunch_keepsMem (h : s.MemOk) (vf q : Nat) : KeepsMem (execLaunch vf q s) := by
  have h1 := h.takeTurn vf q
  exact .next (.ite h (.ite (h1.endCommand _ _ _ _ _) (.ite h ((h1.submitEntry _ _ _ _ _ _ _).passCommand _ _ _))))
theorem State.MemOk.submitSubs {t : State} (h : t.MemOk) (vf q : Nat) (bad : Bool) (bundle : Nat × Nat) (k : Nat) (recent : List Nat) :
    (s.submitSubs vf q bad bundle k recent t).2.2.MemOk := by
  induction k generalizing t recent with
  | zero => exact h
  | succ k ih => exact ih (h.submitEntry _ _ _ _ _ _ _) _
theorem execBundle_keepsMem (h : s.MemOk) (vf q : Nat) : KeepsMem (execBundle vf q s) := by
  unfold execBundle
  extract_lets x bs n s1 subs v id try1 r s2
  have h1 : s1.MemOk := h.takeTurn _ _
  refine .next (.ite h (.ite (h1.endCommand _ _ _ _ _) (.ite h (.ite ?_ ?_))))
  · exact foldl_keeps State.MemOk _ (fun _ _ ht => ht.endCommand _ _ _ _ _) _ _ (h1.endCommand _ _ _ _ _)
  · have hr : r.2.2.MemOk := by
      simp only [r]
      split <;> exact h1.submitSubs _ _ _ _ _ _
    exact foldl_keeps State.MemOk _ (fun _ _ ht => ht.passCommand _ _ _) _ _ (hr.endCommand _ _ _ _ _)

/-! ### WRDESC, WRREC and MIGRATE -/

theorem State.MemOk.clearGens (h : s.MemOk) (vf k : Nat) : (s.clearGens vf k).MemOk := h
theorem execWrdesc_keepsMem (h : s.MemOk) (vf q : Nat) : KeepsMem (execWrdesc vf q s) :=
  command_keepsMem h vf q 3 fun bs t ht => by
    refine .ite ht ?_
    split
    · exact State.MemOk.clearGens (State.MemOk.rewritten (ht.vaWrite _ _ _ _ _ ‹_›) _ _) _ _
    · exact ht
theorem execWrrec_keepsMem (h : s.MemOk) (vf q : Nat) : KeepsMem (execWrrec vf q s) :=
  command_keepsMem h vf q 4 fun bs t ht => by
    dsimp only
    split
    · exact ht
    · split
      · exact ht
      · refine .ite ht ?_
        split
        · exact State.MemOk.settleAll (ht.vaWrite _ _ _ _ _ ‹_›)
        · exact ht
theorem State.MemOk.setMig (h : s.MemOk) (m : Migration) : (s.setMig m).MemOk := h
theorem State.MemOk.writeRec (h : s.MemOk) (m : Migration) (state : Nat) (moved : Bool) : (s.writeRec m state moved).MemOk := by
  unfold State.writeRec
  split
  · exact h
  · split
    · exact h
    · exact ((h.vaWrite _ _ _ _).bind fun t ht => ht.vaWrite _ _ _ _).getD h
theorem State.MemOk.putWords (h : s.MemOk) (m : Migration) (c : Copy) (off : Nat) (bs : List Byte) (bad : List Nat) : KeepsOpt (s.putWords m c off bs bad) :=
  KeepsOpt.foldl (fun _ _ ht => .map _ fun _ => ht.writePlace _ _ _) (linePieces (c.addr + off) bs.length) (.some h)
theorem execMigrate_keepsMem (h : s.MemOk) (vf q : Nat) : KeepsMem (execMigrate vf q s) :=
  command_keepsMem h vf q 5 fun bs t ht => by
    refine .ite ht ?_
    split
    · exact ht
    · split
      · split
        · refine .ite (ht.report _ _ _ _) ?_
          dsimp only
          split
          · exact ht
          · refine State.MemOk.writeRec ?_ _ _ _
            exact ht
        · exact ht
      · exact ht
theorem State.MemOk.answerMig (h : s.MemOk) (m : Migration) (row : Nat) (a : FabAnswer) : (s.answerMig m row a).MemOk := by
  unfold State.answerMig
  split
  · exact h
  · dsimp only
    split
    · exact h
    · exact (h.setMig _).report _ _ _ _
    · split
      · split
        · split
          · exact h
          · exact h.setMig _
        · split
          · exact State.MemOk.setMig (h.putWords _ _ _ _ _ _ ‹_›) _
          · exact h.setMig _
      · exact h.setMig _
theorem execMigrationComplete_keepsMem (h : s.MemOk) (vf handle tile : Nat) : KeepsMem (execMigrationComplete vf handle tile s) := by
  refine .next ?_
  split
  · exact h
  · refine .ite h ?_
    extract_lets x bs s0 fail good
    have h0 : s0.MemOk := h
    have hf : fail.MemOk := (h0.writeRec _ _ _).settleAll.endCommand _ _ _ _ _
    have hg : ∀ t : State, t.MemOk → (good t).MemOk := fun t ht => (ht.writeRec _ _ _).settleAll.endCommand _ _ _ _ _
    refine .ite hf ?_
    split
    · refine .ite (hg _ h0) ?_
      split
      · exact hg _ (KeepsOpt.bindOf _ (fun w => h0.putWords _ _ _ _ _) _ ‹_›)
      · exact hf
    · exact hf

/-! ### The fabric -/

theorem execFabricResponse_keepsMem (h : s.MemOk) (job row : Nat) (a : FabAnswer) : KeepsMem (execFabricResponse job row a s) := by
  refine .next ?_
  split
  · exact h.answerCommit _ _ _
  · exact h.answerMig _ _ _
  · exact h.answerSignal _ _ _
  · exact h.answerRow _ _ _
theorem execPeerRowResend_keepsMem (h : s.MemOk) (job row : Nat) : KeepsMem (execPeerRowResend job row s) := by
  refine .next ?_
  split
  · exact h.resendCommit _ _
  · exact h
  · exact h.resendRow _ _
theorem execFabricPortFailure_keepsMem (h : s.MemOk) (port : Nat) : KeepsMem (execFabricPortFailure port s) := by
  refine .next (.ite (h.portDown _) (foldl_keeps State.MemOk _ (fun _ _ ht => ht.failCommit _) _ _ ?_))
  exact h.portDown _

/-! ### Views, launches and faults -/

theorem execViewreg_keepsMem (h : s.MemOk) (vf q handle : Nat) (addrs : List Nat) : KeepsMem (execViewreg vf q handle addrs s) :=
  command_keepsMem h vf q 6 fun bs t ht => by
    split
    · exact .ite ht (ht.setView _)
    · refine .ite ht ?_
      split
      · exact State.MemOk.clearGens (ht.registerView _ _ _ _ _ ‹_›) _ _
      · exact ht
      · exact ht
theorem execViewdereg_keepsMem (h : s.MemOk) (vf q : Nat) : KeepsMem (execViewdereg vf q s) :=
  command_keepsMem h vf q 7 fun _ _ ht => .ite ht (.ite ht (ht.dropView _ _).wakeViews)
theorem execInval_keepsMem (h : s.MemOk) (vf q : Nat) : KeepsMem (execInval vf q s) := command_keepsMem h vf q 8 fun _ _ ht => ht
theorem execSuspend_keepsMem (h : s.MemOk) (vf q : Nat) : KeepsMem (execSuspend vf q s) :=
  command_keepsMem h vf q 9 fun bs t ht => by
    dsimp only
    split
    · exact ht
    · exact .ite (ht.setLaunch _) (foldl_keeps State.MemOk _ (fun _ _ hu => hu.requestPreempt _) _ _ (ht.setLaunch _))
theorem State.MemOk.resumeLaunch (h : s.MemOk) (l : Launch) : (s.resumeLaunch l).MemOk := by
  refine foldl_keeps State.MemOk _ (fun _ _ ht => .ite ht (ht.requeue _)) _ _ ?_
  exact h
theorem execResume_keepsMem (h : s.MemOk) (vf q : Nat) : KeepsMem (execResume vf q s) :=
  command_keepsMem h vf q 10 fun bs t ht => by
    split
    · exact ht
    · exact ht.resumeLaunch _
theorem State.MemOk.endHalted (h : s.MemOk) (r : WarpRef) : (s.endHalted r).MemOk := by
  unfold State.endHalted
  split
  · refine .ite (State.MemOk.noteBlock (State.MemOk.feedTables ?_) _) h
    exact ((h.setWarp r _).exitLanes r _).mapWarp r _
  · exact h
theorem execAbort_keepsMem (h : s.MemOk) (vf q : Nat) : KeepsMem (execAbort vf q s) :=
  command_keepsMem h vf q 11 fun bs t ht => by
    dsimp only
    split
    · exact ht
    · refine foldl_keeps State.MemOk _ (fun _ _ hu => foldl_keeps State.MemOk _ (fun _ _ hv => hv.endHalted _) _ _ hu) _ _ ?_
      apply State.MemOk.abortLaunch
      exact ht
theorem execStatus_keepsMem (h : s.MemOk) (vf q : Nat) : KeepsMem (execStatus vf q s) :=
  command_keepsMem h vf q 12 fun bs t ht => by
    dsimp only
    split
    · exact ht
    · exact ht.hostWrite _ _
theorem execFresp_keepsMem (h : s.MemOk) (vf q : Nat) : KeepsMem (execFresp vf q s) :=
  command_keepsMem h vf q 13 fun bs t ht => by
    split
    · exact .ite ht (ht.answerFault _ _)
    · exact ht

/-! ### Queue registers -/

theorem State.MemOk.writeQwr (h : s.MemOk) (vf q : Nat) (val : Word) : (s.writeQwr vf q val).MemOk := (h.setVf _ _).noteBusy _
theorem execQwrWrite_keepsMem (h : s.MemOk) (vf q : Nat) (val : BitVec 32) : KeepsMem (execQwrWrite vf q val s) := .next (.ite (h.writeQwr _ _ _) h)
theorem execCommandHoldRelease_keepsMem (h : s.MemOk) (vf q : Nat) : KeepsMem (execCommandHoldRelease vf q s) :=
  .next (.ite ((h.setQueue _ _ _).noteBusy _) h)
theorem execQcrdWrite_keepsMem (h : s.MemOk) (vf q : Nat) (val : BitVec 32) : KeepsMem (execQcrdWrite vf q val s) := .next (.ite h h)
theorem execQuantumExpiry_keepsMem (h : s.MemOk) (vf q : Nat) : KeepsMem (execQuantumExpiry vf q s) := by
  refine .next ?_
  split <;> exact h
theorem execEngineGroupIdle_keepsMem (h : s.MemOk) (vf g : Nat) : KeepsMem (execEngineGroupIdle vf g s) := .next (.ite h h)

/-! ### The BARs -/

theorem State.MemOk.hostScratch (h : s.MemOk) (vf off : Nat) (bs : List Byte) : (s.hostScratch vf off bs).MemOk :=
  foldl_keeps State.MemOk _ (fun t k ht => by
    split
    · exact .ite (ht.writePlace _ _ _) (.ite ht (ht.writePlace _ _ _))
    · exact ht) _ _ h
/-- Bytes written to the staging area leave the memories in canonical form. -/
theorem State.MemOk.stage (h : s.MemOk) (a : Nat) (bs : List Byte) : ({ s with stagingArea := writeBytes s.stagingArea a bs } : State).MemOk :=
  ⟨h.1, h.2.1, h.2.2.1, writeBytes_wf a bs h.2.2.2⟩
theorem execHostBar2Write_keepsMem (h : s.MemOk) (vf off : Nat) (bytes : List Byte) : KeepsMem (execHostBar2Write vf off bytes s) :=
  have h1 := h.hostScratch vf off bytes
  .next <| .ite (.ite (h.stage _ _) h) <| .ite h <|
    foldl_keeps State.MemOk _ (fun _ _ ht => ht.hostScratch _ _ _) _ _ (.ite (h1.report _ _ _ _) h1)
theorem State.MemOk.readOut (h : s.MemOk) (bs : List Byte) : (s.readOut bs).MemOk := h
theorem execHostBar2Read_keepsMem (h : s.MemOk) (bar : HostBar) (off len : Nat) : KeepsMem (execHostBar2Read bar off len s) := by
  have ones := h.readOut (List.replicate (min len 64) 0xFF)
  refine .next ?_
  cases bar with
  | regs vf => exact .ite (h.readOut _) ones
  | window vf => exact .ite (h.readOut _) (.ite ones (.ite (ones.report _ _ _ _) (h.readOut _)))
theorem State.MemOk.endEarly (h : s.MemOk) (p n : Nat) : (s.endEarly p n).MemOk := .ite h (h.setVf _ _)
theorem State.MemOk.hostMain (h : s.MemOk) (p : Nat) (bs : List Byte) : (s.hostMain p bs).MemOk := (h.locWrite _ _).endEarly _ _
theorem execHostBar4Access_keepsMem (h : s.MemOk) (vf off : Nat) (write : Option (List Byte)) (len : Nat) : KeepsMem (execHostBar4Access vf off write len s) := by
  refine .next (.ite ?_ (.ite ?_ ?_))
  · split
    · exact h
    · exact h.readOut _
  · dsimp only
    split
    · exact .ite (h.hostMain _ _) h
    · exact h.readOut _
  · dsimp only
    split
    · refine .ite (h.report _ _ _ _) ?_
      split
      · refine .ite (h.hostMain _ _) (foldl_keeps State.MemOk _ (fun t k ht => ?_) _ _ h)
        split
        · exact ht.hostMain _ _
        · exact ht
      · exact h
    · exact .ite ((h.readOut _).report _ _ _ _) (h.readOut _)
theorem execUnsupportedRequest_keepsMem (h : s.MemOk) (posted : Bool) : KeepsMem (execUnsupportedRequest posted s) :=
  .next (.ite (h.reportPf 6) (h.reportPf 6))
theorem execPpsPulse_keepsMem (h : s.MemOk) : KeepsMem (execPpsPulse s) := by
  refine .next ?_
  split
  · exact h
  · exact h
  · exact .ite h h

/-! ### Interfaces -/

theorem State.MemOk.setPacing (h : s.MemOk) : s.setPacing.MemOk := h.setRamp _
theorem State.MemOk.writeVfclu (h : s.MemOk) (vf : Nat) (mask : BitVec 128) : (s.writeVfclu vf mask).MemOk :=
  .ite h (.ite (h.setVf _ _) (h.setVf _ _).setPacing)
theorem State.MemOk.haltVf (h : s.MemOk) (vf : Nat) : (s.haltVf vf).MemOk := by
  unfold State.haltVf
  apply State.MemOk.feedTables
  apply State.MemOk.setVf
  refine foldl_keeps State.MemOk _ (fun _ _ ht => ht.markDirty _ _ _ _) _ _ ?_
  exact h
theorem State.MemOk.enableVf (h : s.MemOk) (vf : Nat) : (s.enableVf vf).MemOk := (h.setVf _ _).setPacing.noteBusy _
theorem State.MemOk.writeEn (h : s.MemOk) (vf : Nat) (en : Bool) : (s.writeEn vf en).MemOk :=
  .ite h (.ite (.ite h (.ite (h.setVf _ _) (.ite h (h.enableVf _)))) ((h.haltVf _).setVf _ _).setPacing)
theorem execFunctionLevelReset_keepsMem (h : s.MemOk) (vf : Nat) : KeepsMem (execFunctionLevelReset vf s) :=
  .next (.ite h ((h.haltVf _).setVf _ _).setPacing)
/-- Bytes of the scratchpad that are zeroed leave the memories in canonical form. -/
theorem State.MemOk.filterScratch (h : s.MemOk) (p : Nat × Byte → Bool) : ({ s with sp := s.sp.filter p } : State).MemOk :=
  ⟨h.1, Sparse.wf_filter p h.2.1, h.2.2⟩
theorem execZeroingComplete_keepsMem (h : s.MemOk) (vf : Nat) : KeepsMem (execZeroingComplete vf s) := by
  have h1 := h.filterScratch fun e => !inClusters (s.vf vf).vfclu e.1
  refine .next (.ite h (.ite (State.MemOk.enableVf ?_ _) ?_))
  · exact h1
  · exact h1

/-! ### Firmware -/

theorem State.MemOk.recoverCore (h : s.MemOk) : s.recoverCore.MemOk := by
  refine foldl_keeps State.MemOk _ (fun _ _ ht => ht.advance _ _) _ _ ?_
  exact h
theorem State.MemOk.loadFirmware (h : s.MemOk) (len : BitVec 26) : (s.loadFirmware len).MemOk := by
  have h1 : ∀ t : State, t.MemOk → t.recoverCore.MemOk := fun t ht => ht.recoverCore
  unfold State.loadFirmware
  refine .ite (.ite ?_ ?_) (State.MemOk.reportPf ?_ _)
  · apply State.MemOk.setVf
    exact h1 _ h
  · exact h1 _ h
  · exact h
theorem State.MemOk.attestNow (h : s.MemOk) : s.attestNow.MemOk := by
  unfold State.attestNow
  split
  · exact h.stage _ _
  · exact h
theorem execSelfTestComplete_keepsMem (h : s.MemOk) (failure : BitVec 4) : KeepsMem (execSelfTestComplete failure s) := .next (.ite h (.ite h h))
theorem execFullServiceEntry_keepsMem (h : s.MemOk) : KeepsMem (execFullServiceEntry s) := .next (.ite h h)
theorem execDeviceReset_keepsMem (h : s.MemOk) : KeepsMem (execDeviceReset s) := .next h

/-! ### Registers -/

theorem State.MemOk.postRecords (h : s.MemOk) (vf k : Nat) : (s.postRecords vf k).MemOk := by
  induction k generalizing s with
  | zero => exact h
  | succ k ih =>
    unfold State.postRecords
    split
    · exact h
    · split
      · exact ih ((h.setVf _ _).ringRecord? ‹_›)
      · exact h
theorem State.MemOk.writeQueueReg (h : s.MemOk) (vf q off val : Nat) : (s.writeQueueReg vf q off val).MemOk :=
  .ite h (.ite h (.ite ((h.setQueue _ _ _).noteBusy _) (.ite (h.writeQwr _ _ _) (.ite h (.ite h (.ite h h))))))
theorem State.MemOk.writeVfReg (h : s.MemOk) (vf off val : Nat) : (s.writeVfReg vf off val).MemOk := by
  unfold State.writeVfReg
  extract_lets v w
  refine .ite (h.writeQueueReg _ _ _ _) ?_
  refine .ite h (.ite h (.ite h (.ite h (.ite h (.ite h (.ite h (.ite h (.ite h (.ite h (.ite h (.ite h (.ite h ?_))))))))))))
  exact .ite ((h.setVf _ _).postRecords _ _) (.ite h (.ite ((h.setVf _ _).postRecords _ _) (.ite h (.ite h h))))
theorem State.MemOk.writePfReg (h : s.MemOk) (off : Nat) (val : BitVec 128) : (s.writePfReg off val).MemOk := by
  unfold State.writePfReg
  extract_lets n w
  -- the registers of these offsets are no memory; comparing the memories alone evaluates no arithmetic on their values
  refine .ite ((h.setQueue _ _ _).noteBusy _) (.ite ((h.setVf _ _).noteBusy _) (.ite (h.writeVfclu _ _) (.ite ?_ (.ite h
    (.ite (h.setRamp _) (.ite (h.of_eq rfl rfl rfl rfl) (.ite (h.of_eq rfl rfl rfl rfl) (.ite (h.of_eq rfl rfl rfl rfl) (.ite ?_ ?_)))))))))
  · exact State.MemOk.writeEn (.ite (h.setVf _ _) h) _ _
  · have h1 := State.MemOk.ite (p := w.getLsbD 31 = true) (h.loadFirmware (w.setWidth 26)) h
    refine .ite (State.MemOk.attestNow ?_) ?_
    · exact h1
    · exact h1
  · repeat' apply State.MemOk.ite
    all_goals exact h.of_eq rfl rfl rfl rfl
theorem execRegisterWrite_keepsMem (h : s.MemOk) (vf : Option Nat) (off : Nat) (val : BitVec 128) : KeepsMem (execRegisterWrite vf off val s) := by
  refine .next ?_
  cases vf with
  | some n => exact .ite (h.writeVfReg _ _ _) h
  | none => exact h.writePfReg _ _

end Sys2Proof.Machine
end

section
/-!
Every step keeps the canonical form of the memories: every instruction and every step of the machine.
-/
namespace Sys2Proof.Machine

variable {s : State}

/-- Every instruction keeps the canonical form of the memories. -/
theorem exec_keepsMem (h : s.MemOk) (i : Instr) : KeepsMem (exec i s) := by
  cases i with
  | iadd | isub | iadd3 | imul | imulh | imad | imin | imax | iabs | ineg | ishl | ishr | ishra | irot | idot4 | iaddi | imuli | lop3 | bfx | bfi
    | brev | popc | clz | ctz | prmt | isel | mov | movi | movh | movs | fclass | qlen =>
    unfold exec
    exact perLane_keepsMem h _ _ _
  | imadw =>
    unfold exec
    exact perLane64_keepsMem h _ _ _
  | isetp | isetpi | jtest =>
    unfold exec
    exact perLaneP_keepsMem h _ _ _
  | sadd | ssub | smul | slop3 | sshl | sshr | smovi | smovh =>
    unfold exec
    exact scalarOp_keepsMem h _ _ _
  | fadd | fsub | fmul | ffma | fmin | fmax | fsetp | frnd | fscale | dadd | dsub | dmul | dfma | dmin | dmax | dsetp | drnd | hadd2 | hmul2
    | hfma2 | hmin2 | hmax2 | hsetp2 | cvt | cvti | qscl | qpk4 | qxp4 =>
    unfold exec
    exact perLaneF_keepsMem h _ _
  | iaddPaired | isubPaired | iminPaired | imaxPaired | andPaired | orPaired | xorPaired | andnPaired | ishlPaired | ishrPaired | ishraPaired
    | movPaired | inegPaired | iabsPaired | popcPaired | clzPaired | brevPaired | movsPaired | imulPaired | faddPaired | fsubPaired | fmulPaired
    | fminPaired | fmaxPaired | fnegPaired | fabsPaired | hadd2Paired | hmul2Paired | hmin2Paired | hmax2Paired =>
    unfold exec
    exact pairedOp_keepsMem h _ _ _ _
  | vrd | ssetp | shfl | qex | vote | ballot | matchv | redux | scan | topk | elect | actm | jmask =>
    unfold exec
    exact issue_keepsMem h fun c _ hu => hu.fixed c _
  | bra | brx =>
    unfold exec
    exact issue_keepsMem h fun c _ hu => hu.jump c _
  | sfq =>
    unfold exec
    exact issue_keepsMem h fun _ _ hu => hu.mapWarp _ _
  | mchg =>
    unfold exec
    exact issue_keepsMem h fun c _ hu => hu.late c _ _ _
  | nop =>
    unfold exec
    exact issue_keepsMem h fun _ _ hu => hu
  | call | callx =>
    unfold exec
    exact callTo_keepsMem h _ _ _
  | trap | bkpt =>
    unfold exec
    exact trapLanes_keepsMem h _ _ _
  | lds | ldx | ldk =>
    unfold exec
    exact loadOp_keepsMem h _ _ _ _ _ _
  | sts | stx =>
    unfold exec
    exact storeOp_keepsMem h _ _ _ _ _ _
  | atoms | atomx | redx =>
    unfold exec
    exact atomOp_keepsMem h _ _ _ _ _ _ _ _ _
  | fres | fflt =>
    unfold exec
    exact resolveOp_keepsMem h _ _ _ _
  | mma | mmas | mmat =>
    unfold exec
    exact signOp_keepsMem h _ _
  | bcp | bcpp | bmc | bga | bsc | bfill | bpfx =>
    unfold exec
    exact transferOp_keepsMem h _ _
  | yieldWindowEnd | napWake | stallExpiry | sfqFill =>
    unfold exec
    exact .next (h.mapWarp _ _)
  | softError | timesetWrite | fabricPortTrained | powerWindow =>
    unfold exec
    exact .next h
  | waitTableReread =>
    unfold exec
    exact .next (h.reread _ _)
  | matrixOpStart =>
    unfold exec
    exact .next (h.startOp _)
  | matrixOpComplete =>
    unfold exec
    exact .next (h.finishOp _).settleAll
  | firmwareLoad =>
    unfold exec
    exact .next (h.loadFirmware _)
  | attest =>
    unfold exec
    exact .next h.attestNow
  | vfcluWrite =>
    unfold exec
    exact .next (h.writeVfclu _ _)
  | vfctlEnWrite =>
    unfold exec
    exact .next (h.writeEn _ _)
  | lea => exact execLea_keepsMem h _ _ _ _ _ _
  | srd => exact execSrd_keepsMem h _ _ _
  | vtos => exact execVtos_keepsMem h _ _ _
  | qpop => exact execQpop_keepsMem h _ _ _
  | regrp => exact execRegrp_keepsMem h _ _ _ _ _ _
  | ret => exact execRet_keepsMem h _
  | exit => exact execExit_keepsMem h _
  | yield => exact execYield_keepsMem h _
  | nap => exact execNap_keepsMem h _ _
  | rtt => exact execRtt_keepsMem h _ _
  | jenter => exact execJenter_keepsMem h _ _
  | jquit => exact execJquit_keepsMem h _ _
  | jquitm => exact execJquitm_keepsMem h _ _
  | jwait => exact execJwait_keepsMem h _ _
  | bari => exact execBari_keepsMem h _ _ _ _
  | barx => exact execBarx_keepsMem h _ _ _
  | bara => exact execBara_keepsMem h _ _ _
  | barw => exact execBarw_keepsMem h _ _ _
  | bar => exact execBar_keepsMem h _ _
  | barq => exact execBarq_keepsMem h _ _ _ _
  | stk => exact execStk_keepsMem h _ _ _ _
  | ldw => exact execLdw_keepsMem h _ _ _ _ _ _
  | fence => exact execFence_keepsMem h _ _ _
  | fencer => exact execFencer_keepsMem h _ _ _ _ _ _ _
  | roddef => exact execRoddef_keepsMem h _ _ _ _ _
  | ldf => exact execLdf_keepsMem h _ _ _ _
  | freg => exact execFreg_keepsMem h _ _ _
  | fpoll => exact execFpoll_keepsMem h _ _ _ _
  | spawn => exact execSpawn_keepsMem h _ _ _ _ _ _
  | lnch => exact execLnch_keepsMem h _ _ _ _ _
  | msync => exact execMsync_keepsMem h _ _
  | vmark => exact execVmark_keepsMem h _ _ _ _
  | vstamp => exact execVstamp_keepsMem h _ _ _ _ _
  | vwait => exact execVwait_keepsMem h _ _ _ _ _
  | vrefr => exact execVrefr_keepsMem h _ _ _ _ _
  | issueOpportunity => exact execIssueOpportunity_keepsMem h _
  | fixedLatencyLanding => exact execFixedLatencyLanding_keepsMem h _
  | resultLanding => exact execResultLanding_keepsMem h _ _
  | storeDrain => exact execStoreDrain_keepsMem h _ _ _
  | waitTableWake => exact execWaitTableWake_keepsMem h _
  | blockEnd => exact execBlockEnd_keepsMem h _
  | transferChunk => exact execTransferChunk_keepsMem h _ _
  | remoteSignal => exact execRemoteSignal_keepsMem h _ _ _ _ _
  | peerRowResend => exact execPeerRowResend_keepsMem h _ _
  | taskStart => exact execTaskStart_keepsMem h _ _ _
  | continuationStart => exact execContinuationStart_keepsMem h _ _ _
  | viewRefresh => exact execViewRefresh_keepsMem h _ _
  | walkStart => exact execWalkStart_keepsMem h _ _
  | walkTile => exact execWalkTile_keepsMem h _ _
  | tileHandoff => exact execTileHandoff_keepsMem h _ _
  | leafAccept => exact execLeafAccept_keepsMem h _
  | blockCreate => exact execBlockCreate_keepsMem h _ _ _
  | gangPlace => exact execGangPlace_keepsMem h _ _ _
  | gangAgeExpiry => exact execGangAgeExpiry_keepsMem h _
  | completionPost => exact execCompletionPost_keepsMem h _ _
  | rampInterval => exact execRampInterval_keepsMem h _
  | commandHoldRelease => exact execCommandHoldRelease_keepsMem h _ _
  | quantumExpiry => exact execQuantumExpiry_keepsMem h _ _
  | engineGroupIdle => exact execEngineGroupIdle_keepsMem h _ _
  | preemptRequest => exact execPreemptRequest_keepsMem h _
  | preemptSave => exact execPreemptSave_keepsMem h _
  | blockResume => exact execBlockResume_keepsMem h _ _
  | uncorrectableError => exact execUncorrectableError_keepsMem h _
  | storeQueueLoss => exact execStoreQueueLoss_keepsMem h _ _
  | dispatchCoreError => exact execDispatchCoreError_keepsMem h
  | queueTableError => exact execQueueTableError_keepsMem h _ _
  | qwrWrite => exact execQwrWrite_keepsMem h _ _ _
  | launch => exact execLaunch_keepsMem h _ _
  | bundle => exact execBundle_keepsMem h _ _
  | wrdesc => exact execWrdesc_keepsMem h _ _
  | wrrec => exact execWrrec_keepsMem h _ _
  | migrate => exact execMigrate_keepsMem h _ _
  | migrationComplete => exact execMigrationComplete_keepsMem h _ _ _
  | viewreg => exact execViewreg_keepsMem h _ _ _ _
  | viewdereg => exact execViewdereg_keepsMem h _ _
  | inval => exact execInval_keepsMem h _ _
  | suspend => exact execSuspend_keepsMem h _ _
  | resume => exact execResume_keepsMem h _ _
  | abort => exact execAbort_keepsMem h _ _
  | status => exact execStatus_keepsMem h _ _
  | fresp => exact execFresp_keepsMem h _ _
  | hostBar2Write => exact execHostBar2Write_keepsMem h _ _ _
  | hostBar2Read => exact execHostBar2Read_keepsMem h _ _ _
  | hostBar4Access => exact execHostBar4Access_keepsMem h _ _ _ _
  | unsupportedRequest => exact execUnsupportedRequest_keepsMem h _
  | qcrdWrite => exact execQcrdWrite_keepsMem h _ _ _
  | ppsPulse => exact execPpsPulse_keepsMem h
  | functionLevelReset => exact execFunctionLevelReset_keepsMem h _
  | zeroingComplete => exact execZeroingComplete_keepsMem h _
  | registerWrite => exact execRegisterWrite_keepsMem h _ _ _
  | deviceReset => exact execDeviceReset_keepsMem h
  | selfTestComplete => exact execSelfTestComplete_keepsMem h _
  | fullServiceEntry => exact execFullServiceEntry_keepsMem h
  | fabricRequest => exact execFabricRequest_keepsMem h _ _ _ _
  | fabricPortFailure => exact execFabricPortFailure_keepsMem h _
  | flushingReadComplete => exact execFlushingReadComplete_keepsMem h _
  | fabricResponse => exact execFabricResponse_keepsMem h _ _ _

/-- Settles O8: every operation of the model writes the four memories only through `Sparse.set` and `Sparse.filter`. -/
theorem stepKeepsMemoriesCanonical : Obligations.StepKeepsMemoriesCanonical := by
  unfold Obligations.StepKeepsMemoriesCanonical
  intro s t h
  suffices hk : KeepsMem (step s) from hk t
  cases hi : s.issue with
  | some l =>
    cases hl : s.latched l with
    | word i =>
      obtain ⟨u, he⟩ := exec_completes i s
      rw [step_word hi hl he]
      exact .next ((exec_keepsMem h i u he).afterWord l)
    | other u =>
      rw [step_other hi hl]
      exact .next ((h.latched_other hl).afterWord l)
  | none =>
    match ha : s.agenda with
    | [] =>
      rw [step_nil hi ha]
      exact .next (h.tick _)
    | .tick :: rest =>
      rw [step_tick hi ha]
      exact .next (h.tick _)
    | .act i :: rest =>
      cases hw : i.isWord with
      | true =>
        rw [step_actWord hi ha hw]
        exact fun _ e => by cases e
      | false =>
        rw [step_act hi ha hw]
        exact exec_keepsMem (s := { s with agenda := rest }) h i

end Sys2Proof.Machine
end

section
/-!
The special registers.
-/
namespace Sys2Proof.Machine

variable (s : State) (b : Block) (n : Nat) (w : Warp) (l : Nat)

/-- The four registers of tile coordinates. -/
theorem special_coord {k : Nat} (hk : k < 4) : special s b n w (0x08 + k) l = coordOf b k := by
  interval_cases k <;> rfl
/-- The eight registers of operand bases, which share one branch of the model. -/
theorem special_operand {k : Nat} (hk : k < 8) : special s b n w (0x21 + k) l = addr36 ((b.obase[k]?).getD 0) := by
  interval_cases k <;> rfl

/-- Settles O19: each index of Table 1-4 selects its own branch. -/
theorem specialRegisters : Obligations.SpecialRegisters := by
  unfold Obligations.SpecialRegisters
  intro s b n w l rd
  exact ⟨rfl, rfl, rfl, rfl, rfl, rfl, fun _ => special_coord s b n w l, rfl, rfl, rfl, rfl, rfl, rfl, rfl, rfl, rfl, rfl,
    fun _ => special_operand s b n w l, rfl, rfl, rfl, rfl, rfl, rfl, rfl, rfl, rfl⟩

end Sys2Proof.Machine
end

section
/-!
The end of a step in a block at whose warps it completes nothing.
-/
namespace Sys2Proof.Machine

/-! ### Elements put in their own place -/

theorem listPut_self {α : Type} {p : α → Bool} {y : α} {xs : List α} (h : xs.find? p = some y) : listPut p y xs = xs := by
  induction xs with
  | nil => rfl
  | cons x xs ih =>
    simp only [listPut]
    cases hp : p x with
    | true =>
      simp only [List.find?_cons, hp, Option.some.injEq] at h
      simp [h]
    | false =>
      simp only [List.find?_cons, hp] at h
      simp [ih h]
theorem State.setBlock_self {s : State} {id : Nat} {b : Block} (h : s.block? id = some b) : s.setBlock b = s := by
  have hid := State.block?_id h
  have hp : listPut (fun x => x.id == b.id) b s.blocks = s.blocks := listPut_self (by rw [hid]; exact h)
  unfold State.setBlock
  rw [hp]
theorem listPut_listPut {α : Type} {p : α → Bool} {y : α} (hy : p y = true) (z : α) (xs : List α) :
    listPut p z (listPut p y xs) = listPut p z xs := by
  induction xs with
  | nil => rfl
  | cons x xs ih =>
    cases hx : p x with
    | true => simp [listPut, hx, hy]
    | false => simp [listPut, hx, ih]
theorem listSet_self {α : Type} {xs : List α} {n : Nat} {x : α} (h : xs[n]? = some x) : listSet xs n x = xs := by
  induction xs generalizing n with
  | nil => rfl
  | cons y ys ih =>
    cases n with
    | zero =>
      cases h
      rfl
    | succ n => simp only [listSet, ih h]
theorem listSet_listSet {α : Type} (xs : List α) (n : Nat) (x y : α) : listSet (listSet xs n x) n y = listSet xs n y := by
  induction xs generalizing n with
  | nil => rfl
  | cons z zs ih =>
    cases n with
    | zero => rfl
    | succ n => simp only [listSet, ih]
/-- Of two blocks put in one place, the later one stays. -/
theorem State.setBlock_setBlock {s : State} {b b' : Block} (h : b.id = b'.id) : (s.setBlock b).setBlock b' = s.setBlock b' := by
  have hp : listPut (fun x : Block => x.id == b'.id) b' (listPut (fun x => x.id == b.id) b s.blocks) = listPut (fun x => x.id == b'.id) b' s.blocks := by
    rw [h]
    exact listPut_listPut (p := fun x : Block => x.id == b'.id) (beq_iff_eq.2 h) b' s.blocks
  exact congrArg (fun bs => ({ s with blocks := bs } : State)) hp
/-- A warp put in its own place changes nothing. -/
theorem State.setWarp_self {s : State} {r : WarpRef} {w : Warp} (h : s.warp? r = some w) : s.setWarp r w = s := by
  obtain ⟨b, hb, hn⟩ := State.warp?_block h
  have hset : b.setWarp r.num w = b := by
    unfold Block.setWarp
    rw [listSet_self hn]
  simp only [State.setWarp, hb, hset, State.setBlock_self hb]
/-- Of two warps put in one place, the later one stays. -/
theorem State.setWarp_setWarp (s : State) (r : WarpRef) (w w' : Warp) : (s.setWarp r w).setWarp r w' = s.setWarp r w' := by
  cases hb : s.block? r.blk with
  | none => simp only [State.setWarp, hb]
  | some b =>
    have hb1 : (s.setWarp r w).block? r.blk = some (b.setWarp r.num w) := by rw [State.setWarp_block? w hb, if_pos rfl]
    have hw : (b.setWarp r.num w).setWarp r.num w' = b.setWarp r.num w' := by
      unfold Block.setWarp
      rw [listSet_listSet]
    simp only [State.setWarp, hb] at hb1 ⊢
    rw [hb1]
    simp only [hw]
    exact State.setBlock_setBlock rfl
/-- A walk whose every step leaves the state as it is leaves it as it is. -/
theorem foldl_eq_self {α β : Type} (f : α → β → α) (xs : List β) (a : α) (h : ∀ x ∈ xs, f a x = a) : xs.foldl f a = a := by
  induction xs with
  | nil => rfl
  | cons x xs ih =>
    rw [List.foldl_cons, h x List.mem_cons_self]
    exact ih fun y hy => h y (List.mem_cons_of_mem _ hy)

/-! ### A quiet warp -/

variable {w : Warp}

/-- A quiet warp has ended, or some lane of it has not signed and some run of it is not blocked. -/
theorem Warp.Quiet.cases (h : w.Quiet) : (w.live = 0 ∧ w.runs = []) ∨ (w.live.sub w.signed = false ∧ ∃ r ∈ w.runs, r.wait = none) := h.2.2.2
theorem Warp.signed_of_no_runs (h : w.runs = []) : w.signed = 0 := by
  simp [Warp.signed, h]
/-- Where every live lane has signed, a quiet warp has no lane at all. -/
theorem Warp.Quiet.signed_eq_zero (h : w.Quiet) (hs : w.live.sub w.signed = true) : w.signed = 0 := by
  obtain ⟨-, hr⟩ | ⟨hn, -⟩ := h.cases
  · exact Warp.signed_of_no_runs hr
  · rw [hn] at hs
    cases hs
theorem Run.kind_of_no_wait {r : Run} (h : r.wait = none) : r.kind = .other := by
  simp [Run.kind, h]
theorem Run.regrp?_of_no_wait {r : Run} (h : r.wait = none) : r.regrp? = none := by
  simp [Run.regrp?, h]
/-- No condition of R359 holds of a warp with a run that is not blocked. -/
theorem warpCondition_of_ready {r : Run} (hr : r ∈ w.runs) (h : r.wait = none) (n : Nat) (cand : Mask) : warpCondition n w cand = none := by
  have hk : BlockKind.other ∈ w.runs.map Run.kind := List.mem_map.2 ⟨r, hr, Run.kind_of_no_wait h⟩
  have only : ∀ a : List BlockKind, BlockKind.other ∉ a → ((w.runs.map Run.kind).all fun k => a.contains k) = false := fun a ha =>
    List.all_eq_false.2 ⟨_, hk, by simpa using ha⟩
  unfold warpCondition
  split
  · rfl
  · dsimp only
    split
    · rfl
    · simp only [only [.jwait] (by decide), only [.jwait, .bar, .regrp] (by decide), only [.jwait, .sign] (by decide),
        only [.jwait, .regrp] (by decide), Bool.false_and, Bool.false_eq_true, if_false]
theorem Warp.Quiet.warpCondition (h : w.Quiet) (n : Nat) (cand : Mask) : warpCondition n w cand = none := by
  obtain ⟨hl, -⟩ | ⟨-, r, hr, hw⟩ := h.cases
  · simp [Machine.warpCondition, hl]
  · exact warpCondition_of_ready hr hw n cand

/-! ### A quiet block -/

variable {s : State} {b : Block} {r : WarpRef}

/-- No arrival of a warp that owes none is retried. -/
theorem State.retryArrivals_eq_self (h : ∀ w, s.warp? r = some w → ∀ k < 20, w.arrivalDue k = false) : s.retryArrivals r = s := by
  unfold State.retryArrivals
  split
  · rename_i w hw
    have hn : (List.range 20).filter w.arrivalDue = [] := List.filter_eq_nil_iff.2 fun k hk => by
      simp [h w hw k (List.mem_range.1 hk)]
    rw [hn]
    rfl
  · rfl
theorem Block.Quiet.warp (h : b.Quiet) (hb : s.block? r.blk = some b) (hw : s.warp? r = some w) : w.Quiet := by
  rw [State.warp?_of hb] at hw
  exact h w (List.mem_of_getElem? hw)
theorem Block.Quiet.clearEnded (h : b.Quiet) : b.warps.map (fun w => { w with endedNow := false }) = b.warps := by
  refine (List.map_congr_left fun w hw => ?_).trans b.warps.map_id
  have he := (h w hw).1
  cases w
  cases he
  rfl
theorem Block.Quiet.teamEnds (h : b.Quiet) (hb : s.block? r.blk = some b) : s.teamEnds r.blk = s := by
  have hset : s.setBlock { b with warps := b.warps.map fun w => { w with endedNow := false } } = s := by
    rw [h.clearEnded]
    exact State.setBlock_self hb
  unfold State.teamEnds
  simp only [hb, hset]
  rw [List.filter_eq_nil_iff.2]
  · refine foldl_eq_self _ _ _ fun n _ => ?_
    split
    · rename_i w hw
      have hq := h.warp (r := ⟨r.blk, n⟩) hb hw
      simp only [hq.2.1]
    · rfl
  · intro n _
    split
    · rename_i w hw
      simp [(h w (List.mem_of_getElem? hw)).1]
    · simp
theorem Block.Quiet.signing? (h : b.Quiet) (team : Nat) : b.signing? team = none := by
  unfold Block.signing?
  dsimp only
  split
  · rename_i hall
    have hf : (((b.teamWarps team).filterMap fun n => b.warps[n]?).find? fun w => w.signed != 0) = none := by
      refine List.find?_eq_none.2 fun w hw => ?_
      obtain ⟨n, -, hn⟩ := List.mem_filterMap.1 hw
      have hs := (h w (List.mem_of_getElem? hn)).signed_eq_zero (List.all_eq_true.1 hall w hw)
      simp [hs]
    rw [hf]
  · rfl
theorem Block.Quiet.completeSigning (h : b.Quiet) (hb : s.block? r.blk = some b) (team : Nat) : s.completeSigning r.blk team = s := by
  simp only [State.completeSigning, hb, Option.bind_some, h.signing?]
theorem Block.Quiet.checkRegrp (h : b.Quiet) (hb : s.block? r.blk = some b) : s.checkRegrp r.blk = s := by
  have hr : ∀ runs, runs = (b.warps.filter fun w => w.live != 0).flatMap (·.runs) →
      (runs.isEmpty || !runs.all (fun r => r.regrp?.isSome)) = true := by
    rintro runs rfl
    cases hf : b.warps.filter fun w => w.live != 0 with
    | nil => rfl
    | cons w ws =>
      obtain ⟨hw, hl⟩ := List.mem_filter.1 (hf ▸ List.mem_cons_self : w ∈ b.warps.filter fun w => w.live != 0)
      obtain ⟨h0, -⟩ | ⟨-, r, hr, hn⟩ := (h w hw).cases
      · simp [h0] at hl
      · have hno : (((w :: ws).flatMap (·.runs)).all fun r => r.regrp?.isSome) = false :=
          List.all_eq_false.2 ⟨r, List.mem_flatMap.2 ⟨w, List.mem_cons_self, hr⟩, by simp [Run.regrp?_of_no_wait hn]⟩
        rw [hno, Bool.not_false, Bool.or_true]
  unfold State.checkRegrp
  simp only [hb, hr _ rfl, if_true]
theorem Block.Quiet.takeConditions (h : b.Quiet) (hb : s.block? r.blk = some b) (cand : Mask) (k : Nat) : s.takeConditions r.blk r cand k = s := by
  cases k with
  | zero => rfl
  | succ k =>
    have hf : ((b.warps.zip (List.range b.warps.length)).findSome? fun x =>
        (Machine.warpCondition x.2 x.1 (if r == ⟨r.blk, x.2⟩ then cand else 0)).map fun c => (x.2, c)) = none :=
      List.findSome?_eq_none_iff.2 fun x hx => by simp [(h x.1 (List.of_mem_zip hx).1).warpCondition]
    unfold State.takeConditions
    simp only [hb, hf]
/-- The end of a step leaves the state as it is in a quiet block. -/
theorem Block.Quiet.endStep (h : b.Quiet) (hb : s.block? r.blk = some b) (cand : Mask) : s.endStep r cand = s := by
  have hret : s.retryArrivals r = s := State.retryArrivals_eq_self fun w hw => (h.warp hb hw).2.2.1
  have hsign : (List.range b.teams.length).foldl (fun t k => t.completeSigning r.blk k) s = s :=
    foldl_eq_self _ _ _ fun k _ => h.completeSigning hb k
  unfold State.endStep
  simp only [hb, hret, h.teamEnds hb, hsign, h.checkRegrp hb, h.takeConditions hb]

end Sys2Proof.Machine
end

section
/-!
Words whose only effect is the results they queue: each result is for a register that the word names as a destination.
-/
namespace Sys2Proof.Machine

/-! ### Registers that a word names as destinations -/

/-- A word names register `n` of a class as a destination, in the active lanes where the class has lanes. -/
def Names (i : Instr) (wide : Bool) (cls : Cls) (n : Nat) : Prop :=
  ∃ u ∈ i.uses wide, u.wr = true ∧ u.cls = cls ∧ u.all = false ∧ ∃ k < u.cnt, n = u.num + k
/-- A word names a register of one lane, or a scalar register, as a destination. -/
def NamesIn (i : Instr) (wide : Bool) (l : Nat) : RegId → Prop
  | .v k n => k = l ∧ Names i wide .v n
  | .p k n => k = l ∧ Names i wide .p n
  | .s n => Names i wide .s n

variable {i : Instr} {s t : State} {c : Ctx} {wide : Bool}

/-- Register `k` of the first operand of a word, where that one is written. -/
theorem Names.first {u : Use} {us : List Use} {cls : Cls} {n k : Nat} (h : i.uses wide = u :: us) (hw : u.wr = true) (hc : u.cls = cls)
    (ha : u.all = false) (hk : k < u.cnt) (hn : n = u.num + k) : Names i wide cls n :=
  ⟨u, h ▸ List.mem_cons_self, hw, hc, ha, k, hk, hn⟩
theorem mem_writtenBy_v {l n : Nat} (h : Names i (c.blk.width == 64) .v n) (hl : l ∈ c.lanes) : RegId.v l n ∈ writtenBy i c := by
  obtain ⟨u, hu, hw, hc, -, k, hk, rfl⟩ := h
  refine List.mem_flatMap.2 ⟨u, hu, ?_⟩
  rw [if_pos hw, hc]
  exact List.mem_flatMap.2 ⟨k, List.mem_range.2 hk, List.mem_map.2 ⟨l, hl, rfl⟩⟩
theorem mem_writtenBy_p {l n : Nat} (h : Names i (c.blk.width == 64) .p n) (hl : l ∈ c.lanes) : RegId.p l n ∈ writtenBy i c := by
  obtain ⟨u, hu, hw, hc, ha, k, hk, rfl⟩ := h
  refine List.mem_flatMap.2 ⟨u, hu, ?_⟩
  rw [if_pos hw, hc, ha]
  exact List.mem_flatMap.2 ⟨k, List.mem_range.2 hk, List.mem_map.2 ⟨l, hl, rfl⟩⟩
theorem mem_writtenBy_s {n : Nat} (h : Names i (c.blk.width == 64) .s n) : RegId.s n ∈ writtenBy i c := by
  obtain ⟨u, hu, hw, hc, -, k, hk, rfl⟩ := h
  refine List.mem_flatMap.2 ⟨u, hu, ?_⟩
  rw [if_pos hw, hc]
  exact List.mem_flatMap.2 ⟨k, List.mem_range.2 hk, List.mem_singleton.2 rfl⟩
theorem mem_writtenBy_of_namesIn {l : Nat} {r : RegId} (h : NamesIn i (c.blk.width == 64) l r) (hl : l ∈ c.lanes) : r ∈ writtenBy i c := by
  cases r with
  | v k n =>
    obtain ⟨rfl, hn⟩ := h
    exact mem_writtenBy_v hn hl
  | p k n =>
    obtain ⟨rfl, hn⟩ := h
    exact mem_writtenBy_p hn hl
  | s n => exact mem_writtenBy_s h

/-! ### Words that queue results -/

/-- An outcome that queues results, each for a register that the word names. -/
def Queues (i : Instr) (c : Ctx) (t : State) (o : Out) : Prop :=
  ∃ ws : List (RegId × Word), o = .next (c.gives t ws) ∧ ∀ x ∈ ws, x.1 ∈ writtenBy i c

/-- A word whose effect is results in each active lane. -/
theorem issue_queues_lanes (h : Issues i s c t) {body : Ctx → State → Res} (f : Nat → List (RegId × Word))
    (hb : body c t = .ok (c.fixed t (c.lanes.flatMap f))) (hf : ∀ l, ∀ x ∈ f l, NamesIn i (c.blk.width == 64) l x.1) :
    Queues i c t (issue i s body) := by
  refine ⟨_, issue_ok h hb, fun x hx => ?_⟩
  obtain ⟨l, hl, hx⟩ := List.mem_flatMap.1 hx
  exact mem_writtenBy_of_namesIn (hf l x hx) hl
/-- A word whose effect is one result in each active lane. -/
theorem issue_queues_lane (h : Issues i s c t) {body : Ctx → State → Res} (f : Nat → RegId × Word)
    (hb : body c t = .ok (c.fixed t (c.lanes.map f))) (hf : ∀ l, NamesIn i (c.blk.width == 64) l (f l).1) : Queues i c t (issue i s body) := by
  refine ⟨_, issue_ok h hb, fun x hx => ?_⟩
  obtain ⟨l, hl, rfl⟩ := List.mem_map.1 hx
  exact mem_writtenBy_of_namesIn (hf l) hl
theorem perLane_queues (h : Issues i s c t) {d : BitVec 10} (f : Warp → Nat → Word) (hd : Names i (c.blk.width == 64) .v d.toNat) :
    Queues i c t (perLane i s d f) := issue_queues_lane h _ rfl fun _ => ⟨rfl, hd⟩
theorem perLaneP_queues (h : Issues i s c t) {pd : Nat} (f : Warp → Nat → Bool) (hd : Names i (c.blk.width == 64) .p pd) :
    Queues i c t (perLaneP i s pd f) := issue_queues_lane h _ rfl fun _ => ⟨rfl, hd⟩
theorem scalarOp_queues (h : Issues i s c t) {d : BitVec 7} (f : Warp → Word) (hd : Names i (c.blk.width == 64) .s d.toNat) :
    Queues i c t (scalarOp i s d f) := by
  refine ⟨_, scalarOp_gives h d f, fun x hx => ?_⟩
  obtain rfl := List.mem_singleton.1 hx
  exact mem_writtenBy_s hd
/-- With every exception of the interface disabled, a floating-point word queues its results. -/
theorem perLaneF_queues (h : Issues i s c t) (hz : (t.vf c.blk.vf).fpxctl.setWidth 5 = 0) (f : Warp → Nat → List (RegId × Word) × Flags)
    (hf : ∀ l, ∀ x ∈ (f c.w l).1, NamesIn i (c.blk.width == 64) l x.1) : Queues i c t (perLaneF i s f) := by
  have hx : c.NoFpx t fun l => (f c.w l).2 := fun l _ => by
    rw [hz]
    exact BitVec.and_zero
  refine ⟨_, perLaneF_gives h f (fpxTrap_none hx), fun x hx => ?_⟩
  obtain ⟨l, hl, hx⟩ := List.mem_flatMap.1 hx
  exact mem_writtenBy_of_namesIn (hf l x hx) hl

/-! ### Results of one lane -/

section
variable {l : Nat} {d : BitVec 10} {us : List Use}
theorem namesIn_p {pd : Nat} (hd : Names i wide .p pd) (v : Word) : ∀ x ∈ [(RegId.p l pd, v)], NamesIn i wide l x.1 := fun x hx => by
  obtain rfl := List.mem_singleton.1 hx
  exact ⟨rfl, hd⟩
/-- One result in the register of the word's first operand. -/
theorem namesIn_one (h : i.uses wide = wrV d :: us) (v : Word) : ∀ x ∈ [(RegId.v l d.toNat, v)], NamesIn i wide l x.1 := fun x hx => by
  obtain rfl := List.mem_singleton.1 hx
  exact ⟨rfl, .first h rfl rfl rfl Nat.one_pos rfl⟩
/-- Two results in the register pair of the word's first operand. -/
theorem namesIn_pair (h : i.uses wide = wrV d 2 :: us) (v v1 : Word) :
    ∀ x ∈ [(RegId.v l d.toNat, v), (RegId.v l (d.toNat + 1), v1)], NamesIn i wide l x.1 := fun x hx => by
  obtain rfl | hx := List.mem_cons.1 hx
  · exact ⟨rfl, .first h rfl rfl rfl Nat.two_pos rfl⟩
  · obtain rfl := List.mem_singleton.1 hx
    exact ⟨rfl, .first h rfl rfl rfl Nat.one_lt_two rfl⟩
theorem namesIn_write32 (h : i.uses wide = wrV d :: us) (y : Nat × Flags) : ∀ x ∈ (write32 d.toNat l y).1, NamesIn i wide l x.1 := namesIn_one h _
theorem namesIn_write64 (h : i.uses wide = wrV d 2 :: us) (y : Nat × Flags) : ∀ x ∈ (write64 d.toNat l y).1, NamesIn i wide l x.1 :=
  namesIn_pair h _ _
theorem namesIn_writeP {pd : Nat} (h : i.uses wide = wrP pd :: us) (y : Bool × Flags) (f : Bool → Bool) :
    ∀ x ∈ (writeP pd l y f).1, NamesIn i wide l x.1 := namesIn_p (.first h rfl rfl rfl Nat.one_pos rfl) _
/-- A register, or a pair, as the first operand of the word has it. -/
theorem namesIn_mask {w64 : Bool} (h : i.uses wide = wrV d (if w64 then 2 else 1) :: us) (m : Mask) :
    ∀ x ∈ writeMask w64 d.toNat l m, NamesIn i wide l x.1 := by
  cases w64 with
  | false => exact namesIn_one h _
  | true => exact namesIn_pair h _ _
end

/-! ### Words of a shape of their own -/

theorem perLane64_queues {d : BitVec 10} {us : List Use} (h : Issues i s c t) (f : Warp → Nat → DWord)
    (hu : i.uses (c.blk.width == 64) = wrV d 2 :: us) : Queues i c t (perLane64 i s d f) :=
  issue_queues_lanes h _ rfl fun _ => namesIn_pair hu _ _
theorem execLea_queues {hd : Hdr} {w64 : Bool} {sh : BitVec 3} {d a : BitVec 10} {b : BSrc} (h : Issues (.lea hd w64 sh d a b) s c t) :
    Queues (.lea hd w64 sh d a b) c t (execLea hd w64 sh d a b s) := by
  unfold execLea
  split
  · rename_i hw
    subst hw
    exact perLane64_queues h _ rfl
  · rename_i hw
    rw [Bool.not_eq_true] at hw
    subst hw
    exact perLane_queues h _ (.first rfl rfl rfl rfl Nat.one_pos rfl)
theorem execShfl_queues {hd : Hdr} {mode : ShflMode} {w64 : Bool} {d a : BitVec 10} {b : BSrc} {pl : BitVec 3}
    (h : Issues (.shfl hd mode w64 d a b pl) s c t) : Queues (.shfl hd mode w64 d a b pl) c t (execShfl hd mode w64 d a b pl s) := by
  refine issue_queues_lanes h _ rfl fun l => List.forall_mem_append.2 ⟨namesIn_mask rfl _, namesIn_p ?_ _⟩
  exact ⟨wrP pl.toNat, .tail _ (.tail _ (.tail _ (.head _))), rfl, rfl, rfl, 0, Nat.one_pos, rfl⟩
theorem execJmask_queues {hd : Hdr} {part : JmaskPart} {d : BitVec 10} {j : BitVec 4} (h : Issues (.jmask hd part d j) s c t) :
    Queues (.jmask hd part d j) c t (execJmask hd part d j s) := by
  refine issue_queues_lanes h _ rfl fun l => ?_
  cases part with
  | mem => exact namesIn_mask rfl _
  | arr => exact namesIn_mask rfl _
  | dep => exact namesIn_one rfl _
/-- QSCL reads `b` only where it makes no band. -/
theorem uses_qscl (wide : Bool) (hd : Hdr) (band sat : Bool) (d a : BitVec 10) (b : BSrc) :
    Instr.uses wide (.qscl hd band sat d a b) = wrV d :: rdV a :: if band then [] else [b.use] := by
  cases band <;> rfl
theorem cvtBits_eq (f : CvtFmt) : (cvtBits f == 64) = f.wide := by
  cases f <;> rfl
/-- Both conversions write one register, or a pair where the target format is wide. -/
theorem namesIn_cvtLane {dst src : CvtFmt} {r : Rnd} {sat : Bool} {d a : BitVec 10} {us : List Use} (h : i.uses wide = wrV d dst.regs :: us)
    (w : Warp) (l : Nat) : ∀ x ∈ (cvtLane dst src r sat d a w l).1, NamesIn i wide l x.1 := by
  unfold cvtLane
  unfold CvtFmt.regs at h
  rw [cvtBits_eq dst]
  cases hw : dst.wide with
  | false =>
    rw [hw] at h
    exact namesIn_write32 h _
  | true =>
    rw [hw] at h
    exact namesIn_write64 h _
theorem execHsetp2_queues {hd : Hdr} {cmp : Cmp} {un z bf : Bool} {comb : Comb} {pd : BitVec 2} {a : BitVec 10} {b : BSrc} {pc : BitVec 3}
    (h : Issues (.hsetp2 hd cmp un comb z bf pd a b pc) s c t) (hz : (t.vf c.blk.vf).fpxctl.setWidth 5 = 0) :
    Queues (.hsetp2 hd cmp un comb z bf pd a b pc) c t (execHsetp2 hd cmp un comb z bf pd a b pc s) := by
  refine perLaneF_queues h hz _ fun l => List.forall_mem_cons.2 ⟨⟨rfl, .first rfl rfl rfl rfl Nat.one_pos rfl⟩, namesIn_p ?_ _⟩
  exact ⟨wrP (2 * pd.toNat + 1), .tail _ (.head _), rfl, rfl, rfl, 0, Nat.one_pos, rfl⟩
theorem execQxp4_queues {hd : Hdr} {r : Rnd} {d a : BitVec 10} {b : BSrc} (h : Issues (.qxp4 hd r d a b) s c t)
    (hz : (t.vf c.blk.vf).fpxctl.setWidth 5 = 0) : Queues (.qxp4 hd r d a b) c t (execQxp4 hd r d a b s) := by
  refine perLaneF_queues h hz _ fun l x hx => ?_
  obtain ⟨e, he, rfl⟩ := List.mem_map.1 hx
  obtain ⟨k, hk, rfl⟩ := List.mem_map.1 he
  exact ⟨rfl, .first rfl rfl rfl rfl (List.mem_range.1 hk) rfl⟩

end Sys2Proof.Machine
end

section
/-!
Words that write registers lane by lane: what their results are for, and that they are all they change.
-/
namespace Sys2Proof.Machine

variable {i : Instr} {s t : State} {c : Ctx}

/-- With every exception of the interface disabled, a word that writes registers lane by lane queues its results. -/
theorem laneResult_queues (hi : i.laneResult = true) (h : Issues i s c t) (hz : (t.vf c.blk.vf).fpxctl.setWidth 5 = 0) :
    Queues i c t (exec i s) := by
  cases i with
  | iadd | isub | iadd3 | imul | imulh | imad | imin | imax | iabs | ineg | ishl | ishr | ishra | irot | idot4 | iaddi | imuli | lop3 | bfx | bfi
    | brev | popc | clz | ctz | prmt | isel | mov | movi | movh | movs | fclass | qlen =>
    unfold exec
    exact perLane_queues h _ (.first rfl rfl rfl rfl Nat.one_pos rfl)
  | isetp | isetpi | jtest =>
    unfold exec
    exact perLaneP_queues h _ (.first rfl rfl rfl rfl Nat.one_pos rfl)
  | qscl =>
    unfold exec
    exact perLaneF_queues h hz _ fun _ => namesIn_write32 (uses_qscl _ _ _ _ _ _ _) _
  | fadd | fsub | fmul | ffma | fmin | fmax | frnd | fscale | hadd2 | hmul2 | hfma2 | hmin2 | hmax2 | qpk4 =>
    unfold exec
    exact perLaneF_queues h hz _ fun _ => namesIn_write32 rfl _
  | dadd | dsub | dmul | dfma | dmin | dmax | drnd =>
    unfold exec
    exact perLaneF_queues h hz _ fun _ => namesIn_write64 rfl _
  | fsetp | dsetp =>
    unfold exec
    exact perLaneF_queues h hz _ fun _ => namesIn_writeP rfl _ _
  | cvt | cvti =>
    unfold exec
    exact perLaneF_queues h hz _ fun _ => namesIn_cvtLane rfl _ _
  | imadw =>
    unfold exec
    exact perLane64_queues h _ rfl
  | topk =>
    unfold exec
    refine issue_queues_lanes h _ rfl fun l => ?_
    exact namesIn_pair rfl _ _
  | vrd | qex | ballot | matchv | actm =>
    unfold exec
    exact issue_queues_lanes h _ rfl fun _ => namesIn_mask rfl _
  | vote | elect | redux | scan =>
    unfold exec
    exact issue_queues_lane h _ rfl fun _ => ⟨rfl, .first rfl rfl rfl rfl Nat.one_pos rfl⟩
  | lea =>
    exact execLea_queues h
  | shfl =>
    exact execShfl_queues h
  | jmask =>
    exact execJmask_queues h
  | hsetp2 =>
    exact execHsetp2_queues h hz
  | qxp4 =>
    exact execQxp4_queues h hz
  | _ => cases hi

/-! ### Scalar instructions -/

/-- The registers of warps at which a word that makes no access has its run moved on, and nothing else. -/
theorem Issues.moved_eq (h : Issues i s c t) (ha : accessWord i = false) :
    t = s.setWarp c.ref (c.w.setRun c.run.lanes fun x => x.advance s.clock c.blk.cycles (stallOf i) (yieldOf i)) := by
  rw [h.moved, State.beforeAccess, ha, Bool.and_false]
  rfl
/-- Its warp is then as it stands when results due have landed, with its run moved on. -/
theorem Issues.moved_warp (h : Issues i s c t) (ha : accessWord i = false) :
    t.warp? c.ref = some (c.w.setRun c.run.lanes fun x => x.advance s.clock c.blk.cycles (stallOf i) (yieldOf i)) := by
  obtain ⟨l, w0, -, -, hw, -, -⟩ := h.latched
  rw [h.moved_eq ha]
  exact State.warp?_setWarp_same _ hw
theorem fixed_nil {w : Warp} (hw : t.warp? c.ref = some w) : c.fixed t [] = t := by
  unfold Ctx.fixed
  rw [State.mapWarp_eq _ hw]
  exact State.setWarp_self hw
/-- A word may have no effect. -/
theorem issue_queues_none (h : Issues i s c t) (ha : accessWord i = false) {body : Ctx → State → Res} (hb : body c t = .ok t) :
    Queues i c t (issue i s body) := by
  refine ⟨[], ?_, fun x hx => nomatch hx⟩
  rw [issue_ok h hb, Ctx.gives, fixed_nil (h.moved_warp ha)]
/-- A word whose effect is results in scalar registers. -/
theorem issue_queues_scalars (h : Issues i s c t) {body : Ctx → State → Res} {ws : List (RegId × Word)} (hb : body c t = .ok (c.fixed t ws))
    (hws : ∀ x ∈ ws, ∃ n, x.1 = .s n ∧ Names i (c.blk.width == 64) .s n) : Queues i c t (issue i s body) := by
  refine ⟨ws, issue_ok h hb, fun x hx => ?_⟩
  obtain ⟨n, hs, hn⟩ := hws x hx
  rw [hs]
  exact mem_writtenBy_s hn
/-- A scalar register, or a pair of them, as the first operand of the word has it. -/
theorem namesIn_scalars {d : BitVec 7} {us : List Use} {wide w64 : Bool} (h : i.uses wide = wrS d (if w64 then 2 else 1) :: us) (x : DWord) :
    ∀ y ∈ (RegId.s d.toNat, loWord x) :: (if w64 then [(RegId.s (d.toNat + 1), hiWord x)] else []), ∃ n, y.1 = .s n ∧ Names i wide .s n := by
  intro y hy
  obtain rfl | hy := List.mem_cons.1 hy
  · exact ⟨_, rfl, .first (k := 0) h rfl rfl rfl (by cases w64 <;> exact Nat.succ_pos _) rfl⟩
  · cases w64 with
    | false => cases hy
    | true =>
      obtain rfl := List.mem_singleton.1 hy
      exact ⟨_, rfl, .first h rfl rfl rfl Nat.one_lt_two rfl⟩
theorem execSrd_queues {hd : Hdr} {d : BitVec 7} {x : BitVec 6} (h : Issues (.srd hd d x) s c t) : Queues (.srd hd d x) c t (execSrd hd d x s) := by
  cases ha : c.act == 0 with
  | true => exact issue_queues_none h rfl (by simp only [ha, if_true])
  | false =>
    refine issue_queues_scalars h ?_ (namesIn_scalars rfl (special t c.blk c.ref.num c.w x.toNat 0))
    simp only [ha, Bool.false_eq_true, if_false]
theorem execVtos_queues {hd : Hdr} {d : BitVec 7} {a : BitVec 10} (h : Issues (.vtos hd d a) s c t) : Queues (.vtos hd d a) c t (execVtos hd d a s) := by
  cases hl : c.live with
  | nil => exact issue_queues_none h rfl (by simp only [hl])
  | cons l ls =>
    refine issue_queues_scalars h (ws := [(.s d.toNat, c.w.rv l a.toNat)]) (by simp only [hl]) fun x hx => ?_
    obtain rfl := List.mem_singleton.1 hx
    exact ⟨_, rfl, .first rfl rfl rfl rfl Nat.one_pos rfl⟩
/-- SSETP writes its predicate in every live and helper lane of the warp. -/
theorem execSsetp_queues {hd : Hdr} {cmp : Cmp} {sg : Sign} {comb : Comb} {pd pc : BitVec 3} {a b : BitVec 7}
    (h : Issues (.ssetp hd cmp sg comb pd a b pc) s c t) : Queues (.ssetp hd cmp sg comb pd a b pc) c t (execSsetp hd cmp sg comb pd a b pc s) := by
  refine ⟨_, issue_ok h rfl, fun x hx => ?_⟩
  obtain ⟨l, hl, rfl⟩ := List.mem_map.1 hx
  exact List.mem_flatMap.2 ⟨_, .head _, List.mem_flatMap.2 ⟨0, List.mem_range.2 Nat.one_pos, List.mem_map.2 ⟨l, hl, rfl⟩⟩⟩
theorem scalarResult_queues (hi : i.scalarResult = true) (h : Issues i s c t) : Queues i c t (exec i s) := by
  cases i with
  | sadd | ssub | smul | slop3 | sshl | sshr | smovi | smovh =>
    unfold exec
    exact scalarOp_queues h _ (.first rfl rfl rfl rfl Nat.one_pos rfl)
  | srd => exact execSrd_queues h
  | vtos => exact execVtos_queues h
  | ssetp => exact execSsetp_queues h
  | _ => cases hi

/-! ### What results that are queued leave as it was -/

/-- A word that makes an access of the memories is none that only queues results. -/
theorem accessWord_of_result (hi : i.laneResult = true ∨ i.scalarResult = true) : accessWord i = false := by
  cases ha : accessWord i with
  | false => rfl
  | true =>
    cases i with
    | lds | sts | ldx | stx | ldw | atoms | atomx | redx | ldf | fres | fflt | freg | fpoll | spawn | lnch | bar | bara | vmark | bcp | bcpp
      | bmc | bga | bsc | bfill | bpfx | mma | mmas | mmat => rcases hi with hi | hi <;> cases hi
    | _ => cases ha
theorem mem_addPend {ps : List Pending} {p q : Pending} (h : q ∈ addPend ps p) : q ∈ ps ∨ q = p := by
  induction ps with
  | nil => exact .inr (List.mem_singleton.1 h)
  | cons x xs ih =>
    unfold addPend at h
    split at h
    · exact (List.mem_cons.1 h).symm
    · obtain rfl | h := List.mem_cons.1 h
      · exact .inl List.mem_cons_self
      · exact (ih h).imp_left (List.mem_cons_of_mem _)
/-- Each of the results that wait was one already, or is one of those queued. -/
theorem mem_foldl_addPend {ws : List (RegId × Word)} {land : Nat} {ps : List Pending} {q : Pending}
    (h : q ∈ ws.foldl (fun p x => addPend p { reg := x.1, val := x.2, due := land }) ps) : q ∈ ps ∨ (q.due = land ∧ ∃ x ∈ ws, q.reg = x.1) := by
  induction ws generalizing ps with
  | nil => exact .inl h
  | cons x xs ih =>
    obtain h | ⟨hd, y, hy, hr⟩ := ih h
    · refine (mem_addPend h).imp_right fun e => ?_
      subst e
      exact ⟨rfl, x, List.mem_cons_self, rfl⟩
    · exact .inr ⟨hd, y, List.mem_cons_of_mem _ hy, hr⟩
/-- What a landing leaves as it is. -/
theorem Warp.put_frame (w : Warp) (r : RegId) (x : Word) :
    (w.put r x).storeQ = w.storeQ ∧ (w.put r x).stack = w.stack ∧ (w.put r x).stackTag = w.stackTag := by
  cases r with
  | v | s => exact ⟨rfl, rfl, rfl⟩
  | p =>
    unfold Warp.put
    dsimp only
    split <;> exact ⟨rfl, rfl, rfl⟩
theorem Warp.landDue_frame (w : Warp) (now : Nat) :
    (w.landDue now).storeQ = w.storeQ ∧ (w.landDue now).stack = w.stack ∧ (w.landDue now).stackTag = w.stackTag := by
  have h : ∀ ps : List Pending, (ps.foldl (fun w p => w.put p.reg p.val) w).storeQ = w.storeQ
      ∧ (ps.foldl (fun w p => w.put p.reg p.val) w).stack = w.stack ∧ (ps.foldl (fun w p => w.put p.reg p.val) w).stackTag = w.stackTag := fun ps => by
    induction ps using List.reverseRecOn with
    | nil => exact ⟨rfl, rfl, rfl⟩
    | append_singleton ps p ih =>
      obtain ⟨h1, h2, h3⟩ := Warp.put_frame (ps.foldl (fun w p => w.put p.reg p.val) w) p.reg p.val
      rw [List.foldl_append]
      exact ⟨h1.trans ih.1, h2.trans ih.2.1, h3.trans ih.2.2⟩
  exact h _
theorem Warp.landDue_stackByte (w : Warp) (now l a : Nat) : (w.landDue now).stackByte l a = w.stackByte l a := by
  obtain ⟨-, h1, h2⟩ := w.landDue_frame now
  unfold Warp.stackByte
  rw [h1, h2]
/-- Writing one warp in which no store and no byte of a stack differs leaves every memory as it was. -/
theorem sameMemory_setWarp {r : WarpRef} {w0 w : Warp} (hw : s.warp? r = some w0) (hq : w.storeQ = w0.storeQ)
    (hs : ∀ l a, w.stackByte l a = w0.stackByte l a) : SameMemory s (s.setWarp r w) := by
  refine ⟨fun _ => by simp, fun _ => by simp, fun _ => by simp, fun _ => by simp, by simp, fun id b hb => ?_, fun q v hv => ?_⟩
  · obtain ⟨b0, hb0, -⟩ := State.warp?_block hw
    rw [State.setWarp_block? w hb0]
    split
    · rename_i he
      rw [he, hb0] at hb
      cases hb
      exact ⟨_, rfl, fun _ => rfl⟩
    · exact ⟨b, hb, fun _ => rfl⟩
  · rw [State.warp?_setWarp w hw]
    split
    · rename_i he
      rw [he, hw] at hv
      cases hv
      exact ⟨w, rfl, hq, hs⟩
    · exact ⟨v, hv, rfl, fun _ _ => rfl⟩
/-- A warp of the issuing word, once its run has moved on and its results wait. -/
def Ctx.queued (c : Ctx) (i : Instr) (s : State) (ws : List (RegId × Word)) : Warp :=
  { c.w with
    pend := ws.foldl (fun p x => addPend p { reg := x.1, val := x.2, due := c.land }) c.w.pend
    runs := (c.w.setRun c.run.lanes fun x => x.advance s.clock c.blk.cycles (stallOf i) (yieldOf i)).runs }
/-- What holds of every element of a list, one of them replaced, holds of them all with another in its place. -/
theorem forall_mem_listSet {α : Type} {P : α → Prop} {xs : List α} {n : Nat} {x y : α} (h : ∀ z ∈ listSet xs n x, P z) (hy : P x → P y) :
    ∀ z ∈ listSet xs n y, P z := by
  induction xs generalizing n with
  | nil => exact h
  | cons a as ih =>
    cases n with
    | zero =>
      obtain ⟨hx, has⟩ := List.forall_mem_cons.1 h
      exact List.forall_mem_cons.2 ⟨hy hx, has⟩
    | succ n =>
      obtain ⟨ha, has⟩ := List.forall_mem_cons.1 h
      exact List.forall_mem_cons.2 ⟨ha, ih has⟩
/-- In a quiet block, a word that queues results and makes no access changes its own warp alone. -/
theorem gives_eq_setWarp (h : Issues i s c t) (ha : accessWord i = false) (hq : ∀ b, t.block? c.ref.blk = some b → b.Quiet)
    (ws : List (RegId × Word)) : c.gives t ws = s.setWarp c.ref (c.queued i s ws) := by
  have ht := h.moved_eq ha
  have hfix : c.fixed t ws = s.setWarp c.ref (c.queued i s ws) := by
    unfold Ctx.fixed
    rw [State.mapWarp_eq _ (h.moved_warp ha), ht, State.setWarp_setWarp]
    rfl
  have hb := State.setWarp_block? (c.queued i s ws) h.block c.ref.blk
  rw [if_pos rfl] at hb
  have hbt := State.setWarp_block? (c.w.setRun c.run.lanes fun x => x.advance s.clock c.blk.cycles (stallOf i) (yieldOf i)) h.block c.ref.blk
  rw [if_pos rfl, ← ht] at hbt
  have hqt : ∀ w ∈ listSet c.blk.warps c.ref.num _, w.Quiet := hq _ hbt
  -- the pending results are no part of what makes a warp quiet
  have hquiet : (c.blk.setWarp c.ref.num (c.queued i s ws)).Quiet := forall_mem_listSet hqt fun hw => hw
  rw [Ctx.gives, hfix, Ctx.after, hquiet.endStep hb]

/-- Settles O34: the results that such a word queues are written into its own warp, and the end of the step leaves the quiet block as it is. -/
theorem registerWordsFrame : Obligations.RegisterWordsFrame := by
  unfold Obligations.RegisterWordsFrame
  intro i s c t u hi h hq hz hu
  have ha := accessWord_of_result hi
  obtain ⟨ws, he, hws⟩ : Queues i c t (exec i s) := hi.elim (fun hl => laneResult_queues hl h hz) fun hs => scalarResult_queues hs h
  rw [hu, gives_eq_setWarp h ha hq] at he
  cases he
  obtain ⟨l, w0, -, -, hw, -, hcw⟩ := h.latched
  have hstack : ∀ l a, (c.queued i s ws).stackByte l a = w0.stackByte l a := fun l a => by
    refine Eq.trans ?_ (w0.landDue_stackByte s.clock l a)
    rw [← hcw]
    rfl
  have hstore : (c.queued i s ws).storeQ = w0.storeQ := by
    refine Eq.trans ?_ (w0.landDue_frame s.clock).1
    rw [← hcw]
    rfl
  refine ⟨sameMemory_setWarp hw hstore hstack, fun r hr => ?_, ⟨c.queued i s ws, State.warp?_setWarp_same _ hw, ?_, rfl, rfl, ?_, fun p hp => ?_⟩,
    fun id hid => ?_, ?_⟩
  · rw [State.warp?_setWarp _ hw, if_neg hr]
  · exact ⟨fun _ _ => rfl, fun _ => rfl, fun _ _ => rfl, rfl, rfl, rfl, rfl, rfl, rfl, rfl, rfl, rfl, rfl⟩
  · rw [State.setWarp_block? _ h.block, if_pos rfl]
    rfl
  · obtain hp | ⟨hd, x, hx, hr⟩ := mem_foldl_addPend hp
    · exact .inl hp
    · exact .inr ⟨hd, hr ▸ hws x hx⟩
  · rw [State.setWarp_block? _ h.block, if_neg hid]
  · obtain ⟨bs, hbs⟩ := State.setWarp_frame s c.ref (c.queued i s ws)
    rw [hbs]

end Sys2Proof.Machine
end

section
/-! PROOFS. O55 fails: a parked run that goes on at the next word loses the samples it holds. -/
namespace Sys2Proof.Machine

/-- The warp of `parkedHoldingSamples`. -/
def parkedRef : WarpRef := ⟨0, 0⟩

/-- A machine with one run of lane 0, parked (LDW) on the word at 64 of the scratchpad, which holds 1 while the lane waits for it to differ
from 0; the run also holds an empty list of samples (R261). -/
def parkedHoldingSamples : State :=
  let s := State.reset.withFetchWord 64 0
  ({ s with sp := writeBytes s.sp 64 [1, 0, 0, 0] } : State).mapWarp parkedRef fun w => { w with
    live := 1
    runs := w.runs.map fun run => { run with
      lanes := 1
      wait := some (.word false false 8 0 [(0, 64)])
      samples := some [] } }

/-- What the statement asks of the parked run holds in this state, for the reread of lane 0. -/
theorem parkedHoldingSamples_meets_hypotheses :
    ∃ b ∈ parkedHoldingSamples.block? parkedRef.blk, ∃ w ∈ parkedHoldingSamples.warp? parkedRef, ∃ run ∈ w.runs.head?,
      w.runs = [run] ∧ run.lanes ≠ 0 ∧ run.wait = some (.word false false 8 0 [(0, 64)]) ∧ run.samples = some []
        ∧ parkedHoldingSamples.spView b.core w.storeQ 64 4 ≠ storeBytes w 8 0 4
        ∧ parkedHoldingSamples.waitPois parkedRef (.word false false 8 0 [(0, 64)]) (0, 64) = false
        ∧ w.heldNow 0 [{ lane := 0, reg := 8, space := .scratch, addr := 64, len := 4 }] = false
        ∧ (∀ y ∈ w.late, y.loose = []) ∧ ∀ e ∈ parkedHoldingSamples.waitTab, e.ref = parkedRef → e.addr ≠ 64 := by
  decide +kernel

/-- The samples of the runs of the warp after a step. -/
def samplesAfter (i : Instr) (s : State) : Option (List (Option (List ViewWait))) :=
  match exec i s with
  | .next t => (t.warp? parkedRef).map fun w => w.runs.map (·.samples)
  | _ => none

theorem samplesAfter_of_next {i : Instr} {s t : State} {v : Warp} (ht : exec i s = .next t) (hv : t.warp? parkedRef = some v) :
    samplesAfter i s = some (v.runs.map (·.samples)) := by
  simp [samplesAfter, ht, hv]

/-- The reread lets the run go on, and `Warp.release` drops its samples. -/
theorem samplesAfter_reread : samplesAfter (.waitTableReread parkedRef 0) parkedHoldingSamples = some [none] := by
  decide +kernel

/-- Refutes O55: a run that is parked on a word and holds samples (R261) reads the word again and goes on at the next word without them, since
`Warp.release` drops them, where the last clause says that only its PC and its wait change. -/
theorem not_issueAndLanding : ¬ Obligations.IssueAndLanding := by
  unfold Obligations.IssueAndLanding
  intro h
  obtain ⟨b, hb, w, hw, run, -, hruns, hlanes, hwait, hsamples, hdiffers, hpois, hheld, hloose, htab⟩ := parkedHoldingSamples_meets_hypotheses
  obtain ⟨-, -, -, -, -, -, -, -, hparked⟩ := h parkedHoldingSamples parkedRef b w hb hw
  obtain ⟨t, v, ht, hv, -, hgone, -⟩ := hparked run false false 8 0 64 0 hruns hlanes hwait hdiffers hpois hheld hloose
    (.waitTableReread parkedRef 0) (by simp) (fun _ => htab) (by simp)
  have hkept : samplesAfter (.waitTableReread parkedRef 0) parkedHoldingSamples = some [some []] := by
    simp [samplesAfter_of_next ht hv, hgone, hsamples]
  simp [samplesAfter_reread] at hkept

end Sys2Proof.Machine
end

section
/-!
The fields of a full-form word, and what the decoder reads from a word that the encoder has put together.
-/
namespace Sys2Proof

/-! ### Bits of a field -/

/-- Bits [lo+n-1 : lo] of a field, as the decoder reads them of the word that holds it. -/
def subfield {v : Nat} (x : BitVec v) (lo n : Nat) : BitVec n := x.extractLsb' lo n
/-- One bit of a field. -/
def fieldBit {v : Nat} (x : BitVec v) (i : Nat) : Bool := x.getLsbD i
/-- No bit of a mask is set in a field. -/
def Clear {v : Nat} (x : BitVec v) (mask : Nat) : Prop := Nat.land x.toNat mask = 0

section
variable {u v lo n i mask : Nat}

@[simp] theorem subfield_all (x : BitVec n) : subfield x 0 n = x := BitVec.extractLsb'_eq_self
@[simp] theorem subfield_zero : subfield (0#v) lo n = 0#n := BitVec.extractLsb'_zero
@[simp] theorem subfield_append_low (x : BitVec u) (y : BitVec v) (h : n ≤ v - lo) (h0 : lo ≤ v) : subfield (x ++ y) lo n = subfield y lo n :=
  BitVec.extractLsb'_append_eq_of_add_le (by omega)
@[simp] theorem subfield_append_high (x : BitVec u) (y : BitVec v) (h : v ≤ lo) : subfield (x ++ y) lo n = subfield x (lo - v) n :=
  BitVec.extractLsb'_append_eq_of_le h
@[simp] theorem subfield_setWidth (x : BitVec v) (h : v ≤ u) : subfield (x.setWidth u) lo n = subfield x lo n := by
  refine BitVec.eq_of_getLsbD_eq fun i hi => ?_
  simp only [subfield, BitVec.getLsbD_extractLsb', BitVec.getLsbD_setWidth]
  grind
@[simp] theorem subfield_above (x : BitVec v) (h : v ≤ lo) : subfield x lo n = 0#n := by
  refine BitVec.eq_of_getLsbD_eq fun i _ => ?_
  simp only [subfield, BitVec.getLsbD_extractLsb', BitVec.getLsbD_zero, BitVec.getLsbD_of_ge x _ (Nat.le_add_right_of_le h), Bool.and_false]
theorem subfield_append_subfield (x : BitVec v) {k : Nat} (h : lo = i + k) : subfield x lo n ++ subfield x i k = subfield x i (n + k) :=
  BitVec.extractLsb'_append_extractLsb'_eq_extractLsb' h

@[simp] theorem fieldBit_zero : fieldBit (0#v) i = false := BitVec.getLsbD_zero
@[simp] theorem fieldBit_ofNat (k : Nat) : fieldBit (BitVec.ofNat v k) i = (decide (i < v) && decide (k / 2 ^ i % 2 = 1)) := by
  rw [fieldBit, BitVec.getLsbD_ofNat, Nat.testBit_eq_decide_div_mod_eq]
@[simp] theorem fieldBit_b1 (b : Bool) : fieldBit (b1 b) 0 = b := by cases b <;> rfl
@[simp] theorem fieldBit_ofBool (b : Bool) : fieldBit (BitVec.ofBool b) 0 = b := fieldBit_b1 b
@[simp] theorem fieldBit_append_low (x : BitVec u) (y : BitVec v) (h : i < v) : fieldBit (x ++ y) i = fieldBit y i := by
  rw [fieldBit, BitVec.getLsbD_append, if_pos h, fieldBit]
@[simp] theorem fieldBit_append_high (x : BitVec u) (y : BitVec v) (h : v ≤ i) : fieldBit (x ++ y) i = fieldBit x (i - v) := by
  rw [fieldBit, BitVec.getLsbD_append, if_neg (Nat.not_lt.2 h), fieldBit]

theorem clear_iff (x : BitVec v) : Clear x mask ↔ ∀ k, mask.testBit k = true → x.getLsbD k = false := by
  constructor
  · intro h k hk
    have hand := congrArg (·.testBit k) (show x.toNat &&& mask = 0 from h)
    simp only [Nat.testBit_and, hk, Bool.and_true, Nat.zero_testBit] at hand
    exact hand
  · intro h
    refine Nat.eq_of_testBit_eq fun k => (Nat.testBit_and _ _ k).trans ?_
    cases hk : mask.testBit k with
    | false => simp
    | true =>
      rw [Bool.and_true, Nat.zero_testBit]
      exact h k hk
@[simp] theorem clear_noMask (x : BitVec v) : Clear x 0 := Nat.and_zero _
@[simp] theorem clear_zero : Clear (0#v) mask := (clear_iff _).2 fun _ _ => BitVec.getLsbD_zero
@[simp] theorem clear_ofNat (k : Nat) : Clear (BitVec.ofNat v k) mask ↔ k % 2 ^ v &&& mask = 0 := by
  rw [Clear, BitVec.toNat_ofNat]
  rfl
/-- A mask above the bits of a field. -/
@[simp] theorem clear_above (x : BitVec v) (h : mask % 2 ^ v = 0) : Clear x mask := by
  refine (clear_iff x).2 fun k hk => BitVec.getLsbD_of_ge x k (Nat.le_of_not_lt fun hlt => ?_)
  have hbit := congrArg (·.testBit k) h
  simp [Nat.testBit_mod_two_pow, hlt, hk] at hbit
@[simp] theorem clear_setWidth (x : BitVec v) (h : v ≤ u) : Clear (x.setWidth u) mask ↔ Clear x mask := by
  rw [Clear, BitVec.toNat_setWidth_of_le h, Clear]
@[simp] theorem clear_append (x : BitVec u) (y : BitVec v) : Clear (x ++ y) mask ↔ Clear x (mask / 2 ^ v) ∧ Clear y (mask % 2 ^ v) := by
  simp only [clear_iff, BitVec.getLsbD_append, Nat.testBit_div_two_pow, Nat.testBit_mod_two_pow, Bool.and_eq_true, decide_eq_true_eq]
  constructor
  · intro h
    refine ⟨fun j hj => ?_, fun j hj => ?_⟩
    · simpa using h (j + v) hj
    · simpa [hj.1] using h j hj.2
  · rintro ⟨hx, hy⟩ j hj
    split
    · exact hy j ⟨‹_›, hj⟩
    · exact hx (j - v) (by rwa [Nat.sub_add_cancel (Nat.le_of_not_lt ‹_›)])
end

/-! ### Fields of a word -/

section
variable (op : BitVec 9) (hd : Hdr) (d a b c : BitVec 10) (m : BitVec 6) {lo n i : Nat}

theorem bits_word_stall : bits (word op hd d a b c m) 60 3 = hd.stall := by
  simp (disch := omega) only [bits, word, BitVec.extractLsb'_append_eq_of_le, BitVec.extractLsb'_append_eq_of_add_le, BitVec.extractLsb'_eq_self,
    Nat.reduceSub]
theorem bits_word_gp : bits (word op hd d a b c m) 55 3 = hd.gp := by
  simp (disch := omega) only [bits, word, BitVec.extractLsb'_append_eq_of_le, BitVec.extractLsb'_append_eq_of_add_le, BitVec.extractLsb'_eq_self,
    Nat.reduceSub]
@[simp] theorem fOp_word : fOp (word op hd d a b c m) = op := by
  simp (disch := omega) only [fOp, bits, word, BitVec.extractLsb'_append_eq_of_le, BitVec.extractLsb'_append_eq_of_add_le,
    BitVec.extractLsb'_eq_self, Nat.reduceSub]
@[simp] theorem bits_word_d (h1 : 36 ≤ lo) (h2 : n ≤ 46 - lo) (h0 : lo ≤ 46) : bits (word op hd d a b c m) lo n = subfield d (lo - 36) n := by
  simp (disch := omega) only [bits, subfield, word, BitVec.extractLsb'_append_eq_of_le, BitVec.extractLsb'_append_eq_of_add_le, Nat.sub_sub]
@[simp] theorem bits_word_a (h1 : 26 ≤ lo) (h2 : n ≤ 36 - lo) (h0 : lo ≤ 36) : bits (word op hd d a b c m) lo n = subfield a (lo - 26) n := by
  simp (disch := omega) only [bits, subfield, word, BitVec.extractLsb'_append_eq_of_le, BitVec.extractLsb'_append_eq_of_add_le, Nat.sub_sub]
@[simp] theorem bits_word_b (h1 : 16 ≤ lo) (h2 : n ≤ 26 - lo) (h0 : lo ≤ 26) : bits (word op hd d a b c m) lo n = subfield b (lo - 16) n := by
  simp (disch := omega) only [bits, subfield, word, BitVec.extractLsb'_append_eq_of_le, BitVec.extractLsb'_append_eq_of_add_le, Nat.sub_sub]
@[simp] theorem bits_word_c (h1 : 6 ≤ lo) (h2 : n ≤ 16 - lo) (h0 : lo ≤ 16) : bits (word op hd d a b c m) lo n = subfield c (lo - 6) n := by
  simp (disch := omega) only [bits, subfield, word, BitVec.extractLsb'_append_eq_of_le, BitVec.extractLsb'_append_eq_of_add_le]
@[simp] theorem bits_word_m (h : n ≤ 6 - lo) (h0 : lo ≤ 6) : bits (word op hd d a b c m) lo n = subfield m lo n := by
  simp (disch := omega) only [bits, subfield, word, BitVec.extractLsb'_append_eq_of_add_le]

@[simp] theorem bit_word_63 : bit (word op hd d a b c m) 63 = false := by
  simp only [bit, word, BitVec.getLsbD_append, Nat.reduceLT, Nat.reduceSub, if_false]
  rfl
theorem bit_word_59 : bit (word op hd d a b c m) 59 = hd.y := by
  simp only [bit, word, BitVec.getLsbD_append, Nat.reduceLT, Nat.reduceSub, if_false, if_true]
  exact fieldBit_ofBool hd.y
theorem bit_word_58 : bit (word op hd d a b c m) 58 = hd.gn := by
  simp only [bit, word, BitVec.getLsbD_append, Nat.reduceLT, Nat.reduceSub, if_false, if_true]
  exact fieldBit_ofBool hd.gn
theorem fieldBit_eq_of_subfield {v : Nat} {w : BitVec 64} {x : BitVec v} {j : Nat} (h : bits w i 1 = subfield x j 1) : bit w i = fieldBit x j := by
  have h0 := congrArg (·.getLsbD 0) h
  simp only [bits, subfield, BitVec.getLsbD_extractLsb', Nat.lt_add_one, decide_true, Bool.true_and, Nat.add_zero] at h0
  exact h0
@[simp] theorem bit_word_d (h1 : 36 ≤ i) (h2 : i < 46) : bit (word op hd d a b c m) i = fieldBit d (i - 36) :=
  fieldBit_eq_of_subfield (bits_word_d op hd d a b c m h1 (by omega) (by omega))
@[simp] theorem bit_word_a (h1 : 26 ≤ i) (h2 : i < 36) : bit (word op hd d a b c m) i = fieldBit a (i - 26) :=
  fieldBit_eq_of_subfield (bits_word_a op hd d a b c m h1 (by omega) (by omega))
@[simp] theorem bit_word_m (h : i < 6) : bit (word op hd d a b c m) i = fieldBit m i :=
  fieldBit_eq_of_subfield (bits_word_m op hd d a b c m (by omega) (by omega))

@[simp] theorem fHdr_word : fHdr (word op hd d a b c m) = hd := by
  simp only [fHdr, bits_word_stall, bit_word_59, bit_word_58, bits_word_gp]
@[simp] theorem fD_word : fD (word op hd d a b c m) = d :=
  (bits_word_d op hd d a b c m (by decide) (by decide) (by decide)).trans (subfield_all d)
@[simp] theorem fA_word : fA (word op hd d a b c m) = a :=
  (bits_word_a op hd d a b c m (by decide) (by decide) (by decide)).trans (subfield_all a)
@[simp] theorem fB_word : fB (word op hd d a b c m) = b :=
  (bits_word_b op hd d a b c m (by decide) (by decide) (by decide)).trans (subfield_all b)
@[simp] theorem fC_word : fC (word op hd d a b c m) = c :=
  (bits_word_c op hd d a b c m (by decide) (by decide) (by decide)).trans (subfield_all c)
@[simp] theorem fM_word : fM (word op hd d a b c m) = m :=
  (bits_word_m op hd d a b c m (by decide) (by decide)).trans (subfield_all m)

/-! Fields that are read across a boundary of B, C and M -/

@[simp] theorem bits_word_8 : bits (word op hd d a b c m) 0 8 = subfield c 0 2 ++ m := by
  refine BitVec.eq_of_getLsbD_eq fun i hi => ?_
  simp only [bits, subfield, word, BitVec.getLsbD_append, BitVec.getLsbD_extractLsb']
  grind
@[simp] theorem bits_word_16 : bits (word op hd d a b c m) 0 16 = c ++ m := by
  refine BitVec.eq_of_getLsbD_eq fun i hi => ?_
  simp only [bits, word, BitVec.getLsbD_append, BitVec.getLsbD_extractLsb']
  grind
@[simp] theorem bits_word_imm18 : bits (word op hd d a b c m) 6 18 = subfield b 0 8 ++ c := by
  refine BitVec.eq_of_getLsbD_eq fun i hi => ?_
  simp only [bits, subfield, word, BitVec.getLsbD_append, BitVec.getLsbD_extractLsb']
  grind
@[simp] theorem fImm26_word : fImm26 (word op hd d a b c m) = b ++ (c ++ m) := by
  refine BitVec.eq_of_getLsbD_eq fun i hi => ?_
  simp only [fImm26, bits, word, BitVec.getLsbD_append, BitVec.getLsbD_extractLsb']
  grind
end

/-- A word with an immediate, as a word of five fields. -/
theorem wordI_eq (op : BitVec 9) (hd : Hdr) (d a : BitVec 10) (imm : BitVec 26) :
    wordI op hd d a imm = word op hd d a (subfield imm 16 10) (subfield imm 6 10) (subfield imm 0 6) := by
  unfold wordI word subfield
  refine BitVec.eq_of_getLsbD_eq fun i _ => ?_
  simp only [BitVec.getLsbD_append, BitVec.getLsbD_extractLsb']
  grind
/-- A memory word, as a word of five fields. -/
theorem wordM_eq (op : BitVec 9) (hd : Hdr) (d : BitVec 10) (ad : MAddr) (sc o : BitVec 2) (sz : BitVec 3) :
    wordM op hd d ad sc o sz = word op hd d ad.reg (sc ++ subfield ad.imm 10 8) (subfield ad.imm 0 10) (BitVec.ofBool ad.scalar ++ o ++ sz) := by
  unfold wordM word subfield
  refine BitVec.eq_of_getLsbD_eq fun i _ => ?_
  simp only [BitVec.getLsbD_append, BitVec.getLsbD_extractLsb']
  grind

end Sys2Proof
end

section
/-!
What the decoder reads from the fields of a full-form word that the encoder has put together, and the fields that must be 0 (R54).
-/
namespace Sys2Proof

/-! ### Codes of a field -/

@[simp] theorem rndOf_code (x : Rnd) : rndOf (rndCode x) = x := by cases x <;> rfl
@[simp] theorem signOf_code (x : Sign) : signOf (signCode x) = x := by cases x <;> rfl
@[simp] theorem cmpOf_code (x : Cmp) : cmpOf (cmpCode x) = some x := by cases x <;> rfl
@[simp] theorem combOf_code (x : Comb) : combOf (combCode x) = x := by cases x <;> rfl
@[simp] theorem classFmtOf_code (x : ClassFmt) : classFmtOf (classFmtCode x) = x := by cases x <;> rfl
@[simp] theorem cvtFmtOf_code (x : CvtFmt) : cvtFmtOf (cvtFmtCode x) = some x := by cases x <;> rfl
@[simp] theorem sfuFnOf_code (x : SfuFn) : sfuFnOf (sfuFnCode x) = some x := by cases x <;> rfl
@[simp] theorem shflOf_code (x : ShflMode) : shflOf (shflCode x) = x := by cases x <;> rfl
@[simp] theorem qexOf_code (x : QexDir) : qexOf (qexCode x) = some x := by cases x <;> rfl
@[simp] theorem voteOf_code (x : VoteKind) : voteOf (voteCode x) = some x := by cases x <;> rfl
@[simp] theorem redOf_code (x : RedOp) : redOf (redCode x) = some x := by cases x <;> rfl
@[simp] theorem rttOf_code (x : RttMode) : rttOf (rttCode x) = some x := by cases x <;> rfl
@[simp] theorem jtestOf_code (x : JtestKind) : jtestOf (jtestCode x) = some x := by cases x <;> rfl
@[simp] theorem jmaskOf_code (x : JmaskPart) : jmaskOf (jmaskCode x) = some x := by cases x <;> rfl
@[simp] theorem atomOf_code (x : AtomOp) : atomOf (atomCode x) = x := by cases x <;> rfl
@[simp] theorem orderOf_code (x : Order) : orderOf (orderCode x) = x := by cases x <;> rfl
@[simp] theorem scopeOf_code (x : Scope) : scopeOf (scopeCode x) = x := by cases x <;> rfl
@[simp] theorem fenceOf_code (x : FenceKind) : fenceOf (fenceCode x) = some x := by cases x <;> rfl
@[simp] theorem rodSpaceOf_code (x : RodSpace) : rodSpaceOf (rodSpaceCode x) = x := by cases x <;> rfl
@[simp] theorem xspaceOf_code (x : XSpace) : xspaceOf (xspaceCode x) = some x := by cases x <;> rfl
@[simp] theorem sizeOf?_code (x : Size) : sizeOf? (sizeCode x) = some x := by cases x <;> rfl

@[simp] theorem xspaceOf_mm : xspaceOf 0#2 = some .mm := rfl
@[simp] theorem xspaceOf_sp : xspaceOf 1#2 = some .sp := rfl
@[simp] theorem xspaceOf_sh : xspaceOf 2#2 = some .sh := rfl

/-! ### Operand fields -/

/-- `b(s)` as the decoder reads it. -/
@[simp] theorem fBS_word (op : BitVec 9) (hd : Hdr) (d a b c : BitVec 10) (m : BitVec 6) :
    fBS (word op hd d a b c m) = if fieldBit m 5 then .s (subfield b 0 7) else .v b := by
  simp only [fBS, bit_word_m, Nat.reduceLT, bits_word_b, fB_word, Nat.le_refl, Nat.reduceLeDiff, Nat.reduceSub]
theorem fieldBit_bit_v (r : BitVec 10) : fieldBit (BSrc.v r).bit 0 = false := fieldBit_zero
theorem fieldBit_bit_s (r : BitVec 7) : fieldBit (BSrc.s r).bit 0 = true := by decide +revert
@[simp] theorem bsrc_of_field (b : BSrc) : (if fieldBit b.bit 0 = true then BSrc.s (subfield b.field 0 7) else .v b.field) = b := by
  cases b with
  | v r => rw [fieldBit_bit_v, if_neg Bool.false_ne_true, BSrc.field]
  | s r => rw [fieldBit_bit_s, if_pos rfl, BSrc.field, subfield_setWidth r (by decide), subfield_all]
@[simp] theorem clear_field (b : BSrc) : Clear b.field (if fieldBit b.bit 0 = true then 0x380 else 0) := by
  cases b with
  | v r =>
    rw [fieldBit_bit_v, if_neg Bool.false_ne_true]
    exact clear_noMask _
  | s r =>
    rw [fieldBit_bit_s, if_pos rfl]
    exact (clear_setWidth r (by decide)).2 (clear_above r rfl)
@[simp] theorem fAddr_word (op : BitVec 9) (hd : Hdr) (d a b c : BitVec 10) (m : BitVec 6) :
    fAddr (word op hd d a b c m) = ⟨fieldBit m 5, a, subfield b 0 8 ++ c⟩ := by
  simp only [fAddr, bit_word_m, Nat.reduceLT, fA_word, bits_word_imm18]
@[simp] theorem fBar_word (op : BitVec 9) (hd : Hdr) (d a b c : BitVec 10) (m : BitVec 6) :
    fBar (word op hd d a b c m) = ⟨fieldBit m 4, subfield a 0 4⟩ := by
  simp [fBar]
/-- The truth table of LOP3 and SLOP3, which C and M hold together. -/
@[simp] theorem truthTable_parts (tt : BitVec 8) : bits (tt.setWidth 64) 6 2 ++ bits (tt.setWidth 64) 0 6 = tt := by
  have h : subfield (tt.setWidth 64) 0 8 = tt := (subfield_setWidth tt (by decide)).trans (subfield_all tt)
  exact (subfield_append_subfield _ rfl).trans h
/-- The mask of JQUITM and FENCER, which B and C hold together. -/
@[simp] theorem mask_parts (m : BitVec 16) : (m >>> 8).setWidth 8 ++ m.setWidth 8 = m := by
  refine BitVec.eq_of_getLsbD_eq fun i _ => ?_
  simp only [BitVec.getLsbD_append, BitVec.getLsbD_setWidth, BitVec.getLsbD_ushiftRight]
  grind
/-- An immediate that B, C and M hold together. -/
@[simp] theorem imm26_parts (x : BitVec 26) : subfield x 16 10 ++ (subfield x 6 10 ++ subfield x 0 6) = x := by
  rw [subfield_append_subfield x (lo := 6) rfl]
  exact (subfield_append_subfield x rfl).trans (subfield_all x)
@[simp] theorem imm18_parts (x : BitVec 18) : subfield x 10 8 ++ subfield x 0 10 = x := (subfield_append_subfield x rfl).trans (subfield_all x)
@[simp] theorem imm16_parts (x : BitVec 16) : subfield x 6 10 ++ subfield x 0 6 = x := (subfield_append_subfield x rfl).trans (subfield_all x)
@[simp] theorem clear_rn {mask : Nat} : Clear (rndCode .rn) mask := clear_zero

/-! ### Fields that must be 0 where others say so -/

theorem clear_combPred {cb : Comb} {pc : BitVec 3} (h : combOk cb pc = true) : Clear pc (if combCode cb = 0#2 then 0x3FF else 0x3F8) := by
  cases cb with
  | none =>
    have hz : pc = 0#3 := by simpa [combOk] using h
    subst hz
    exact clear_zero
  | and | or | andn => exact clear_above pc rfl
@[simp] theorem clear_b1_false {mask : Nat} : Clear (b1 false) mask := clear_zero
theorem zeroFields_qscl_band {w : BitVec 64} (h : bit w 0 = true) : zeroFields 0x072 w = (0, 0, 0x3FF, 0x3FF, 0x3E) := if_pos h
theorem zeroFields_qscl_scale {w : BitVec 64} (h : bit w 0 = false) :
    zeroFields 0x072 w = (0, 0, if bit w 5 then 0x380 else 0, 0x3FF, 0x1A) := if_neg (Bool.eq_false_iff.1 h)
/-- A conversion takes a rounding mode (R118). -/
def cvtRounds (dst src : CvtFmt) : Bool := dst != .e2m1 && (dst.isFloat || src.isFloat)
theorem zeroFields_cvt {op : Nat} (hop : op = 0x070 ∨ op = 0x071) {w : BitVec 64} {dst src : CvtFmt} (hd : cvtFmtOf (bits w 16 4) = some dst)
    (hs : cvtFmtOf (bits w 20 4) = some src) : zeroFields op w = (0, 0, 0x300, 0x3FF, if cvtRounds dst src then 0x38 else 0x3B) := by
  unfold zeroFields
  rcases hop with rfl | rfl <;> simp only [hd, hs] <;> cases dst <;> cases src <;> rfl
/-- M of a conversion: its mode is 0 where it takes none. -/
theorem clear_rounding {dst src : CvtFmt} {r : Rnd} (h : cvtRndOk dst src r = true) (sat : Bool) :
    Clear ((0 : BitVec 1) ++ ((0 : BitVec 2) ++ b1 sat ++ rndCode r)) (if cvtRounds dst src then 0x38 else 0x3B) := by
  cases hr : cvtRounds dst src with
  | true => simp [-Nat.reduceAdd, pow_add]
  | false =>
    have h0 : r = .rn := by simpa [cvtRndOk, show (dst != .e2m1 && (dst.isFloat || src.isFloat)) = false from hr] using h
    simp [-Nat.reduceAdd, pow_add, h0]
/-- A field that must be 0 where the word has no use for it, and name a scalar register otherwise. -/
theorem clear_unused {p : Bool} {x : BitVec 7} (h : (!p || x == 0) = true) : Clear x (if p = true then 0x3FF else 0x380) := by
  cases p with
  | false => exact clear_above x rfl
  | true =>
    have hx : x = 0#7 := by simpa using h
    rw [hx]
    exact clear_zero
theorem clear_unless {p : Bool} {x : BitVec 7} (h : (p || x == 0) = true) : Clear x (if p = true then 0x380 else 0x3FF) := by
  cases p with
  | true => exact clear_above x rfl
  | false =>
    have hx : x = 0#7 := by simpa using h
    rw [hx]
    exact clear_zero
theorem clear_barNum {b : Bar} (h : b.ok = true) : Clear b.num (if b.clu = true then 0x3FC else 0x3F0) := by
  cases hc : b.clu with
  | false => exact clear_above b.num rfl
  | true =>
    have hn : b.num.toNat < 4 := by simpa [Bar.ok, hc] using h
    have hclear : ∀ n : BitVec 4, n.toNat < 4 → Nat.land n.toNat 0x3FC = 0 := by decide
    exact hclear b.num hn
theorem clear_cas {op : AtomOp} {d : BitVec 10} {b : BitVec 8} {c : BitVec 10} (h : atomRegsOk op d b c = true) :
    Clear c (if op.isCas = true then 0 else 0x3FF) := by
  cases hc : op.isCas with
  | true => exact clear_noMask c
  | false =>
    have h0 : c = 0#10 := by
      simp only [atomRegsOk, hc, Bool.and_eq_true, Bool.false_or, beq_iff_eq] at h
      exact h.2
    rw [h0]
    exact clear_zero
theorem clear_addrReg {ad : MAddr} (h : ad.ok = true) : Clear ad.reg (if ad.scalar = true then 0x380 else 0) := by
  cases hs : ad.scalar with
  | false => exact clear_noMask _
  | true =>
    have hr : ad.reg.toNat < 2 ^ 7 := by simpa [MAddr.ok, hs] using h
    have hreg : ad.reg = (ad.reg.setWidth 7).setWidth 10 := by
      refine BitVec.eq_of_toNat_eq ?_
      rw [BitVec.toNat_setWidth_of_le (by decide), BitVec.toNat_setWidth, Nat.mod_eq_of_lt hr]
    rw [hreg]
    exact (clear_setWidth _ (by decide)).2 (clear_above _ rfl)
theorem MAddr.ok_of_pairOk {ad : MAddr} (h : ad.pairOk = true) : ad.ok = true := (Bool.and_eq_true_iff.1 h).1
/-- SCOPE is 0 where ORDER is 0 (R139). -/
theorem clear_scope {ord : Bool} {sc : Scope} (h : scopeOk ord sc = true) : Clear (scopeCode sc) ((if (b1 ord).toNat = 0 then 0x300 else 0) / 256) := by
  cases ord with
  | true => exact clear_noMask _
  | false =>
    have hs : sc = .core := by simpa [scopeOk] using h
    rw [hs]
    exact clear_zero
/-- The immediate's bits of B are none of those that ORDER may force to 0. -/
theorem clear_immBits (x : BitVec 8) (ord : Bool) : Clear x ((if (b1 ord).toNat = 0 then 0x300 else 0) % 256) := by
  cases ord with
  | true | false => exact clear_noMask x

/-! ### The decoder on a word of fields -/

/-- R54 on a word of fields, the masks of its opcode being given. -/
theorem fieldBreach_word {op : BitVec 9} {hd : Hdr} {d a b c : BitVec 10} {m : BitVec 6} {zd za zb zc zm : Nat}
    (hz : zeroFields op.toNat (word op hd d a b c m) = (zd, za, zb, zc, zm)) :
    fieldBreach (word op hd d a b c m) = false
      ↔ (Clear d zd ∧ Clear a za ∧ Clear b zb ∧ Clear c zc ∧ Clear m zm) ∧ (needsOne op.toNat && !fieldBit m 5) = false := by
  simp only [fieldBreach, fOp_word, fD_word, fA_word, fB_word, fC_word, fM_word, hz, bit_word_m, Nat.reduceLT, Bool.or_eq_false_iff,
    bne_eq_false_iff_eq, Clear, and_assoc]
/-- A full-form word decodes to the instruction that is read from it and has it as its encoding, where no bit that must be 0 is set and none
that must be 1 is not (R54). -/
theorem decode_word {op : BitVec 9} {hd : Hdr} {d a b c : BitVec 10} {m : BitVec 6} {i : Instr} {zd za zb zc zm : Nat}
    (he : encode i = word op hd d a b c m) (hop : opAssigned op.toNat = true)
    (hz : zeroFields op.toNat (word op hd d a b c m) = (zd, za, zb, zc, zm))
    (hone : (needsOne op.toNat && !fieldBit m 5) = false)
    (hclear : Clear d zd ∧ Clear a za ∧ Clear b zb ∧ Clear c zc ∧ Clear m zm)
    (hr : decodeFull (word op hd d a b c m) = some i) : decode (encode i) = .ok i := by
  have hbreach := (fieldBreach_word hz).2 ⟨hclear, hone⟩
  have hfull : fullReject (word op hd d a b c m) = none := by
    simp only [fullReject, fOp_word, hop, Bool.not_true, Bool.false_eq_true, if_false, hbreach, hr, he, if_true]
  simp only [decode, he, bit_word_63, Bool.false_eq_true, if_false, hfull, hr]
/-- The decoder's part for groups 0 to 2, and that for groups 3 to 5. -/
theorem decodeFull_compute {op : BitVec 9} {hd : Hdr} {d a b c : BitVec 10} {m : BitVec 6} (h : decide (op.toNat < 0xC0) = true) :
    decodeFull (word op hd d a b c m) = decodeCompute op.toNat (word op hd d a b c m) := by
  rw [decodeFull, fOp_word, if_pos (of_decide_eq_true h)]
theorem decodeFull_system {op : BitVec 9} {hd : Hdr} {d a b c : BitVec 10} {m : BitVec 6} (h : decide (op.toNat < 0xC0) = false) :
    decodeFull (word op hd d a b c m) = decodeSystem op.toNat (word op hd d a b c m) := by
  rw [decodeFull, fOp_word, if_neg (of_decide_eq_false h)]
/-- The decoder reads one instruction, whatever the word holds. -/
theorem reads_one {o : Option Instr} {i i' : Instr} (hr : o = some i') (hi : i' = i) : o = some i := hr.trans (congrArg some hi)
/-- The decoder reads an instruction where a field holds one of the codes that it has. -/
theorem reads_map {α : Type} {o : Option Instr} {p : Option α} {f : α → Instr} {i : Instr} (hr : o = p.map f) (hi : p.map f = some i) : o = some i :=
  hr.trans hi


end Sys2Proof
end

section
/-!
Full-form words: the decoder reads each well-formed instruction from the word that the encoder writes for it. Each case names the word's fields,
shows that those which must be 0 are, and reads the operands back.
-/
namespace Sys2Proof

theorem decode_encode_laneResult {i : Instr} (hi : i.laneResult = true) (hw : i.wf = true) : decode (encode i) = .ok i := by
  cases i with
  | iadd | isub | iadd3 | imul | imulh | imad | imadw | imin | imax | iabs | ineg | ishl | ishr | ishra | irot | lop3 | bfx | bfi | brev
    | popc | clz | ctz | prmt | isel | lea | idot4 | mov | movs | vrd | fadd | fsub | fmul | ffma | fmin | fmax | frnd | fclass | fscale
    | dadd | dsub | dmul | dfma | dmin | dmax | drnd | hadd2 | hmul2 | hfma2 | hmin2 | hmax2 | qpk4 | qxp4 | shfl | ballot | matchv
    | elect | actm =>
    refine decode_word rfl rfl rfl rfl ?_ ((decodeFull_compute rfl).trans (reads_one rfl ?_))
    · simp [-Nat.reduceAdd, pow_add]
    · simp [-Nat.reduceAdd]
  | iaddi | imuli | movi | movh =>
    refine decode_word (wordI_eq _ _ _ _ _) rfl rfl rfl ?_ ((decodeFull_compute rfl).trans (reads_one rfl ?_))
    · simp [-Nat.reduceAdd]
    · simp [-Nat.reduceAdd]
  | qex | vote | redux | scan =>
    refine decode_word rfl rfl rfl rfl ?_ ((decodeFull_compute rfl).trans (reads_map rfl ?_))
    · simp [-Nat.reduceAdd, pow_add]
    · simp [-Nat.reduceAdd]
  | jtest | jmask =>
    refine decode_word rfl rfl rfl rfl ?_ ((decodeFull_system rfl).trans (reads_map rfl ?_))
    · simp [-Nat.reduceAdd]
    · simp [-Nat.reduceAdd]
  | isetpi =>
    refine decode_word (wordI_eq _ _ _ _ _) rfl rfl rfl ?_ ((decodeFull_compute rfl).trans (reads_map rfl ?_))
    · simp [-Nat.reduceAdd, pow_add, combCode, cmpField]
    · simp [-Nat.reduceAdd, cmpField]
  | isetp | fsetp | dsetp =>
    simp only [Instr.wf, Bool.and_eq_true] at hw
    refine decode_word rfl rfl rfl rfl ?_ ((decodeFull_compute rfl).trans (reads_map rfl ?_))
    · simp [-Nat.reduceAdd, pow_add, clear_combPred, hw, cmpField]
    · simp [-Nat.reduceAdd, cmpField]
  | hsetp2 =>
    refine decode_word rfl rfl rfl rfl ?_ ((decodeFull_compute rfl).trans (?_))
    · simp [-Nat.reduceAdd, pow_add, clear_combPred hw, cmpField]
    · unfold decodeCompute
      simp [-Nat.reduceAdd, cmpField]
  | qlen =>
    refine decode_word rfl rfl rfl rfl ?_ ((decodeFull_compute rfl).trans (?_))
    · simp [-Nat.reduceAdd]
    · unfold decodeCompute
      simp [-Nat.reduceAdd]
  | topk =>
    simp only [Instr.wf, Bool.and_eq_true, decide_eq_true_eq] at hw
    refine decode_word rfl rfl rfl rfl ?_ ((decodeFull_compute rfl).trans (?_))
    · simp [-Nat.reduceAdd, pow_add]
    · unfold decodeCompute
      simp [-Nat.reduceAdd, hw]
  | qscl h band sat d a b =>
    cases band with
    | false =>
      refine decode_word rfl rfl (zeroFields_qscl_scale ?_) rfl ?_ ((decodeFull_compute rfl).trans (reads_one rfl ?_))
      · simp [-Nat.reduceAdd]
      · simp [-Nat.reduceAdd, pow_add]
      · simp [-Nat.reduceAdd]
    | true =>
      simp only [Instr.wf, Bool.not_true, Bool.false_or, Bool.and_eq_true, Bool.not_eq_true', beq_iff_eq] at hw
      obtain ⟨rfl, rfl⟩ := hw
      refine decode_word rfl rfl (zeroFields_qscl_band ?_) rfl ?_ ((decodeFull_compute rfl).trans (reads_one rfl ?_))
      · simp [-Nat.reduceAdd]
      · simp [-Nat.reduceAdd, pow_add, BSrc.field, BSrc.bit]
      · simp [-Nat.reduceAdd, BSrc.field, BSrc.bit]
  | cvt h dst src r sat d a =>
    simp only [Instr.wf, Bool.and_eq_true] at hw
    obtain ⟨⟨hfmt, hrnd⟩, -⟩ := hw
    refine decode_word rfl rfl (zeroFields_cvt (dst := dst) (src := src) (.inl rfl) ?_ ?_) rfl ⟨clear_noMask _, clear_noMask _, ?_, clear_zero,
      clear_rounding hrnd sat⟩ ((decodeFull_compute rfl).trans ?_)
    · simp [-Nat.reduceAdd]
    · simp [-Nat.reduceAdd]
    · simp [-Nat.reduceAdd]
    · unfold decodeCompute
      simp [-Nat.reduceAdd, hfmt]
  | cvti h dst src r sat d a =>
    simp only [Instr.wf, Bool.and_eq_true] at hw
    obtain ⟨⟨hfmt, hrnd⟩, -⟩ := hw
    have hint : dst.isFloat = true → src.isFloat = false := fun hd => by simpa [hd] using hfmt
    refine decode_word rfl rfl (zeroFields_cvt (dst := dst) (src := src) (.inr rfl) ?_ ?_) rfl ⟨clear_noMask _, clear_noMask _, ?_, clear_zero,
      clear_rounding hrnd sat⟩ ((decodeFull_compute rfl).trans ?_)
    · simp [-Nat.reduceAdd]
    · simp [-Nat.reduceAdd]
    · simp [-Nat.reduceAdd]
    · unfold decodeCompute
      simpa [-Nat.reduceAdd] using hint
  | _ => cases hi
theorem decode_encode_scalarResult {i : Instr} (hi : i.scalarResult = true) (hw : i.wf = true) : decode (encode i) = .ok i := by
  cases i with
  | srd | vtos | sadd | ssub | smul | slop3 | sshl | sshr =>
    refine decode_word rfl rfl rfl rfl ?_ ((decodeFull_compute rfl).trans (reads_one rfl ?_))
    · simp [-Nat.reduceAdd]
    · simp [-Nat.reduceAdd]
  | smovi | smovh =>
    refine decode_word (wordI_eq _ _ _ _ _) rfl rfl rfl ?_ ((decodeFull_compute rfl).trans (reads_one rfl ?_))
    · simp [-Nat.reduceAdd]
    · simp [-Nat.reduceAdd]
  | ssetp =>
    simp only [Instr.wf, Bool.and_eq_true] at hw
    refine decode_word rfl rfl rfl rfl ?_ ((decodeFull_compute rfl).trans (reads_map rfl ?_))
    · simp [-Nat.reduceAdd, clear_combPred, hw, cmpField]
    · simp [-Nat.reduceAdd, cmpField]
  | _ => cases hi
/-- Words of format F-M (Table 3-11). -/
def Instr.addressed : Instr → Bool
  | .lds .. | .sts .. | .ldx .. | .stx .. | .ldk .. | .stk .. | .ldw .. | .ldf .. | .fpoll .. | .fres .. | .fflt .. | .freg .. => true
  | _ => false
theorem decode_encode_addressed {i : Instr} (hi : i.addressed = true) (hw : i.wf = true) : decode (encode i) = .ok i := by
  cases i with
  | lds | sts | ldk | stk =>
    obtain ⟨-, had⟩ := Bool.and_eq_true_iff.1 hw
    refine decode_word (wordM_eq _ _ _ _ _ _ _) rfl rfl rfl ?_ ((decodeFull_system rfl).trans (?_))
    · simp [-Nat.reduceAdd, clear_addrReg had, clear_immBits]
    · unfold decodeSystem
      simp [-Nat.reduceAdd]
  | ldx | stx =>
    obtain ⟨h, hsc⟩ := Bool.and_eq_true_iff.1 hw
    obtain ⟨-, had⟩ := Bool.and_eq_true_iff.1 h
    refine decode_word (wordM_eq _ _ _ _ _ _ _) rfl rfl rfl ?_ ((decodeFull_system rfl).trans (?_))
    · simp [-Nat.reduceAdd, clear_addrReg (MAddr.ok_of_pairOk had), clear_immBits, clear_scope hsc]
    · unfold decodeSystem
      simp [-Nat.reduceAdd]
  | ldw h wide ord sc d ad =>
    obtain ⟨h, hsc⟩ := Bool.and_eq_true_iff.1 hw
    obtain ⟨-, had⟩ := Bool.and_eq_true_iff.1 h
    cases wide with
    | true | false =>
      refine decode_word (wordM_eq _ _ _ _ _ _ _) rfl rfl rfl ?_ ((decodeFull_system rfl).trans (?_))
      · simp [-Nat.reduceAdd, clear_addrReg (MAddr.ok_of_pairOk had), clear_immBits, clear_scope hsc]
      · unfold decodeSystem
        simp [-Nat.reduceAdd, sizeOf?]
  | fres | fflt | freg =>
    obtain ⟨-, had⟩ := Bool.and_eq_true_iff.1 hw
    refine decode_word (wordM_eq _ _ _ _ _ _ _) rfl rfl rfl ?_ ((decodeFull_system rfl).trans (?_))
    · simp [-Nat.reduceAdd, clear_addrReg (MAddr.ok_of_pairOk had)]
    · unfold decodeSystem
      simp [-Nat.reduceAdd, sizeOf?]
  | ldf h wide d ad =>
    obtain ⟨-, had⟩ := Bool.and_eq_true_iff.1 hw
    cases wide with
    | true | false =>
      refine decode_word (wordM_eq _ _ _ _ _ _ _) rfl rfl rfl ?_ ((decodeFull_system rfl).trans (?_))
      · simp [-Nat.reduceAdd, clear_addrReg (MAddr.ok_of_pairOk had)]
      · unfold decodeSystem
        simp [-Nat.reduceAdd, sizeOf?]
  | fpoll h wide d ad =>
    obtain ⟨-, had⟩ := Bool.and_eq_true_iff.1 hw
    cases wide with
    | true | false =>
      refine decode_word (wordM_eq _ _ _ _ _ _ _) rfl rfl rfl ?_ ((decodeFull_system rfl).trans (?_))
      · simp [-Nat.reduceAdd, clear_addrReg (MAddr.ok_of_pairOk had)]
      · unfold decodeSystem
        simp [-Nat.reduceAdd, sizeOf?]
  | _ => cases hi
theorem decode_encode_needsLane {i : Instr} (hi : i.needsLane = true) (hw : i.wf = true) : decode (encode i) = .ok i := by
  cases i with
  | sfq | qpop =>
    refine decode_word rfl rfl rfl rfl ?_ ((decodeFull_compute rfl).trans (?_))
    · simp [-Nat.reduceAdd]
    · unfold decodeCompute
      simp [-Nat.reduceAdd]
  | regrp =>
    simp only [Instr.wf, Bool.and_eq_true, decide_eq_true_eq] at hw
    refine decode_word rfl rfl rfl rfl ?_ ((decodeFull_compute rfl).trans (?_))
    · simp [-Nat.reduceAdd]
    · unfold decodeCompute
      simp [-Nat.reduceAdd, hw]
  | nap | trap | bkpt =>
    refine decode_word (wordI_eq _ _ _ _ _) rfl rfl rfl ?_ ((decodeFull_system rfl).trans (reads_one rfl ?_))
    · simp [-Nat.reduceAdd]
    · simp [-Nat.reduceAdd]
  | exit | yield | nop | jenter | jquit | jquitm | jwait | mma | mmas | mmat | msync | mchg =>
    refine decode_word rfl rfl rfl rfl ?_ ((decodeFull_system rfl).trans (reads_one rfl ?_))
    · simp [-Nat.reduceAdd]
    · simp [-Nat.reduceAdd]
  | rtt | fence =>
    refine decode_word rfl rfl rfl rfl ?_ ((decodeFull_system rfl).trans (reads_map rfl ?_))
    · simp [-Nat.reduceAdd]
    · simp [-Nat.reduceAdd]
  | bara | barw | bar | barq =>
    simp only [Instr.wf] at hw
    refine decode_word rfl rfl rfl rfl ?_ ((decodeFull_system rfl).trans (reads_one rfl ?_))
    · simp [-Nat.reduceAdd, pow_add, clear_barNum hw, Bar.m, Bar.a]
    · simp [-Nat.reduceAdd, Bar.m, Bar.a]
  | bari =>
    simp only [Instr.wf, Bool.and_eq_true, decide_eq_true_eq] at hw
    refine decode_word rfl rfl rfl rfl ?_ ((decodeFull_system rfl).trans (?_))
    · simp [-Nat.reduceAdd, pow_add, clear_barNum hw.1, Bar.m, Bar.a]
    · unfold decodeSystem
      simp [-Nat.reduceAdd, hw, Bar.m, Bar.a]
  | barx h bar b =>
    obtain ⟨clu, num⟩ := bar
    obtain rfl : clu = false := by simpa [Instr.wf] using hw
    refine decode_word rfl rfl rfl rfl ?_ ((decodeFull_system rfl).trans (?_))
    · simp [-Nat.reduceAdd, pow_add, Bar.m, Bar.a]
    · unfold decodeSystem
      simp [-Nat.reduceAdd, Bar.m, Bar.a]
  | atoms =>
    refine decode_word rfl rfl rfl rfl ?_ ((decodeFull_system rfl).trans (reads_one rfl ?_))
    · simp [-Nat.reduceAdd, clear_cas hw]
    · simp [-Nat.reduceAdd]
  | atomx =>
    obtain ⟨hregs, -⟩ := Bool.and_eq_true_iff.1 hw
    refine decode_word rfl rfl rfl rfl ?_ ((decodeFull_system rfl).trans (reads_one rfl ?_))
    · simp [-Nat.reduceAdd, clear_cas hregs]
    · simp [-Nat.reduceAdd]
  | redx =>
    simp only [Instr.wf, Bool.and_eq_true, Bool.not_eq_true', bne_iff_ne] at hw
    refine decode_word rfl rfl rfl rfl ?_ ((decodeFull_system rfl).trans (?_))
    · simp [-Nat.reduceAdd]
    · unfold decodeSystem
      simp [-Nat.reduceAdd, hw]
  | fencer =>
    refine decode_word rfl rfl rfl rfl ?_ ((decodeFull_system rfl).trans (reads_one rfl ?_))
    · simp [-Nat.reduceAdd, clear_unless hw]
    · simp [-Nat.reduceAdd]
  | lnch | vmark | vstamp =>
    refine decode_word rfl rfl rfl ?_ ?_ ((decodeFull_system rfl).trans (reads_one rfl ?_))
    · simp [-Nat.reduceAdd, needsOne]
    · simp [-Nat.reduceAdd]
    · simp [-Nat.reduceAdd]
  | vwait | vrefr =>
    refine decode_word rfl rfl rfl ?_ ?_ ((decodeFull_system rfl).trans (reads_one rfl ?_))
    · simp [-Nat.reduceAdd, needsOne]
    · simp [-Nat.reduceAdd, clear_unused hw]
    · simp [-Nat.reduceAdd]
  | spawn =>
    obtain ⟨-, hargs⟩ := Bool.and_eq_true_iff.1 hw
    refine decode_word rfl rfl rfl ?_ ?_ ((decodeFull_system rfl).trans (reads_one rfl ?_))
    · simp [-Nat.reduceAdd, needsOne]
    · simp [-Nat.reduceAdd, pow_add, clear_unused hargs]
    · simp [-Nat.reduceAdd]
  | roddef =>
    refine decode_word rfl rfl rfl ?_ ?_ ((decodeFull_system rfl).trans (?_))
    · simp [-Nat.reduceAdd, needsOne]
    · simp [-Nat.reduceAdd]
    · unfold decodeSystem
      simp [-Nat.reduceAdd]
  | bcp | bga | bsc | bmc | bfill | bpfx =>
    refine decode_word rfl rfl rfl rfl ?_ ((decodeFull_system rfl).trans (?_))
    · simp [-Nat.reduceAdd, pow_add]
    · unfold decodeSystem
      simp [-Nat.reduceAdd]
  | bcpp =>
    obtain ⟨-, hpull⟩ := Bool.and_eq_true_iff.1 hw
    refine decode_word rfl rfl rfl ?_ ?_ ((decodeFull_system rfl).trans (?_))
    · simp [-Nat.reduceAdd, needsOne]
    · simp [-Nat.reduceAdd, clear_unused hpull]
    · unfold decodeSystem
      simp [-Nat.reduceAdd]
  | srd | vtos => exact decode_encode_scalarResult rfl hw
  | lds | sts | ldx | stx | ldk | stk | ldw | ldf | fpoll | fres | fflt | freg => exact decode_encode_addressed rfl hw
  | _ => cases hi
/-- Branches, calls and returns. -/
def Instr.controlFlow : Instr → Bool
  | .bra .. | .brx .. | .call .. | .callx .. | .ret .. => true
  | _ => false
theorem decode_encode_controlFlow {i : Instr} (hi : i.controlFlow = true) : decode (encode i) = .ok i := by
  cases i with
  | bra | call =>
    refine decode_word (wordI_eq _ _ _ _ _) rfl rfl rfl ?_ ((decodeFull_system rfl).trans (reads_one rfl ?_))
    · simp [-Nat.reduceAdd]
    · simp [-Nat.reduceAdd]
  | brx | callx | ret =>
    refine decode_word rfl rfl rfl rfl ?_ ((decodeFull_system rfl).trans (reads_one rfl ?_))
    · simp [-Nat.reduceAdd]
    · simp [-Nat.reduceAdd]
  | _ => cases hi
/-- Every instruction word is of one of these kinds. -/
theorem isWord_eq_kinds (i : Instr) : i.isWord = (i.laneResult || i.scalarResult || i.needsLane || i.controlFlow || i.pair?.isSome) := by
  cases i <;> rfl

end Sys2Proof
end

section
/-!
Paired words, and what the decoder accepts and refuses.
-/
namespace Sys2Proof

/-! ### Paired words -/

@[simp] theorem pairOpOf_code (x : PairOp) : pairOpOf (pairOpCode x) = some x := by cases x <;> rfl
/-- The paired opcodes that are assigned are those below 0x1E. -/
theorem pairOpOf_eq_none : ∀ {x : BitVec 6}, 0x1E ≤ x.toNat → pairOpOf x = none := by decide
theorem pairOpCode_of : ∀ {x : BitVec 6}, ∀ p ∈ pairOpOf x, pairOpCode p = x := by decide
theorem pairOpOf_isSome : ∀ {x : BitVec 6}, x.toNat < 0x1E → (pairOpOf x).isSome = true := by decide

section
variable (op : PairOp) (x : Slot)
@[simp] theorem subfield_slotWord_op : subfield (slotWord op x) 24 6 = pairOpCode op := by simp [-Nat.reduceAdd, slotWord]
@[simp] theorem subfield_slotWord_d : subfield (slotWord op x) 16 8 = x.d := by simp [-Nat.reduceAdd, slotWord]
@[simp] theorem subfield_slotWord_s : subfield (slotWord op x) 8 8 = x.s := by simp [-Nat.reduceAdd, slotWord]
@[simp] theorem fieldBit_slotWord_n : fieldBit (slotWord op x) 7 = x.n := by simp [-Nat.reduceAdd, slotWord]
@[simp] theorem subfield_slotWord_g : subfield (slotWord op x) 4 3 = x.g := by simp [-Nat.reduceAdd, slotWord]
@[simp] theorem fieldBit_slotWord_unused : fieldBit (slotWord op x) 3 = false := by simp [-Nat.reduceAdd, slotWord]
@[simp] theorem fieldBit_slotWord_ftz : fieldBit (slotWord op x) 2 = x.ftz := by simp [-Nat.reduceAdd, slotWord]
@[simp] theorem subfield_slotWord_rnd : subfield (slotWord op x) 0 2 = rndCode x.rnd := by simp [-Nat.reduceAdd, slotWord]
end

section
variable (op : PairOp) (p : Pair) {lo n i : Nat}
theorem bits_pair_stall : bits (pairWordOf op p) 60 3 = p.stall := by
  simp (disch := omega) only [bits, pairWordOf, BitVec.extractLsb'_append_eq_of_le, BitVec.extractLsb'_append_eq_of_add_le, BitVec.extractLsb'_eq_self,
    Nat.reduceSub]
@[simp] theorem bits_pair_slot0 (h1 : 30 ≤ lo) (h2 : n ≤ 60 - lo) (h0 : lo ≤ 60) :
    bits (pairWordOf op p) lo n = subfield (slotWord op p.slot0) (lo - 30) n := by
  simp (disch := omega) only [bits, subfield, pairWordOf, BitVec.extractLsb'_append_eq_of_le, BitVec.extractLsb'_append_eq_of_add_le]
@[simp] theorem bits_pair_slot1 (h : n ≤ 30 - lo) (h0 : lo ≤ 30) : bits (pairWordOf op p) lo n = subfield (slotWord p.op1 p.slot1) lo n := by
  simp (disch := omega) only [bits, subfield, pairWordOf, BitVec.extractLsb'_append_eq_of_add_le]
@[simp] theorem bit_pair_63 : bit (pairWordOf op p) 63 = true := by
  simp only [bit, pairWordOf, BitVec.getLsbD_append, Nat.reduceLT, Nat.reduceSub, if_false]
  rfl
@[simp] theorem bit_pair_slot0 (h1 : 30 ≤ i) (h2 : i < 60) : bit (pairWordOf op p) i = fieldBit (slotWord op p.slot0) (i - 30) :=
  fieldBit_eq_of_subfield (bits_pair_slot0 op p h1 (by omega) (by omega))
@[simp] theorem bit_pair_slot1 (h : i < 30) : bit (pairWordOf op p) i = fieldBit (slotWord p.op1 p.slot1) i :=
  fieldBit_eq_of_subfield (bits_pair_slot1 op p (by omega) (by omega))
@[simp] theorem slotAt_pair_0 : slotAt (pairWordOf op p) 30 = p.slot0 := by simp [slotAt]
@[simp] theorem slotAt_pair_1 : slotAt (pairWordOf op p) 0 = p.slot1 := by simp [slotAt]
end

theorem encode_pairInstr (op : PairOp) (p : Pair) : encode (pairInstr op p) = pairWordOf op p := by
  cases op <;> rfl
theorem wf_pairInstr (op : PairOp) (p : Pair) : (pairInstr op p).wf = (slotOk op p.slot0 && slotOk p.op1 p.slot1) := by
  cases op <;> rfl
theorem isWord_pairInstr (op : PairOp) (p : Pair) : (pairInstr op p).isWord = true := by
  cases op <;> rfl
theorem eq_pairInstr {i : Instr} {op : PairOp} {p : Pair} (h : i.pair? = some (op, p)) : i = pairInstr op p := by
  cases i <;> cases h <;> rfl

theorem decode_encode_pairInstr {op : PairOp} {p : Pair} (hw : (pairInstr op p).wf = true) :
    decode (encode (pairInstr op p)) = .ok (pairInstr op p) := by
  rw [wf_pairInstr, Bool.and_eq_true] at hw
  obtain ⟨h0, h1⟩ := hw
  have hreject : pairReject (pairWordOf op p) = none := by simp [pairReject, slotBreach, h0, h1]
  have hread : decodePair (pairWordOf op p) = some (pairInstr op p) := by simp [decodePair, bits_pair_stall]
  rw [encode_pairInstr]
  simp only [decode, bit_pair_63, if_true, hreject, hread]

/-- Settles O1: a full-form word is read back field by field, a paired word slot by slot. -/
theorem encodeThenDecode : Obligations.EncodeThenDecode := by
  unfold Obligations.EncodeThenDecode
  intro i hi hw
  simp only [isWord_eq_kinds, Bool.or_eq_true] at hi
  obtain (((hlane | hscalar) | hneeds) | hflow) | hpair := hi
  · exact decode_encode_laneResult hlane hw
  · exact decode_encode_scalarResult hscalar hw
  · exact decode_encode_needsLane hneeds hw
  · exact decode_encode_controlFlow hflow
  · obtain ⟨x, hx⟩ := Option.isSome_iff_exists.1 hpair
    obtain rfl := eq_pairInstr hx
    exact decode_encode_pairInstr hw

theorem decode_of_encode {i : Instr} {w : BitVec 64} (hi : i.isWord = true) (hw : i.wf = true) (he : encode i = w) : decode w = .ok i := by
  have h := encodeThenDecode
  unfold Obligations.EncodeThenDecode at h
  exact he ▸ h i hi hw
/-- Settles O3: each word is the encoding of the instruction that it stands for. -/
theorem specWordsDecode : Obligations.SpecWordsDecode := by
  unfold Obligations.SpecWordsDecode
  refine ⟨?_, ?_, ?_, ?_, ?_, ?_, ?_, ?_, ?_, ?_⟩ <;> exact decode_of_encode rfl rfl rfl

/-! ### Words that the decoder accepts -/

theorem rndCode_of : ∀ x : BitVec 2, rndCode (rndOf x) = x := by decide
/-- Where the bit of M that R64 leaves unused is 0, a slot's word is its 30 bits. -/
theorem slotWord_slotAt {w : BitVec 64} {lo : Nat} {op : PairOp} (hop : pairOpCode op = bits w (lo + 24) 6) (hbit : bit w (lo + 3) = false) :
    slotWord op (slotAt w lo) = bits w lo 30 := by
  refine BitVec.eq_of_getLsbD_eq fun i hi => ?_
  simp only [slotWord, slotAt, rndCode_of, hop, bits, bit, b1, BitVec.getLsbD_append, BitVec.getLsbD_extractLsb', BitVec.getLsbD_ofBool] at hbit ⊢
  grind
/-- What the decoder has found of a word that it accepts, in each form. -/
theorem decode_ok {w : BitVec 64} {i : Instr} (h : decode w = .ok i) :
    (bit w 63 = true ∧ pairReject w = none ∧ decodePair w = some i) ∨ (bit w 63 = false ∧ fullReject w = none ∧ decodeFull w = some i) := by
  unfold decode at h
  split at h
  · cases h
  · rename_i hr
    split at h
    · rename_i hd
      cases h
      cases hb : bit w 63 with
      | true => exact .inl ⟨rfl, by simpa [hb] using hr, by simpa [hb] using hd⟩
      | false => exact .inr ⟨rfl, by simpa [hb] using hr, by simpa [hb] using hd⟩
    · cases h
/-- A full-form word that is accepted is the encoding of what is read from it: the decoder compares them. -/
theorem encode_of_fullReject {w : BitVec 64} {i : Instr} (hr : fullReject w = none) (hd : decodeFull w = some i) : encode i = w := by
  unfold fullReject at hr
  dsimp only at hr
  split at hr
  · cases hr
  · split at hr
    · cases hr
    · rw [hd] at hr
      by_contra hne
      simp [hne] at hr
/-- A paired word that is accepted has no bit beside the fields of its slots. -/
theorem pairWordOf_of_pairReject {w : BitVec 64} {i : Instr} (h63 : bit w 63 = true) (hr : pairReject w = none) (hd : decodePair w = some i) :
    ∃ op p, i = pairInstr op p ∧ pairWordOf op p = w := by
  unfold pairReject at hr
  unfold decodePair at hd
  dsimp only at hr
  cases h0 : pairOpOf (bits w 54 6) with
  | none => simp [h0] at hd
  | some op =>
    cases h1 : pairOpOf (bits w 24 6) with
    | none => simp [h0, h1] at hd
    | some op1 =>
      simp only [h0, h1, Option.some.injEq] at hd
      simp only [h0, h1] at hr
      refine ⟨op, _, hd.symm, ?_⟩
      have hb0 : slotBreach w 30 op = false := by
        cases hb : slotBreach w 30 op with
        | false => rfl
        | true => simp [hb] at hr
      have hb1 : slotBreach w 0 op1 = false := by
        cases hb : slotBreach w 0 op1 with
        | false => rfl
        | true => simp [hb, hb0] at hr
      have hs0 : slotWord op (slotAt w 30) = subfield w 30 30 := slotWord_slotAt (pairOpCode_of op h0) (Bool.or_eq_false_iff.1 hb0).1
      have hs1 : slotWord op1 (slotAt w 0) = subfield w 0 30 := slotWord_slotAt (pairOpCode_of op1 h1) (Bool.or_eq_false_iff.1 hb1).1
      have htop : (1 : BitVec 1) = subfield w 63 1 := by
        refine BitVec.eq_of_getLsbD_eq fun i hi => ?_
        obtain rfl : i = 0 := by omega
        simpa [subfield, bit] using h63.symm
      have hstall : bits w 60 3 = subfield w 60 3 := rfl
      simp only [pairWordOf, hs0, hs1, htop, hstall]
      rw [subfield_append_subfield w (lo := 63) (i := 60) (k := 3) rfl, subfield_append_subfield w (lo := 60) (i := 30) (k := 30) rfl]
      exact (subfield_append_subfield w rfl).trans (subfield_all w)
theorem encode?_isSome (i : Instr) : (encode? i).isSome = i.isWord := by
  cases i <;> rfl
theorem encode_of_not_word {i : Instr} (h : i.isWord = false) : encode i = 0 := by
  rw [← encode?_isSome, Option.isSome_eq_false_iff, Option.isNone_iff_eq_none] at h
  rw [encode, h]
  rfl
/-- The word of all zeros is an instruction word (IADD), so no step stands for it. -/
theorem isWord_of_decode_zero {i : Instr} (h : decode 0 = .ok i) : i.isWord = true := by
  have hz : decode 0 = .ok (.iadd ⟨0, false, false, 0⟩ 0 0 (.v 0)) := by decide
  rw [hz] at h
  cases h
  rfl

/-- Settles O2: of a full-form word the decoder compares the encoding with the word; a paired word is put together again from its fields. -/
theorem decodedWordsEncodeBack : Obligations.DecodedWordsEncodeBack := by
  unfold Obligations.DecodedWordsEncodeBack
  intro w i h
  obtain ⟨h63, hr, hd⟩ | ⟨-, hr, hd⟩ := decode_ok h
  · obtain ⟨op, p, rfl, hw⟩ := pairWordOf_of_pairReject h63 hr hd
    exact ⟨isWord_pairInstr op p, (encode_pairInstr op p).trans hw⟩
  · have he := encode_of_fullReject hr hd
    refine ⟨?_, he⟩
    by_contra hn
    rw [encode_of_not_word (Bool.not_eq_true _ ▸ hn)] at he
    exact hn (isWord_of_decode_zero (he ▸ h))

/-! ### Words that the decoder refuses -/

theorem decode_of_pairReject {w : BitVec 64} {x : Reject} (h63 : bit w 63 = true) (hr : pairReject w = some x) : decode w = .error x := by
  simp only [decode, h63, if_true, hr]
theorem decode_of_fullReject {w : BitVec 64} {x : Reject} (h63 : bit w 63 = false) (hr : fullReject w = some x) : decode w = .error x := by
  simp only [decode, h63, Bool.false_eq_true, if_false, hr]
theorem fullReject_unassigned {w : BitVec 64} (h : opAssigned (fOp w).toNat = false) : fullReject w = some ⟨1, 0, (fOp w).toNat⟩ := by
  simp only [fullReject, h, Bool.not_false, if_true]
theorem fullReject_fieldBreach {w : BitVec 64} (hop : opAssigned (fOp w).toNat = true) (h : fieldBreach w = true) : fullReject w = some ⟨2, 0, 0⟩ := by
  simp only [fullReject, hop, Bool.not_true, Bool.false_eq_true, if_false, h, if_true]
theorem pairReject_op0 {w : BitVec 64} (h : 0x1E ≤ (bits w 54 6).toNat) : pairReject w = some ⟨1, 1, (bits w 54 6).toNat⟩ := by
  simp only [pairReject, pairOpOf_eq_none h]
theorem pairReject_op1 {w : BitVec 64} (h0 : (bits w 54 6).toNat < 0x1E) (h1 : 0x1E ≤ (bits w 24 6).toNat) :
    pairReject w = some ⟨1, 2, (bits w 24 6).toNat⟩ := by
  obtain ⟨p, hp⟩ := Option.isSome_iff_exists.1 (pairOpOf_isSome h0)
  simp only [pairReject, hp, pairOpOf_eq_none h1]
theorem eq_zero_of_clear {c : BitVec 10} (h : Clear c 0x3FF) : c = 0 := by
  refine BitVec.eq_of_toNat_eq ?_
  have hmod : c.toNat % 2 ^ 10 = 0 := (Nat.and_two_pow_sub_one_eq_mod c.toNat 10).symm.trans h
  rwa [Nat.mod_eq_of_lt c.isLt] at hmod
theorem and_eq_zero_of_clear {m : BitVec 6} (h : Clear m 0x1F) : m &&& 0x1F = 0 := BitVec.eq_of_toNat_eq ((BitVec.toNat_and m 0x1F).trans h)
/-- Where the bits above the seven of a scalar register are 0, it is one of s0 to s127. -/
theorem lt_of_clear_scalar {b : BitVec 10} (h : Clear b 0x380) : b.toNat < 2 ^ 7 := by
  refine Nat.lt_pow_two_of_testBit _ fun i hi => ?_
  by_cases hlt : i < 10
  · refine (clear_iff b).1 h i ?_
    interval_cases i <;> rfl
  · exact BitVec.getLsbD_of_ge b i (Nat.le_of_not_lt hlt)
/-- The words of Table 7-1 whose operands are `a` and `b(s)` alone, and whose C and M[4:0] are unused. -/
theorem fieldBreach_plain {op : BitVec 9} (hop : op ∈ [0x000, 0x001, 0x003, 0x00B, 0x00C, 0x00D, 0x00E]) (hd : Hdr) (d a b c : BitVec 10)
    (m : BitVec 6) (h : fieldBreach (word op hd d a b c m) = false) : Clear b (if fieldBit m 5 = true then 0x380 else 0) ∧ Clear c 0x3FF ∧ Clear m 0x1F := by
  have hz : zeroFields op.toNat (word op hd d a b c m) = (0, 0, if bit (word op hd d a b c m) 5 = true then 0x380 else 0, 0x3FF, 0x1F) := by
    simp only [List.mem_cons, List.not_mem_nil, or_false] at hop
    obtain rfl | rfl | rfl | rfl | rfl | rfl | rfl := hop <;> rfl
  obtain ⟨⟨-, -, hb, hc, hm⟩, -⟩ := (fieldBreach_word hz).1 h
  rw [bit_word_m _ _ _ _ _ _ _ (by decide)] at hb
  exact ⟨hb, hc, hm⟩

/-- Settles O4: the first check that fails names the refusal; the words of Table 7-1 breach R54. -/
theorem illFormedWordsAreRejected : Obligations.IllFormedWordsAreRejected := by
  unfold Obligations.IllFormedWordsAreRejected
  refine ⟨fun w => ⟨fun h63 hop => decode_of_fullReject h63 (fullReject_unassigned hop), fun h63 h0 => decode_of_pairReject h63 (pairReject_op0 h0),
    fun h63 h0 h1 => decode_of_pairReject h63 (pairReject_op1 h0 h1)⟩, fun op hd d a b c m hop hbad => ?_⟩
  have hassigned : ∀ op ∈ ([0x000, 0x001, 0x003, 0x00B, 0x00C, 0x00D, 0x00E] : List (BitVec 9)), opAssigned op.toNat = true := by decide
  refine decode_of_fullReject (bit_word_63 ..) (fullReject_fieldBreach (by rw [fOp_word]; exact hassigned op hop) ?_)
  by_contra hbreach
  obtain ⟨hb, hc, hm⟩ := fieldBreach_plain hop hd d a b c m (Bool.not_eq_true _ ▸ hbreach)
  unfold fieldBit at hb
  obtain hbad | hbad | ⟨h5, hlarge⟩ := hbad
  · exact hbad (eq_zero_of_clear hc)
  · exact hbad (and_eq_zero_of_clear hm)
  · rw [if_pos h5] at hb
    exact absurd (lt_of_clear_scalar hb) (Nat.not_lt.2 hlarge)

end Sys2Proof
end

section
/-! Registers: a read after a write (R67), and the landing of a single outstanding result. -/

namespace Sys2Proof.Machine

theorem vKey_inj {k l n m : Nat} (hn : n < 1024) (hm : m < 1024) : vKey k m = vKey l n ↔ k = l ∧ m = n := by
  unfold vKey
  omega

namespace Warp

@[simp] theorem rv_put_v (w : Warp) (l k : Nat) {n m : Nat} (x : Word) (hn : n < 1024) (hm : m < 1024) :
    (w.put (.v l n) x).rv k m = if k = l ∧ m = n then x else w.rv k m := by
  simp only [put, rv, Sparse.get_set, vKey_inj hn hm]

@[simp] theorem s_put_v (w : Warp) (l n : Nat) (x : Word) : (w.put (.v l n) x).s = w.s := rfl
@[simp] theorem p_put_v (w : Warp) (l n : Nat) (x : Word) : (w.put (.v l n) x).p = w.p := rfl
@[simp] theorem v_put_s (w : Warp) (n : Nat) (x : Word) : (w.put (.s n) x).v = w.v := rfl
@[simp] theorem p_put_s (w : Warp) (n : Nat) (x : Word) : (w.put (.s n) x).p = w.p := rfl

@[simp] theorem rs_put_s (w : Warp) (n m : Nat) (x : Word) : (w.put (.s n) x).rs m = if m = n then x else w.rs m := by
  simp only [put, rs, Sparse.get_set]

@[simp] theorem put_p7 (w : Warp) (l : Nat) (x : Word) : w.put (.p l 7) x = w := rfl
@[simp] theorem rp_seven (w : Warp) (l : Nat) : w.rp l 7 = true := rfl

theorem rp_put_p (w : Warp) (l k : Nat) {n m : Nat} (x : Word) (hn : n < 7) (hm : m < 8) :
    (w.put (.p l n) x).rp k m = if k = l ∧ m = n then x != 0 else w.rp k m := by
  have hkey : 8 * k + m = 8 * l + n ↔ k = l ∧ m = n := by omega
  have hn7 : (n == 7) = false := by simp; omega
  simp only [put, hn7, Bool.false_eq_true, if_false, rp, Sparse.get_set, hkey]
  split
  · next h => simp [h.2, hn7]
  · rfl

@[simp] theorem v_put_p (w : Warp) (l n : Nat) (x : Word) : (w.put (.p l n) x).v = w.v := by
  simp only [put]; split <;> rfl
@[simp] theorem s_put_p (w : Warp) (l n : Nat) (x : Word) : (w.put (.p l n) x).s = w.s := by
  simp only [put]; split <;> rfl

/-- A single outstanding result lands at its cycle and stays queued before it. -/
theorem landDue_single (w : Warp) (p : Pending) (now : Nat) :
    { w with pend := [p] }.landDue now =
      if p.due ≤ now then { ({ w with pend := [p] } : Warp).put p.reg p.val with pend := [] } else { w with pend := [p] } := by
  unfold landDue
  by_cases h : p.due ≤ now <;> simp [h]

end Warp

/-- Settles O10: vector registers of two lanes and predicates of two lanes stand at different keys. -/
theorem registerReadAfterWrite : Obligations.RegisterReadAfterWrite := by
  intro w l n k m x hn hm
  exact ⟨w.rv_put_v l k x hn hm, w.s_put_v l n x, w.p_put_v l n x, w.rs_put_s n m x, w.v_put_s n x, w.p_put_s n x,
    w.rp_put_p l k x, w.put_p7 l x, w.rp_seven l, w.v_put_p l n x, w.s_put_p l n x⟩

/-- Settles O11: the only outstanding result is written exactly from its cycle on. -/
theorem fixedLatencyResultsLand : Obligations.FixedLatencyResultsLand := by
  intro w l n due now x hw hn
  simp only [hw, addPend, Warp.landDue_single]
  by_cases hdue : due ≤ now
  · have hv : ∀ k m, m < 1024 → ({ w with pend := [⟨.v l n, x, due⟩] }.put (.v l n) x).rv k m = if k = l ∧ m = n then x else w.rv k m :=
      fun k m hm => Warp.rv_put_v _ l k x hn hm
    have hs : ∀ m, ({ w with pend := [⟨.s n, x, due⟩] }.put (.s n) x).rs m = if m = n then x else w.rs m :=
      fun m => Warp.rs_put_s _ n m x
    simp only [hdue, if_true]
    refine ⟨?_, fun k m hm hne => ?_, fun m => rfl, ?_, fun m hne => ?_, fun h => absurd hdue (by omega), fun _ => trivial⟩
    · exact (hv l n hn).trans (if_pos ⟨rfl, rfl⟩)
    · exact (hv k m hm).trans (if_neg hne)
    · exact (hs n).trans (if_pos rfl)
    · exact (hs m).trans (if_neg hne)
  · simp only [hdue, if_false]
    exact ⟨rfl, fun _ _ _ _ => rfl, fun _ => rfl, rfl, fun _ _ => rfl, fun _ => trivial, fun h => h.elim⟩

end Sys2Proof.Machine
end

section
/-! Paired words (R64, R65): one arm for all thirty operations, and the result of each. -/

namespace Sys2Proof.Machine

variable {s t : State} {c : Ctx}

/-- Whatever its first operation, a paired word has the effect of both its slots. -/
theorem exec_pairInstr (op : PairOp) (p : Pair) (s : State) :
    exec (pairInstr op p) s = pairedOp (pairInstr op p) op p (slotResult op) s := by
  cases op <;> rfl

/-- No enabled exception in any of the slot's lanes. -/
def SlotQuiet (c : Ctx) (t : State) (op : PairOp) (x : Slot) : Prop :=
  ∀ l ∈ (slotLanes c op x).lanes 64, (slotResult op x c.w l).2 &&& (t.vf c.blk.vf).fpxctl.setWidth 5 = 0

theorem slotRaised_and {op : PairOp} {x : Slot} (h : SlotQuiet c t op x) :
    slotRaised c op x (slotResult op) &&& (t.vf c.blk.vf).fpxctl.setWidth 5 = 0 :=
  raisedIn_and _ _ _ 0 (by simp) h

theorem fpxTrap_or {ctl : Word} {x y : Flags} (hx : x &&& ctl.setWidth 5 = 0) (hy : y &&& ctl.setWidth 5 = 0) :
    fpxTrap ctl (x ||| y) = none := by
  have h : (x ||| y) &&& ctl.setWidth 5 = 0 := by
    rw [BitVec.and_comm, BitVec.and_or_distrib_left, BitVec.and_comm _ x, BitVec.and_comm _ y, hx, hy]
    rfl
  simp only [fpxTrap, h, beq_self_eq_true, if_true]

theorem exec_pairInstr_of_quiet {op : PairOp} {p : Pair} (h : Issues (pairInstr op p) s c t)
    (h0 : SlotQuiet c t op p.slot0) (h1 : SlotQuiet c t p.op1 p.slot1) :
    exec (pairInstr op p) s
      = .next (c.gives t (slotWrites c op p.slot0 (slotResult op) ++ slotWrites c p.op1 p.slot1 (slotResult p.op1))) := by
  rw [exec_pairInstr]
  refine issue_ok h ?_
  simp only [fpxTrap_or (slotRaised_and h0) (slotRaised_and h1)]

theorem iabsOf_eq (b : Word) : iabsOf b = if b.toInt < 0 then -b else b := by
  simp only [iabsOf, BitVec.msb_eq_toInt, decide_eq_true_eq]

/-- A packed operation acts on the low halves and on the high halves. -/
theorem both_half (g : Nat → Nat → Nat × Flags) (a b : Word) :
    both (fun i => g (half a i) (half b i)) =
      ((g (a.extractLsb' 0 16).toNat (b.extractLsb' 0 16).toNat).1 + 2 ^ 16 * (g (a.extractLsb' 16 16).toNat (b.extractLsb' 16 16).toNat).1,
        (g (a.extractLsb' 0 16).toNat (b.extractLsb' 0 16).toNat).2 ||| (g (a.extractLsb' 16 16).toNat (b.extractLsb' 16 16).toNat).2) := by
  simp only [both, half_eq, Nat.mul_zero, Nat.mul_one]

/-- Settles O32: the model's slot result is the named one for each of the thirty operations. -/
theorem pairedWords : Obligations.PairedWords := by
  intro op p s c t i res lanes writes quiet h h0 h1
  have hres : ∀ o x l, slotResult o x c.w l = res o x l := by
    intro o x l
    cases o with
    | iabs => exact congrArg (·, (0 : Flags)) (iabsOf_eq _)
    | hadd2 | hmul2 | hmin2 | hmax2 => exact congrArg (fun y : Nat × Flags => (BitVec.ofNat 32 y.1, y.2)) (both_half _ _ _)
    | _ => rfl
  have hquiet : ∀ o x, quiet o x → SlotQuiet c t o x := fun o x hq l hl => by rw [hres]; exact hq l hl
  have hwrites : ∀ o x, slotWrites c o x (slotResult o) = writes o x := fun o x => by
    simp only [slotWrites, hres]; rfl
  rw [exec_pairInstr_of_quiet h (hquiet _ _ h0) (hquiet _ _ h1), hwrites, hwrites]

end Sys2Proof.Machine
end

section
/-!
Words that issue with no active lane (R75). `Idle` names the situation; then come the parts that instructions share, and the shapes that their
bodies have, each of which leaves the state as it is.
-/
namespace Sys2Proof.Machine

variable {i : Instr} {s t : State} {c : Ctx}

/-! ### Parts of an effect that are nothing without a lane -/

@[simp] theorem Mask.lanes_zero (n : Nat) : (0 : Mask).lanes n = [] :=
  List.filter_eq_nil_iff.2 fun l _ => by simp
theorem State.mapWarp_eq_self {r : WarpRef} {f : Warp → Warp} (h : ∀ w, f w = w) : s.mapWarp r f = s := by
  unfold State.mapWarp
  split
  · next w hw => rw [h, State.setWarp_self hw]
  · rfl
@[simp] theorem Ctx.fixed_empty : c.fixed s [] = s := State.mapWarp_eq_self fun _ => rfl
@[simp] theorem Ctx.late_empty (k : LateKind) (rods : Word) : c.late s k rods [] = s := rfl
@[simp] theorem Ctx.block_zero (w : Wait) : c.block s 0 w = s := rfl
@[simp] theorem State.closePlaces_nil (r : WarpRef) : s.closePlaces r [] = s := by
  unfold State.closePlaces State.closeLoads
  split
  · rfl
  · next w _ =>
    have hnone : (w.late.filter fun l => true && l.loose.any fun p => ([] : List Part).any p.meets) = [] :=
      List.filter_eq_nil_iff.2 fun l _ => by simp
    simp only [hnone, List.map_nil, List.foldl_nil]
@[simp] theorem State.readNow_nil (r : WarpRef) : s.readNow r [] = s := by
  unfold State.readNow
  split
  · rfl
  · exact State.mapWarp_eq_self fun _ => rfl
@[simp] theorem Access.trap_nil (a : Access) (n k : Nat) : a.trap [] n k = none := rfl
@[simp] theorem Access.poisTrap_nil (a : Access) (n : Nat) : a.poisTrap [] n = none := rfl
/-- A wait that no lane keeps parks nothing. -/
theorem Ctx.park_nil (w : Wait) (woken : Bool) : c.park s (w.withPlaces []) woken = s := by
  cases w <;> rfl

/-! ### A word without an active lane -/

/-- A word issues with no active lane, in a block at which the end of a step completes nothing. -/
structure Idle (i : Instr) (s : State) (c : Ctx) (t : State) : Prop where
  issues : Issues i s c t
  act : c.act = 0
  all : c.all = 0
  quiet : ∀ b, t.block? c.ref.blk = some b → b.Quiet

namespace Idle

theorem lanes (h : Idle i s c t) : c.lanes = [] := by rw [Ctx.lanes, h.all, Mask.lanes_zero]
theorem live (h : Idle i s c t) : c.live = [] := by rw [Ctx.live, h.act, Mask.lanes_zero]
theorem act_beq (h : Idle i s c t) : (c.act == 0) = true := beq_iff_eq.2 h.act

/-- Its run, and nothing else, moves on. -/
theorem moved (h : Idle i s c t) :
    t = s.setWarp c.ref (c.w.setRun c.run.lanes fun x => x.advance s.clock c.blk.cycles (stallOf i) (yieldOf i)) := by
  rw [h.issues.moved, State.beforeAccess, h.act]
  rfl
theorem after (h : Idle i s c t) : c.after t = t := by
  have hb := State.setWarp_block? (c.w.setRun c.run.lanes fun x => x.advance s.clock c.blk.cycles (stallOf i) (yieldOf i)) h.issues.block c.ref.blk
  rw [if_pos rfl, ← h.moved] at hb
  exact (h.quiet _ hb).endStep hb _

/-- A body that leaves the state as it is. -/
theorem issue_eq (h : Idle i s c t) {body : Ctx → State → Res} (hb : body c t = .ok t) : issue i s body = .next t := by
  rw [issue_ok h.issues hb, h.after]
/-- A body that asks first whether a lane is active. -/
theorem ite_act (h : Idle i s c t) (r : Res) : (if c.act == 0 then .ok t else r) = .ok t := if_pos h.act_beq
theorem ok_ite_act (h : Idle i s c t) (u : State) : Res.ok (if c.act == 0 then t else u) = .ok t := congrArg _ (if_pos h.act_beq)
/-- A body that queues results in its active lanes. -/
theorem ok_lane (h : Idle i s c t) (f : Nat → RegId × Word) : Res.ok (c.fixed t (c.lanes.map f)) = .ok t := by
  rw [h.lanes, List.map_nil, Ctx.fixed_empty]
theorem ok_lanes (h : Idle i s c t) (f : Nat → List (RegId × Word)) : Res.ok (c.fixed t (c.lanes.flatMap f)) = .ok t := by
  rw [h.lanes, List.flatMap_nil, Ctx.fixed_empty]

/-! ### Shapes of words -/

theorem perLane_eq (h : Idle i s c t) (d : BitVec 10) (f : Warp → Nat → Word) : perLane i s d f = .next t := h.issue_eq (h.ok_lane _)
theorem perLane64_eq (h : Idle i s c t) (d : BitVec 10) (f : Warp → Nat → DWord) : perLane64 i s d f = .next t := h.issue_eq (h.ok_lanes _)
theorem perLaneP_eq (h : Idle i s c t) (pd : Nat) (f : Warp → Nat → Bool) : perLaneP i s pd f = .next t := h.issue_eq (h.ok_lane _)
/-- No lane raises an exception. -/
theorem perLaneF_eq (h : Idle i s c t) (f : Warp → Nat → List (RegId × Word) × Flags) : perLaneF i s f = .next t := by
  have hx : c.NoFpx t fun l => (f c.w l).2 := fun l hl => by
    rw [h.live] at hl
    cases hl
  rw [perLaneF_gives h.issues f (fpxTrap_none hx), h.lanes, Ctx.gives, List.flatMap_nil, Ctx.fixed_empty, h.after]
theorem trapLanes_eq (h : Idle i s c t) (cause : Nat) (n : BitVec 16) : trapLanes i cause n s = .next t := h.issue_eq (h.ok_ite_act _)
theorem barOp_eq (h : Idle i s c t) (b : Bar) (f : Ctx → State → Barrier → State) : barOp i b s f = .next t := h.issue_eq (h.ite_act _)
theorem signOp_eq (h : Idle i s c t) (word : MatWord) : signOp i word s = .next t := h.issue_eq (h.ite_act _)
theorem transferOp_eq (h : Idle i s c t) (req : Ctx → XReq) : transferOp i s req = .next t := h.issue_eq (h.ite_act _)

/-! ### Memory: no lane has an address to check -/

theorem loadOp_eq (h : Idle i s c t) (n d : Nat) (sp : Option StoreSpace) (acq : Bool) (acc : State → Ctx → Access) :
    loadOp i s n d sp acq acc = .next t :=
  h.issue_eq (by simp only [h.live, Access.trap_nil, Access.poisTrap_nil, Option.or_none, h.act_beq, if_true])
theorem storeOp_eq (h : Idle i s c t) (n d : Nat) (rel : Option Scope) (sp : StoreSpace) (acc : State → Ctx → Access) :
    storeOp i s n d rel sp acc = .next t :=
  h.issue_eq (by simp only [h.live, Access.trap_nil, h.act_beq, if_true])
theorem atomOp_eq (h : Idle i s c t) (op : AtomOp) (o : Order) (sc : Scope) (d : Option Nat) (b c0 : Nat) (sp : StoreSpace)
    (acc : State → Ctx → Access) : atomOp i s op o sc d b c0 sp acc = .next t :=
  h.issue_eq (by simp only [h.live, Access.trap_nil, Access.poisTrap_nil, Option.or_none, h.act_beq, if_true])
theorem resolveOp_eq (h : Idle i s c t) (fault : Bool) (d : BitVec 10) (ad : MAddr) : resolveOp i fault d ad s = .next t :=
  h.issue_eq (by simp only [h.live, Access.trap_nil, h.act_beq, if_true])
/-- LDW and LDF: no lane loads and none parks, whether or not an earlier access is ahead. -/
theorem waitLoad_eq (h : Idle i s c t) (a : Access) (n regs : Nat) (w : Wait) (stay : Nat → Bool) : c.waitLoad t a n regs w stay = t := by
  have hz : ∀ d, c.zeros a d n regs = [] := fun d => by rw [Ctx.zeros, h.lanes]; rfl
  unfold Ctx.waitLoad
  simp only [hz, h.lanes, h.live, List.filter_nil, List.map_nil, List.append_nil, List.flatMap_nil, List.isEmpty_nil, Bool.and_self, Bool.not_true,
    Bool.and_false, Bool.false_eq_true, if_true, if_false, State.closePlaces_nil, State.readNow_nil, Ctx.late_empty, Ctx.park_nil, ite_self]

/-! ### Words of a shape of their own -/

theorem execLea_eq {hd : Hdr} {w64 : Bool} {sh : BitVec 3} {d a : BitVec 10} {b : BSrc} (h : Idle (.lea hd w64 sh d a b) s c t) :
    execLea hd w64 sh d a b s = .next t := by
  unfold execLea
  split
  · exact h.perLane64_eq _ _
  · exact h.perLane_eq _ _
theorem execVtos_eq {hd : Hdr} {d : BitVec 7} {a : BitVec 10} (h : Idle (.vtos hd d a) s c t) : execVtos hd d a s = .next t :=
  h.issue_eq (by simp only [h.live])
theorem execSfq_eq {hd : Hdr} {fn : SfuFn} {z q : Bool} {a : BitVec 10} (h : Idle (.sfq hd fn z q a) s c t) : execSfq hd fn z q a s = .next t :=
  h.issue_eq (congrArg Res.ok (State.mapWarp_eq_self fun w => by simp only [h.lanes, List.foldl_nil]))
theorem execQpop_eq {hd : Hdr} {d : BitVec 10} {q : Bool} (h : Idle (.qpop hd d q) s c t) : execQpop hd d q s = .next t := by
  refine h.issue_eq ?_
  simp only [h.lanes, List.filterMap_nil, List.foldl_nil, Ctx.late_empty]
  exact congrArg Res.ok (State.mapWarp_eq_self fun w => rfl)
theorem execNap_eq {hd : Hdr} {n : BitVec 16} (h : Idle (.nap hd n) s c t) : execNap hd n s = .next t :=
  h.issue_eq (by simp only [h.act, Ctx.block_zero, ite_self])
theorem execJenter_eq {hd : Hdr} {j : BitVec 4} (h : Idle (.jenter hd j) s c t) : execJenter hd j s = .next t :=
  h.issue_eq (by simp only [h.live])
theorem execStk_eq {hd : Hdr} {sz : Size} {d : BitVec 10} {ad : MAddr} (h : Idle (.stk hd sz d ad) s c t) : execStk hd sz d ad s = .next t := by
  refine h.issue_eq ?_
  simp only [h.live, Access.trap_nil, List.foldl_nil]
  exact congrArg Res.ok (State.mapWarp_eq_self fun w => rfl)
theorem execLdw_eq {hd : Hdr} {wide ord : Bool} {sc : Scope} {d : BitVec 10} {ad : MAddr} (h : Idle (.ldw hd wide ord sc d ad) s c t) :
    execLdw hd wide ord sc d ad s = .next t :=
  h.issue_eq (by simp only [h.live, Access.trap_nil, Access.poisTrap_nil, Option.or_none, h.waitLoad_eq])
theorem execLdf_eq {hd : Hdr} {wide : Bool} {d : BitVec 10} {ad : MAddr} (h : Idle (.ldf hd wide d ad) s c t) : execLdf hd wide d ad s = .next t :=
  h.issue_eq (by simp only [h.live, Access.trap_nil, Access.poisTrap_nil, Option.or_none, h.waitLoad_eq])
theorem execFpoll_eq {hd : Hdr} {wide : Bool} {d : BitVec 10} {ad : MAddr} (h : Idle (.fpoll hd wide d ad) s c t) : execFpoll hd wide d ad s = .next t :=
  h.issue_eq (by simp only [h.live, Access.trap_nil, Access.poisTrap_nil, Option.or_none, h.act_beq, if_true])
theorem execFreg_eq {hd : Hdr} {d : BitVec 10} {ad : MAddr} (h : Idle (.freg hd d ad) s c t) : execFreg hd d ad s = .next t :=
  h.issue_eq (by simp only [h.live, fregTrap, List.find?_nil, Option.map_none, h.act_beq, if_true])
theorem execMsync_eq {hd : Hdr} {st : BitVec 2} (h : Idle (.msync hd st) s c t) : execMsync hd st s = .next t :=
  h.issue_eq (by simp only [h.act, Ctx.block_zero, ite_self])
theorem execMchg_eq {hd : Hdr} {st : BitVec 2} {d : BitVec 10} (h : Idle (.mchg hd st d) s c t) : execMchg hd st d s = .next t :=
  h.issue_eq (by simp only [h.lanes, List.map_nil, Ctx.late_empty])

/-! ### Every word -/

theorem exec_laneResult (h : Idle i s c t) (hi : i.laneResult = true) : exec i s = .next t := by
  cases i with
  | iadd | isub | iadd3 | imul | imulh | imad | imin | imax | iabs | ineg | ishl | ishr | ishra | irot | idot4 | iaddi | imuli | lop3 | bfx | bfi
    | brev | popc | clz | ctz | prmt | isel | mov | movi | movh | movs | fclass | qlen =>
    unfold exec
    exact h.perLane_eq _ _
  | imadw =>
    unfold exec
    exact h.perLane64_eq _ _
  | isetp | isetpi | jtest =>
    unfold exec
    exact h.perLaneP_eq _ _
  | fadd | fsub | fmul | ffma | fmin | fmax | frnd | fscale | hadd2 | hmul2 | hfma2 | hmin2 | hmax2 | qscl | qpk4 | dadd | dsub | dmul | dfma | dmin
    | dmax | drnd | fsetp | dsetp | cvt | cvti | hsetp2 | qxp4 =>
    unfold exec
    exact h.perLaneF_eq _
  | vote | elect | redux | scan =>
    unfold exec
    exact h.issue_eq (h.ok_lane _)
  | vrd | qex | ballot | matchv | actm | topk | shfl | jmask =>
    unfold exec
    exact h.issue_eq (h.ok_lanes _)
  | lea =>
    unfold exec
    exact h.execLea_eq
  | _ => cases hi

theorem exec_needsLane (h : Idle i s c t) (hi : i.needsLane = true) : exec i s = .next t := by
  cases i with
  | regrp | exit | rtt | bari | fence | fencer | spawn | lnch | vmark | vwait | vrefr =>
    unfold exec
    exact h.issue_eq (h.ite_act _)
  | srd | yield | jquit | jquitm | jwait | roddef | vstamp =>
    unfold exec
    exact h.issue_eq (h.ok_ite_act _)
  | nop =>
    unfold exec
    exact h.issue_eq rfl
  | trap | bkpt =>
    unfold exec
    exact h.trapLanes_eq _ _
  | barx | bara | barw | bar | barq =>
    unfold exec
    exact h.barOp_eq _ _
  | mma | mmas | mmat =>
    unfold exec
    exact h.signOp_eq _
  | bcp | bfill | bpfx | bmc | bga | bsc | bcpp =>
    unfold exec
    exact h.transferOp_eq _
  | lds | ldx | ldk =>
    unfold exec
    exact h.loadOp_eq _ _ _ _ _
  | sts | stx =>
    unfold exec
    exact h.storeOp_eq _ _ _ _ _
  | atoms | atomx | redx =>
    unfold exec
    exact h.atomOp_eq _ _ _ _ _ _ _ _
  | fres | fflt =>
    unfold exec
    exact h.resolveOp_eq _ _ _
  | vtos =>
    unfold exec
    exact h.execVtos_eq
  | sfq =>
    unfold exec
    exact h.execSfq_eq
  | qpop =>
    unfold exec
    exact h.execQpop_eq
  | nap =>
    unfold exec
    exact h.execNap_eq
  | jenter =>
    unfold exec
    exact h.execJenter_eq
  | stk =>
    unfold exec
    exact h.execStk_eq
  | ldw =>
    unfold exec
    exact h.execLdw_eq
  | ldf =>
    unfold exec
    exact h.execLdf_eq
  | fpoll =>
    unfold exec
    exact h.execFpoll_eq
  | freg =>
    unfold exec
    exact h.execFreg_eq
  | msync =>
    unfold exec
    exact h.execMsync_eq
  | mchg =>
    unfold exec
    exact h.execMchg_eq
  | _ => cases hi

end Idle

/-- Settles O33: without an active lane the body of each such word leaves the state as it is, and so does the end of the step. -/
theorem guardedOffWordsChangeNothing : Obligations.GuardedOffWordsChangeNothing := by
  intro i s c t hi h hact hall hq
  have hidle : Idle i s c t := ⟨h, hact, hall, hq⟩
  exact ⟨hi.elim hidle.exec_laneResult hidle.exec_needsLane, hidle.moved⟩

end Sys2Proof.Machine
end

section
/-!
Floating-point exceptions that HX_FPXCTL enables (R85): FPX takes the place of every write of the word.
-/
namespace Sys2Proof.Machine

variable {i : Instr} {s t : State} {c : Ctx}

theorem fpxTrap_some {ctl : Word} {raised : Flags} (h : raised &&& ctl.setWidth 5 ≠ 0) :
    fpxTrap ctl raised = some { cause := 0x17, info := BitVec.ofNat 32 (32 * raised.toNat + (raised &&& ctl.setWidth 5).toNat) } := by
  simp only [fpxTrap, beq_eq_false_iff_ne.2 h, Bool.false_eq_true, if_false, causeFpx]

/-- A word that issues takes FPX, with the exceptions raised and those of them that are enabled (Table 5-6), where one of them is enabled; `raised`
are those of its participants. -/
def TakesFpx (i : Instr) (s : State) (c : Ctx) (t : State) (raised : Flags) : Prop :=
  let cause := raised &&& (t.vf c.blk.vf).fpxctl.setWidth 5
  Issues i s c t → cause ≠ 0 → exec i s
    = .next (s.trapWord c.ref c.run.pc c.run.lanes c.w { cause := 0x17, info := BitVec.ofNat 32 (32 * raised.toNat + cause.toNat) })

theorem takesFpx_perLaneF {f : Warp → Nat → List (RegId × Word) × Flags} (he : exec i s = perLaneF i s f) :
    TakesFpx i s c t (c.live.foldl (fun x l => x ||| (f c.w l).2) 0) :=
  fun h hx => he.trans (perLaneF_traps h f (fpxTrap_some hx))

theorem takesFpx_pairInstr {op : PairOp} {p : Pair} :
    TakesFpx (pairInstr op p) s c t (slotRaised c op p.slot0 (slotResult op) ||| slotRaised c p.op1 p.slot1 (slotResult p.op1)) := by
  intro h hx
  rw [exec_pairInstr]
  refine issue_trap h ?_
  simp only [fpxTrap_some hx]

/-! ### Exceptions of a lane -/

theorem both_half_ffma (F : Fmt) (r : Rnd) (z : Bool) (a b e : Word) :
    both (fun i => F.ffma r z (half a i) (half b i) (half e i))
      = ((F.ffma r z (a.extractLsb' 0 16).toNat (b.extractLsb' 0 16).toNat (e.extractLsb' 0 16).toNat).1
          + 2 ^ 16 * (F.ffma r z (a.extractLsb' 16 16).toNat (b.extractLsb' 16 16).toNat (e.extractLsb' 16 16).toNat).1,
        (F.ffma r z (a.extractLsb' 0 16).toNat (b.extractLsb' 0 16).toNat (e.extractLsb' 0 16).toNat).2
          ||| (F.ffma r z (a.extractLsb' 16 16).toNat (b.extractLsb' 16 16).toNat (e.extractLsb' 16 16).toNat).2) := by
  simp only [both, half_eq, Nat.mul_zero, Nat.mul_one]

theorem flags_halves_floatCmp (F : Fmt) (cmp : Cmp) (un z : Bool) (a b : Word) :
    (floatCmp F cmp un z (half a 0) (half b 0)).2 ||| (floatCmp F cmp un z (half a 1) (half b 1)).2
      = (floatCmp F cmp un z (a.extractLsb' 0 16).toNat (b.extractLsb' 0 16).toNat).2
        ||| (floatCmp F cmp un z (a.extractLsb' 16 16).toNat (b.extractLsb' 16 16).toNat).2 := by
  simp only [half_eq, Nat.mul_zero, Nat.mul_one]

theorem flags_cvtLane (dst src : CvtFmt) (r : Rnd) (sat : Bool) (d a : BitVec 10) (w : Warp) (l : Nat) :
    (cvtLane dst src r sat d a w l).2 = (convert dst src r sat (if src.wide then (w.rv64 l a.toNat).toNat else (w.rv l a.toNat).toNat)).2 := by
  simp only [cvtLane, cvtBits_eq, n64, n32]
  split <;> rfl

/-- Elements, block scale and band scale of QXP4 are fields of its registers. -/
theorem flags_qxp4 (r : Rnd) (a b : Word) :
    ((List.range 8).map fun j => (j, qxp4Of r (a.toNat / 2 ^ (4 * j) % 16) (b.toNat % 256) (b.toNat / 2 ^ 16))).foldl (fun f e => f ||| e.2.2) 0
      = (List.range 8).foldl (fun x j => x ||| (qxp4Of r (a.extractLsb' (4 * j) 4).toNat (b.extractLsb' 0 8).toNat (b.extractLsb' 16 16).toNat).2) 0 := by
  have hb : b.toNat / 2 ^ 16 % 2 ^ 16 = b.toNat / 2 ^ 16 := Nat.mod_eq_of_lt (by have := b.isLt; omega)
  simp only [List.foldl_map, BitVec.extractLsb'_toNat, Nat.shiftRight_eq_div_pow, hb, pow_zero, Nat.div_one]

/-- Settles O25: each floating-point word is a `perLaneF` whose lanes raise the exceptions of their operation; a paired word raises those of both slots. -/
theorem enabledExceptionsTrapFpx : Obligations.EnabledExceptionsTrapFpx := by
  unfold Obligations.EnabledExceptionsTrapFpx
  constructor
  · intro h r z bf un sat band cmp cb dst src pd pc n d a b e s c t traps
    have lane : ∀ {i g} o f, exec i s = o → o = perLaneF i s f → (∀ l, (f c.w l).2 = g l) → traps i g := fun {i g} o f he ho hg => by
      obtain rfl : (fun l => (f c.w l).2) = g := funext hg
      exact takesFpx_perLaneF (he.trans ho)
    have one : ∀ {i} {g : Nat → Nat × Flags} o d' (f : Warp → Nat → Nat × Flags), exec i s = o → o = perLaneF i s (fun w l => write32 d' l (f w l)) →
        (∀ l, f c.w l = g l) → traps i fun l => (g l).2 := fun o d' f he ho hg => lane o _ he ho fun l => congrArg Prod.snd (hg l)
    have wide : ∀ {i} {g : Nat → Nat × Flags} o d' (f : Warp → Nat → Nat × Flags), exec i s = o → o = perLaneF i s (fun w l => write64 d' l (f w l)) →
        (∀ l, f c.w l = g l) → traps i fun l => (g l).2 := fun o d' f he ho hg => lane o _ he ho fun l => congrArg Prod.snd (hg l)
    have pred : ∀ {i} {g : Nat → Bool × Flags} o d' (f : Warp → Nat → Bool × Flags) (k : Warp → Nat → Bool → Bool), exec i s = o →
        o = perLaneF i s (fun w l => writeP d' l (f w l) (k w l)) →
        (∀ l, f c.w l = g l) → traps i fun l => (g l).2 := fun o d' f k he ho hg => lane o _ he ho fun l => congrArg Prod.snd (hg l)
    exact ⟨one (execFadd h r z d a b s) _ _ rfl rfl fun _ => rfl, one (execFsub h r z d a b s) _ _ rfl rfl fun _ => rfl, 
      one (execFmul h r z d a b s) _ _ rfl rfl fun _ => rfl, one (execFfma h r z d a b e s) _ _ rfl rfl fun _ => rfl,
      one (execFmin h z d a b s) _ _ rfl rfl fun _ => rfl, one (execFmax h z d a b s) _ _ rfl rfl fun _ => rfl,
      one (execFrnd h r z d a s) _ _ rfl rfl fun _ => rfl, one (execFscale h r z d a b s) _ _ rfl rfl fun _ => rfl,
      wide (execDadd h r z d a b s) _ _ rfl rfl fun _ => rfl, wide (execDsub h r z d a b s) _ _ rfl rfl fun _ => rfl,
      wide (execDmul h r z d a b s) _ _ rfl rfl fun _ => rfl, wide (execDfma h r z d a b e s) _ _ rfl rfl fun _ => rfl,
      wide (execDmin h z d a b s) _ _ rfl rfl fun _ => rfl, wide (execDmax h z d a b s) _ _ rfl rfl fun _ => rfl,
      wide (execDrnd h r z d a s) _ _ rfl rfl fun _ => rfl,
      one (execHadd2 h r z bf d a b s) _ _ rfl rfl fun _ => both_half .., one (execHmul2 h r z bf d a b s) _ _ rfl rfl fun _ => both_half ..,
      one (execHfma2 h r z bf d a b e s) _ _ rfl rfl fun _ => both_half_ffma ..,
      one (execHmin2 h z bf d a b s) _ _ rfl rfl fun _ => both_half .., one (execHmax2 h z bf d a b s) _ _ rfl rfl fun _ => both_half ..,
      pred (execFsetp h cmp un cb z pd a b pc s) _ _ _ rfl rfl fun _ => rfl, pred (execDsetp h cmp un cb z pd a b pc s) _ _ _ rfl rfl fun _ => rfl,
      lane (execHsetp2 h cmp un cb z bf n a b pc s) _ rfl rfl fun _ => flags_halves_floatCmp ..,
      lane (execCvt h dst src r sat d a s) _ rfl rfl fun _ => flags_cvtLane .., lane (execCvti h dst src r sat d a s) _ rfl rfl fun _ => flags_cvtLane ..,
      one (execQscl h band sat d a b s) _ _ rfl rfl fun _ => rfl, one (execQpk4 h d a b s) _ _ rfl rfl fun _ => rfl,
      lane (execQxp4 h r d a b s) _ rfl rfl fun _ => flags_qxp4 ..⟩
  · intro op p s c t i raises slot raised cause
    have hflags : ∀ o x l, (slotResult o x c.w l).2 = raises o x l := fun o x l => by
      cases o with
      | hadd2 | hmul2 | hmin2 | hmax2 => exact congrArg Prod.snd (both_half _ _ _)
      | _ => rfl
    have hslot : ∀ o x, slotRaised c o x (slotResult o) = slot o x := fun o x => by
      simp only [slotRaised, raisedIn, hflags]; rfl
    have h := @takesFpx_pairInstr s t c op p
    rwa [hslot, hslot] at h

end Sys2Proof.Machine
end

section
/-!
Integers: the results of the atomic operations (Table 9-4), and the elements of an INT8 matrix operation (R94).
-/
namespace Sys2Proof.Machine

theorem toSigned_toNat {n : Nat} (x : BitVec (n + 1)) : toSigned (n + 1) x.toNat = x.toInt := by
  simp only [toSigned, BitVec.toInt_eq_toNat_cond, Nat.add_sub_cancel, pow_succ 2 n]
  split <;> split <;> first | rfl | omega

/-- Settles O47: each operation on numbers is the one on words of its width. -/
theorem atomicResults : Obligations.AtomicResults := by
  intro m b c x y z
  have hm := m.isLt
  have hsub : ∀ h : ¬ m.toNat = 0, (m - 1).toNat = m.toNat - 1 := fun h => by
    rw [BitVec.toNat_sub_of_le (by rw [BitVec.le_def]; exact Nat.one_le_iff_ne_zero.2 h)]; rfl
  refine ⟨(BitVec.toNat_add m b).symm, (BitVec.toNat_add x y).symm, ?_, ?_, ?_, ?_, (BitVec.toNat_and m b).symm, (BitVec.toNat_or m b).symm,
    (BitVec.toNat_xor m b).symm, rfl, rfl, ?_, ?_, ?_, ?_, rfl⟩
  · simp only [atomNew, toSigned_toNat, apply_ite BitVec.toNat]
  · simp only [atomNew, toSigned_toNat, apply_ite BitVec.toNat, ge_iff_le]
  · simp only [atomNew, apply_ite BitVec.toNat, BitVec.le_def, Nat.min_def]
  · simp only [atomNew, apply_ite BitVec.toNat, BitVec.le_def, ge_iff_le, Nat.max_def]
    split <;> split <;> omega
  · simp only [atomNew, apply_ite BitVec.toNat, BitVec.toNat_eq]
  · simp only [atomNew, apply_ite BitVec.toNat, BitVec.toNat_eq]
  · simp only [atomNew, apply_ite BitVec.toNat, BitVec.le_def, ge_iff_le]
    split
    · rfl
    · next h => rw [BitVec.toNat_add, Nat.mod_eq_of_lt]; rfl; have := b.isLt; simp; omega
  · simp only [atomNew, apply_ite BitVec.toNat, BitVec.toNat_eq, BitVec.lt_def, gt_iff_lt, Bool.or_eq_true, decide_eq_true_eq, show (0 : BitVec 32).toNat = 0 from rfl]
    split
    · rfl
    · next h => exact (hsub fun h0 => h (.inl h0)).symm

/-! ### Integer matrix elements -/

theorem ofInt_clamp32 (x : Int) : BitVec.ofInt 32 (clamp32 false x) = BitVec.ofInt 32 x := by
  have h : toSigned 32 (x % 2 ^ 32).toNat = (BitVec.ofInt 32 x).toInt := by
    rw [← toSigned_toNat, BitVec.toNat_ofInt]; rfl
  simp only [clamp32, Bool.false_eq_true, if_false, h, BitVec.ofInt_toInt]

/-- An accumulation that wraps at each step is the sum modulo 2³². -/
theorem ofInt_foldl_clamp32 (p : Nat → Int) (ks : List Nat) (a : Int) :
    BitVec.ofInt 32 (ks.foldl (fun acc k => clamp32 false (acc + p k)) a) = BitVec.ofInt 32 a + BitVec.ofInt 32 (ks.map p).sum := by
  induction ks generalizing a with
  | nil => simp
  | cons k ks ih => rw [List.foldl_cons, ih, ofInt_clamp32, List.map_cons, List.sum_cons, BitVec.ofInt_add, BitVec.ofInt_add, BitVec.add_assoc]

theorem fw_eq (w : Word) (lo n : Nat) : fw w lo n = (w.extractLsb' lo n).toNat := by
  simp only [fw, BitVec.extractLsb'_toNat, Nat.shiftRight_eq_div_pow]

theorem getD_false_of_forall {xs : List Bool} (h : ∀ y ∈ xs, y = false) (k : Nat) : (xs[k]?).getD false = false := by
  cases hk : xs[k]? with
  | none => rfl
  | some y => exact h y (List.mem_of_getElem? hk)

theorem toSigned_of_lt {xs : List Nat} (h : ∀ y ∈ xs, y < 256) (k : Nat) :
    toSigned 8 ((xs[k]?).getD 0) = (BitVec.ofNat 8 ((xs[k]?).getD 0)).toInt := by
  have hlt : (xs[k]?).getD 0 < 2 ^ 8 := by
    cases hk : xs[k]? with
    | none => exact Nat.two_pow_pos 8
    | some y => exact h y (List.mem_of_getElem? hk)
  rw [← toSigned_toNat, BitVec.toNat_ofNat, Nat.mod_eq_of_lt hlt]

/-- Settles O52: without saturation each step wraps, so the element is the sum modulo 2³². -/
theorem integerMatrixElements : Obligations.IntegerMatrixElements := by
  intro fmt A B x i j ha hb hc hsat hA hB hcodesA hcodesB hx
  have h0 : fw fmt 0 4 = 7 := by rw [fw_eq, ha]; rfl
  have h4 : fw fmt 4 4 = 7 := by rw [fw_eq, hb]; rfl
  have h8 : fw fmt 8 4 = 7 := by rw [fw_eq, hc]; rfl
  have h14 : (fw fmt 14 1 == 1) = false := by
    rw [fw_eq, BitVec.extractLsb'_toNat, Nat.shiftRight_eq_div_pow]
    rw [BitVec.getLsbD, Nat.testBit_eq_decide_div_mod_eq] at hsat
    simpa using hsat
  have hK : ∀ isA, rowElems 0x140 fmt isA = 64 := by intro isA; cases isA <;> simp [rowElems, opMMAS, shapeK, h0, h4]
  have hk : ∀ r k, logicalK 0x140 [] 64 r k = k := fun _ _ => rfl
  have hlast : ∀ r : Int, BitVec.ofNat 32 (r % 2 ^ 32).toNat = BitVec.ofInt 32 r := fun r => by
    apply BitVec.eq_of_toNat_eq; rw [BitVec.toNat_ofInt, BitVec.toNat_ofNat]; omega
  have hx32 : BitVec.ofInt 32 (toSigned 32 x) = BitVec.ofNat 32 x := by
    have h : x = (BitVec.ofNat 32 x).toNat := by rw [BitVec.toNat_ofNat, Nat.mod_eq_of_lt hx]
    conv_lhs => rw [h, toSigned_toNat, BitVec.ofInt_toInt]
  simp only [matElem, h8, h14, hK, hk, getD_false_of_forall hA, getD_false_of_forall hB, Bool.or_self, List.any_eq_false.2 fun _ _ => Bool.false_ne_true, beq_self_eq_true, if_true,
    Bool.false_eq_true, if_false, hlast, ofInt_foldl_clamp32, hx32, toSigned_of_lt hcodesA, toSigned_of_lt hcodesB]

end Sys2Proof.Machine
end

section
/-!
Rounding to a grid (R82): a number between two neighbours of a grid is rounded to one of them, and the numbers with a significand of some bits are such a grid
around the quotient that the model computes.
-/
namespace Sys2Proof.Machine

/-! ### Signs -/

/-- A magnitude with a sign. -/
def withSign (neg : Bool) (v : ℚ) : ℚ := if neg then -v else v

@[simp] theorem withSign_false (v : ℚ) : withSign false v = v := rfl
@[simp] theorem withSign_true (v : ℚ) : withSign true v = -v := rfl
@[simp] theorem withSign_zero (neg : Bool) : withSign neg 0 = 0 := by cases neg <;> simp
theorem abs_withSign (neg : Bool) (v : ℚ) : |withSign neg v| = |v| := by cases neg <;> simp
theorem withSign_inj {neg : Bool} {v w : ℚ} : withSign neg v = withSign neg w ↔ v = w := by cases neg <;> simp
theorem withSign_mul (n k : Bool) (v w : ℚ) : withSign n v * withSign k w = withSign (n != k) (v * w) := by
  cases n <;> cases k <;> simp
theorem withSign_mul_right (n : Bool) (v w : ℚ) : withSign n v * w = withSign n (v * w) := by
  cases n <;> simp
theorem withSign_not (n : Bool) (v : ℚ) : withSign (!n) v = -withSign n v := by
  cases n <;> simp

/-- The mode in which a negated number is rounded as the number itself is in `rm`. -/
def mirrorRnd (neg : Bool) (rm : Rnd) : Rnd :=
  match neg, rm with
  | true, .ru => .rd
  | true, .rd => .ru
  | _, rm => rm

theorem roundUp_eq_mirror (rm : Rnd) (neg : Bool) (q r d : Nat) : roundUp rm neg q r d = roundUp (mirrorRnd neg rm) false q r d := by
  cases neg <;> cases rm <;> rfl

theorem RoundsTo.withSign {grid even : ℚ → Prop} {rm : Rnd} {neg : Bool} {v q : ℚ} (hg : ∀ x, grid x → grid (-x)) (he : ∀ x, even x → even (-x))
    (h : RoundsTo grid even (mirrorRnd neg rm) v q) : RoundsTo grid even rm (withSign neg v) (withSign neg q) := by
  cases neg with
  | false => exact h
  | true =>
    obtain ⟨hq, h⟩ := h
    refine ⟨hg q hq, ?_⟩
    have habs : ∀ a b : ℚ, |(-a) - b| = |a - -b| := fun a b => by rw [← abs_neg]; congr 1; ring
    cases rm with
    | rn =>
      obtain ⟨hnear, htie⟩ := h
      simp only [withSign_true, habs, neg_neg]
      have hflip : ∀ g, |g - -v| = |(-g) - v| := fun g => (habs g v).symm
      refine ⟨fun g h => ?_, fun g h hne heq => he _ (htie (-g) (hg g h) (fun h => hne (by rw [← h, neg_neg])) ?_)⟩
      · rw [hflip]; exact hnear _ (hg g h)
      · rw [← hflip]; exact heq
    | rz =>
      obtain ⟨hs, hle, hmax⟩ := h
      simp only [withSign_true, abs_neg, neg_mul_neg]
      exact ⟨hs, hle, hmax⟩
    | ru =>
      obtain ⟨hle, hmax⟩ := h
      exact ⟨neg_le_neg hle, fun g h hv => neg_le.1 (hmax _ (hg g h) (neg_le.1 hv))⟩
    | rd =>
      obtain ⟨hle, hmin⟩ := h
      exact ⟨neg_le_neg hle, fun g h hv => le_neg.1 (hmin _ (hg g h) (le_neg.1 hv))⟩

/-! ### Between two neighbours -/

section
variable {grid even : ℚ → Prop} {rm : Rnd} {L U v : ℚ}

/-- The lower of two neighbours is the rounded number where it is not further away, and at the same distance only if it is even. -/
theorem roundsTo_lower (hneg : ∀ x, grid x → grid (-x)) (hL : grid L) (h0 : 0 ≤ L) (hLv : L ≤ v) (hgap : ∀ g, grid g → g ≤ L ∨ U ≤ g) (hvU : v < U)
    (hnear : rm = .rn → v - L ≤ U - v ∧ (v - L = U - v → even L)) (hup : rm = .ru → v = L) : RoundsTo grid even rm v L := by
  refine ⟨hL, ?_⟩
  cases rm with
  | rn =>
    obtain ⟨hle, htie⟩ := hnear rfl
    have hdist : |L - v| = v - L := by rw [abs_sub_comm, abs_of_nonneg (sub_nonneg.2 hLv)]
    simp only [hdist]
    refine ⟨fun g hg => ?_, fun g hg hne heq => htie ?_⟩
    · obtain h | h := hgap g hg
      · rw [abs_sub_comm, abs_of_nonneg (by linarith)]; linarith
      · rw [abs_of_nonneg (by linarith)]; linarith
    · obtain h | h := hgap g hg
      · rw [abs_sub_comm, abs_of_nonneg (by linarith)] at heq
        exact absurd (by linarith) hne
      · rw [abs_of_nonneg (by linarith)] at heq
        linarith
  | rz =>
    refine ⟨mul_nonneg h0 (h0.trans hLv), by rwa [abs_of_nonneg h0, abs_of_nonneg (h0.trans hLv)], fun g hg hle => ?_⟩
    have habs : grid |g| := by obtain h | h := abs_choice g <;> rw [h] <;> [exact hg; exact hneg g hg]
    rw [abs_of_nonneg (h0.trans hLv)] at hle
    rw [abs_of_nonneg h0]
    exact (hgap _ habs).resolve_right fun h => absurd (h.trans hle) (not_le.2 hvU)
  | ru =>
    obtain rfl := hup rfl
    exact ⟨le_rfl, fun g hg hle => hle⟩
  | rd => exact ⟨hLv, fun g hg hle => (hgap g hg).resolve_right fun h => absurd (h.trans hle) (not_le.2 hvU)⟩

/-- The upper of two neighbours likewise; no mode but to nearest and upward takes it. -/
theorem roundsTo_upper (hU : grid U) (hgap : ∀ g, grid g → g ≤ L ∨ U ≤ g) (hvU : v < U)
    (hnear : rm = .rn → U - v ≤ v - L ∧ (v - L = U - v → even U)) (hup : rm ≠ .rn → rm = .ru ∧ L < v) : RoundsTo grid even rm v U := by
  refine ⟨hU, ?_⟩
  cases rm with
  | rn =>
    obtain ⟨hle, htie⟩ := hnear rfl
    have hdist : |U - v| = U - v := abs_of_nonneg (sub_nonneg.2 hvU.le)
    simp only [hdist]
    refine ⟨fun g hg => ?_, fun g hg hne heq => htie ?_⟩
    · obtain h | h := hgap g hg
      · rw [abs_sub_comm, abs_of_nonneg (by linarith)]; linarith
      · rw [abs_of_nonneg (by linarith)]; linarith
    · obtain h | h := hgap g hg
      · rw [abs_sub_comm, abs_of_nonneg (by linarith)] at heq
        linarith
      · rw [abs_of_nonneg (by linarith)] at heq
        exact absurd (by linarith) hne
  | ru => exact ⟨hvU.le, fun g hg hle => (hgap g hg).resolve_left fun h => absurd (hle.trans h) (not_le.2 (hup nofun).2)⟩
  | rz => exact absurd (hup nofun).1 nofun
  | rd => exact absurd (hup nofun).1 nofun

end

/-- Between the neighbours X and X + 1 of a grid, in units of `u`, the rounding that the model decides by the remainder over the divisor. -/
theorem roundsTo_units {grid even : ℚ → Prop} (rm : Rnd) {u : ℚ} {X r D : Nat} (hu : 0 < u) (hr : r < D) (hneg : ∀ x, grid x → grid (-x)) (hL : grid (X * u)) (hU : grid ((X + 1 : Nat) * u))
    (heL : X % 2 = 0 → even (X * u)) (heU : (X + 1) % 2 = 0 → even ((X + 1 : Nat) * u)) (hgap : ∀ g, grid g → g ≤ X * u ∨ (X + 1 : Nat) * u ≤ g) :
    RoundsTo grid even rm ((X + r / D) * u) ((X + (if roundUp rm false X r D then 1 else 0) : Nat) * u) := by
  have hD : (0 : ℚ) < D := by exact_mod_cast Nat.zero_lt_of_lt hr
  have hX0 : 0 ≤ (X : ℚ) * u := by positivity
  have hlow : ((X : ℚ) + r / D) * u - X * u = r / D * u := by ring
  have hhigh : ((X + 1 : Nat) : ℚ) * u - (X + r / D) * u = (1 - r / D) * u := by push_cast; ring
  have hLv : (X : ℚ) * u ≤ (X + r / D) * u := by rw [← sub_nonneg, hlow]; positivity
  have hvU : ((X : ℚ) + r / D) * u < (X + 1 : Nat) * u := by
    rw [← sub_pos, hhigh]
    exact mul_pos (sub_pos.2 ((div_lt_one hD).2 (by exact_mod_cast hr))) hu
  have hle : (r : ℚ) / D * u ≤ (1 - r / D) * u ↔ 2 * r ≤ D := by
    rw [mul_le_mul_iff_left₀ hu, le_sub_iff_add_le, ← add_div, div_le_one hD, ← two_mul]; exact_mod_cast Iff.rfl
  have hge : (1 - (r : ℚ) / D) * u ≤ r / D * u ↔ D ≤ 2 * r := by
    rw [mul_le_mul_iff_left₀ hu, sub_le_iff_le_add, ← add_div, one_le_div hD, ← two_mul]; exact_mod_cast Iff.rfl
  have hzero : ((X : ℚ) + r / D) * u = X * u ↔ r = 0 := by
    rw [← sub_eq_zero, hlow, mul_eq_zero, div_eq_zero_iff]; simp [hu.ne', hD.ne']
  have hpos : (X : ℚ) * u < (X + r / D) * u ↔ r ≠ 0 := by rw [hLv.lt_iff_ne, ne_comm, ne_eq, hzero]
  cases hup : roundUp rm false X r D with
  | false =>
    simp only [Bool.false_eq_true, if_false, Nat.add_zero]
    refine roundsTo_lower hneg hL hX0 hLv hgap hvU (fun h => ?_) (fun h => hzero.2 ?_)
    · subst h
      rw [hlow, hhigh, le_antisymm_iff, hle, hge]
      simp only [roundUp, Bool.or_eq_false_iff, decide_eq_false_iff_not, Bool.and_eq_false_iff, beq_eq_false_iff_ne] at hup
      exact ⟨by omega, fun h => heL (by omega)⟩
    · subst h
      simpa [roundUp] using hup
  | true =>
    simp only [if_true]
    refine roundsTo_upper hU hgap hvU (fun h => ?_) (fun h => ?_)
    · subst h
      rw [hlow, hhigh, le_antisymm_iff, hle, hge]
      simp only [roundUp, Bool.or_eq_true, decide_eq_true_eq, Bool.and_eq_true, beq_iff_eq] at hup
      exact ⟨by omega, fun h => heU (by omega)⟩
    · rw [hpos]
      cases rm with
      | rn => exact absurd rfl h
      | ru => exact ⟨rfl, by simpa [roundUp] using hup⟩
      | rz => cases hup
      | rd => cases hup

/-! ### Grids of significands -/

section
variable {bits : Nat} {least : Option ℤ} {j : ℤ} {X : Nat}

theorem Grid.neg {q : ℚ} (h : Grid bits least q) : Grid bits least (-q) := by
  obtain ⟨m, j, hm, hj, rfl⟩ := h
  exact ⟨-m, j, by rwa [abs_neg], hj, by push_cast; ring⟩

/-- A significand that has become 2^bits by a carry is the number 1 at a larger exponent. -/
theorem grid_mul_zpow (hbits : 0 < bits) (hX : X ≤ 2 ^ bits) (hj : ∀ k ∈ least, k ≤ j) : Grid bits least (X * 2 ^ j) := by
  obtain h | rfl := hX.lt_or_eq
  · exact ⟨X, j, by rw [Nat.abs_cast]; exact_mod_cast h, hj, by push_cast; ring⟩
  · refine ⟨1, j + bits, ?_, fun k hk => (hj k hk).trans (by omega), ?_⟩
    · rw [abs_one]; exact one_lt_pow₀ (by norm_num) hbits.ne'
    · push_cast; rw [zpow_add₀ (by norm_num), zpow_natCast]; ring

theorem even_grid_mul_zpow (hbits : 1 < bits) (hX : X ≤ 2 ^ bits) (hj : ∀ k ∈ least, k ≤ j) (heven : X % 2 = 0) :
    Grid (bits - 1) (least.map (· + 1)) (X * 2 ^ j) := by
  obtain ⟨b, rfl⟩ : ∃ b, bits = b + 1 := ⟨bits - 1, by omega⟩
  obtain ⟨Y, rfl⟩ : ∃ Y, X = 2 * Y := ⟨X / 2, by omega⟩
  have h : Grid b (least.map (· + 1)) (Y * 2 ^ (j + 1)) := grid_mul_zpow (by omega) (by rw [pow_succ] at hX; omega) (by
    intro k hk
    obtain ⟨k', hk', rfl⟩ := Option.mem_map.1 hk
    have := hj k' hk'
    omega)
  rw [zpow_add₀ (by norm_num), zpow_one] at h
  have hdouble : ((2 * Y : Nat) : ℚ) * 2 ^ j = Y * (2 ^ j * 2) := by push_cast; ring
  rwa [hdouble]

/-- Between two neighbouring multiples of 2^j there is no number of the grid: one at a smaller exponent lies below both. -/
theorem grid_gap (hbits : 0 < bits) (hj : least = some j ∨ 2 ^ (bits - 1) ≤ X) {g : ℚ} (hg : Grid bits least g) :
    g ≤ X * 2 ^ j ∨ (X + 1 : Nat) * 2 ^ j ≤ g := by
  obtain ⟨m, i, hm, hi, rfl⟩ := hg
  have h2 : (0 : ℚ) < 2 := by norm_num
  obtain hji | hij := le_or_gt j i
  · obtain ⟨d, hd⟩ := Int.eq_ofNat_of_zero_le (sub_nonneg.2 hji)
    have hg : (m : ℚ) * 2 ^ i = ((m * 2 ^ d : ℤ) : ℚ) * 2 ^ j := by
      rw [show i = d + j by omega, zpow_add₀ h2.ne', zpow_natCast]; push_cast; ring
    rw [hg, mul_le_mul_iff_left₀ (zpow_pos h2 j), mul_le_mul_iff_left₀ (zpow_pos h2 j)]
    obtain h | h := lt_or_ge (X : ℤ) (m * 2 ^ d)
    · exact .inr (by exact_mod_cast h)
    · exact .inl (by exact_mod_cast h)
  · have hX : 2 ^ (bits - 1) ≤ X := hj.resolve_left fun h => absurd (hi j h) (not_le.2 hij)
    refine .inl ?_
    have hm' : (m : ℚ) ≤ 2 ^ bits := by exact_mod_cast (abs_lt.1 hm).2.le
    calc (m : ℚ) * 2 ^ i ≤ 2 ^ bits * 2 ^ (j - 1) := mul_le_mul hm' (zpow_le_zpow_right₀ (by norm_num) (by omega)) (by positivity) (by positivity)
      _ = 2 ^ (bits - 1) * 2 ^ j := by
        rw [zpow_sub₀ h2.ne', zpow_one, ← Nat.sub_add_cancel hbits, pow_succ]; simp; ring
      _ ≤ X * 2 ^ j := by gcongr; exact_mod_cast hX

/-- The quotient that the model forms at an exponent, rounded as its remainder says, is the number rounded to the grid. -/
theorem grid_roundsTo (hbits : 1 < bits) (hX : X < 2 ^ bits) (hj : ∀ k ∈ least, k ≤ j) (hlow : least = some j ∨ 2 ^ (bits - 1) ≤ X) (rm : Rnd) (neg : Bool)
    {r D : Nat} (hr : r < D) : RoundsTo (Grid bits least) (Grid (bits - 1) (least.map (· + 1))) rm (withSign neg ((X + r / D) * 2 ^ j))
      (withSign neg ((X + (if roundUp rm neg X r D then 1 else 0) : Nat) * 2 ^ j)) := by
  rw [roundUp_eq_mirror]
  refine RoundsTo.withSign (fun _ => Grid.neg) (fun _ => Grid.neg) ?_
  have h0 : 0 < bits := by omega
  exact roundsTo_units _ (zpow_pos (by norm_num) j) hr (fun _ => Grid.neg) (grid_mul_zpow h0 hX.le hj) (grid_mul_zpow h0 hX hj)
    (even_grid_mul_zpow hbits hX.le hj) (even_grid_mul_zpow hbits hX hj) fun g => grid_gap h0 hlow

end

/-- A number of the grid is its own rounding. -/
theorem RoundsTo.eq_of_mem {grid even : ℚ → Prop} {rm : Rnd} {v q : ℚ} (h : RoundsTo grid even rm v q) (hv : grid v) : q = v := by
  obtain ⟨hq, h⟩ := h
  cases rm with
  | rn =>
    have := h.1 v hv
    rw [sub_self, abs_zero] at this
    exact sub_eq_zero.1 (abs_eq_zero.1 (le_antisymm this (abs_nonneg _)))
  | rz =>
    obtain ⟨hs, hle, hmax⟩ := h
    have habs : |q| = |v| := le_antisymm hle (hmax v hv le_rfl)
    obtain h | h := abs_eq_abs.1 habs
    · exact h
    · subst h
      have : v = 0 := by nlinarith
      simp [this]
  | ru => exact le_antisymm (h.2 v hv le_rfl) h.1
  | rd => exact le_antisymm h.1 (h.2 v hv le_rfl)

theorem roundsTo_self {grid even : ℚ → Prop} {rm : Rnd} {v : ℚ} (hv : grid v) : RoundsTo grid even rm v v := by
  refine ⟨hv, ?_⟩
  cases rm with
  | rn =>
    refine ⟨fun g _ => by rw [sub_self, abs_zero]; exact abs_nonneg _, fun g _ hne heq => absurd ?_ hne⟩
    rwa [sub_self, abs_zero, abs_eq_zero, sub_eq_zero] at heq
  | rz => exact ⟨mul_self_nonneg v, le_rfl, fun g _ h => h⟩
  | ru => exact ⟨le_rfl, fun g _ h => h⟩
  | rd => exact ⟨le_rfl, fun g _ h => h⟩

end Sys2Proof.Machine
end

section
/-!
What the model rounds a magnitude to (R82, R85): `roundMag` gives the code of the rounded number, whether it is inexact and whether it is tiny.
-/
namespace Sys2Proof.Machine

/-! ### Quotients -/

theorem scaleDiv_lt {n d : Nat} (hd : 0 < d) (e q : Int) : (scaleDiv n d e q).2.1 < (scaleDiv n d e q).2.2 := by
  simp only [scaleDiv]
  refine Nat.mod_lt _ ?_
  split
  · exact hd
  · positivity

theorem scaleDiv_eq {n d : Nat} (hd : 0 < d) (e q : Int) :
    ((scaleDiv n d e q).1 + ((scaleDiv n d e q).2.1 : ℚ) / (scaleDiv n d e q).2.2) * 2 ^ q = n / d * 2 ^ e := by
  have hq : ∀ a b : Nat, 0 < b → ((a / b : Nat) : ℚ) + ((a % b : Nat) : ℚ) / b = a / b := fun a b hb => by
    have hb' : (b : ℚ) ≠ 0 := by exact_mod_cast hb.ne'
    rw [eq_div_iff hb', add_mul, div_mul_cancel₀ _ hb', mul_comm]
    exact_mod_cast Nat.div_add_mod a b
  have h2 : (2 : ℚ) ≠ 0 := by norm_num
  have hd' : (d : ℚ) ≠ 0 := by exact_mod_cast hd.ne'
  simp only [scaleDiv]
  rw [hq _ _ (by split <;> positivity)]
  split
  · next h =>
    have hz : (2 : ℚ) ^ (e - q).toNat = 2 ^ (e - q) := by rw [← zpow_natCast, Int.toNat_of_nonneg (by omega)]
    push_cast
    rw [hz, zpow_sub₀ h2]
    field_simp
  · next h =>
    have hz : (2 : ℚ) ^ (q - e).toNat = 2 ^ (q - e) := by rw [← zpow_natCast, Int.toNat_of_nonneg (by omega)]
    push_cast
    rw [hz, zpow_sub₀ h2]
    field_simp

theorem two_zpow_natCast (k : Nat) : (2 : ℚ) ^ (k : ℤ) = ((2 ^ k : Nat) : ℚ) := by push_cast; exact zpow_natCast 2 k

theorem log2_zpow {n : Nat} (hn : 0 < n) : (2 : ℚ) ^ (n.log2 : ℤ) ≤ n ∧ (n : ℚ) < 2 ^ ((n.log2 : ℤ) + 1) := by
  have hlt : n < 2 ^ (n.log2 + 1) := Nat.lt_log2_self
  rw [← Nat.cast_one, ← Nat.cast_add, two_zpow_natCast, two_zpow_natCast]
  exact ⟨by exact_mod_cast Nat.log2_self_le hn.ne', by exact_mod_cast hlt⟩

/-- The binary logarithm of an exact quotient is that of the numerator less that of the divisor, or one less. -/
theorem log2Rat_spec {n d : Nat} (hn : 0 < n) (hd : 0 < d) (e : Int) :
    (2 : ℚ) ^ log2Rat n d e ≤ n / d * 2 ^ e ∧ (n : ℚ) / d * 2 ^ e < 2 ^ (log2Rat n d e + 1) := by
  have h2 : (2 : ℚ) ≠ 0 := by norm_num
  have hd' : (0 : ℚ) < d := by exact_mod_cast hd
  obtain ⟨hn1, hn2⟩ := log2_zpow hn
  obtain ⟨hd1, hd2⟩ := log2_zpow hd
  obtain ⟨k, hk⟩ : ∃ k : ℤ, k = (n.log2 : ℤ) - d.log2 := ⟨_, rfl⟩
  have hlow : (2 : ℚ) ^ (k - 1) ≤ n / d := by
    rw [le_div_iff₀ hd']
    calc (2 : ℚ) ^ (k - 1) * d ≤ 2 ^ (k - 1) * 2 ^ ((d.log2 : ℤ) + 1) := by gcongr
      _ = 2 ^ (n.log2 : ℤ) := by rw [← zpow_add₀ h2, hk]; congr 1; ring
      _ ≤ n := hn1
  have hhigh : (n : ℚ) / d < 2 ^ (k + 1) := by
    rw [div_lt_iff₀ hd']
    calc (n : ℚ) < 2 ^ ((n.log2 : ℤ) + 1) := hn2
      _ = 2 ^ (k + 1) * 2 ^ (d.log2 : ℤ) := by rw [← zpow_add₀ h2, hk]; congr 1; ring
      _ ≤ 2 ^ (k + 1) * d := by gcongr
  have hbig : (if k ≥ 0 then decide (d * 2 ^ k.toNat ≤ n) else decide (d ≤ n * 2 ^ (-k).toNat)) = true ↔ (2 : ℚ) ^ k ≤ n / d := by
    rw [le_div_iff₀ hd']
    split
    · next h =>
      obtain ⟨j, rfl⟩ := Int.eq_ofNat_of_zero_le h
      rw [decide_eq_true_eq, two_zpow_natCast, Int.toNat_natCast, mul_comm]
      exact_mod_cast Iff.rfl
    · next h =>
      obtain ⟨j, hj⟩ := Int.eq_ofNat_of_zero_le (by omega : 0 ≤ -k)
      obtain rfl : k = -(j : ℤ) := by omega
      rw [decide_eq_true_eq, zpow_neg, two_zpow_natCast, inv_mul_le_iff₀ (by positivity), neg_neg, Int.toNat_natCast, mul_comm n]
      exact_mod_cast Iff.rfl
  have hlog : log2Rat n d e = if (2 : ℚ) ^ k ≤ n / d then k + e else k - 1 + e := by simp only [log2Rat, ← hk, hbig]
  have hpos : (0 : ℚ) < 2 ^ e := by positivity
  rw [hlog]
  split
  · next h =>
    rw [add_right_comm, zpow_add₀ h2, zpow_add₀ h2 (k + 1)]
    exact ⟨mul_le_mul_of_nonneg_right h hpos.le, mul_lt_mul_of_pos_right hhigh hpos⟩
  · next h =>
    rw [add_right_comm, sub_add_cancel, zpow_add₀ h2, zpow_add₀ h2 k]
    exact ⟨mul_le_mul_of_nonneg_right hlow hpos.le, mul_lt_mul_of_pos_right (not_le.1 h) hpos⟩

/-- A quotient in units of 2^q, rounded to an integer. -/
def roundAt (rm : Rnd) (neg : Bool) (n d : Nat) (e q : Int) : Nat :=
  let x := scaleDiv n d e q
  x.1 + (if roundUp rm neg x.1 x.2.1 x.2.2 then 1 else 0)

section
variable {n d bits : Nat} {e q : Int} {least : Option ℤ} {v : ℚ}

theorem scaleDiv_exact (hd : 0 < d) (rm : Rnd) (neg : Bool) (hv : v = n / d * 2 ^ e) :
    (scaleDiv n d e q).2.1 = 0 ↔ roundAt rm neg n d e q * 2 ^ q = v := by
  rw [hv, ← scaleDiv_eq hd e q, mul_left_inj' (zpow_pos (by norm_num) q).ne', roundAt]
  have hr := scaleDiv_lt (n := n) hd e q
  generalize scaleDiv n d e q = x at hr ⊢
  obtain ⟨X, r, D⟩ := x
  dsimp only at hr ⊢
  have hD : (0 : ℚ) < D := by exact_mod_cast Nat.zero_lt_of_lt hr
  rw [Nat.cast_add, add_right_inj]
  constructor
  · rintro rfl
    have hup : roundUp rm neg X 0 D = false := by
      cases rm <;> simp [roundUp]
      omega
    simp [hup]
  · intro h
    have hlt : (r : ℚ) / D < 1 := (div_lt_one hD).2 (by exact_mod_cast hr)
    split at h
    · rw [Nat.cast_one] at h
      exact absurd h hlt.ne'
    · simpa [hD.ne'] using h.symm

/-- The number lies between the quotient and the next integer, in units of 2^q. -/
theorem scaleDiv_bounds (hd : 0 < d) (hv : v = n / d * 2 ^ e) :
    ((scaleDiv n d e q).1 : ℚ) * 2 ^ q ≤ v ∧ v < ((scaleDiv n d e q).1 + 1 : Nat) * 2 ^ q := by
  have hr := scaleDiv_lt (n := n) hd e q
  have hD : (0 : ℚ) < (scaleDiv n d e q).2.2 := by exact_mod_cast Nat.zero_lt_of_lt hr
  have hpos : (0 : ℚ) < 2 ^ q := by positivity
  rw [hv, ← scaleDiv_eq hd e q, mul_le_mul_iff_left₀ hpos, mul_lt_mul_iff_left₀ hpos]
  push_cast
  exact ⟨le_add_of_nonneg_right (by positivity), by rw [add_lt_add_iff_left, div_lt_one hD]; exact_mod_cast hr⟩

theorem scaleDiv_lt_two_pow (hd : 0 < d) (hv : v = n / d * 2 ^ e) (hlt : v < 2 ^ (q + bits)) : (scaleDiv n d e q).1 < 2 ^ bits := by
  have hlt' := (scaleDiv_bounds (q := q) hd hv).1.trans_lt hlt
  rw [add_comm, zpow_add₀ (by norm_num), mul_lt_mul_iff_left₀ (by positivity), two_zpow_natCast] at hlt'
  exact_mod_cast hlt'

theorem two_pow_le_scaleDiv {k : Nat} (hd : 0 < d) (hv : v = n / d * 2 ^ e) (hle : 2 ^ (q + k) ≤ v) : 2 ^ k ≤ (scaleDiv n d e q).1 := by
  have hlt := hle.trans_lt (scaleDiv_bounds (q := q) hd hv).2
  rw [add_comm, zpow_add₀ (by norm_num), mul_lt_mul_iff_left₀ (by positivity), two_zpow_natCast] at hlt
  exact Nat.le_of_lt_succ (by exact_mod_cast hlt)

theorem scaleDiv_le_roundAt (rm : Rnd) (neg : Bool) : (scaleDiv n d e q).1 ≤ roundAt rm neg n d e q := Nat.le_add_right _ _
theorem roundAt_le (rm : Rnd) (neg : Bool) : roundAt rm neg n d e q ≤ (scaleDiv n d e q).1 + 1 := by
  simp only [roundAt]
  split <;> omega

theorem roundAt_roundsTo (hd : 0 < d) (hv : v = n / d * 2 ^ e) (hbits : 1 < bits) (hlt : v < 2 ^ (q + bits)) (hq : ∀ k ∈ least, k ≤ q)
    (hlow : least = some q ∨ 2 ^ (q + (bits - 1 : Nat)) ≤ v) (rm : Rnd) (neg : Bool) :
    RoundsTo (Grid bits least) (Grid (bits - 1) (least.map (· + 1))) rm (withSign neg v) (withSign neg (roundAt rm neg n d e q * 2 ^ q)) := by
  have h := grid_roundsTo hbits (scaleDiv_lt_two_pow hd hv hlt) hq (hlow.imp_right (two_pow_le_scaleDiv hd hv)) rm neg (scaleDiv_lt (n := n) hd e q)
  rwa [scaleDiv_eq hd e q, ← hv] at h

end

end Sys2Proof.Machine
end

section
/-!
Codes and their values (R76 to R78): the magnitude of a code, read with an exponent that has no largest value, grows with the code, and a rounded result is the code of
the rounded number.
-/
namespace Sys2Proof.Machine

namespace Fmt
variable (f : Fmt)

/-- The exponent of the last bit of a subnormal number. -/
def minExp : ℤ := 1 - (f.bias : ℤ) - f.frac
/-- Significand and exponent of a magnitude code. -/
def sigOf (k : Nat) : Nat := if k / 2 ^ f.frac = 0 then k % 2 ^ f.frac else 2 ^ f.frac + k % 2 ^ f.frac
def expOf (k : Nat) : ℤ := if k / 2 ^ f.frac = 0 then f.minExp else (k / 2 ^ f.frac : Nat) - (f.bias : ℤ) - f.frac
/-- The value of a magnitude code, with an exponent that is unbounded above. -/
def magVal (k : Nat) : ℚ := f.sigOf k * 2 ^ f.expOf k

/-- What the format's fields have to do with each other: codes beyond the largest finite one are the infinities and NaNs. -/
structure Regular (f : Fmt) : Prop where
  frac_pos : 0 < f.frac
  maxCode_lt : f.maxCode < 2 ^ (f.exp + f.frac)
  infCode_eq : f.hasInf = true → f.hasNan = true ∧ f.infCode = f.maxCode + 1
  total : f.hasNan = false → f.maxCode + 1 = 2 ^ (f.exp + f.frac)

variable {f}

/-- Every magnitude code is a significand at an exponent; the significand is full unless the exponent is the least one. -/
theorem exists_split (f : Fmt) (k : Nat) : ∃ j s, s < 2 ^ (f.frac + 1) ∧ (j = 0 ∨ 2 ^ f.frac ≤ s) ∧ k = j * 2 ^ f.frac + s := by
  have hpos : 0 < 2 ^ f.frac := by positivity
  have hmod := Nat.mod_lt k hpos
  have hk := Nat.div_add_mod k (2 ^ f.frac)
  rw [pow_succ]
  obtain h | h := Nat.eq_zero_or_pos (k / 2 ^ f.frac)
  · rw [h] at hk
    exact ⟨0, k, by omega, .inl rfl, by omega⟩
  · obtain ⟨j, hj⟩ : ∃ j, k / 2 ^ f.frac = j + 1 := ⟨_, (Nat.succ_pred_eq_of_pos h).symm⟩
    rw [hj, mul_add, mul_one, mul_comm] at hk
    exact ⟨j, 2 ^ f.frac + k % 2 ^ f.frac, by omega, .inr (by omega), by omega⟩

/-- A significand that a carry has made 2^(frac + 1) moves into the next exponent. -/
theorem magVal_split {j s : Nat} (hs : s ≤ 2 ^ (f.frac + 1)) (hj : j = 0 ∨ 2 ^ f.frac ≤ s) : f.magVal (j * 2 ^ f.frac + s) = s * 2 ^ (f.minExp + j) := by
  have hpos : 0 < 2 ^ f.frac := by positivity
  have h2 : (2 : ℚ) ≠ 0 := by norm_num
  rw [pow_succ] at hs
  obtain h | h := Nat.lt_or_ge s (2 ^ f.frac)
  · obtain rfl : j = 0 := hj.resolve_right (by omega)
    simp [magVal, sigOf, expOf, Nat.div_eq_of_lt h, Nat.mod_eq_of_lt h]
  obtain h' | h' := Nat.lt_or_ge s (2 * 2 ^ f.frac)
  · obtain ⟨r, rfl⟩ := Nat.exists_eq_add_of_le h
    have hr : r < 2 ^ f.frac := by omega
    have hcode : j * 2 ^ f.frac + (2 ^ f.frac + r) = r + 2 ^ f.frac * (j + 1) := by ring
    rw [hcode, magVal, sigOf, expOf, Nat.add_mul_div_left _ _ hpos, Nat.add_mul_mod_self_left, Nat.div_eq_of_lt hr, Nat.mod_eq_of_lt hr]
    simp only [zero_add, Nat.succ_ne_zero, if_false, minExp]
    push_cast
    congr 2
    ring
  · obtain rfl : s = 2 * 2 ^ f.frac := by omega
    have hcode : j * 2 ^ f.frac + 2 * 2 ^ f.frac = 0 + 2 ^ f.frac * (j + 2) := by ring
    rw [hcode, magVal, sigOf, expOf, Nat.add_mul_div_left _ _ hpos, Nat.add_mul_mod_self_left, Nat.zero_div, Nat.zero_mod]
    simp only [zero_add, add_zero, Nat.succ_ne_zero, if_false, minExp]
    have hexp : ((j + 2 : Nat) : ℤ) - f.bias - f.frac = (1 - f.bias - f.frac + j) + 1 := by push_cast; ring
    rw [hexp, zpow_add₀ h2 _ 1]
    push_cast
    ring

theorem magVal_zero (f : Fmt) : f.magVal 0 = 0 := by
  have h := magVal_split (f := f) (j := 0) (s := 0) (Nat.zero_le _) (.inl rfl)
  simpa using h

theorem magVal_strictMono (f : Fmt) : StrictMono f.magVal := by
  refine strictMono_nat_of_lt_succ fun k => ?_
  obtain ⟨j, s, hs, hj, rfl⟩ := f.exists_split k
  rw [magVal_split hs.le hj, Nat.add_assoc, magVal_split hs (hj.imp_right fun h => by omega)]
  exact mul_lt_mul_of_pos_right (by exact_mod_cast Nat.lt_succ_self s) (by positivity)

theorem magVal_nonneg (f : Fmt) (k : Nat) : 0 ≤ f.magVal k := by unfold magVal; positivity

theorem magVal_eq_zero {k : Nat} : f.magVal k = 0 ↔ k = 0 := by
  rw [← f.magVal_zero, f.magVal_strictMono.injective.eq_iff]

theorem magVal_two_pow_frac (f : Fmt) : f.magVal (2 ^ f.frac) = f.tiny := by
  have h := magVal_split (f := f) (j := 0) (s := 2 ^ f.frac) (Nat.pow_le_pow_right (by norm_num) (by omega)) (.inl rfl)
  rw [Nat.zero_mul, Nat.zero_add] at h
  rw [h, tiny, minExp, Nat.cast_zero, add_zero, sub_eq_add_neg (1 - (f.bias : ℤ)), zpow_add₀ (by norm_num), zpow_neg, zpow_natCast]
  push_cast
  field_simp

/-- A code is subnormal, or zero, exactly where its value is below the smallest normal number. -/
theorem magVal_lt_tiny {k : Nat} : f.magVal k < f.tiny ↔ k < 2 ^ f.frac := by
  rw [← magVal_two_pow_frac, f.magVal_strictMono.lt_iff_lt]

theorem sigOf_lt_iff {k : Nat} : f.sigOf k < 2 ^ f.frac ↔ k < 2 ^ f.frac := by
  have hpos : 0 < 2 ^ f.frac := by positivity
  have hmod := Nat.mod_lt k hpos
  have hdiv : k / 2 ^ f.frac = 0 ↔ k < 2 ^ f.frac := Nat.div_eq_zero_iff_lt hpos
  unfold sigOf
  split
  · next h => exact ⟨fun _ => hdiv.1 h, fun _ => hmod⟩
  · next h => exact ⟨fun hlt => absurd hlt (by omega), fun hlt => absurd (hdiv.2 hlt) h⟩

theorem grid_magVal (f : Fmt) (k : Nat) : Grid (f.frac + 1) (some f.minExp) (f.magVal k) := by
  obtain ⟨j, s, hs, hj, rfl⟩ := f.exists_split k
  rw [magVal_split hs.le hj]
  exact grid_mul_zpow (by omega) hs.le (by simp)

theorem roundsTo_iff {rm : Rnd} {v q : ℚ} : f.RoundsTo rm v q ↔
    Machine.RoundsTo (Grid (f.frac + 1) (some f.minExp)) (Grid (f.frac + 1 - 1) ((some f.minExp).map (· + 1))) rm v q := by
  have h : f.minExp + 1 = 2 - (f.bias : ℤ) - f.frac := by unfold minExp; ring
  rw [Option.map_some, h]
  rfl

/-! ### The model's rounding -/

section
variable {n d : Nat} {e : Int} {v : ℚ}

/-- The exponent at which the model rounds. -/
def roundExp (f : Fmt) (n d : Nat) (e : Int) : ℤ := Max.max f.minExp (log2Rat n d e - f.frac)

theorem roundMag_zero (f : Fmt) (rm : Rnd) (neg : Bool) (d : Nat) (e : Int) : f.roundMag rm neg 0 d e = (0, false, false) := rfl

theorem roundMag_of_pos (f : Fmt) (rm : Rnd) (neg : Bool) (hn : 0 < n) (d : Nat) (e : Int) : f.roundMag rm neg n d e =
    ((f.roundExp n d e - f.minExp).toNat * 2 ^ f.frac + roundAt rm neg n d e (f.roundExp n d e), (scaleDiv n d e (f.roundExp n d e)).2.1 != 0,
      decide ((if roundAt rm neg n d e (log2Rat n d e - f.frac) == 2 ^ (f.frac + 1) then log2Rat n d e + 1 else log2Rat n d e) < 1 - (f.bias : Int))) := by
  have h : (n == 0) = false := by simpa using hn.ne'
  simp only [roundMag, h, Bool.false_eq_true, if_false]
  rfl

variable (hn : 0 < n) (hd : 0 < d) (hv : v = n / d * 2 ^ e) (rm : Rnd) (neg : Bool)

include hn hd hv in
theorem lt_roundExp : v < 2 ^ (f.roundExp n d e + (f.frac + 1 : Nat)) := by
  rw [hv]
  refine (log2Rat_spec hn hd e).2.trans_le (zpow_le_zpow_right₀ (by norm_num) ?_)
  have : log2Rat n d e - f.frac ≤ f.roundExp n d e := le_max_right _ _
  push_cast
  omega

include hn hd hv in
theorem roundExp_le : some f.minExp = some (f.roundExp n d e) ∨ 2 ^ (f.roundExp n d e + (f.frac + 1 - 1 : Nat)) ≤ v := by
  obtain h | h := max_choice f.minExp (log2Rat n d e - f.frac)
  · exact .inl (congrArg some h.symm)
  · refine .inr ?_
    rw [hv]
    refine le_trans (le_of_eq ?_) (log2Rat_spec hn hd e).1
    rw [roundExp, h, Nat.add_sub_cancel, sub_add_cancel]

theorem minExp_le_roundExp : f.minExp ≤ f.roundExp n d e := le_max_left _ _

include hn hd hv in
theorem magVal_roundMag : f.magVal (f.roundMag rm neg n d e).1 = roundAt rm neg n d e (f.roundExp n d e) * 2 ^ f.roundExp n d e := by
  have hle : f.minExp ≤ f.roundExp n d e := minExp_le_roundExp
  have hs : roundAt rm neg n d e (f.roundExp n d e) ≤ 2 ^ (f.frac + 1) :=
    (roundAt_le rm neg).trans (scaleDiv_lt_two_pow hd hv (lt_roundExp hn hd hv))
  have hj : (f.roundExp n d e - f.minExp).toNat = 0 ∨ 2 ^ f.frac ≤ roundAt rm neg n d e (f.roundExp n d e) := by
    obtain h | h := roundExp_le (f := f) hn hd hv
    · exact .inl (by rw [Option.some.inj h]; simp)
    · exact .inr ((two_pow_le_scaleDiv hd hv h).trans (scaleDiv_le_roundAt rm neg))
  rw [roundMag_of_pos f rm neg hn, magVal_split hs hj, Int.toNat_of_nonneg (by omega), add_sub_cancel]

include hd hv in
theorem roundsTo_roundMag (hf : f.Regular) : f.RoundsTo rm (withSign neg v) (withSign neg (f.magVal (f.roundMag rm neg n d e).1)) := by
  obtain rfl | hn := Nat.eq_zero_or_pos n
  · have h0 : withSign neg v = 0 := by simp [hv]
    rw [roundMag_zero, magVal_zero, h0, withSign_zero, roundsTo_iff]
    exact roundsTo_self (f.magVal_zero ▸ f.grid_magVal 0)
  · rw [magVal_roundMag hn hd hv rm neg, roundsTo_iff]
    exact roundAt_roundsTo hd hv (by have := hf.frac_pos; omega) (lt_roundExp hn hd hv) (by simpa using minExp_le_roundExp) (roundExp_le hn hd hv) rm neg

include hd hv in
theorem inexact_roundMag : (f.roundMag rm neg n d e).2.1 = true ↔ f.magVal (f.roundMag rm neg n d e).1 ≠ v := by
  obtain rfl | hn := Nat.eq_zero_or_pos n
  · simp [hv, roundMag_zero, magVal_zero]
  · rw [ne_eq, magVal_roundMag hn hd hv rm neg, ← scaleDiv_exact hd rm neg hv, roundMag_of_pos f rm neg hn, bne_iff_ne]

include hn hd hv in
/-- Rounded with an exponent that has no least value, and compared with the smallest normal number. -/
theorem tiny_roundMag_of_pos (hf : f.Regular) : ∃ u, 0 ≤ u ∧ Machine.RoundsTo (Grid (f.frac + 1) none) (Grid f.frac none) rm (withSign neg v) (withSign neg u)
    ∧ ((f.roundMag rm neg n d e).2.2 = true ↔ u < f.tiny) := by
  have h2 : (1 : ℚ) < 2 := by norm_num
  obtain ⟨hlow, hhigh⟩ := log2Rat_spec hn hd e
  rw [← hv] at hlow hhigh
  have hlow' : (2 : ℚ) ^ (log2Rat n d e - f.frac + (f.frac + 1 - 1 : Nat)) ≤ v := by rwa [Nat.add_sub_cancel, sub_add_cancel]
  have hhigh' : v < 2 ^ (log2Rat n d e - f.frac + (f.frac + 1 : Nat)) := by
    rwa [show log2Rat n d e - f.frac + (f.frac + 1 : Nat) = log2Rat n d e + 1 by push_cast; ring]
  refine ⟨roundAt rm neg n d e (log2Rat n d e - f.frac) * 2 ^ (log2Rat n d e - f.frac), by positivity, ?_, ?_⟩
  · exact roundAt_roundsTo (least := none) hd hv (by have := hf.frac_pos; omega) hhigh' (by simp) (.inr hlow') rm neg
  · have hge : 2 ^ f.frac ≤ roundAt rm neg n d e (log2Rat n d e - f.frac) := (two_pow_le_scaleDiv hd hv hlow').trans (scaleDiv_le_roundAt rm neg)
    have hle : roundAt rm neg n d e (log2Rat n d e - f.frac) ≤ 2 ^ (f.frac + 1) := (roundAt_le rm neg).trans (scaleDiv_lt_two_pow hd hv hhigh')
    rw [roundMag_of_pos f rm neg hn, tiny, decide_eq_true_eq]
    generalize roundAt rm neg n d e (log2Rat n d e - f.frac) = s at hge hle ⊢
    generalize log2Rat n d e = lb
    have hscale : ∀ k : ℕ, ((2 ^ k : Nat) : ℚ) * 2 ^ (lb - f.frac) = 2 ^ (k + lb - f.frac) := fun k => by
      rw [← two_zpow_natCast, ← zpow_add₀ (by norm_num), add_sub_assoc]
    obtain rfl | hlt := hle.eq_or_lt
    · rw [if_pos (beq_self_eq_true _), hscale, zpow_lt_zpow_iff_right₀ h2]
      push_cast
      constructor <;> intro _ <;> omega
    · rw [if_neg (by simpa using hlt.ne)]
      have hs1 : (2 : ℚ) ^ lb ≤ s * 2 ^ (lb - f.frac) := by
        calc (2 : ℚ) ^ lb = (2 ^ f.frac : Nat) * 2 ^ (lb - f.frac) := by rw [hscale]; congr 1; ring
          _ ≤ s * 2 ^ (lb - f.frac) := by gcongr
      have hs2 : s * 2 ^ (lb - f.frac) < (2 : ℚ) ^ (lb + 1) := by
        calc (s : ℚ) * 2 ^ (lb - f.frac) < (2 ^ (f.frac + 1) : Nat) * 2 ^ (lb - f.frac) := by gcongr
          _ = 2 ^ (lb + 1) := by rw [hscale]; congr 1; push_cast; ring
      constructor
      · intro h
        exact hs2.trans_le (zpow_le_zpow_right₀ h2.le (by omega))
      · intro h
        exact (zpow_lt_zpow_iff_right₀ h2).1 (hs1.trans_lt h)

include hd hv in
theorem tiny_roundMag (hf : f.Regular) : ∃ u, 0 ≤ u ∧ Machine.RoundsTo (Grid (f.frac + 1) none) (Grid f.frac none) rm (withSign neg v) (withSign neg u)
    ∧ (((f.roundMag rm neg n d e).2.1 && (f.roundMag rm neg n d e).2.2) = true ↔ f.magVal (f.roundMag rm neg n d e).1 ≠ v ∧ u < f.tiny) := by
  rw [Bool.and_eq_true, inexact_roundMag hd hv rm neg]
  obtain rfl | hn := Nat.eq_zero_or_pos n
  · have h0 : v = 0 := by simp [hv]
    refine ⟨0, le_rfl, ?_, ?_⟩
    · rw [h0, withSign_zero]
      exact roundsTo_self ⟨0, 0, by simp, by simp, by simp⟩
    · simp [h0, roundMag_zero, magVal_zero]
  · obtain ⟨u, hu, hround, htiny⟩ := tiny_roundMag_of_pos hn hd hv rm neg hf
    exact ⟨u, hu, hround, and_congr_right fun _ => htiny⟩

end
end Fmt

end Sys2Proof.Machine
end

section
/-!
Reading and delivering codes: what `decode` reads, that a rounded result is delivered as R82, R83 and R85 say, and that reading and rounding a finite code gives it back.
-/
namespace Sys2Proof.Machine

theorem Num.val_fin (neg : Bool) (m : Nat) (e : Int) : (Num.fin neg m e).val = withSign neg (m * 2 ^ e) := by
  cases neg <;> simp [Num.val]

namespace Fmt
variable {f : Fmt} {x k : Nat}

/-! ### Reading -/

/-- A code is read as a finite number exactly where its magnitude is not beyond the largest finite one. -/
theorem decode_of_le (hf : f.Regular) (h : x % 2 ^ (f.exp + f.frac) ≤ f.maxCode) :
    f.decode x = .fin (f.signed && x / 2 ^ (f.exp + f.frac) % 2 == 1) (f.sigOf (x % 2 ^ (f.exp + f.frac))) (f.expOf (x % 2 ^ (f.exp + f.frac))) := by
  have hinf : (f.hasInf && x % 2 ^ (f.exp + f.frac) == f.infCode) = false := by
    rw [Bool.and_eq_false_iff, beq_eq_false_iff_ne]
    cases hi : f.hasInf with
    | false => exact .inl rfl
    | true => exact .inr (by have := (hf.infCode_eq hi).2; omega)
  simp only [decode, not_lt.2 h, decide_false, Bool.and_false, Bool.false_and, Bool.false_eq_true, if_false, hinf, beq_iff_eq, sigOf, expOf, minExp]
  split <;> rfl

theorem decode_of_lt (hf : f.Regular) (h : f.maxCode < x % 2 ^ (f.exp + f.frac)) : f.decode x =
    if f.hasInf = true ∧ x % 2 ^ (f.exp + f.frac) = f.infCode then .inf (f.signed && x / 2 ^ (f.exp + f.frac) % 2 == 1)
    else .nan (f.hasInf && decide (7 ≤ f.frac) && x % 2 ^ (f.exp + f.frac) % 2 ^ f.frac / 2 ^ (f.frac - 1) == 0) := by
  have hlt : x % 2 ^ (f.exp + f.frac) < 2 ^ (f.exp + f.frac) := Nat.mod_lt _ (by positivity)
  have hnan : f.hasNan = true := by
    by_contra hn
    have := hf.total (by simpa using hn)
    omega
  generalize hmag : x % 2 ^ (f.exp + f.frac) = mag at h hlt
  cases hi : f.hasInf with
  | false => simp [decode, hmag, hnan, hi, h]
  | true =>
    have hiff : mag % 2 ^ f.frac = 0 ↔ mag = f.infCode := by
      have hge := (hf.infCode_eq hi).2
      have hpos : 0 < 2 ^ f.frac := by positivity
      constructor
      · intro hmod
        obtain ⟨t, rfl⟩ := Nat.dvd_of_mod_eq_zero hmod
        rw [pow_add, mul_comm, mul_lt_mul_iff_left₀ hpos] at hlt
        have hle : f.infCode ≤ 2 ^ f.frac * t := by omega
        rw [infCode, mul_comm, mul_le_mul_iff_right₀ hpos] at hle
        rw [infCode, mul_comm, show t = 2 ^ f.exp - 1 by omega]
      · rintro rfl
        exact Nat.mul_mod_left _ _
    by_cases hm : mag = f.infCode
    · simp [decode, hmag, hi, hm, infCode]
    · have hne : (mag % 2 ^ f.frac == 0) = false := by simpa using fun h0 => hm (hiff.1 h0)
      simp [decode, hmag, hnan, hi, h, hm, hne]

theorem decode_mag (hf : f.Regular) (h : k ≤ f.maxCode) : f.decode k = .fin false (f.sigOf k) (f.expOf k) := by
  have hlt : k < 2 ^ (f.exp + f.frac) := h.trans_lt hf.maxCode_lt
  rw [decode_of_le hf (by rwa [Nat.mod_eq_of_lt hlt]), Nat.mod_eq_of_lt hlt, Nat.div_eq_of_lt hlt]
  simp

theorem val_decode_mag (hf : f.Regular) (h : k ≤ f.maxCode) : (f.decode k).val = f.magVal k := by
  rw [decode_mag hf h, Num.val_fin]
  rfl

theorem max_eq (hf : f.Regular) : f.max = f.magVal f.maxCode := val_decode_mag hf le_rfl

/-! ### Delivering -/

/-- A value rounded by the model is delivered as R82, R83 and R85 have it. -/
theorem delivers_round (hf : f.Regular) (rm : Rnd) (ftz sat neg : Bool) {n d : Nat} (hd : 0 < d) {e : Int} {v : ℚ} (hv : v = withSign neg (n / d * 2 ^ e)) :
    f.Delivers rm ftz sat neg v (f.round rm ftz sat neg n d e) := by
  have hw : 0 ≤ (n : ℚ) / d * 2 ^ e := by positivity
  obtain ⟨w, hwdef⟩ : ∃ w : ℚ, w = n / d * 2 ^ e := ⟨_, rfl⟩
  rw [← hwdef] at hv hw
  obtain ⟨u, hu0, hu, htiny⟩ := tiny_roundMag hd hwdef rm neg hf
  have hround := roundsTo_roundMag hd hwdef rm neg hf
  have hinexact := inexact_roundMag (f := f) hd hwdef rm neg
  have hminus : (if v = 0 then neg else decide (v < 0)) = neg := by
    split
    · rfl
    · next h0 =>
      cases neg with
      | false => simpa [hv] using hw
      | true =>
        have : w ≠ 0 := by simpa [hv] using h0
        simpa [hv] using lt_of_le_of_ne hw this.symm
  have habs : ∀ y : ℚ, 0 ≤ y → |withSign neg y| = y := fun y hy => by rw [abs_withSign, abs_of_nonneg hy]
  unfold Delivers
  rw [hminus]
  rw [hv] at *
  refine ⟨withSign neg (f.magVal (f.roundMag rm neg n d e).1), withSign neg u, hround, hu, ?_⟩
  simp only [round]
  generalize f.roundMag rm neg n d e = r at *
  obtain ⟨code, inexact, tiny⟩ := r
  dsimp only at hround hinexact htiny ⊢
  rw [habs _ (f.magVal_nonneg code), habs u hu0, max_eq hf]
  have hzero : withSign neg (f.magVal code) ≠ 0 ↔ code ≠ 0 := by
    rw [← withSign_zero neg, ne_eq, withSign_inj, magVal_eq_zero]
  simp only [f.magVal_strictMono.lt_iff_lt, withSign_inj, magVal_lt_tiny, hzero]
  by_cases hover : f.maxCode < code
  · -- the carry out of the largest finite code
    have hw0 : 0 < w := by
      refine lt_of_le_of_ne hw fun h0 => ?_
      rw [← h0, withSign_zero] at hround
      have := hround.eq_of_mem (f.magVal_zero ▸ f.grid_magVal 0)
      rw [← withSign_zero neg, withSign_inj, magVal_eq_zero] at this
      omega
    have hinf : (rm = .rz ∨ (rm = .ru ∧ withSign neg w < 0) ∨ (rm = .rd ∧ 0 < withSign neg w)) ↔ overflowInf rm neg = false := by
      cases neg <;> cases rm <;> simp [overflowInf, hw0, hw0.le]
    simp only [hover, decide_true, if_true, hinf]
    cases sat <;> cases overflowInf rm neg <;> simp
  · by_cases hflush : ftz = true ∧ code ≠ 0 ∧ code < 2 ^ f.frac
    · obtain ⟨hz, h0, hlt⟩ := hflush
      simp [hover, hz, h0, hlt]
    · have hflush' : (ftz && code != 0 && decide (code < 2 ^ f.frac)) = false := by
        rw [← Bool.not_eq_true]
        simpa [and_assoc] using hflush
      simp only [hover, decide_false, Bool.false_eq_true, if_false, hflush, hflush']
      refine ⟨⟨code, not_lt.1 hover, rfl, val_decode_mag hf (not_lt.1 hover)⟩, ?_⟩
      simp only [hinexact, htiny, ne_eq, ite_not, withSign_inj]

/-- The sign given for a zero does not matter to another value. -/
theorem Delivers.congr_neg {rm : Rnd} {ftz sat neg neg' : Bool} {v : ℚ} {y : Nat × Flags} (h : f.Delivers rm ftz sat neg v y) (hv : v = 0 → neg = neg') :
    f.Delivers rm ftz sat neg' v y := by
  have hminus : (if v = 0 then neg else decide (v < 0)) = if v = 0 then neg' else decide (v < 0) := ite_congr rfl hv fun _ => rfl
  unfold Delivers at h ⊢
  rwa [← hminus]

/-- What is delivered of a value that has a code is that code, exactly. -/
theorem round_exact (hf : f.Regular) (rm : Rnd) (sat neg : Bool) {n d : Nat} (hd : 0 < d) {e : Int} (hk : k ≤ f.maxCode) (hv : f.magVal k = n / d * 2 ^ e) :
    f.round rm false sat neg n d e = ((if neg then f.signBit else 0) + k, 0) := by
  have hcode : (f.roundMag rm neg n d e).1 = k := by
    have hgrid : Grid (f.frac + 1) (some f.minExp) (withSign neg (f.magVal k)) := by
      cases neg
      · exact f.grid_magVal k
      · exact (f.grid_magVal k).neg
    exact f.magVal_strictMono.injective (withSign_inj.1 ((roundsTo_roundMag hd hv rm neg hf).eq_of_mem hgrid))
  have hexact : (f.roundMag rm neg n d e).2.1 = false := by
    rw [← Bool.not_eq_true, inexact_roundMag hd hv rm neg, hcode]
    exact not_not_intro rfl
  simp [round, hcode, hexact, not_lt.2 hk]

/-! ### Codes with a sign -/

section
variable (hs : f.signed = true)
include hs

theorem signBit_eq : f.signBit = 2 ^ (f.exp + f.frac) := by simp [signBit, hs]

theorem withSign_code_div (neg : Bool) (hk : k < 2 ^ (f.exp + f.frac)) :
    ((if neg then f.signBit else 0) + k) % 2 ^ (f.exp + f.frac) = k
      ∧ (f.signed && ((if neg then f.signBit else 0) + k) / 2 ^ (f.exp + f.frac) % 2 == 1) = neg := by
  rw [signBit_eq hs]
  have hpos : 0 < 2 ^ (f.exp + f.frac) := by positivity
  cases neg <;> simp [hs, Nat.mod_eq_of_lt hk, Nat.div_eq_of_lt hk, Nat.add_div_left _ hpos]

theorem eq_code (hx : x < 2 * f.signBit) :
    x = (if (f.signed && x / 2 ^ (f.exp + f.frac) % 2 == 1) then f.signBit else 0) + x % 2 ^ (f.exp + f.frac) := by
  rw [signBit_eq hs] at *
  have hdiv : x / 2 ^ (f.exp + f.frac) < 2 := Nat.div_lt_of_lt_mul (by rwa [mul_comm])
  have h := Nat.div_add_mod x (2 ^ (f.exp + f.frac))
  rw [hs, Bool.true_and]
  obtain h0 | h1 := Nat.le_one_iff_eq_zero_or_eq_one.1 (Nat.le_of_lt_succ hdiv)
  · rw [h0] at h ⊢
    simpa using h.symm
  · rw [h1] at h ⊢
    simpa using h.symm

theorem decode_code (hf : f.Regular) (neg : Bool) (hk : k ≤ f.maxCode) :
    f.decode ((if neg then f.signBit else 0) + k) = .fin neg (f.sigOf k) (f.expOf k) := by
  obtain ⟨hmag, hneg⟩ := withSign_code_div hs neg (hk.trans_lt hf.maxCode_lt)
  rw [decode_of_le hf (by rwa [hmag]), hmag, hneg]

end

theorem isFin_iff (hf : f.Regular) : (f.decode x).isFin = true ↔ x % 2 ^ (f.exp + f.frac) ≤ f.maxCode := by
  constructor
  · intro h
    by_contra hlt
    rw [decode_of_lt hf (not_le.1 hlt)] at h
    split at h <;> cases h
  · intro h
    rw [decode_of_le hf h]
    rfl

/-- A finite code is a sign and a magnitude. -/
theorem exists_of_isFin (hf : f.Regular) (h : (f.decode x).isFin = true) : ∃ neg k, k ≤ f.maxCode ∧ f.decode x = .fin neg (f.sigOf k) (f.expOf k)
    ∧ (f.signed = true → x < 2 * f.signBit → x = (if neg then f.signBit else 0) + k) :=
  ⟨_, _, (isFin_iff hf).1 h, decode_of_le hf ((isFin_iff hf).1 h), fun hs hx => eq_code hs hx⟩

theorem of_decode_inf (hf : f.Regular) {neg : Bool} (h : f.decode x = .inf neg) :
    f.hasInf = true ∧ (f.signed = true → x < 2 * f.signBit → x = (if neg then f.signBit else 0) + f.infCode) := by
  have hlt : f.maxCode < x % 2 ^ (f.exp + f.frac) := by
    by_contra hle
    rw [decode_of_le hf (not_lt.1 hle)] at h
    cases h
  rw [decode_of_lt hf hlt] at h
  split at h
  · next hi =>
    cases h
    exact ⟨hi.1, fun hs hx => by rw [← hi.2]; exact eq_code hs hx⟩
  · cases h

/-! ### Operands -/

/-- A code as an operand is read: under flush a subnormal one as the zero of its sign (R83). -/
def flushCode (f : Fmt) (z : Bool) (x : Nat) : Nat :=
  if (f.decode x).isFin = true ∧ z = true ∧ |(f.decode x).val| < f.tiny then (if (f.decode x).isNeg then f.signBit else 0) else x

theorem abs_val_fin {neg : Bool} : |(Num.fin neg (f.sigOf k) (f.expOf k)).val| = f.magVal k := by
  rw [Num.val_fin, abs_withSign]
  exact abs_of_nonneg (f.magVal_nonneg k)

theorem operand_eq (hf : f.Regular) (hs : f.signed = true) (z : Bool) (x : Nat) :
    f.operand z x = (f.decode (f.flushCode z x), if f.decode x = .nan true then fIV else 0) := by
  cases h : f.decode x with
  | nan sig => cases sig <;> simp [operand, flushCode, h, Num.isFin]
  | inf n => simp [operand, flushCode, h, Num.isFin]
  | fin n m e =>
    obtain ⟨neg, k, hk, hx, -⟩ := exists_of_isFin hf (x := x) (by rw [h]; rfl)
    rw [h] at hx
    cases hx
    have hcond : ((f.decode x).isFin = true ∧ z = true ∧ |(f.decode x).val| < f.tiny) ↔ (z && decide (f.sigOf k < 2 ^ f.frac)) = true := by
      rw [h, abs_val_fin, magVal_lt_tiny, Bool.and_eq_true, decide_eq_true_eq, sigOf_lt_iff]
      exact ⟨And.right, fun h => ⟨rfl, h⟩⟩
    have hcode : f.flushCode z x = if (z && decide (f.sigOf k < 2 ^ f.frac)) = true then (if n then f.signBit else 0) else x := by
      rw [flushCode, ite_congr (propext hcond) (fun _ => rfl) fun _ => rfl, h]
      rfl
    simp only [operand, hcode, h, reduceCtorEq, if_false]
    split
    · next hflush =>
      have hzero := decode_code hs hf n (Nat.zero_le f.maxCode)
      rw [Nat.add_zero] at hzero
      have hlt : k < 2 ^ f.frac := by
        rw [Bool.and_eq_true, decide_eq_true_eq, sigOf_lt_iff] at hflush
        exact hflush.2
      rw [hzero]
      simp [sigOf, expOf, Nat.div_eq_of_lt hlt]
    · rw [h]

theorem flushCode_of_not_isFin (z : Bool) (h : (f.decode x).isFin = false) : f.flushCode z x = x := if_neg (by simp [h])

section
variable (hf : f.Regular) (hs : f.signed = true) (z : Bool) (x : Nat)
include hf hs

theorem decode_zero (neg : Bool) : f.decode (if neg then f.signBit else 0) = .fin neg 0 f.minExp := by
  have h := decode_code hs hf neg (Nat.zero_le f.maxCode)
  simpa [sigOf, expOf] using h

/-- What flush changes of an operand is its magnitude only. -/
theorem decode_flushCode : f.decode (f.flushCode z x) = if (f.decode x).isFin = true ∧ z = true ∧ |(f.decode x).val| < f.tiny
    then .fin (f.decode x).isNeg 0 f.minExp else f.decode x := by
  unfold flushCode
  split
  · exact decode_zero hf hs _
  · rfl

theorem isFin_flushCode : (f.decode (f.flushCode z x)).isFin = (f.decode x).isFin := by
  rw [decode_flushCode hf hs]
  split
  · next h => exact h.1.symm
  · rfl

theorem isNan_flushCode : (f.decode (f.flushCode z x)).isNan = (f.decode x).isNan := by
  rw [decode_flushCode hf hs]
  split
  · next h =>
    cases hx : f.decode x with
    | fin n m e => rfl
    | _ => rw [hx] at h; cases h.1
  · rfl

theorem isNeg_flushCode : (f.decode (f.flushCode z x)).isNeg = (f.decode x).isNeg := by
  rw [decode_flushCode hf hs]
  split <;> rfl

theorem val_flushCode : (f.decode (f.flushCode z x)).val = if z = true ∧ |(f.decode x).val| < f.tiny then 0 else (f.decode x).val := by
  rw [decode_flushCode hf hs]
  cases hx : f.decode x with
  | fin n m e =>
    simp only [Num.isFin, true_and]
    split
    · rw [Num.val_fin]; simp
    · rfl
  | _ => simp [Num.isFin, Num.val]

omit hf in
theorem flushCode_lt (hx : x < 2 * f.signBit) : f.flushCode z x < 2 * f.signBit := by
  have hpos : 0 < f.signBit := by rw [signBit_eq hs]; positivity
  unfold flushCode
  split
  · split <;> omega
  · exact hx

theorem deliver_decode (rm : Rnd) (sat : Bool) {x : Nat} (hx : x < 2 * f.signBit) (hnan : (f.decode x).isNan = false) :
    f.deliver rm false sat (some (f.decode x)) = (x, 0) := by
  cases h : f.decode x with
  | nan sig => rw [h] at hnan; cases hnan
  | inf n => simp only [deliver, (of_decode_inf hf h).2 hs hx, Nat.add_comm]
  | fin n m e =>
    obtain ⟨neg, k, hk, hd, hcode⟩ := exists_of_isFin hf (x := x) (by rw [h]; rfl)
    rw [h] at hd
    cases hd
    rw [hcode hs hx]
    exact round_exact hf rm sat n Nat.one_pos hk (by rw [Nat.cast_one, div_one]; rfl)

end

end Fmt

end Sys2Proof.Machine
end

section
/-!
Exact arithmetic on finite numbers, and what the operations deliver (R82).
-/
namespace Sys2Proof.Machine

namespace Num

theorem exists_of_isFin {a : Num} (h : a.isFin = true) : ∃ n m e, a = .fin n m e := by
  cases a with
  | fin n m e => exact ⟨n, m, e, rfl⟩
  | _ => cases h

theorem isNan_of_isFin {a : Num} (h : a.isFin = true) : a.isNan = false := by
  obtain ⟨n, m, e, rfl⟩ := exists_of_isFin h
  rfl

theorem val_fin_eq_zero {n : Bool} {m : Nat} {e : Int} : (Num.fin n m e).val = 0 ↔ m = 0 := by
  rw [val_fin, ← withSign_zero n, withSign_inj, mul_eq_zero, or_iff_left (zpow_ne_zero e (by norm_num))]
  exact Nat.cast_eq_zero

theorem isFin_negate {a : Num} : a.negate.isFin = a.isFin := by cases a <;> rfl
theorem val_negate {a : Num} : a.negate.val = -a.val := by
  cases a with
  | fin n m e => rw [negate, val_fin, val_fin, withSign_not]
  | _ => simp [negate, val]
theorem isNeg_negate {a : Num} (h : a.isFin = true) : a.negate.isNeg = !a.isNeg := by
  obtain ⟨n, m, e, rfl⟩ := exists_of_isFin h
  rfl

theorem mul_fin {a b : Num} (ha : a.isFin = true) (hb : b.isFin = true) :
    ∃ p, Num.mul a b = some p ∧ p.isFin = true ∧ p.val = a.val * b.val ∧ p.isNeg = (a.isNeg != b.isNeg) := by
  obtain ⟨n, m, e, rfl⟩ := exists_of_isFin ha
  obtain ⟨k, p, g, rfl⟩ := exists_of_isFin hb
  refine ⟨_, rfl, rfl, ?_, rfl⟩
  rw [val_fin, val_fin, val_fin, withSign_mul, zpow_add₀ (by norm_num)]
  push_cast
  congr 1
  ring

/-- A finite number in units of 2^c, for c at or below its exponent. -/
theorem val_eq_units {n : Bool} {m : Nat} {e c : Int} (hc : c ≤ e) :
    (Num.fin n m e).val = ((if n then -((m * 2 ^ (e - c).toNat : Nat) : Int) else ((m * 2 ^ (e - c).toNat : Nat) : Int) : Int) : ℚ) * 2 ^ c := by
  have hpow : (2 : ℚ) ^ e = 2 ^ (e - c).toNat * 2 ^ c := by
    rw [← zpow_natCast, ← zpow_add₀ (by norm_num), Int.toNat_of_nonneg (by omega), sub_add_cancel]
  rw [val_fin, hpow]
  cases n <;> simp [mul_assoc]

end Num

theorem withSign_natAbs (t : Int) : withSign (decide (t < 0)) (t.natAbs : ℚ) = t := by
  obtain h | h := lt_or_ge t 0
  · simp only [h, decide_true, withSign_true, Nat.cast_natAbs, abs_of_neg h]
    push_cast
    ring
  · simp only [not_lt.2 h, decide_false, withSign_false, Nat.cast_natAbs, abs_of_nonneg h]

namespace Fmt
variable {f : Fmt} (hf : f.Regular) (rm : Rnd) (z sat : Bool)
include hf

theorem delivers_fin (n : Bool) (m : Nat) (e : Int) : f.Delivers rm z sat n (Num.fin n m e).val (f.round rm z sat n m 1 e) :=
  delivers_round hf rm z sat n Nat.one_pos (by rw [Num.val_fin, Nat.cast_one, div_one])

theorem delivers_add {a b : Num} (ha : a.isFin = true) (hb : b.isFin = true) :
    f.Delivers rm z sat (if a.val = 0 ∧ b.val = 0 ∧ a.isNeg = b.isNeg then a.isNeg else rm == .rd) (a.val + b.val)
      (f.deliver rm z sat (Num.add rm a b)) := by
  obtain ⟨n, m, e, rfl⟩ := Num.exists_of_isFin ha
  obtain ⟨k, p, g, rfl⟩ := Num.exists_of_isFin hb
  have hsum := congrArg₂ (· + ·) (Num.val_eq_units (n := n) (m := m) (min_le_left e g)) (Num.val_eq_units (n := k) (m := p) (min_le_right e g))
  rw [← add_mul, ← Int.cast_add] at hsum
  simp only [Num.add]
  generalize (if n then -((m * 2 ^ (e - Min.min e g).toNat : Nat) : Int) else ((m * 2 ^ (e - Min.min e g).toNat : Nat) : Int))
    + (if k then -((p * 2 ^ (g - Min.min e g).toNat : Nat) : Int) else ((p * 2 ^ (g - Min.min e g).toNat : Nat) : Int)) = t at hsum ⊢
  rw [hsum]
  by_cases ht : t = 0
  · subst ht
    have hneg : (if m == 0 && p == 0 && n == k then n else rm == .rd)
        = if (Num.fin n m e).val = 0 ∧ (Num.fin k p g).val = 0 ∧ (Num.fin n m e).isNeg = (Num.fin k p g).isNeg then (Num.fin n m e).isNeg else rm == .rd := by
      simp only [Num.val_fin_eq_zero, Num.isNeg, Bool.and_eq_true, beq_iff_eq, and_assoc]
    rw [← hneg, beq_self_eq_true, if_pos rfl]
    have h := delivers_fin hf rm z sat (if m == 0 && p == 0 && n == k then n else rm == .rd) 0 (Min.min e g)
    rwa [Num.val_fin_eq_zero.2 rfl, ← zero_mul ((2 : ℚ) ^ Min.min e g), ← Int.cast_zero] at h
  · rw [beq_eq_false_iff_ne.2 ht, if_neg Bool.false_ne_true]
    have h := delivers_fin hf rm z sat (decide (t < 0)) t.natAbs (Min.min e g)
    rw [Num.val_fin, ← withSign_mul_right, withSign_natAbs] at h
    exact h.congr_neg fun hv => absurd hv (mul_ne_zero (by exact_mod_cast ht) (zpow_ne_zero _ (by norm_num)))

theorem delivers_some {a : Num} (ha : a.isFin = true) : f.Delivers rm z sat a.isNeg a.val (f.deliver rm z sat (some a)) := by
  obtain ⟨n, m, e, rfl⟩ := Num.exists_of_isFin ha
  exact delivers_fin hf rm z sat n m e

end Fmt

end Sys2Proof.Machine
end

section
/-!
The arithmetic formats FP16, BF16, FP32 and FP64, and what each operation delivers on their codes: the operands as flush leaves them, exactly, rounded once.
-/
namespace Sys2Proof.Machine.Fmt

/-- What the arithmetic needs of a format: signs, a range that FSCALE's largest shift leaves, and room for the integers that FRND may round to. -/
structure Arith (F : Fmt) : Prop where
  regular : F.Regular
  signed : F.signed = true
  hasInf : F.hasInf = true
  range : 2 ^ F.exp + F.frac < 4096
  integral : (F.bias + F.frac) * 2 ^ F.frac ≤ F.maxCode
  bias_pos : 0 < F.bias

theorem arith_of_mem {F : Fmt} (hF : F ∈ [Fmt.f16, Fmt.bf16, Fmt.f32, Fmt.f64]) : F.Arith := by
  simp only [List.mem_cons, List.not_mem_nil, or_false] at hF
  obtain rfl | rfl | rfl | rfl := hF <;> exact ⟨⟨by decide, by decide, by decide, by decide⟩, rfl, rfl, by decide, by decide, by decide⟩

theorem or_zero_flags (fl : Flags) : fl ||| 0 = fl := BitVec.or_zero

/-- The exception of reading an operand (R84). -/
def readFlags (F : Fmt) (x : Nat) : Flags := if F.decode x = .nan true then fIV else 0

theorem readFlags_of_not_isNan {F : Fmt} {x : Nat} (h : (F.decode x).isNan = false) : F.readFlags x = 0 :=
  if_neg fun hx => by rw [hx] at h; cases h

section
variable {F : Fmt} (hF : F.Arith) (r : Rnd) (z : Bool) {x y k : Nat}
include hF

theorem isNan_read (x : Nat) : (F.decode (F.flushCode z x)).isNan = (F.decode x).isNan := isNan_flushCode hF.regular hF.signed z x

theorem operand_fst (x : Nat) : (F.operand z x).1 = F.decode (F.flushCode z x) := by rw [operand_eq hF.regular hF.signed]
theorem operand_snd (x : Nat) : (F.operand z x).2 = F.readFlags x := by rw [operand_eq hF.regular hF.signed]; rfl

/-! ### Operands that are not NaN -/

section
variable (hx : (F.decode x).isNan = false) (hy : (F.decode y).isNan = false)
include hx

theorem operand_of_not_nan : F.operand z x = (F.decode (F.flushCode z x), 0) := by
  rw [operand_eq hF.regular hF.signed, if_neg fun hn => by rw [hn] at hx; cases hx]

include hy

theorem fadd_of_not_nan : F.fadd r z x y = F.deliver r z false (Num.add r (F.decode (F.flushCode z x)) (F.decode (F.flushCode z y))) := by
  simp only [fadd, isNan_read hF, hx, hy, Bool.or_self, Bool.false_eq_true, if_false, operand_fst hF]

theorem fsub_of_not_nan : F.fsub r z x y = F.deliver r z false (Num.add r (F.decode (F.flushCode z x)) (F.decode (F.flushCode z y)).negate) := by
  simp only [fsub, isNan_read hF, hx, hy, Bool.or_self, Bool.false_eq_true, if_false, operand_fst hF]

theorem fmul_of_not_nan : F.fmul r z x y = F.deliver r z false (Num.mul (F.decode (F.flushCode z x)) (F.decode (F.flushCode z y))) := by
  simp only [fmul, isNan_read hF, hx, hy, Bool.or_self, Bool.false_eq_true, if_false, operand_fst hF]

theorem ffma_of_invalid (hk : (F.decode k).isNan = false) (hp : Num.mul (F.decode (F.flushCode z x)) (F.decode (F.flushCode z y)) = none) :
    F.ffma r z x y k = (F.nan, fIV) := by
  simp only [ffma, isNan_read hF, hx, hy, hk, hp, Bool.or_self, Bool.false_and, Bool.false_eq_true, if_false, operand_fst hF, operand_snd hF,
    readFlags_of_not_isNan hx, readFlags_of_not_isNan hy, readFlags_of_not_isNan hk, or_zero_flags]

theorem ffma_of_product (hk : (F.decode k).isNan = false) {p : Num} (hp : Num.mul (F.decode (F.flushCode z x)) (F.decode (F.flushCode z y)) = some p) :
    F.ffma r z x y k = F.deliver r z false (Num.add r p (F.decode (F.flushCode z k))) := by
  simp only [ffma, isNan_read hF, hx, hy, hk, hp, Bool.or_self, Bool.false_eq_true, if_false, operand_fst hF]

end

/-! ### Finite operands -/

section
variable (hx : (F.decode x).isFin = true) (hy : (F.decode y).isFin = true) (hk : (F.decode k).isFin = true)

/-- A finite operand as it is read. -/
theorem isFin_read (hx : (F.decode x).isFin = true) : (F.decode (F.flushCode z x)).isFin = true :=
  (isFin_flushCode hF.regular hF.signed z x).trans hx

include hx hy

theorem delivers_fadd : let X := F.decode (F.flushCode z x); let Y := F.decode (F.flushCode z y)
    F.Delivers r z false (if X.val = 0 ∧ Y.val = 0 ∧ X.isNeg = Y.isNeg then X.isNeg else r == .rd) (X.val + Y.val) (F.fadd r z x y) := by
  rw [fadd_of_not_nan hF r z (Num.isNan_of_isFin hx) (Num.isNan_of_isFin hy)]
  exact delivers_add hF.regular r z false (isFin_read hF z hx) (isFin_read hF z hy)

theorem delivers_fsub : let X := F.decode (F.flushCode z x); let Y := F.decode (F.flushCode z y)
    F.Delivers r z false (if X.val = 0 ∧ Y.val = 0 ∧ X.isNeg ≠ Y.isNeg then X.isNeg else r == .rd) (X.val - Y.val) (F.fsub r z x y) := by
  intro X Y
  have hX := isFin_read hF z hx
  have hY := isFin_read hF z hy
  rw [fsub_of_not_nan hF r z (Num.isNan_of_isFin hx) (Num.isNan_of_isFin hy)]
  have h := delivers_add hF.regular r z false hX (Num.isFin_negate.trans hY)
  simp only [Num.val_negate, Num.isNeg_negate hY, neg_eq_zero, ← sub_eq_add_neg] at h
  have hne : X.isNeg ≠ Y.isNeg ↔ X.isNeg = !Y.isNeg := by cases X.isNeg <;> cases Y.isNeg <;> simp
  simpa only [hne] using h

theorem delivers_fmul : let X := F.decode (F.flushCode z x); let Y := F.decode (F.flushCode z y)
    F.Delivers r z false (X.isNeg != Y.isNeg) (X.val * Y.val) (F.fmul r z x y) := by
  rw [fmul_of_not_nan hF r z (Num.isNan_of_isFin hx) (Num.isNan_of_isFin hy)]
  obtain ⟨p, hp, hfin, hval, hneg⟩ := Num.mul_fin (isFin_read hF z hx) (isFin_read hF z hy)
  have h := delivers_some hF.regular r z false hfin
  rwa [hval, hneg, ← hp] at h

include hk in
theorem delivers_ffma : let X := F.decode (F.flushCode z x); let Y := F.decode (F.flushCode z y); let K := F.decode (F.flushCode z k)
    F.Delivers r z false (if X.val * Y.val = 0 ∧ K.val = 0 ∧ (X.isNeg != Y.isNeg) = K.isNeg then K.isNeg else r == .rd) (X.val * Y.val + K.val)
      (F.ffma r z x y k) := by
  intro X Y K
  obtain ⟨p, hp, hfin, hval, hneg⟩ := Num.mul_fin (isFin_read hF z hx) (isFin_read hF z hy)
  rw [ffma_of_product hF r z (Num.isNan_of_isFin hx) (Num.isNan_of_isFin hy) (Num.isNan_of_isFin hk) hp]
  have h := delivers_add hF.regular r z false hfin (isFin_read hF z hk)
  rw [hval, hneg] at h
  refine h.congr_neg fun _ => ?_
  split
  · next hc => exact hc.2.2
  · rfl

end
end

end Sys2Proof.Machine.Fmt
end

section
/-!
NaN operands and results (R84), and the exact zero sums (R82).
-/
namespace Sys2Proof.Machine

namespace Fmt

/-- A zero is delivered as a zero, exactly. -/
theorem Delivers.eq_zero {f : Fmt} (hf : f.Regular) {rm : Rnd} {ftz sat neg : Bool} {y : Nat × Flags} (h : f.Delivers rm ftz sat neg 0 y) :
    y = (if neg then f.signBit else 0, 0) := by
  obtain ⟨q, u, hq, -, h⟩ := h
  obtain rfl : q = 0 := hq.eq_of_mem (f.magVal_zero ▸ f.grid_magVal 0)
  have hmax : ¬ f.max < |(0 : ℚ)| := by
    rw [abs_zero, max_eq hf]
    exact not_lt.2 (f.magVal_nonneg _)
  rw [if_neg hmax] at h
  simp only [ne_eq, not_true_eq_false, false_and, and_false, if_false, if_true, abs_zero] at h
  obtain ⟨⟨k, hk, hcode, hval⟩, hflags⟩ := h
  obtain rfl : k = 0 := magVal_eq_zero.1 ((val_decode_mag hf hk).symm.trans hval)
  exact Prod.ext hcode hflags

variable {F : Fmt} (hF : F.Arith) (r : Rnd) (z : Bool) {x y k : Nat}

/-! ### Exceptions of NaN operands -/

theorem ite_fIV_or (p q : Prop) [Decidable p] [Decidable q] :
    ((if p then fIV else 0) ||| (if q then fIV else 0) : Flags) = if p ∨ q then fIV else 0 := by
  by_cases hp : p <;> by_cases hq : q <;> simp [hp, hq]

theorem readFlags_or (F : Fmt) (x y : Nat) : F.readFlags x ||| F.readFlags y = if F.decode x = .nan true ∨ F.decode y = .nan true then fIV else 0 :=
  ite_fIV_or _ _

theorem readFlags_or_or (F : Fmt) (x y k : Nat) : F.readFlags x ||| F.readFlags y ||| F.readFlags k
    = if F.decode x = .nan true ∨ F.decode y = .nan true ∨ F.decode k = .nan true then fIV else 0 := by
  simp only [readFlags, ite_fIV_or, or_assoc]

section
variable (h : (F.decode x).isNan = true ∨ (F.decode y).isNan = true)
include hF h

theorem fadd_of_nan : F.fadd r z x y = (F.nan, F.readFlags x ||| F.readFlags y) := by
  simp only [fadd, operand_fst hF, operand_snd hF, isNan_read hF, Bool.or_eq_true, h, if_true]
theorem fsub_of_nan : F.fsub r z x y = (F.nan, F.readFlags x ||| F.readFlags y) := by
  simp only [fsub, operand_fst hF, operand_snd hF, isNan_read hF, Bool.or_eq_true, h, if_true]
theorem fmul_of_nan : F.fmul r z x y = (F.nan, F.readFlags x ||| F.readFlags y) := by
  simp only [fmul, operand_fst hF, operand_snd hF, isNan_read hF, Bool.or_eq_true, h, if_true]
theorem ffma_of_nan_factor : F.ffma r z x y k
    = (F.nan, if F.decode x = .nan true ∨ F.decode y = .nan true ∨ F.decode k = .nan true then fIV else 0) := by
  rw [← readFlags_or_or]
  simp only [ffma, operand_fst hF, operand_snd hF, isNan_read hF, Bool.or_eq_true, h, if_true]

end

include hF in
/-- With a NaN addend alone: where the product is ∞ × 0, a quiet one may or may not raise invalid (assumption 25). -/
theorem ffma_of_nan_addend (hx : (F.decode x).isNan = false) (hy : (F.decode y).isNan = false) (hk : (F.decode k).isNan = true) :
    F.ffma r z x y k = (F.nan, F.readFlags k) ∨ F.ffma r z x y k = (F.nan, fIV) := by
  have h0 : F.readFlags x ||| F.readFlags y ||| F.readFlags k = F.readFlags k := by
    rw [readFlags_of_not_isNan hx, readFlags_of_not_isNan hy]
    exact BitVec.zero_or
  cases hp : Num.mul (F.decode (F.flushCode z x)) (F.decode (F.flushCode z y)) with
  | none =>
    have h : F.ffma r z x y k = (F.nan, (if !Config.fmaQuietInvalid then 0 else fIV) ||| F.readFlags k) := by
      simp only [ffma, operand_fst hF, operand_snd hF, isNan_read hF, hx, hy, hk, hp, h0, Bool.or_self, Bool.true_and, Bool.false_eq_true, if_false]
    rw [h]
    unfold readFlags
    split <;> split <;> first | exact .inl rfl | exact .inr rfl
  | some p =>
    left
    simp only [ffma, operand_fst hF, operand_snd hF, isNan_read hF, hx, hy, hk, hp, h0, Bool.or_self, Bool.false_eq_true, if_false, if_true]

section
variable (h : (F.decode k).isNan = true)
include hF h

theorem operand_of_nan : F.operand z k = (F.decode k, F.readFlags k) := by
  have hfin : (F.decode k).isFin = false := by
    cases hk : F.decode k with
    | nan s => rfl
    | _ => rw [hk] at h; cases h
  rw [operand_eq hF.regular hF.signed, flushCode_of_not_isFin z hfin]
  rfl

theorem frnd_of_nan : F.frnd r z k = (F.nan, F.readFlags k) := by
  rw [frnd, operand_of_nan hF z h]
  cases hk : F.decode k with
  | nan s => rfl
  | _ => rw [hk] at h; cases h

theorem fscale_of_nan (b : Int) : F.fscale r z k b = (F.nan, F.readFlags k) := by
  rw [fscale, operand_of_nan hF z h]
  cases hk : F.decode k with
  | nan s => rfl
  | _ => rw [hk] at h; cases h

end

include hF in
theorem minmax_snd (mx : Bool) (x y : Nat) : (F.minmax mx z x y).2 = F.readFlags x ||| F.readFlags y := by
  simp only [minmax, operand_snd hF, apply_ite Prod.snd, ite_self]

include hF in
theorem minmax_of_nans (mx : Bool) (hx : (F.decode x).isNan = true) (hy : (F.decode y).isNan = true) :
    F.minmax mx z x y = (F.nan, F.readFlags x ||| F.readFlags y) := by
  simp only [minmax, operand_fst hF, operand_snd hF, isNan_read hF, hx, hy, Bool.and_self, if_true]

include hF in
theorem floatCmp_snd (c : Cmp) (un : Bool) (x y : Nat) : (floatCmp F c un z x y).2 = F.readFlags x ||| F.readFlags y := by
  simp only [floatCmp, operand_snd hF]

/-! ### Codes that are delivered -/

theorem decode_inf_code {f : Fmt} (hf : f.Regular) (hs : f.signed = true) (hi : f.hasInf = true) (neg : Bool) :
    f.decode ((if neg then f.signBit else 0) + f.infCode) = .inf neg := by
  obtain ⟨-, hcode⟩ := hf.infCode_eq hi
  have hlt : f.infCode < 2 ^ (f.exp + f.frac) := by
    have hexp : 0 < 2 ^ f.exp := by positivity
    rw [infCode, pow_add]
    exact mul_lt_mul_of_pos_right (by omega) (by positivity)
  obtain ⟨hmag, hneg⟩ := withSign_code_div hs neg hlt
  rw [decode_of_lt hf (by rw [hmag]; omega), hmag, hneg, if_pos ⟨hi, rfl⟩]

/-- A rounded result of a format with infinities is a finite code or an infinity. -/
theorem isNan_round {f : Fmt} (hf : f.Regular) (hs : f.signed = true) (hi : f.hasInf = true) (rm : Rnd) (ftz sat neg : Bool) (n d : Nat) (e : Int) :
    (f.decode (f.round rm ftz sat neg n d e).1).isNan = false := by
  have hfin : ∀ k ≤ f.maxCode, (f.decode ((if neg then f.signBit else 0) + k)).isNan = false := fun k hk => by rw [decode_code hs hf neg hk]; rfl
  have hzero := hfin 0 (Nat.zero_le _)
  rw [Nat.add_zero] at hzero
  simp only [round, hi, if_true]
  split
  · split
    · exact hfin _ le_rfl
    · split
      · rw [decode_inf_code hf hs hi]; rfl
      · exact hfin _ le_rfl
  · next hover =>
    split
    · exact hzero
    · exact hfin _ (by simpa using hover)

include hF in
/-- A NaN that is delivered is the canonical one. -/
theorem deliver_of_nan (sat : Bool) (v : Option Num) (h : (F.decode (F.deliver r z sat v).1).isNan = true) : (F.deliver r z sat v).1 = F.nan := by
  match v with
  | none => rfl
  | some (.nan _) => rfl
  | some (.inf neg) =>
    rw [deliver, Nat.add_comm, decode_inf_code hF.regular hF.signed hF.hasInf] at h
    cases h
  | some (.fin neg m e) =>
    rw [deliver, isNan_round hF.regular hF.signed hF.hasInf] at h
    cases h

include hF in
theorem fadd_nan_canonical (h : (F.decode (F.fadd r z x y).1).isNan = true) : (F.fadd r z x y).1 = F.nan := by
  unfold fadd at h ⊢
  dsimp only at h ⊢
  split
  · rfl
  · next hn =>
    rw [if_neg hn] at h
    exact deliver_of_nan hF r z false _ h

include hF in
theorem minmax_nan_canonical (mx : Bool) (h : (F.decode (F.minmax mx z x y).1).isNan = true) : (F.minmax mx z x y).1 = F.nan := by
  have hcode : ∀ v, (F.decode (F.deliver .rn false false (some v)).1).isNan = true → (F.deliver .rn false false (some v)).1 = F.nan :=
    fun v => deliver_of_nan hF .rn false false _
  unfold minmax at h ⊢
  dsimp only at h ⊢
  split
  · rfl
  · next h1 =>
    rw [if_neg h1] at h
    split
    · next h2 => rw [if_pos h2] at h; exact hcode _ h
    · next h2 =>
      rw [if_neg h2] at h
      split
      · next h3 => rw [if_pos h3] at h; exact hcode _ h
      · next h3 => rw [if_neg h3] at h; exact hcode _ h

end Fmt

/-- Settles O28: the sum is zero, so it is delivered with the sign of an exact zero sum. -/
theorem exactZeroSums : Obligations.ExactZeroSums := by
  intro F r x hF hpos hx
  have hA : F.Arith := Fmt.arith_of_mem (by simp only [List.mem_cons, List.not_mem_nil, or_false] at hF ⊢; tauto)
  have hplus := Fmt.decode_code hA.signed hA.regular false hx
  have hminus := Fmt.decode_code hA.signed hA.regular true hx
  simp only [Bool.false_eq_true, if_false, if_true, Nat.zero_add] at hplus hminus
  rw [Nat.add_comm] at hminus
  have hread : ∀ y, F.flushCode false y = y := fun y => by simp [Fmt.flushCode]
  have hzero : ∀ {neg} {y : Nat × Flags}, F.Delivers r false false neg 0 y → neg = (r == .rd) → y = (if r = .rd then F.signBit else 0, 0) := by
    rintro neg y h rfl
    simpa using h.eq_zero hA.regular
  have hsum := Fmt.delivers_fadd hA r false (x := x) (y := x + F.signBit) (by rw [hplus]; rfl) (by rw [hminus]; rfl)
  have hdiff := Fmt.delivers_fsub hA r false (x := x) (y := x) (by rw [hplus]; rfl) (by rw [hplus]; rfl)
  dsimp only at hsum hdiff
  rw [hread, hread, hplus, hminus] at hsum
  rw [hread, hplus] at hdiff
  have hval : (Num.fin true (F.sigOf x) (F.expOf x)).val = -(Num.fin false (F.sigOf x) (F.expOf x)).val := Num.val_negate (a := .fin false _ _)
  rw [hval, add_neg_cancel] at hsum
  rw [sub_self] at hdiff
  exact ⟨hzero hsum (by simp [Num.isNeg]), hzero hdiff (by simp [Num.isNeg])⟩

end Sys2Proof.Machine
end

section
/-!
Conversion formats (Table 7-8), and that every NaN result is canonical (R84).
-/
namespace Sys2Proof.Machine

/-- A floating-point format of Table 7-8: what CVT makes of it, and which specials it has (Table 5-1). -/
structure IsFloat (c : CvtFmt) (F : Fmt) : Prop where
  float : CvtFmt_float c = some F
  regular : F.Regular
  signed : F.signed = true
  bits : 2 ^ cvtBits c = 2 * F.signBit
  noNan : F.hasNan = false ↔ c = .e2m1
  noInf : F.hasInf = false ↔ c = .e2m1 ∨ c = .e4m3

theorem isFloat_of_mem {c : CvtFmt} {F : Fmt}
    (h : (c, F) ∈ [(CvtFmt.f64, Fmt.f64), (.f32, .f32), (.bf16, .bf16), (.f16, .f16), (.e4m3, .e4m3), (.e5m2, .e5m2), (.e2m1, .e2m1)]) : IsFloat c F := by
  simp only [List.mem_cons, List.not_mem_nil, or_false, Prod.mk.injEq] at h
  obtain ⟨rfl, rfl⟩ | ⟨rfl, rfl⟩ | ⟨rfl, rfl⟩ | ⟨rfl, rfl⟩ | ⟨rfl, rfl⟩ | ⟨rfl, rfl⟩ | ⟨rfl, rfl⟩ := h <;>
    exact ⟨rfl, ⟨by decide, by decide, by decide, by decide⟩, rfl, by decide, by decide, by decide⟩

theorem convert_float {dst src : CvtFmt} {G F : Fmt} (hd : IsFloat dst G) (hs : IsFloat src F) {x : Nat} (hx : x < 2 * F.signBit) (r : Rnd) (sat : Bool) :
    convert dst src r sat x = cvtFloat F G r sat x := by
  simp only [convert, hd.float, hs.float, hs.bits, Nat.mod_eq_of_lt hx]

/-- A conversion of a NaN (Table 5-7). -/
theorem cvtFloat_of_nan {F G : Fmt} {r : Rnd} {sat sig : Bool} {x : Nat} (hx : F.decode x = .nan sig) (hG : G.hasNan = true) :
    cvtFloat F G r sat x = (G.nan, if sig = true ∨ (G.hasInf = false ∧ sat = false) then fIV else 0) := by
  cases hi : G.hasInf <;> cases sat <;> cases sig <;> simp [cvtFloat, hx, hG, hi]

/-! ### Quantisation, special functions, folds -/

theorem qsclOf_of_nan (sat : Bool) {a : Word} (b : Word) (ha : (Fmt.f32.decode a.toNat).isNan = true) :
    qsclOf true sat a b = (0x7FC0, fIV) ∧ qsclOf false sat a b = (0xFF, fIV) := by
  cases h : Fmt.f32.decode a.toNat with
  | nan sig =>
    refine ⟨by simp [qsclOf, h], ?_⟩
    cases hS : Fmt.bf16.decode (b.toNat % 2 ^ 16) <;> simp [-Nat.reducePow, qsclOf, h, hS, Num.isNan]
  | _ => rw [h] at ha; cases ha

theorem f32_arith : Fmt.f32.Arith := Fmt.arith_of_mem (by simp)

theorem sfuResult_of_nan (fn : SfuFn) (z : Bool) {a : Word} (ha : (Fmt.f32.decode a.toNat).isNan = true) : sfuResult fn z a = 0x7FC00000 := by
  have hop := Fmt.operand_of_nan f32_arith z ha
  cases h : Fmt.f32.decode a.toNat with
  | nan sig =>
    rw [h] at hop
    cases fn <;> cases z <;> simp [sfuResult, hop] <;> rfl
  | _ => rw [h] at ha; cases ha

theorem qxp4Of_of_nan (r : Rnd) (e sc S : Nat) (h : sc = 0xFF ∨ (Fmt.bf16.decode S).isNan = true) : (qxp4Of r e sc S).1 = 0x7FC00000 := by
  unfold qxp4Of
  split
  · rfl
  · next hsc =>
    have hS := h.resolve_left (by simpa using hsc)
    cases hd : Fmt.bf16.decode S with
    | nan sig => rfl
    | _ => rw [hd] at hS; cases hS

/-- A result of a floating-point fold step that is NaN is the canonical one. -/
theorem redStep_nan_canonical {op : RedOp} (hop : op ∈ [RedOp.fadd, .fmin, .fmax]) {x y : Word}
    (h : (Fmt.f32.decode (redStep op x y).toNat).isNan = true) : redStep op x y = 0x7FC00000 := by
  have hmod : ∀ n : Nat, (Fmt.f32.decode (n % 2 ^ 32)) = Fmt.f32.decode n := fun n => by
    have h31 : Fmt.f32.exp + Fmt.f32.frac = 31 := rfl
    have hsign : n % 2 ^ 32 / 2 ^ 31 % 2 = n / 2 ^ 31 % 2 := by omega
    have hmag : n % 2 ^ 32 % 2 ^ 31 = n % 2 ^ 31 := by omega
    simp only [Fmt.decode, h31, hsign, hmag]
  simp only [List.mem_cons, List.not_mem_nil, or_false] at hop
  obtain rfl | rfl | rfl := hop
  · rw [redStep, BitVec.toNat_ofNat, hmod] at h
    rw [redStep, Fmt.fadd_nan_canonical f32_arith _ _ h]
    rfl
  · rw [redStep, BitVec.toNat_ofNat, hmod] at h
    rw [redStep, Fmt.minmax_nan_canonical f32_arith _ _ h]
    rfl
  · rw [redStep, BitVec.toNat_ofNat, hmod] at h
    rw [redStep, Fmt.minmax_nan_canonical f32_arith _ _ h]
    rfl

theorem redFold_nan_canonical {op : RedOp} (hop : op ∈ [RedOp.fadd, .fmin, .fmax]) (xs : List Word)
    (h : (Fmt.f32.decode (redFold op xs).toNat).isNan = true) : redFold op xs = 0x7FC00000 := by
  have hfirst : ∀ x, redFirst op x = if (Fmt.f32.decode x.toNat).isNan then 0x7FC00000 else x := fun x => by
    simp only [List.mem_cons, List.not_mem_nil, or_false] at hop
    obtain rfl | rfl | rfl := hop <;> rfl
  match xs with
  | [] =>
    simp only [List.mem_cons, List.not_mem_nil, or_false] at hop
    obtain rfl | rfl | rfl := hop <;> exact absurd h (by decide)
  | x :: rest =>
    obtain rfl | ⟨rest, y, rfl⟩ := rest.eq_nil_or_concat
    · simp only [redFold, List.foldl_nil, hfirst] at h ⊢
      split
      · rfl
      · next hn => rw [if_neg hn] at h; exact absurd h hn
    · simp only [redFold, List.concat_eq_append, List.foldl_append, List.foldl_cons, List.foldl_nil] at h ⊢
      exact redStep_nan_canonical hop h

/-- Settles O26: each operation's lemma about a NaN operand gives the canonical NaN and the exceptions of reading its operands; the folds keep NaNs canonical. -/
theorem nansAreCanonical : Obligations.NansAreCanonical := by
  unfold Obligations.NansAreCanonical
  refine ⟨?_, ?_, fun r z sat fn a b e sc S ha => ⟨(qsclOf_of_nan sat b ha).1, (qsclOf_of_nan sat b ha).2, sfuResult_of_nan fn z ha, qxp4Of_of_nan r e sc S⟩,
    fun op xs hop h => redFold_nan_canonical hop xs h⟩
  · intro F r z x y k hmem nan sig quiet invalid
    have hF : F.Arith := Fmt.arith_of_mem hmem
    have hquiet : ∀ {x}, (F.decode x).isNan = false → ¬ sig x := fun h hx => by rw [show F.decode _ = Machine.Num.nan true from hx] at h; cases h
    have hnot : ∀ {x}, ¬ nan x → (F.decode x).isNan = false := fun h => Bool.eq_false_iff.2 h
    refine ⟨fun hn => ⟨fun h => ?_, fun hx hy => ?_, fun c un => ⟨fun h => ?_, fun hx hy => ?_⟩⟩, fun hn => ?_, fun hn hx hy hk => ?_,
      fun h => ?_, fun hn hk => ?_, fun mx hx hy => ?_, fun mx hx hy => ?_, fun c b sat => ⟨fun h => ?_, fun q => rfl⟩⟩
    · rw [Fmt.fadd_of_nan hF r z hn, Fmt.fsub_of_nan hF r z hn, Fmt.fmul_of_nan hF r z hn, Fmt.readFlags_or, if_pos h]
      exact ⟨rfl, rfl, rfl⟩
    · rw [Fmt.fadd_of_nan hF r z hn, Fmt.fsub_of_nan hF r z hn, Fmt.fmul_of_nan hF r z hn, Fmt.readFlags_or, if_neg (not_or_intro hx hy)]
      exact ⟨rfl, rfl, rfl⟩
    · rw [Fmt.floatCmp_snd hF, Fmt.readFlags_or, if_pos h]
    · rw [Fmt.floatCmp_snd hF, Fmt.readFlags_or, if_neg (not_or_intro hx hy)]
    · by_cases hxy : nan x ∨ nan y
      · rw [Fmt.ffma_of_nan_factor hF r z hxy]
        refine ⟨fun h => by rw [if_pos h], ?_⟩
        split
        · exact .inr rfl
        · exact .inl rfl
      · obtain ⟨hx, hy⟩ := not_or.1 hxy
        have hk : nan k := (hn.resolve_left hx).resolve_left hy
        have h := Fmt.ffma_of_nan_addend hF r z (hnot hx) (hnot hy) hk
        refine ⟨fun hs => ?_, ?_⟩
        · have hk : sig k := (hs.resolve_left (hquiet (hnot hx))).resolve_left (hquiet (hnot hy))
          rw [Fmt.readFlags, if_pos hk] at h
          exact h.elim id id
        · obtain h | h := h
          · rw [h, Fmt.readFlags]
            split
            · exact .inr rfl
            · exact .inl rfl
          · exact .inr h
    · rw [Fmt.ffma_of_nan_factor hF r z hn, if_neg (not_or_intro hx (not_or_intro hy hk))]
    · have hn : (F.decode k).isNan = true := by rw [show F.decode k = .nan true from h]; rfl
      simp only [Fmt.frnd_of_nan hF r z hn, Fmt.fscale_of_nan hF r z hn, Fmt.readFlags, show F.decode k = .nan true from h, if_true]
      exact ⟨rfl, fun _ => rfl⟩
    · have hflags : F.readFlags k = 0 := if_neg hk
      simp only [Fmt.frnd_of_nan hF r z hn, Fmt.fscale_of_nan hF r z hn, hflags]
      exact ⟨rfl, fun _ => rfl⟩
    · rw [Fmt.minmax_of_nans hF z mx hx hy, Fmt.readFlags_or]
      split <;> rfl
    · rw [Fmt.minmax_snd hF, Fmt.minmax_snd hF, Fmt.readFlags_or, Fmt.readFlags_or]
      have hy' : ¬ F.decode y = .nan true := hquiet (hnot hy)
      simp only [hy', or_false, false_or]
      exact ⟨trivial, trivial⟩
    · simp only [accStep, Bool.or_eq_true, or_assoc, h, if_true]
      rfl
  · intro dst G src F r sat x hdst hsrc hx hnan
    have hd : IsFloat dst G := isFloat_of_mem (by simp only [List.mem_cons] at hdst ⊢; tauto)
    have hs : IsFloat src F := isFloat_of_mem (by simp only [List.mem_cons] at hsrc ⊢; tauto)
    have hne : dst ≠ .e2m1 := by
      rintro rfl
      simp at hdst
    have hx' : x < 2 * F.signBit := by
      rw [Fmt.signBit_eq hs.signed]
      calc x < 2 ^ (1 + F.exp + F.frac) := hx
        _ = 2 * 2 ^ (F.exp + F.frac) := by ring
    rw [convert_float hd hs hx']
    have hG : G.hasNan = true := by simpa [hne] using not_congr hd.noNan
    have hi : G.hasInf = false ↔ dst = .e4m3 := by simpa [hne] using hd.noInf
    cases h : F.decode x with
    | nan sg => simp only [cvtFloat_of_nan h hG, hi, Machine.Num.nan.injEq]
    | _ => rw [h] at hnan; cases hnan

end Sys2Proof.Machine
end

section
/-!
FSCALE and FRND: a shift beyond any value's range rounds as the largest shift does, and an integral value of a format's range has a code.
-/
namespace Sys2Proof.Machine

theorem log2Rat_add (n d : Nat) (e b : Int) : log2Rat n d (e + b) = log2Rat n d e + b := by
  simp only [log2Rat]
  generalize (if (n.log2 : Int) - d.log2 ≥ 0 then _ else _) = big
  cases big
  · exact (add_assoc _ e b).symm
  · exact (add_assoc _ e b).symm

namespace Fmt
variable {f : Fmt} {n d k : Nat} {e : Int}

/-! ### Beyond the range of a format -/

theorem maxCode_lt_roundMag (hf : f.Regular) (rm : Rnd) (neg : Bool) (hn : 0 < n) (h : 2 ^ f.exp ≤ log2Rat n d e - f.frac - f.minExp) :
    f.maxCode < (f.roundMag rm neg n d e).1 := by
  have hle : log2Rat n d e - f.frac ≤ f.roundExp n d e := le_max_right _ _
  have hexp : 2 ^ f.exp ≤ (f.roundExp n d e - f.minExp).toNat := by
    zify
    rw [Int.toNat_of_nonneg] <;> have : (0 : ℤ) ≤ 2 ^ f.exp := by positivity
    all_goals omega
  rw [roundMag_of_pos f rm neg hn]
  calc f.maxCode < 2 ^ f.exp * 2 ^ f.frac := by rw [← pow_add]; exact hf.maxCode_lt
    _ ≤ (f.roundExp n d e - f.minExp).toNat * 2 ^ f.frac := Nat.mul_le_mul_right _ hexp
    _ ≤ _ := Nat.le_add_right _ _

/-- Below half of the smallest subnormal number only the direction of the mode counts. -/
theorem roundMag_small (rm : Rnd) (neg : Bool) (hn : 0 < n) (hd : 0 < d) (h : log2Rat n d e + 1 < f.minExp) :
    f.roundMag rm neg n d e = (if roundUp rm neg 0 1 3 then 1 else 0, true, true) := by
  have hexp : f.roundExp n d e = f.minExp := max_eq_left (by omega)
  have hpos : (0 : ℚ) < n / d * 2 ^ e := by positivity
  have hlt : (n : ℚ) / d * 2 ^ e < 2 ^ (f.minExp - 1) :=
    (log2Rat_spec hn hd e).2.trans_le (zpow_le_zpow_right₀ (by norm_num) (by omega))
  have hr := scaleDiv_lt (n := n) hd e f.minExp
  have heq := scaleDiv_eq (n := n) hd e f.minExp
  have hD : (0 : ℚ) < (scaleDiv n d e f.minExp).2.2 := by exact_mod_cast Nat.zero_lt_of_lt hr
  rw [roundMag_of_pos f rm neg hn, hexp, sub_self, roundAt]
  rw [← heq] at hpos hlt
  generalize scaleDiv n d e f.minExp = x at hr hpos hlt hD ⊢
  obtain ⟨X, R, D⟩ := x
  dsimp only at hr hpos hlt hD ⊢
  have hhalf : (2 : ℚ) ^ (f.minExp - 1) = 1 / 2 * 2 ^ f.minExp := by
    rw [zpow_sub₀ (by norm_num), zpow_one]
    ring
  rw [hhalf, mul_lt_mul_iff_left₀ (by positivity)] at hlt
  have hsum := pos_of_mul_pos_left hpos (by positivity)
  have hRD : (0 : ℚ) ≤ R / D := by positivity
  obtain rfl : X = 0 := by
    by_contra h0
    have : (1 : ℚ) ≤ X := by exact_mod_cast Nat.one_le_iff_ne_zero.2 h0
    linarith
  rw [Nat.cast_zero, zero_add] at hlt hsum
  have hR : 0 < R := by exact_mod_cast (div_pos_iff_of_pos_right hD).1 hsum
  have h2R : 2 * R < D := by
    rw [div_lt_div_iff₀ hD (by norm_num)] at hlt
    have : (R : ℚ) * 2 < D := by linarith
    exact_mod_cast (mul_comm (R : ℚ) 2 ▸ this)
  have hup : roundUp rm neg 0 R D = roundUp rm neg 0 1 3 := by
    cases rm with
    | rn => simp only [roundUp, not_lt.2 h2R.le, beq_eq_false_iff_ne.2 h2R.ne]; rfl
    | rz => rfl
    | ru => simp only [roundUp, bne_iff_ne.2 hR.ne']; rfl
    | rd => simp only [roundUp, bne_iff_ne.2 hR.ne']; rfl
  have htiny : ∀ c : Bool, (if c then log2Rat n d e + 1 else log2Rat n d e) < 1 - (f.bias : ℤ) := fun c => by
    unfold minExp at h
    split <;> omega
  simp only [hup, bne_iff_ne.2 hR.ne', htiny, decide_true]
  simp

/-- A result that rounds beyond the largest finite code does not depend on how far. -/
theorem round_of_overflow {rm : Rnd} {z sat neg : Bool} {n' d' : Nat} {e' : Int} (h : f.maxCode < (f.roundMag rm neg n d e).1)
    (h' : f.maxCode < (f.roundMag rm neg n' d' e').1) : f.round rm z sat neg n d e = f.round rm z sat neg n' d' e' := by
  simp only [round, h, h', decide_true, if_true]

theorem round_of_roundMag_eq {rm : Rnd} {z sat neg : Bool} {n' d' : Nat} {e' : Int} (h : f.roundMag rm neg n d e = f.roundMag rm neg n' d' e') :
    f.round rm z sat neg n d e = f.round rm z sat neg n' d' e' := by
  simp only [round, h]

/-- The binary logarithm of the value of a code lies in the range of the format. -/
theorem log2Rat_code (hf : f.Regular) (hk : k ≤ f.maxCode) (h0 : k ≠ 0) :
    f.minExp ≤ log2Rat (f.sigOf k) 1 (f.expOf k) ∧ log2Rat (f.sigOf k) 1 (f.expOf k) + 1 < f.minExp + f.frac + 2 ^ f.exp := by
  have hval : (f.sigOf k : ℚ) / (1 : ℕ) * 2 ^ f.expOf k = f.magVal k := by rw [Nat.cast_one, div_one]; rfl
  have hsig : 0 < f.sigOf k := by
    refine Nat.pos_of_ne_zero fun h => h0 (magVal_eq_zero (f := f).1 ?_)
    rw [magVal, h, Nat.cast_zero, zero_mul]
  obtain ⟨hlow, hhigh⟩ := log2Rat_spec hsig Nat.one_pos (f.expOf k)
  rw [hval] at hlow hhigh
  have h2 : (1 : ℚ) < 2 := by norm_num
  have hone : f.magVal 1 = 2 ^ f.minExp := by
    have h := magVal_split (f := f) (j := 0) (s := 1) Nat.one_le_two_pow (.inl rfl)
    simpa using h
  have htop : f.magVal (2 ^ (f.exp + f.frac)) = 2 ^ (f.minExp + f.frac + 2 ^ f.exp - 1) := by
    obtain ⟨j, hj⟩ : ∃ j, 2 ^ f.exp = j + 1 := ⟨_, (Nat.succ_pred_eq_of_pos (by positivity)).symm⟩
    have h := magVal_split (f := f) (j := j) (s := 2 ^ f.frac) (Nat.pow_le_pow_right (by norm_num) (by omega)) (.inr le_rfl)
    have hj' : (2 : ℤ) ^ f.exp = j + 1 := by exact_mod_cast hj
    rw [pow_add, hj, Nat.succ_mul, h, ← two_zpow_natCast, ← zpow_add₀ (by norm_num), hj']
    congr 1
    ring
  constructor
  · have h := (f.magVal_strictMono.monotone (Nat.one_le_iff_ne_zero.2 h0)).trans_lt hhigh
    rw [hone, zpow_lt_zpow_iff_right₀ h2] at h
    omega
  · have h := hlow.trans_lt (f.magVal_strictMono (hk.trans_lt hf.maxCode_lt))
    rw [htop, zpow_lt_zpow_iff_right₀ h2] at h
    omega

/-- The largest shift of FSCALE rounds as every larger one. -/
theorem round_shift {F : Fmt} (hF : F.Arith) (r : Rnd) (z neg : Bool) (hk : k ≤ F.maxCode) (b : Int) :
    F.round r z false neg (F.sigOf k) 1 (F.expOf k + Max.max (-4096) (Min.min 4096 b)) = F.round r z false neg (F.sigOf k) 1 (F.expOf k + b) := by
  obtain rfl | h0 := eq_or_ne k 0
  · have hsig : F.sigOf 0 = 0 := by simp [sigOf]
    exact round_of_roundMag_eq (by rw [hsig, roundMag_zero, roundMag_zero])
  obtain ⟨hlow, hhigh⟩ := log2Rat_code hF.regular hk h0
  have hsig : 0 < F.sigOf k := by
    refine Nat.pos_of_ne_zero fun h => h0 (magVal_eq_zero (f := F).1 ?_)
    rw [magVal, h, Nat.cast_zero, zero_mul]
  have hrange : (2 : ℤ) ^ F.exp + F.frac < 4096 := by exact_mod_cast hF.range
  obtain hb | hb := lt_or_ge 4096 b
  · refine round_of_overflow (maxCode_lt_roundMag hF.regular r neg hsig ?_) (maxCode_lt_roundMag hF.regular r neg hsig ?_) <;>
      rw [log2Rat_add] <;> omega
  obtain hb' | hb' := lt_or_ge b (-4096)
  · refine round_of_roundMag_eq ?_
    rw [roundMag_small r neg hsig Nat.one_pos (by rw [log2Rat_add]; omega), roundMag_small r neg hsig Nat.one_pos (by rw [log2Rat_add]; omega)]
  · rw [min_eq_right hb, max_eq_right hb']

/-- FSCALE of a finite operand (Table 7-5). -/
theorem delivers_fscale {F : Fmt} (hF : F.Arith) (r : Rnd) (z : Bool) {x : Nat} (hx : (F.decode x).isFin = true) (b : Int) :
    F.Delivers r z false (F.decode (F.flushCode z x)).isNeg ((F.decode (F.flushCode z x)).val * 2 ^ b) (F.fscale r z x b) := by
  obtain ⟨neg, k, hk, hd, -⟩ := exists_of_isFin hF.regular (isFin_read hF z hx)
  have hscale : F.fscale r z x b = F.round r z false neg (F.sigOf k) 1 (F.expOf k + b) := by
    rw [← round_shift hF r z neg hk b, fscale, operand_of_not_nan hF z (Num.isNan_of_isFin hx), hd]
    exact Prod.ext rfl (or_zero_flags _)
  have h := delivers_fin hF.regular r z false neg (F.sigOf k) (F.expOf k + b)
  rw [hscale, hd, Num.val_fin, withSign_mul_right, mul_assoc, ← zpow_add₀ (by norm_num)]
  rwa [Num.val_fin] at h

/-! ### Integers -/

end Fmt

/-- A magnitude rounded to an integer, with its sign. -/
def roundedInt (rm : Rnd) (neg : Bool) (n d : Nat) (e : Int) : Int := if neg then -(roundAt rm neg n d e 0 : Int) else roundAt rm neg n d e 0

theorem roundedInt_cast (rm : Rnd) (neg : Bool) (n d : Nat) (e : Int) : (roundedInt rm neg n d e : ℚ) = withSign neg (roundAt rm neg n d e 0) := by
  cases neg <;> simp [roundedInt]

/-- The integers are a grid too. -/
theorem int_roundsTo (rm : Rnd) (neg : Bool) {X r D : Nat} (hr : r < D) : RoundsTo (fun q => ∃ i : ℤ, q = i) (fun q => ∃ i : ℤ, q = 2 * i) rm
    (withSign neg (X + r / D)) (withSign neg ((X + (if roundUp rm neg X r D then 1 else 0) : Nat) : ℚ)) := by
  have heven : ∀ Y : Nat, Y % 2 = 0 → ∃ i : ℤ, (Y : ℚ) * 1 = 2 * i := fun Y h => by
    obtain ⟨Z, rfl⟩ := Nat.dvd_of_mod_eq_zero h
    exact ⟨Z, by push_cast; ring⟩
  have hgap : ∀ g : ℚ, (∃ i : ℤ, g = i) → g ≤ X * 1 ∨ (X + 1 : Nat) * 1 ≤ g := by
    rintro _ ⟨i, rfl⟩
    rw [mul_one, mul_one]
    obtain h | h := le_or_gt i X
    · exact .inl (by exact_mod_cast h)
    · exact .inr (by exact_mod_cast h)
  have hneg : ∀ x : ℚ, (∃ i : ℤ, x = i) → ∃ i : ℤ, -x = i := fun x ⟨i, hi⟩ => ⟨-i, by rw [hi]; push_cast; rfl⟩
  have hint : ∀ Y : Nat, ∃ i : ℤ, (Y : ℚ) * 1 = i := fun Y => ⟨Y, by simp⟩
  rw [roundUp_eq_mirror]
  refine RoundsTo.withSign hneg (fun x ⟨i, hi⟩ => ⟨-i, by rw [hi]; push_cast; ring⟩) ?_
  have h := roundsTo_units (even := fun q => ∃ i : ℤ, q = 2 * i) (mirrorRnd neg rm) one_pos hr hneg (hint X) (hint (X + 1)) (heven X) (heven (X + 1)) hgap
  rwa [mul_one, mul_one] at h

theorem roundsToInt_roundedInt (rm : Rnd) (neg : Bool) {n d : Nat} (hd : 0 < d) (e : Int) :
    RoundsToInt rm (withSign neg (n / d * 2 ^ e)) (roundedInt rm neg n d e) := by
  have h := int_roundsTo rm neg (X := (scaleDiv n d e 0).1) (scaleDiv_lt (n := n) hd e 0)
  have heq := scaleDiv_eq (n := n) hd e 0
  rw [zpow_zero, mul_one] at heq
  rw [heq] at h
  rw [RoundsToInt, roundedInt_cast]
  exact h

namespace Fmt

theorem exists_magVal {f : Fmt} (hf : f.Regular) {q : ℚ} (hq : Grid (f.frac + 1) (some f.minExp) q) (h0 : 0 ≤ q) : ∃ k, f.magVal k = q := by
  obtain ⟨m, j, -, -, hm⟩ := id hq
  have hm0 : 0 ≤ m := by
    rw [hm] at h0
    exact_mod_cast nonneg_of_mul_nonneg_left h0 (by positivity)
  obtain ⟨n, rfl⟩ := Int.eq_ofNat_of_zero_le hm0
  have hv : q = (n : ℚ) / (1 : ℕ) * 2 ^ j := by rw [hm]; simp
  exact ⟨_, (roundsTo_roundMag Nat.one_pos hv .rn false hf).eq_of_mem hq⟩

theorem sigOf_lt (f : Fmt) (k : Nat) : f.sigOf k < 2 ^ (f.frac + 1) := by
  have hmod := Nat.mod_lt k (Nat.two_pow_pos f.frac)
  rw [pow_succ]
  unfold sigOf
  split <;> omega

theorem magVal_lt_of_expOf_neg {f : Fmt} {k : Nat} (he : f.expOf k < 0) : f.magVal k < 2 ^ ((0 : ℤ) + f.frac) := by
  have hsig : (f.sigOf k : ℚ) < 2 ^ ((f.frac : ℤ) + 1) := by
    rw [← Nat.cast_one, ← Nat.cast_add, two_zpow_natCast]
    exact_mod_cast f.sigOf_lt k
  calc f.magVal k < 2 ^ ((f.frac : ℤ) + 1) * 2 ^ f.expOf k := mul_lt_mul_of_pos_right hsig (by positivity)
    _ ≤ 2 ^ ((f.frac : ℤ) + 1) * 2 ^ (-1 : ℤ) := mul_le_mul_of_nonneg_left (zpow_le_zpow_right₀ (by norm_num) (by omega)) (by positivity)
    _ = 2 ^ ((0 : ℤ) + f.frac) := by rw [← zpow_add₀ (by norm_num)]; congr 1; ring

/-- The code of the integer 2^frac, from which on every number of the format is an integer. -/
theorem magVal_two_pow_frac_eq {f : Fmt} (hbias : 0 < f.bias) : f.magVal ((f.bias + f.frac) * 2 ^ f.frac) = 2 ^ f.frac := by
  obtain ⟨j, hj⟩ : ∃ j, f.bias + f.frac = j + 1 := ⟨f.bias + f.frac - 1, by omega⟩
  have h := magVal_split (f := f) (j := j) (s := 2 ^ f.frac) (Nat.pow_le_pow_right (by norm_num) (by omega)) (.inr le_rfl)
  have hexp : f.minExp + j = 0 := by unfold minExp; omega
  rw [hj, Nat.succ_mul, h, hexp, zpow_zero, mul_one]
  push_cast
  rfl

/-- FRND stays within the range of the format: a number that is not an integer is below 2^frac. -/
theorem exists_code_of_roundAt {F : Fmt} (hF : F.Arith) (r : Rnd) (neg : Bool) {k : Nat} (hk : k ≤ F.maxCode) :
    ∃ n ≤ F.maxCode, F.magVal n = roundAt r neg (F.sigOf k) 1 (F.expOf k) 0 := by
  have hv : F.magVal k = (F.sigOf k : ℚ) / (1 : ℕ) * 2 ^ F.expOf k := by rw [Nat.cast_one, div_one]; rfl
  have hround := roundsToInt_roundedInt r neg (n := F.sigOf k) Nat.one_pos (F.expOf k)
  rw [← hv, RoundsToInt, roundedInt_cast] at hround
  obtain he | he := le_or_gt 0 (F.expOf k)
  · obtain ⟨j, hj⟩ := Int.eq_ofNat_of_zero_le he
    refine ⟨k, hk, (withSign_inj.1 (hround.eq_of_mem ?_)).symm⟩
    rw [magVal, hj, two_zpow_natCast]
    exact ⟨if neg then -(F.sigOf k * 2 ^ j : Nat) else (F.sigOf k * 2 ^ j : Nat), by cases neg <;> simp⟩
  · have hle : roundAt r neg (F.sigOf k) 1 (F.expOf k) 0 ≤ 2 ^ F.frac := (roundAt_le r neg).trans (scaleDiv_lt_two_pow Nat.one_pos hv (magVal_lt_of_expOf_neg he))
    have hmin : F.minExp ≤ 0 := by
      have := hF.bias_pos
      unfold minExp
      omega
    have hgrid : Grid (F.frac + 1) (some F.minExp) (roundAt r neg (F.sigOf k) 1 (F.expOf k) 0 * 2 ^ (0 : ℤ)) :=
      grid_mul_zpow (by omega) (hle.trans (Nat.pow_le_pow_right (by norm_num) (by omega))) (by simpa using hmin)
    rw [zpow_zero, mul_one] at hgrid
    obtain ⟨n, hn⟩ := exists_magVal hF.regular hgrid (by positivity)
    refine ⟨n, ?_, hn⟩
    refine le_trans ?_ hF.integral
    rw [← F.magVal_strictMono.le_iff_le, hn, magVal_two_pow_frac_eq hF.bias_pos]
    exact_mod_cast hle

theorem frnd_of_fin {F : Fmt} (hF : F.Arith) (r : Rnd) (z : Bool) {x : Nat} (hx : (F.decode x).isFin = true) :
    let X := F.decode (F.flushCode z x)
    (F.frnd r z x).2 = 0 ∧ ∃ t n, RoundsToInt r X.val t ∧ n ≤ F.maxCode ∧ (F.frnd r z x).1 = (if X.isNeg then F.signBit else 0) + n ∧ (F.decode n).val = |(t : ℚ)| := by
  obtain ⟨neg, k, hk, hd, -⟩ := exists_of_isFin hF.regular (isFin_read hF z hx)
  have hfrnd : F.frnd r z x = ((F.round r false false neg (roundAt r neg (F.sigOf k) 1 (F.expOf k) 0) 1 0).1, 0) := by
    rw [frnd, operand_of_not_nan hF z (Num.isNan_of_isFin hx), hd]
    rfl
  obtain ⟨n, hn, hval⟩ := exists_code_of_roundAt hF r neg hk
  have hround := round_exact hF.regular r false neg Nat.one_pos hn (n := roundAt r neg (F.sigOf k) 1 (F.expOf k) 0) (e := 0) (by simp [hval])
  rw [hfrnd, hround, hd]
  dsimp only
  rw [Num.val_fin]
  refine ⟨rfl, roundedInt r neg (F.sigOf k) 1 (F.expOf k), n, ?_, hn, rfl, ?_⟩
  · have h := roundsToInt_roundedInt r neg (n := F.sigOf k) Nat.one_pos (F.expOf k)
    rwa [Nat.cast_one, div_one] at h
  · rw [val_decode_mag hF.regular hn, hval, roundedInt_cast, abs_withSign, Nat.abs_cast]

end Fmt

end Sys2Proof.Machine
end

section
/-!
Infinities, minima and maxima, and compares of the arithmetic formats (R112, R113).
-/
namespace Sys2Proof.Machine

namespace Num

theorem add_inf_left (rm : Rnd) (n : Bool) {b : Num} (hb : b.isFin = true) : Num.add rm (.inf n) b = some (.inf n) := by
  obtain ⟨k, p, g, rfl⟩ := exists_of_isFin hb
  rfl
theorem add_inf_right (rm : Rnd) (n : Bool) {b : Num} (hb : b.isFin = true) : Num.add rm b (.inf n) = some (.inf n) := by
  obtain ⟨k, p, g, rfl⟩ := exists_of_isFin hb
  rfl
theorem mul_inf_left (n : Bool) {b : Num} (hb : b.isFin = true) : Num.mul (.inf n) b = if b.val = 0 then none else some (.inf (n != b.isNeg)) := by
  obtain ⟨k, p, g, rfl⟩ := exists_of_isFin hb
  simp only [mul, val_fin_eq_zero, beq_iff_eq, isNeg]
theorem mul_inf_right (n : Bool) {b : Num} (hb : b.isFin = true) : Num.mul b (.inf n) = if b.val = 0 then none else some (.inf (n != b.isNeg)) := by
  obtain ⟨k, p, g, rfl⟩ := exists_of_isFin hb
  simp only [mul, val_fin_eq_zero, beq_iff_eq, isNeg, bne_comm]

/-! ### Order -/

theorem lt_fin_iff {n k : Bool} {m p : Nat} {e g : Int} : (Num.fin n m e).lt (.fin k p g) = true ↔ (Num.fin n m e).val < (Num.fin k p g).val := by
  rw [val_eq_units (min_le_left e g), val_eq_units (min_le_right e g), mul_lt_mul_iff_left₀ (by positivity), Int.cast_lt]
  simp only [lt, decide_eq_true_eq]

/-- Of two numbers that are not NaN one is below the other exactly where the other is not at most it. -/
theorem lt_iff_not_le {a b : Num} (ha : a.isNan = false) (hb : b.isNan = false) : a.lt b = true ↔ ¬ b.Le a := by
  cases a with
  | nan s => cases ha
  | inf n =>
    cases b with
    | nan s => cases hb
    | inf k => cases n <;> cases k <;> simp [lt, Le]
    | fin k p g => cases n <;> simp [lt, Le]
  | fin n m e =>
    cases b with
    | nan s => cases hb
    | inf k => cases k <;> simp [lt, Le]
    | fin k p g => rw [lt_fin_iff, Le, not_le]

theorem le_total {a b : Num} (ha : a.isNan = false) (hb : b.isNan = false) : a.Le b ∨ b.Le a := by
  cases a with
  | nan s => cases ha
  | inf n =>
    cases b with
    | nan s => cases hb
    | inf k => cases n <;> cases k <;> simp [Le]
    | fin k p g => cases n <;> simp [Le]
  | fin n m e =>
    cases b with
    | nan s => cases hb
    | inf k => cases k <;> simp [Le]
    | fin k p g => exact LinearOrder.le_total _ _

end Num

namespace Fmt
variable {F : Fmt} (hF : F.Arith) (r : Rnd) (z : Bool) {x y k : Nat} {n m : Bool}

/-! ### Infinities -/

section
variable (hx : F.decode x = .inf n)
include hx

theorem flushCode_inf : F.flushCode z x = x := flushCode_of_not_isFin z (by rw [hx]; rfl)
theorem isNan_inf : (F.decode x).isNan = false := by rw [hx]; rfl

include hF

theorem frnd_inf : F.frnd r z x = F.deliver r z false (some (.inf n)) := by
  rw [frnd, operand_of_not_nan hF z (isNan_inf hx), flushCode_inf z hx, hx]
  rfl
theorem fscale_inf (b : Int) : F.fscale r z x b = F.deliver r z false (some (.inf n)) := by
  rw [fscale, operand_of_not_nan hF z (isNan_inf hx), flushCode_inf z hx, hx]
  rfl

section
variable (hy : (F.decode y).isFin = true)
include hy

theorem fadd_inf_fin : F.fadd r z x y = F.deliver r z false (some (.inf n)) := by
  rw [fadd_of_not_nan hF r z (isNan_inf hx) (Num.isNan_of_isFin hy), flushCode_inf z hx, hx, Num.add_inf_left r n (isFin_read hF z hy)]
theorem fadd_fin_inf : F.fadd r z y x = F.deliver r z false (some (.inf n)) := by
  rw [fadd_of_not_nan hF r z (Num.isNan_of_isFin hy) (isNan_inf hx), flushCode_inf z hx, hx, Num.add_inf_right r n (isFin_read hF z hy)]
theorem fsub_inf_fin : F.fsub r z x y = F.deliver r z false (some (.inf n)) := by
  rw [fsub_of_not_nan hF r z (isNan_inf hx) (Num.isNan_of_isFin hy), flushCode_inf z hx, hx,
    Num.add_inf_left r n (Num.isFin_negate.trans (isFin_read hF z hy))]
theorem fsub_fin_inf : F.fsub r z y x = F.deliver r z false (some (.inf !n)) := by
  rw [fsub_of_not_nan hF r z (Num.isNan_of_isFin hy) (isNan_inf hx), flushCode_inf z hx, hx, Num.negate, Num.add_inf_right r _ (isFin_read hF z hy)]

/-- The product of an infinity and a finite number, as it is read. -/
theorem fmul_inf_fin : F.fmul r z x y = if (F.decode (F.flushCode z y)).val = 0 then (F.nan, fIV)
    else F.deliver r z false (some (.inf (n != (F.decode (F.flushCode z y)).isNeg))) := by
  rw [fmul_of_not_nan hF r z (isNan_inf hx) (Num.isNan_of_isFin hy), flushCode_inf z hx, hx, Num.mul_inf_left n (isFin_read hF z hy)]
  split <;> rfl
theorem fmul_fin_inf : F.fmul r z y x = if (F.decode (F.flushCode z y)).val = 0 then (F.nan, fIV)
    else F.deliver r z false (some (.inf (n != (F.decode (F.flushCode z y)).isNeg))) := by
  rw [fmul_of_not_nan hF r z (Num.isNan_of_isFin hy) (isNan_inf hx), flushCode_inf z hx, hx, Num.mul_inf_right n (isFin_read hF z hy)]
  split <;> rfl

theorem ffma_inf_fin (hk : (F.decode k).isFin = true) : F.ffma r z x y k = if (F.decode (F.flushCode z y)).val = 0 then (F.nan, fIV)
    else F.deliver r z false (some (.inf (n != (F.decode (F.flushCode z y)).isNeg))) := by
  have hmul := Num.mul_inf_left n (isFin_read hF z hy)
  rw [← hx, ← flushCode_inf z hx] at hmul
  split
  · next h0 =>
    rw [if_pos h0] at hmul
    exact ffma_of_invalid hF r z (isNan_inf hx) (Num.isNan_of_isFin hy) (Num.isNan_of_isFin hk) hmul
  · next h0 =>
    rw [if_neg h0] at hmul
    rw [ffma_of_product hF r z (isNan_inf hx) (Num.isNan_of_isFin hy) (Num.isNan_of_isFin hk) hmul, Num.add_inf_left r _ (isFin_read hF z hk)]

theorem ffma_fin_inf (hk : (F.decode k).isFin = true) : F.ffma r z k y x = F.deliver r z false (some (.inf n)) := by
  obtain ⟨p, hp, hfin, -, -⟩ := Num.mul_fin (isFin_read hF z hk) (isFin_read hF z hy)
  rw [ffma_of_product hF r z (Num.isNan_of_isFin hk) (Num.isNan_of_isFin hy) (isNan_inf hx) hp, flushCode_inf z hx, hx, Num.add_inf_right r n hfin]

end

section
variable (hy : F.decode y = .inf m)
include hy

theorem fadd_inf_inf : F.fadd r z x y = if n = m then F.deliver r z false (some (.inf n)) else (F.nan, fIV) := by
  rw [fadd_of_not_nan hF r z (isNan_inf hx) (isNan_inf hy), flushCode_inf z hx, hx, flushCode_inf z hy, hy]
  cases n <;> cases m <;> rfl
theorem fsub_inf_inf : F.fsub r z x y = if n = m then (F.nan, fIV) else F.deliver r z false (some (.inf n)) := by
  rw [fsub_of_not_nan hF r z (isNan_inf hx) (isNan_inf hy), flushCode_inf z hx, hx, flushCode_inf z hy, hy]
  cases n <;> cases m <;> rfl
theorem fmul_inf_inf : F.fmul r z x y = F.deliver r z false (some (.inf (n != m))) := by
  rw [fmul_of_not_nan hF r z (isNan_inf hx) (isNan_inf hy), flushCode_inf z hx, hx, flushCode_inf z hy, hy]
  rfl
theorem ffma_inf_inf (hk : (F.decode k).isFin = true) (h0 : (F.decode (F.flushCode z k)).val ≠ 0) :
    F.ffma r z x k y = if (n != (F.decode (F.flushCode z k)).isNeg) = m then F.deliver r z false (some (.inf m)) else (F.nan, fIV) := by
  have hmul := Num.mul_inf_left n (isFin_read hF z hk)
  rw [← hx, ← flushCode_inf z hx, if_neg h0] at hmul
  rw [ffma_of_product hF r z (isNan_inf hx) (Num.isNan_of_isFin hk) (isNan_inf hy) hmul, flushCode_inf z hy, hy]
  generalize (n != (F.decode (F.flushCode z k)).isNeg) = j
  cases j <;> cases m <;> rfl

end
end

/-! ### Minima and maxima -/

include hF in
theorem minmax_of_not_nan (mx : Bool) (hx : x < 2 * F.signBit) (hy : y < 2 * F.signBit) (hxn : (F.decode x).isNan = false) (hyn : (F.decode y).isNan = false) :
    let X := F.decode (F.flushCode z x)
    let Y := F.decode (F.flushCode z y)
    F.minmax mx z x y = (if (X.lt Y || (!Y.lt X && X.isNeg && !Y.isNeg)) != mx then F.flushCode z x else F.flushCode z y, 0) := by
  have hcode : ∀ {x}, x < 2 * F.signBit → (F.decode x).isNan = false →
      (F.deliver .rn false false (some (F.decode (F.flushCode z x)))).1 = F.flushCode z x := fun hx hn =>
    congrArg Prod.fst (deliver_decode hF.regular hF.signed .rn false (flushCode_lt hF.signed z _ hx) ((isNan_read hF z _).trans hn))
  simp only [minmax, operand_of_not_nan hF z hxn, operand_of_not_nan hF z hyn, isNan_read hF, hxn, hyn, Bool.false_and, Bool.false_eq_true, if_false,
    apply_ite (fun v => (F.deliver .rn false false (some v)).1), hcode hx hxn, hcode hy hyn, or_zero_flags]

/-- The model's choice gives a bound of both operands, −0 standing below +0. -/
theorem minmax_choice (X Y : Num) (hX : X.isNan = false) (hY : Y.isNan = false) (mx : Bool) {α : Type} (u v : α) :
    let less := X.lt Y || (!Y.lt X && X.isNeg && !Y.isNeg)
    ((if less != mx then u else v) = u ∧ (if mx then Y.Le X else X.Le Y)
        ∧ (X.Le Y → Y.Le X → if mx then X.isNeg = true → Y.isNeg = true else Y.isNeg = true → X.isNeg = true))
      ∨ ((if less != mx then u else v) = v ∧ (if mx then X.Le Y else Y.Le X)
        ∧ (Y.Le X → X.Le Y → if mx then Y.isNeg = true → X.isNeg = true else X.isNeg = true → Y.isNeg = true)) := by
  have hXY := Num.lt_iff_not_le hX hY
  have hYX := Num.lt_iff_not_le hY hX
  have htotal := Num.le_total hX hY
  intro less
  have hless : less = true ↔ ¬ Y.Le X ∨ (X.Le Y ∧ X.isNeg = true ∧ ¬ Y.isNeg = true) := by
    simp only [less, Bool.or_eq_true, Bool.and_eq_true, Bool.not_eq_true', ← Bool.not_eq_true, hXY, hYX, not_not, and_assoc]
  have hle : less = true → X.Le Y := fun h => (hless.1 h).elim htotal.resolve_right And.left
  have hneg : less = true → Y.Le X → X.isNeg = true := fun h hYX => ((hless.1 h).resolve_left (not_not_intro hYX)).2.1
  have hge : less = false → Y.Le X := fun h => not_not.1 fun hn => Bool.eq_false_iff.1 h (hless.2 (.inl hn))
  have hboth : less = false → X.Le Y → X.isNeg = true → Y.isNeg = true := fun h hXY hX => not_not.1 fun hn => Bool.eq_false_iff.1 h (hless.2 (.inr ⟨hXY, hX, hn⟩))
  cases hl : less with
  | true =>
    cases mx with
    | false => exact .inl ⟨rfl, hle hl, fun _ h _ => hneg hl h⟩
    | true => exact .inr ⟨rfl, hle hl, fun h _ _ => hneg hl h⟩
  | false =>
    cases mx with
    | false => exact .inr ⟨rfl, hge hl, fun _ h => hboth hl h⟩
    | true => exact .inl ⟨rfl, hge hl, fun h _ => hboth hl h⟩

include hF in
/-- Against a NaN, minimum and maximum give the other operand as it is read. -/
theorem minmax_of_one_nan (mx : Bool) (hy : y < 2 * F.signBit) (hxn : (F.decode x).isNan = true) (hyn : (F.decode y).isNan = false) :
    (F.minmax mx z x y).1 = F.flushCode z y ∧ (F.minmax mx z y x).1 = F.flushCode z y := by
  have hcode : (F.deliver .rn false false (some (F.decode (F.flushCode z y)))).1 = F.flushCode z y :=
    congrArg Prod.fst (deliver_decode hF.regular hF.signed .rn false (flushCode_lt hF.signed z _ hy) ((isNan_read hF z _).trans hyn))
  constructor <;>
    simp only [minmax, operand_fst hF, isNan_read hF, hxn, hyn, Bool.and_false, Bool.false_and, Bool.false_eq_true, if_false, if_true, hcode]

/-! ### Compares -/

include hF in
theorem floatCmp_of_nan (c : Cmp) (un : Bool) (h : (F.decode x).isNan = true ∨ (F.decode y).isNan = true) :
    (floatCmp F c un z x y).1 = (un || c == .ne) := by
  simp only [floatCmp, operand_fst hF, isNan_read hF, Bool.or_eq_true, h, if_true]

include hF in
theorem floatCmp_of_not_nan (c : Cmp) (un : Bool) (hxn : (F.decode x).isNan = false) (hyn : (F.decode y).isNan = false) :
    let le := (F.decode (F.flushCode z x)).Le (F.decode (F.flushCode z y))
    let ge := (F.decode (F.flushCode z y)).Le (F.decode (F.flushCode z x))
    (floatCmp F c un z x y).2 = 0 ∧ ((floatCmp F c un z x y).1 = true ↔ match c with
      | .eq => le ∧ ge
      | .ne => ¬ (le ∧ ge)
      | .lt => ¬ ge
      | .le => le
      | .gt => ¬ le
      | .ge => ge) := by
  intro le ge
  have hX := (isNan_read hF z x).trans hxn
  have hY := (isNan_read hF z y).trans hyn
  have hlt : (F.decode (F.flushCode z x)).lt (F.decode (F.flushCode z y)) = true ↔ ¬ ge := Num.lt_iff_not_le hX hY
  have hgt : (F.decode (F.flushCode z y)).lt (F.decode (F.flushCode z x)) = true ↔ ¬ le := Num.lt_iff_not_le hY hX
  have htotal : le ∨ ge := Num.le_total hX hY
  refine ⟨by rw [floatCmp_snd hF, readFlags_of_not_isNan hxn, readFlags_of_not_isNan hyn]; rfl, ?_⟩
  simp only [floatCmp, operand_fst hF, isNan_read hF, hxn, hyn, Bool.or_self, Bool.false_eq_true, if_false]
  generalize (F.decode (F.flushCode z x)).lt (F.decode (F.flushCode z y)) = lt at hlt ⊢
  generalize (F.decode (F.flushCode z y)).lt (F.decode (F.flushCode z x)) = gt at hgt ⊢
  have hnot : ∀ {b : Bool} {p : Prop}, (b = true ↔ p) → ((!b) = true ↔ ¬ p) := fun h => by rw [← h, Bool.not_eq_true', Bool.not_eq_true]
  have heq : (!lt && !gt) = true ↔ le ∧ ge := by
    rw [Bool.and_eq_true, Bool.not_eq_true', Bool.not_eq_true', ← Bool.not_eq_true, ← Bool.not_eq_true, hlt, hgt, not_not, not_not, and_comm]
  have hle : (lt || (!lt && !gt)) = true ↔ le := by
    rw [Bool.or_eq_true, hlt, heq]
    exact ⟨fun h => h.elim htotal.resolve_right And.left, fun h => or_iff_not_imp_left.2 fun hn => ⟨h, not_not.1 hn⟩⟩
  cases c with
  | eq => exact heq
  | ne => exact hnot heq
  | lt => exact hlt
  | le => exact hle
  | gt => exact hnot hle
  | ge => exact (hnot hlt).trans not_not

end Fmt

end Sys2Proof.Machine
end

section
/-!
Conversions (R86 to R88, R118): between the float formats, to and from the integers, and between the integers.
-/
namespace Sys2Proof.Machine

/-! ### Between the float formats -/

section
variable {dst src : CvtFmt} {G F : Fmt} (hd : IsFloat dst G) (hs : IsFloat src F) (r : Rnd) (sat : Bool)
include hd

/-- A finite value in a destination format; E2M1 rounds to nearest and saturates, whatever is written (R88). -/
theorem delivers_cvt (neg : Bool) (m : Nat) (e : Int) : G.Delivers (if dst = .e2m1 then .rn else r) false (sat || dst == .e2m1) neg (Num.fin neg m e).val
    (if G.hasNan then G.round r false sat neg m 1 e else G.round .rn false true neg m 1 e) := by
  by_cases h : dst = .e2m1
  · rw [hd.noNan.2 h, if_neg Bool.false_ne_true, if_pos h, h, beq_self_eq_true, Bool.or_true]
    exact Fmt.delivers_fin hd.regular .rn false true neg m e
  · have hn : G.hasNan = true := by simpa [h] using not_congr hd.noNan
    rw [hn, if_pos rfl, if_neg h, beq_eq_false_iff_ne.2 h, Bool.or_false]
    exact Fmt.delivers_fin hd.regular r false sat neg m e

include hs

theorem convert_of_fin {x : Nat} (hx : x < 2 * F.signBit) (hfin : (F.decode x).isFin = true) :
    G.Delivers (if dst = .e2m1 then .rn else r) false (sat || dst == .e2m1) (F.decode x).isNeg (F.decode x).val (convert dst src r sat x) := by
  obtain ⟨neg, m, e, h⟩ := Num.exists_of_isFin hfin
  have hcvt : cvtFloat F G r sat x = if G.hasNan then G.round r false sat neg m 1 e else G.round .rn false true neg m 1 e := by
    cases hn : G.hasNan <;> simp [cvtFloat, h, hn]
  rw [convert_float hd hs hx, hcvt, h]
  exact delivers_cvt hd r sat neg m e

theorem convert_of_inf {x : Nat} (hx : x < 2 * F.signBit) {n : Bool} (h : F.decode x = .inf n) : convert dst src r sat x =
    if dst = .e2m1 ∨ sat = true then (G.maxCode + (if n then G.signBit else 0), fNX)
    else if dst = .e4m3 then (G.nan, fIV) else (G.infCode + (if n then G.signBit else 0), 0) := by
  have hnan : (!G.hasNan) = true ↔ dst = .e2m1 := by rw [Bool.not_eq_true', hd.noNan]
  rw [convert_float hd hs hx]
  simp only [cvtFloat, h, Bool.or_eq_true, hnan]
  split
  · rw [Nat.add_comm]
  · next hne =>
    have hinf : G.hasInf = true ↔ ¬ dst = .e4m3 := by
      rw [← Bool.not_eq_false, hd.noInf, or_iff_right (not_or.1 hne).1]
    simp only [hinf, ite_not, Nat.add_comm]

theorem convert_e2m1_of_nan (he : dst = .e2m1) {x : Nat} (hx : x < 2 * F.signBit) (h : (F.decode x).isNan = true) : convert dst src r sat x = (0, fIV) := by
  rw [convert_float hd hs hx]
  cases hn : F.decode x with
  | nan sig => simp [cvtFloat, hn, hd.noNan.2 he]
  | _ => rw [hn] at h; cases h

end

/-! ### Integers -/

/-- An integer format of Table 7-8. -/
structure IsInt (c : CvtFmt) (sg : Bool) (n : Nat) : Prop where
  noFloat : CvtFmt_float c = none
  signed : cvtSigned c = sg
  bits : cvtBits c = n

theorem isInt_of_mem {c : CvtFmt} {sg : Bool} {n : Nat} (h : (c, sg, n) ∈ [(CvtFmt.i32, true, 32), (.n32, false, 32), (.i64, true, 64), (.n64, false, 64),
    (.i8, true, 8), (.n8, false, 8), (.i16, true, 16), (.n16, false, 16)]) : IsInt c sg n := by
  simp only [List.mem_cons, List.not_mem_nil, or_false, Prod.mk.injEq] at h
  obtain ⟨rfl, rfl, rfl⟩ | ⟨rfl, rfl, rfl⟩ | ⟨rfl, rfl, rfl⟩ | ⟨rfl, rfl, rfl⟩ | ⟨rfl, rfl, rfl⟩ | ⟨rfl, rfl, rfl⟩ | ⟨rfl, rfl, rfl⟩ | ⟨rfl, rfl, rfl⟩ := h <;>
    exact ⟨rfl, rfl, rfl⟩

section
variable {c : CvtFmt} {sg : Bool} {n : Nat} (hc : IsInt c sg n)
include hc

theorem intLo_eq : intLo c = if sg then -2 ^ (n - 1) else 0 := by rw [intLo, hc.signed, hc.bits]
theorem intHi_eq : intHi c = if sg then 2 ^ (n - 1) - 1 else 2 ^ n - 1 := by rw [intHi, hc.signed, hc.bits]
theorem intCode_eq (t : Int) : intCode c t = (t % 2 ^ (if n = 64 then 64 else 32)).toNat := by simp only [intCode, hc.bits, beq_iff_eq]
theorem intOf_eq (x : Nat) : intOf c x = if sg ∧ 2 ^ (n - 1) ≤ x % 2 ^ n then ((x % 2 ^ n : Nat) : Int) - 2 ^ n else ((x % 2 ^ n : Nat) : Int) := by
  simp only [intOf, hc.signed, hc.bits, Bool.and_eq_true, decide_eq_true_eq]

omit hc in
theorem intOf_mod (x : Nat) : intOf c (x % 2 ^ cvtBits c) = intOf c x := by simp only [intOf, Nat.mod_mod]

section
variable {src : CvtFmt} {F : Fmt} (hs : IsFloat src F) (r : Rnd) (sat : Bool) {x : Nat} (hx : x < 2 * F.signBit)
include hs hx

theorem convert_to_int : convert c src r sat x =
    (intCode c (cvtToInt F r (intLo c) (intHi c) x).1, (cvtToInt F r (intLo c) (intHi c) x).2) := by
  simp only [convert, hc.noFloat, hs.float, hs.bits, Nat.mod_eq_of_lt hx]

theorem convert_to_int_of_fin (hfin : (F.decode x).isFin = true) : ∃ t, RoundsToInt r (F.decode x).val t ∧ convert c src r sat x =
    if t < intLo c then (intCode c (intLo c), fIV) else if intHi c < t then (intCode c (intHi c), fIV)
    else (intCode c t, if (t : ℚ) = (F.decode x).val then 0 else fNX) := by
  obtain ⟨neg, m, e, h⟩ := Num.exists_of_isFin hfin
  have hval : (F.decode x).val = withSign neg ((m : ℚ) / (1 : ℕ) * 2 ^ e) := by rw [h, Num.val_fin, Nat.cast_one, div_one]
  refine ⟨roundedInt r neg m 1 e, hval ▸ roundsToInt_roundedInt r neg Nat.one_pos e, ?_⟩
  have hexact : (roundedInt r neg m 1 e : ℚ) = (F.decode x).val ↔ (scaleDiv m 1 e 0).2.1 = 0 := by
    rw [hval, roundedInt_cast, withSign_inj, scaleDiv_exact Nat.one_pos r neg rfl, zpow_zero, mul_one]
  have hcvt : cvtToInt F r (intLo c) (intHi c) x = if roundedInt r neg m 1 e < intLo c then (intLo c, fIV)
      else if intHi c < roundedInt r neg m 1 e then (intHi c, fIV)
      else (roundedInt r neg m 1 e, if (scaleDiv m 1 e 0).2.1 != 0 then fNX else 0) := by
    simp only [cvtToInt, h]
    rfl
  simp only [convert_to_int hc hs r sat hx, hcvt, hexact]
  split
  · rfl
  · split
    · rfl
    · simp only [bne_iff_ne, ne_eq, ite_not]

theorem convert_to_int_of_inf {m : Bool} (h : F.decode x = .inf m) : convert c src r sat x = (intCode c (if m then intLo c else intHi c), fIV) := by
  simp only [convert_to_int hc hs r sat hx, cvtToInt, h]

theorem convert_to_int_of_nan (h : (F.decode x).isNan = true) : convert c src r sat x = (0, fIV) := by
  cases hn : F.decode x with
  | nan sig => simp [convert_to_int hc hs r sat hx, cvtToInt, hn, intCode]
  | _ => rw [hn] at h; cases h

end

theorem convert_of_int {dst : CvtFmt} {G : Fmt} (hd : IsFloat dst G) (r : Rnd) (sat : Bool) (x : Nat) :
    G.Delivers (if dst = .e2m1 then .rn else r) false (sat || dst == .e2m1) false (intOf c x : ℤ) (convert dst c r sat x) := by
  have hval : (Num.fin (decide (intOf c x < 0)) (intOf c x).natAbs 0).val = (intOf c x : ℤ) := by
    rw [Num.val_fin, zpow_zero, mul_one, withSign_natAbs]
  have h := delivers_cvt hd r sat (decide (intOf c x < 0)) (intOf c x).natAbs 0
  rw [hval] at h
  have hcvt : convert dst c r sat x = if G.hasNan then G.round r false sat (decide (intOf c x < 0)) (intOf c x).natAbs 1 0
      else G.round .rn false true (decide (intOf c x < 0)) (intOf c x).natAbs 1 0 := by
    simp only [convert, hd.float, hc.noFloat, intOf_mod, cvtFromInt]
  rw [hcvt]
  refine h.congr_neg fun h0 => ?_
  have h0' : intOf c x = 0 := by exact_mod_cast h0
  rw [h0']
  rfl

theorem convert_between_ints {dst : CvtFmt} {sg' : Bool} {n' : Nat} (hd : IsInt dst sg' n') (r : Rnd) (sat : Bool) (x : Nat) : convert dst c r sat x =
    (intCode dst (if sat then Max.max (intLo dst) (Min.min (intHi dst) (intOf c x)) else intOf dst (intOf c x % 2 ^ n').toNat), 0) := by
  simp only [convert, hd.noFloat, hc.noFloat, intOf_mod, hd.bits]

end

end Sys2Proof.Machine
end

section
/-!
Quantisation to HF4 (R90, R119, R120): scales rounded up, elements of quotients, and the values of elements.
-/
namespace Sys2Proof.Machine

/-! ### The formats -/

theorem bf16_regular : Fmt.bf16.Regular := (Fmt.arith_of_mem (by simp)).regular
theorem e2m1_regular : Fmt.e2m1.Regular := (isFloat_of_mem (c := .e2m1) (by simp)).regular
theorem e3m5_regular : Fmt.e3m5.Regular := ⟨by decide, by decide, by decide, by decide⟩

/-- The largest finite value of a format and the value of its code 1, which is the smallest subnormal number. -/
theorem max_of_split {f : Fmt} (hf : f.Regular) {j s : Nat} (hs : s ≤ 2 ^ (f.frac + 1)) (hj : j = 0 ∨ 2 ^ f.frac ≤ s) (hmax : f.maxCode = j * 2 ^ f.frac + s) :
    f.max = s * 2 ^ (f.minExp + j) := by
  rw [Fmt.max_eq hf, hmax, Fmt.magVal_split hs hj]

theorem val_decode_one {f : Fmt} (hf : f.Regular) (h1 : 1 ≤ f.maxCode) : (f.decode 1).val = 2 ^ f.minExp := by
  have hs : 1 ≤ 2 ^ (f.frac + 1) := Nat.one_le_two_pow
  have h := Fmt.magVal_split (f := f) (j := 0) hs (.inl rfl)
  rw [Fmt.val_decode_mag hf h1]
  simpa using h

theorem withSign_inv (neg : Bool) (v : ℚ) : (withSign neg v)⁻¹ = withSign neg v⁻¹ := by cases neg <;> simp [withSign, inv_neg]

/-! ### Scales -/

namespace Fmt
variable {f : Fmt} {n d : Nat} {e : Int} {v : ℚ}

theorem roundsTo_roundUpTo (hf : f.Regular) (hd : 0 < d) (hv : v = n / d * 2 ^ e) : f.RoundsTo .ru v (f.magVal (f.roundUpTo n d e).1) :=
  roundsTo_roundMag hd hv .ru false hf

theorem roundUpTo_exact_iff (hd : 0 < d) (hv : v = n / d * 2 ^ e) : (f.roundUpTo n d e).2 = true ↔ f.magVal (f.roundUpTo n d e).1 = v := by
  rw [roundUpTo, Bool.not_eq_true', ← Bool.not_eq_true, inexact_roundMag hd hv .ru false, ne_eq, not_not]

/-- The scale is at most a code exactly where the value is at most that code's. -/
theorem roundUpTo_le_iff (hf : f.Regular) (hd : 0 < d) (hv : v = n / d * 2 ^ e) {k : Nat} : (f.roundUpTo n d e).1 ≤ k ↔ v ≤ f.magVal k := by
  obtain ⟨-, hle, hleast⟩ := roundsTo_roundUpTo hf hd hv
  rw [← f.magVal_strictMono.le_iff_le]
  exact ⟨hle.trans, hleast _ (f.grid_magVal k)⟩

/-- A scale that has a code: its value, and the inexact exception. -/
theorem roundUpTo_spec (hf : f.Regular) (hd : 0 < d) (hv : v = n / d * 2 ^ e) (hmax : v ≤ f.max) :
    ∃ q, f.RoundsTo .ru v q ∧ (f.roundUpTo n d e).1 ≤ f.maxCode ∧ (f.decode (f.roundUpTo n d e).1).val = q
      ∧ (if (f.roundUpTo n d e).2 then 0 else fNX) = if q = v then 0 else fNX := by
  have hle : (f.roundUpTo n d e).1 ≤ f.maxCode := (roundUpTo_le_iff hf hd hv).2 (max_eq hf ▸ hmax)
  refine ⟨_, roundsTo_roundUpTo hf hd hv, hle, val_decode_mag hf hle, ?_⟩
  simp only [roundUpTo_exact_iff hd hv]

end Fmt

theorem bf16_max : Fmt.bf16.max = (255 : Nat) * 2 ^ (Fmt.bf16.minExp + 253) := max_of_split bf16_regular (by decide) (by decide) (by decide)
theorem f32_max : Fmt.f32.max = (16777215 : Nat) * 2 ^ (Fmt.f32.minExp + 253) := max_of_split f32_arith.regular (by decide) (by decide) (by decide)
theorem e3m5_max : Fmt.e3m5.max = 31 := by
  rw [max_of_split e3m5_regular (j := 6) (s := 62) (by decide) (by decide) (by decide)]
  norm_num [Fmt.minExp, Fmt.e3m5]

theorem f32_max_le_bf16_max : Fmt.f32.max / 186 ≤ Fmt.bf16.max := by
  have hexp : Fmt.bf16.minExp + (253 : Nat) = Fmt.f32.minExp + (253 : Nat) + 16 := by decide
  rw [bf16_max, f32_max, show Fmt.bf16.minExp + 253 = Fmt.f32.minExp + 253 + 16 from hexp, zpow_add₀ (by norm_num) _ 16]
  have hpos : (0 : ℚ) < 2 ^ (Fmt.f32.minExp + 253) := by positivity
  generalize (2 : ℚ) ^ (Fmt.f32.minExp + 253) = u at hpos ⊢
  push_cast
  linarith

theorem abs_le_max {f : Fmt} (hf : f.Regular) {x : Nat} (h : (f.decode x).isFin = true) : |(f.decode x).val| ≤ f.max := by
  obtain ⟨neg, k, hk, hx, -⟩ := Fmt.exists_of_isFin hf h
  rw [hx, Fmt.abs_val_fin, Fmt.max_eq hf]
  exact f.magVal_strictMono.monotone hk

/-! ### QSCL -/

section
variable (sat : Bool) {a : Word} (b : Word) (ha : (Fmt.f32.decode a.toNat).isFin = true)
include ha

omit ha in
theorem abs_eq_mag {neg : Bool} {m : Nat} {e : Int} (h : Fmt.f32.decode a.toNat = .fin neg m e) (d : Nat) :
    |(Fmt.f32.decode a.toNat).val| / d = m / d * 2 ^ e := by
  have hnn : (0 : ℚ) ≤ m * 2 ^ e := by positivity
  rw [h, Num.val_fin, abs_withSign, abs_of_nonneg hnn, mul_div_right_comm]

/-- The band scale: a finite maximum over 186 never exceeds the largest BF16 value. -/
theorem qsclOf_band : ∃ q, Fmt.bf16.RoundsTo .ru (|(Fmt.f32.decode a.toNat).val| / 186) q ∧ (qsclOf true sat a b).1 ≤ Fmt.bf16.maxCode
    ∧ (Fmt.bf16.decode (qsclOf true sat a b).1).val = q ∧ (qsclOf true sat a b).2 = if q = |(Fmt.f32.decode a.toNat).val| / 186 then 0 else fNX := by
  obtain ⟨neg, m, e, h⟩ := Num.exists_of_isFin ha
  have hv : |(Fmt.f32.decode a.toNat).val| / 186 = m / (186 : Nat) * 2 ^ e := by exact_mod_cast abs_eq_mag h 186
  have hmax : |(Fmt.f32.decode a.toNat).val| / 186 ≤ Fmt.bf16.max :=
    (div_le_div_of_nonneg_right (abs_le_max f32_arith.regular ha) (by norm_num)).trans f32_max_le_bf16_max
  obtain ⟨q, hround, hle, hval, hflag⟩ := Fmt.roundUpTo_spec bf16_regular (by norm_num) hv hmax
  have hq : qsclOf true sat a b = ((Fmt.bf16.roundUpTo m 186 e).1, if (Fmt.bf16.roundUpTo m 186 e).2 then 0 else fNX) := by
    simp only [qsclOf, h, bandScale, if_true]
    exact if_neg (not_lt.2 hle)
  rw [hq]
  exact ⟨q, hround, hle, hval, hflag⟩

theorem qsclOf_of_not_scale (hS : (Fmt.bf16.decode (b.toNat % 2 ^ 16)).isFin = false ∨ (Fmt.bf16.decode (b.toNat % 2 ^ 16)).val < 0) :
    qsclOf false sat a b = (0xFF, fIV) := by
  obtain ⟨neg, m, e, h⟩ := Num.exists_of_isFin ha
  cases hb : Fmt.bf16.decode (b.toNat % 2 ^ 16) with
  | fin n p g =>
    rw [hb] at hS
    have hneg : (Num.fin n p g).val < 0 := hS.resolve_left nofun
    have hp : (p == 0) = false := beq_eq_false_iff_ne.2 fun h0 => hneg.ne (Num.val_fin_eq_zero.2 h0)
    have hn : n = true := by
      cases n with
      | true => rfl
      | false =>
        rw [Num.val_fin, withSign_false] at hneg
        exact absurd hneg (not_lt.2 (by positivity))
    simp only [qsclOf, h, hb, hp, hn, Bool.false_eq_true, if_false, if_true]
  | _ => simp only [qsclOf, h, hb, Bool.false_eq_true, if_false]

theorem qsclOf_of_scale_zero (hS : (Fmt.bf16.decode (b.toNat % 2 ^ 16)).isFin = true) (h0 : (Fmt.bf16.decode (b.toNat % 2 ^ 16)).val = 0) :
    qsclOf false sat a b = (0, 0) := by
  obtain ⟨neg, m, e, h⟩ := Num.exists_of_isFin ha
  obtain ⟨n, p, g, hb⟩ := Num.exists_of_isFin hS
  rw [hb, Num.val_fin_eq_zero] at h0
  simp only [qsclOf, h, hb, h0, Bool.false_eq_true, if_false, beq_self_eq_true, if_true]

/-- The block scale under a positive scale is a quotient rounded up. -/
theorem qsclOf_of_scale_pos (hS : (Fmt.bf16.decode (b.toNat % 2 ^ 16)).isFin = true) (h0 : 0 < (Fmt.bf16.decode (b.toNat % 2 ^ 16)).val) :
    ∃ n d e, 0 < d ∧ |(Fmt.f32.decode a.toNat).val| / (6 * (Fmt.bf16.decode (b.toNat % 2 ^ 16)).val) = (n : Nat) / (d : Nat) * 2 ^ (e : Int)
      ∧ qsclOf false sat a b = if 0xFE < (Fmt.e3m5.roundUpTo n d e).1 then (if sat then (0xFE, fNX) else (0xFF, fIV))
        else ((Fmt.e3m5.roundUpTo n d e).1, if (Fmt.e3m5.roundUpTo n d e).2 then 0 else fNX) := by
  obtain ⟨neg, m, e, h⟩ := Num.exists_of_isFin ha
  obtain ⟨n, p, g, hb⟩ := Num.exists_of_isFin hS
  have hp : p ≠ 0 := fun hp => h0.ne' (by rw [hb, Num.val_fin_eq_zero, hp])
  have hn : n = false := by
    cases n with
    | false => rfl
    | true =>
      rw [hb, Num.val_fin, withSign_true, neg_pos] at h0
      exact absurd h0 (not_lt.2 (by positivity))
  subst hn
  refine ⟨m, 6 * p, e - g, by omega, ?_, ?_⟩
  · have hmag := abs_eq_mag h 1
    rw [Nat.cast_one, div_one, div_one] at hmag
    rw [hmag, hb, Num.val_fin, withSign_false, zpow_sub₀ (by norm_num)]
    push_cast
    field_simp
  · simp only [qsclOf, h, hb, beq_eq_false_iff_ne.2 hp, blockScale, Bool.false_eq_true, if_false]

theorem qsclOf_of_large (hS : (Fmt.bf16.decode (b.toNat % 2 ^ 16)).isFin = true) (h0 : 0 < (Fmt.bf16.decode (b.toNat % 2 ^ 16)).val)
    (hlarge : 31 < |(Fmt.f32.decode a.toNat).val| / (6 * (Fmt.bf16.decode (b.toNat % 2 ^ 16)).val)) :
    qsclOf false sat a b = if sat then (0xFE, fNX) else (0xFF, fIV) := by
  obtain ⟨n, d, e, hd, hv, hq⟩ := qsclOf_of_scale_pos sat b ha hS h0
  have hlt : 0xFE < (Fmt.e3m5.roundUpTo n d e).1 := by
    rwa [← not_le, Fmt.roundUpTo_le_iff e3m5_regular hd hv, not_le, show Fmt.e3m5.magVal 0xFE = 31 from (Fmt.max_eq e3m5_regular).symm.trans e3m5_max]
  rw [hq, if_pos hlt]

theorem qsclOf_block (hS : (Fmt.bf16.decode (b.toNat % 2 ^ 16)).isFin = true) (h0 : 0 < (Fmt.bf16.decode (b.toNat % 2 ^ 16)).val)
    (hle : |(Fmt.f32.decode a.toNat).val| / (6 * (Fmt.bf16.decode (b.toNat % 2 ^ 16)).val) ≤ 31) :
    ∃ q, Fmt.e3m5.RoundsTo .ru (|(Fmt.f32.decode a.toNat).val| / (6 * (Fmt.bf16.decode (b.toNat % 2 ^ 16)).val)) q ∧ (qsclOf false sat a b).1 ≤ 0xFE
      ∧ (Fmt.e3m5.decode (qsclOf false sat a b).1).val = q
      ∧ (qsclOf false sat a b).2 = if q = |(Fmt.f32.decode a.toNat).val| / (6 * (Fmt.bf16.decode (b.toNat % 2 ^ 16)).val) then 0 else fNX := by
  obtain ⟨n, d, e, hd, hv, hq⟩ := qsclOf_of_scale_pos sat b ha hS h0
  obtain ⟨q, hround, hcode, hval, hflag⟩ := Fmt.roundUpTo_spec e3m5_regular hd hv (e3m5_max ▸ hle)
  rw [hq, if_neg (show ¬ 0xFE < (Fmt.e3m5.roundUpTo n d e).1 from not_lt.2 hcode)]
  exact ⟨q, hround, hcode, hval, hflag⟩

end

/-! ### QPK4 -/

theorem exists_of_isFin_e3m5 {sc : Nat} (h : (Fmt.e3m5.decode sc).isFin = true) : ∃ p g, Fmt.e3m5.decode sc = .fin false p g :=
  ⟨_, _, Fmt.decode_of_le e3m5_regular ((Fmt.isFin_iff e3m5_regular).1 h)⟩

/-- An element of QPK4 under finite scales. -/
def packElem (sc S : Nat) (x : Word) : Nat × Flags :=
  match Fmt.f32.decode x.toNat, Fmt.e3m5.decode sc, Fmt.bf16.decode S with
  | .nan _, .fin _ p _, .fin _ q _ => if p == 0 || q == 0 then (if x.msb then 8 else 0, 0) else (0, fIV)
  | y, _, _ => quantElem y sc S

theorem qpk4Of_of_bad (xs : List Word) {b : Word} (h : b.toNat % 2 ^ 8 = 0xFF ∨ (Fmt.bf16.decode (b.toNat / 2 ^ 16)).isFin = false) :
    qpk4Of xs b = (0, fIV) := by
  refine if_pos (Bool.or_eq_true_iff.2 (h.imp beq_iff_eq.2 fun hS => ?_))
  cases hb : Fmt.bf16.decode (b.toNat / 2 ^ 16) with
  | fin n p g => rw [hb] at hS; cases hS
  | _ => rfl

theorem foldl_add_eq_sum (g : Nat → Nat) (l : List Nat) : l.foldl (fun n j => n + g j) 0 = (l.map g).sum := by
  rw [List.sum_eq_foldl, List.foldl_map]

theorem qpk4Of_of_scales (xs : List Word) {b : Word} (hsc : b.toNat % 2 ^ 8 ≠ 0xFF) (hS : (Fmt.bf16.decode (b.toNat / 2 ^ 16)).isFin = true) :
    qpk4Of xs b = (((List.range 8).map fun j => 16 ^ j * (((xs.map (packElem (b.toNat % 2 ^ 8) (b.toNat / 2 ^ 16)))[j]?).getD (0, 0)).1).sum,
      ((xs.map (packElem (b.toNat % 2 ^ 8) (b.toNat / 2 ^ 16))).foldl (fun f e => f ||| e.2) 0) &&& 17) := by
  obtain ⟨n, p, g, hb⟩ := Num.exists_of_isFin hS
  unfold qpk4Of
  refine (if_neg ?_).trans ?_
  · rw [hb]
    simpa using hsc
  · simp only [← foldl_add_eq_sum, show ∀ j, (16 : Nat) ^ j = 2 ^ (4 * j) from fun j => by rw [pow_mul]; rfl]
    rfl

theorem isNeg_decode_f32 {x : Word} (h : (Fmt.f32.decode x.toNat).isNan = false) : (Fmt.f32.decode x.toNat).isNeg = x.msb := by
  have hdiv : (Fmt.f32.signed && x.toNat / 2 ^ (Fmt.f32.exp + Fmt.f32.frac) % 2 == 1) = x.msb := by
    have hx := x.isLt
    rw [BitVec.msb_eq_decide, Bool.eq_iff_iff]
    simp only [Fmt.f32, Bool.true_and, beq_iff_eq, decide_eq_true_eq]
    omega
  obtain hle | hlt := le_or_gt (x.toNat % 2 ^ (Fmt.f32.exp + Fmt.f32.frac)) Fmt.f32.maxCode
  · rw [Fmt.decode_of_le f32_arith.regular hle, Num.isNeg, hdiv]
  · rw [Fmt.decode_of_lt f32_arith.regular hlt] at h ⊢
    split at h
    · next hinf => rw [if_pos hinf, Num.isNeg, hdiv]
    · cases h

theorem packElem_of_not_isNan {sc S : Nat} {x : Word} (h : (Fmt.f32.decode x.toNat).isNan = false) :
    packElem sc S x = quantElem (Fmt.f32.decode x.toNat) sc S := by
  unfold packElem
  split
  · next hx _ _ => rw [hx] at h; cases h
  · rfl

section
variable {sc S : Nat} (hsc : (Fmt.e3m5.decode sc).isFin = true) (hS : (Fmt.bf16.decode S).isFin = true) {x : Word}
include hsc hS

theorem packElem_of_scale_zero (h0 : (Fmt.e3m5.decode sc).val = 0 ∨ (Fmt.bf16.decode S).val = 0) : packElem sc S x = (if x.msb then 8 else 0, 0) := by
  obtain ⟨k, p, g, hp⟩ := Num.exists_of_isFin hsc
  obtain ⟨n, q, h, hq⟩ := Num.exists_of_isFin hS
  rw [hp, hq, Num.val_fin_eq_zero, Num.val_fin_eq_zero] at h0
  have hzero : (p == 0 || q == 0) = true := by simpa using h0
  have hneg := isNeg_decode_f32 (x := x)
  cases hx : Fmt.f32.decode x.toNat with
  | nan sig => simp only [packElem, hx, hp, hq, hzero, if_true]
  | inf m =>
    rw [hx] at hneg
    simp only [packElem_of_not_isNan (by rw [hx]; rfl), quantElem, hx, hp, hq, hzero, if_true, ← hneg rfl, Num.isNeg]
  | fin m i j =>
    rw [hx] at hneg
    simp only [packElem_of_not_isNan (by rw [hx]; rfl), quantElem, hx, hp, hq, hzero, if_true, ← hneg rfl, Num.isNeg]

variable (hs0 : (Fmt.e3m5.decode sc).val ≠ 0) (hS0 : (Fmt.bf16.decode S).val ≠ 0)
include hs0 hS0

theorem packElem_of_nan (hx : (Fmt.f32.decode x.toNat).isNan = true) : packElem sc S x = (0, fIV) := by
  obtain ⟨k, p, g, hp⟩ := Num.exists_of_isFin hsc
  obtain ⟨n, q, h, hq⟩ := Num.exists_of_isFin hS
  rw [hp, ne_eq, Num.val_fin_eq_zero] at hs0
  rw [hq, ne_eq, Num.val_fin_eq_zero] at hS0
  cases hX : Fmt.f32.decode x.toNat with
  | nan sig => simp [packElem, hX, hp, hq, hs0, hS0]
  | _ => rw [hX] at hx; cases hx

theorem packElem_of_inf {m : Bool} (hx : Fmt.f32.decode x.toNat = .inf m) :
    packElem sc S x = (if (m != (Fmt.bf16.decode S).isNeg) = true then 15 else 7, fNX) := by
  obtain ⟨k, p, g, hp⟩ := Num.exists_of_isFin hsc
  obtain ⟨n, q, h, hq⟩ := Num.exists_of_isFin hS
  rw [hp, ne_eq, Num.val_fin_eq_zero] at hs0
  rw [hq, ne_eq, Num.val_fin_eq_zero] at hS0
  simp [packElem_of_not_isNan, quantElem, hx, hp, hq, hs0, hS0, Num.isNan, Num.isNeg]

theorem delivers_packElem {m : Bool} {i : Nat} {j : Int} (hx : Fmt.f32.decode x.toNat = .fin m i j) :
    Fmt.e2m1.Delivers .rn false true (m != (Fmt.bf16.decode S).isNeg) ((Num.fin m i j).val / ((Fmt.e3m5.decode sc).val * (Fmt.bf16.decode S).val))
      (packElem sc S x) := by
  obtain ⟨p, g, hp⟩ := exists_of_isFin_e3m5 hsc
  obtain ⟨n, q, h, hq⟩ := Num.exists_of_isFin hS
  rw [hp, ne_eq, Num.val_fin_eq_zero] at hs0
  rw [hq, ne_eq, Num.val_fin_eq_zero] at hS0
  have helem : packElem sc S x = Fmt.e2m1.round .rn false true (m != n) i (p * q) (j - g - h) := by
    simp [packElem_of_not_isNan, quantElem, hx, hp, hq, hs0, hS0, Num.isNan, toE2m1]
  rw [helem, hp, hq]
  refine Fmt.delivers_round e2m1_regular .rn false true (m != n) (by positivity) ?_
  rw [Num.val_fin, Num.val_fin, Num.val_fin, withSign_false, mul_comm ((p : ℚ) * _), withSign_mul_right, div_eq_mul_inv, withSign_inv, withSign_mul,
    zpow_sub₀ (by norm_num), zpow_sub₀ (by norm_num)]
  congr 1
  push_cast
  field_simp

end

/-! ### QXP4 -/

theorem isFin_decode_e2m1 (e : Nat) : (Fmt.e2m1.decode e).isFin = true :=
  (Fmt.isFin_iff e2m1_regular).2 (Nat.le_of_lt_succ (Nat.mod_lt _ (by decide)))

theorem isFin_decode_e3m5 {sc : Nat} (h : sc < 0xFF) : (Fmt.e3m5.decode sc).isFin = true :=
  (Fmt.isFin_iff e3m5_regular).2 ((Nat.mod_le _ _).trans (Nat.le_of_lt_succ h))

section
variable (r : Rnd) (e : Nat) {sc : Nat} (hsc : sc < 0xFF) {S : Nat}
include hsc

theorem delivers_qxp4 (hS : (Fmt.bf16.decode S).isFin = true) : Fmt.f32.Delivers r false false ((Fmt.e2m1.decode e).isNeg != (Fmt.bf16.decode S).isNeg)
    ((Fmt.e2m1.decode e).val * (Fmt.e3m5.decode sc).val * (Fmt.bf16.decode S).val) (qxp4Of r e sc S) := by
  obtain ⟨a, m, i, hE⟩ := Num.exists_of_isFin (isFin_decode_e2m1 e)
  obtain ⟨p, g, hs⟩ := exists_of_isFin_e3m5 (isFin_decode_e3m5 hsc)
  obtain ⟨n, q, h, hB⟩ := Num.exists_of_isFin hS
  have hvalue : hf4Value e sc S = .fin (a != n) (m * p * q) (i + g + h) := by simp only [hf4Value, hE, hs, hB]
  have hq : qxp4Of r e sc S = Fmt.f32.deliver r false false (some (.fin (a != n) (m * p * q) (i + g + h))) := by
    simp only [qxp4Of, beq_eq_false_iff_ne.2 hsc.ne, hB, hvalue, Bool.false_eq_true, if_false]
  have hval : (Fmt.e2m1.decode e).val * (Fmt.e3m5.decode sc).val * (Fmt.bf16.decode S).val = (Num.fin (a != n) (m * p * q) (i + g + h)).val := by
    rw [hE, hs, hB, Num.val_fin, Num.val_fin, Num.val_fin, Num.val_fin, withSign_false, withSign_mul_right, withSign_mul,
      zpow_add₀ (by norm_num), zpow_add₀ (by norm_num)]
    push_cast
    congr 1
    ring
  rw [hq, hval, hE, hB]
  exact Fmt.delivers_some f32_arith.regular r false false rfl

theorem qxp4Of_of_inf {n : Bool} (hS : Fmt.bf16.decode S = .inf n) : qxp4Of r e sc S = if (Fmt.e2m1.decode e).val = 0 ∨ (Fmt.e3m5.decode sc).val = 0
    then (Fmt.f32.nan, fIV) else (Fmt.f32.infCode + (if (n != (Fmt.e2m1.decode e).isNeg) = true then Fmt.f32.signBit else 0), 0) := by
  obtain ⟨a, m, i, hE⟩ := Num.exists_of_isFin (isFin_decode_e2m1 e)
  obtain ⟨p, g, hs⟩ := exists_of_isFin_e3m5 (isFin_decode_e3m5 hsc)
  simp only [qxp4Of, beq_eq_false_iff_ne.2 hsc.ne, hE, hs, hS, Num.val_fin_eq_zero, Num.isNeg, Bool.or_eq_true, beq_iff_eq, Bool.false_eq_true, if_false]

end

/-! ### The constants of Tables 5-1 and 5-2 -/

theorem two_sub_zpow (k : Nat) (a b : ℤ) {s : Nat} (hb : b = a + k) (hs : s = 2 ^ (k + 1) - 1) :
    ((2 : ℚ) - 2 ^ (-(k : ℤ))) * 2 ^ b = s * 2 ^ a := by
  rw [hb, hs, Nat.cast_sub Nat.one_le_two_pow, zpow_add₀ (by norm_num), zpow_neg, zpow_natCast]
  push_cast
  field_simp
  ring

theorem fmt_constants : ∀ p ∈ [(Fmt.f64, ((2 : ℚ) - 2 ^ (-52 : ℤ)) * 2 ^ (1023 : ℤ), (2 : ℚ) ^ (-1074 : ℤ)),
    (.f32, (2 - 2 ^ (-23 : ℤ)) * 2 ^ (127 : ℤ), 2 ^ (-149 : ℤ)), (.f16, 65504, 2 ^ (-24 : ℤ)), (.bf16, (2 - 2 ^ (-7 : ℤ)) * 2 ^ (127 : ℤ), 2 ^ (-133 : ℤ)),
    (.e4m3, 448, 2 ^ (-9 : ℤ)), (.e5m2, 57344, 2 ^ (-16 : ℤ)), (.e2m1, 6, 1 / 2), (.e3m5, 31, 2 ^ (-7 : ℤ))],
    p.1.max = p.2.1 ∧ (p.1.decode 1).val = p.2.2 := by
  simp only [List.mem_cons, List.not_mem_nil, or_false]
  rintro p (rfl | rfl | rfl | rfl | rfl | rfl | rfl | rfl)
  · have hf : Fmt.f64.Regular := (isFloat_of_mem (c := .f64) (by simp)).regular
    exact ⟨(max_of_split hf (j := 2045) (s := 2 ^ 53 - 1) (by decide) (by decide) (by decide)).trans (two_sub_zpow 52 971 1023 rfl rfl).symm,
      val_decode_one hf (by decide)⟩
  · exact ⟨f32_max.trans (two_sub_zpow 23 104 127 rfl rfl).symm, val_decode_one f32_arith.regular (by decide)⟩
  · have hf : Fmt.f16.Regular := (isFloat_of_mem (c := .f16) (by simp)).regular
    exact ⟨(max_of_split hf (j := 29) (s := 2047) (by decide) (by decide) (by decide)).trans (by norm_num [Fmt.minExp, Fmt.f16]), val_decode_one hf (by decide)⟩
  · exact ⟨bf16_max.trans (two_sub_zpow 7 120 127 rfl rfl).symm, val_decode_one bf16_regular (by decide)⟩
  · have hf : Fmt.e4m3.Regular := (isFloat_of_mem (c := .e4m3) (by simp)).regular
    exact ⟨(max_of_split hf (j := 14) (s := 14) (by decide) (by decide) (by decide)).trans (by norm_num [Fmt.minExp, Fmt.e4m3]), val_decode_one hf (by decide)⟩
  · have hf : Fmt.e5m2.Regular := (isFloat_of_mem (c := .e5m2) (by simp)).regular
    exact ⟨(max_of_split hf (j := 29) (s := 7) (by decide) (by decide) (by decide)).trans (by norm_num [Fmt.minExp, Fmt.e5m2]), val_decode_one hf (by decide)⟩
  · exact ⟨(max_of_split e2m1_regular (j := 2) (s := 3) (by decide) (by decide) (by decide)).trans (by norm_num [Fmt.minExp, Fmt.e2m1]),
      (val_decode_one e2m1_regular (by decide)).trans (by norm_num [Fmt.minExp, Fmt.e2m1])⟩
  · exact ⟨e3m5_max, val_decode_one e3m5_regular (by decide)⟩

theorem e2m1_values : ((List.range 8).map fun k => (Fmt.e2m1.decode k).val) = [0, 1 / 2, 1, 3 / 2, 2, 3, 4, 6] := by
  rw [show List.range 8 = [0, 1, 2, 3, 4, 5, 6, 7] from rfl]
  simp [Fmt.decode, Fmt.e2m1, Fmt.infCode, Num.val]
  norm_num

end Sys2Proof.Machine
end

section
/-!
O27: what arithmetic and conversion deliver, assembled from the lemmas on each operation.
-/
namespace Sys2Proof.Machine

/-- Settles O27: each clause is an operation's lemma, its operands being the codes as they are read. -/
theorem roundedResults : Obligations.RoundedResults := by
  unfold Obligations.RoundedResults
  intro floats ints lo hi int enc
  refine ⟨fmt_constants, e2m1_values, ?arithmetic, ?floats, ?toInt, ?ofInt, ?ints, ?qscl, ?qpk4, ?qxp4⟩
  case arithmetic =>
    intro F r z x y k hmem fin neg val inf invalid zero
    have hF : F.Arith := Fmt.arith_of_mem hmem
    have hval : ∀ x, (F.decode (F.flushCode z x)).val = val x := Fmt.val_flushCode hF.regular hF.signed z
    have hneg : ∀ x, (F.decode (F.flushCode z x)).isNeg = neg x := Fmt.isNeg_flushCode hF.regular hF.signed z
    have hinf : ∀ n, F.deliver r z false (some (.inf n)) = inf n := fun _ => rfl
    refine ⟨fun hx hy => ⟨?_, ?_, ?_, fun hk => ?_⟩, fun hx => ⟨fun b => ?_, ?_⟩, fun n hx => ⟨?_, fun b => ?_, fun hy => ?_, fun m hy => ?_⟩, ?_⟩
    · simpa only [hval, hneg] using Fmt.delivers_fadd hF r z hx hy
    · simpa only [hval, hneg] using Fmt.delivers_fsub hF r z hx hy
    · simpa only [hval, hneg] using Fmt.delivers_fmul hF r z hx hy
    · simpa only [hval, hneg] using Fmt.delivers_ffma hF r z hx hy hk
    · simpa only [hval, hneg] using Fmt.delivers_fscale hF r z hx b
    · simpa only [hval, hneg] using Fmt.frnd_of_fin hF r z hx
    · exact Fmt.frnd_inf hF r z hx
    · exact Fmt.fscale_inf hF r z hx b
    · have hmul := Fmt.fmul_inf_fin hF r z hx hy
      have hmul' := Fmt.fmul_fin_inf hF r z hx hy
      rw [hval, hneg, hinf] at hmul hmul'
      refine ⟨Fmt.fadd_inf_fin hF r z hx hy, Fmt.fadd_fin_inf hF r z hx hy, Fmt.fsub_inf_fin hF r z hx hy, Fmt.fsub_fin_inf hF r z hx hy, hmul, hmul',
        fun hk => ⟨?_, Fmt.ffma_fin_inf hF r z hx hy hk⟩⟩
      have hfma := Fmt.ffma_inf_fin hF r z hx hy hk
      rwa [hval, hneg, hinf] at hfma
    · refine ⟨Fmt.fadd_inf_inf hF r z hx hy, Fmt.fsub_inf_inf hF r z hx hy, Fmt.fmul_inf_inf hF r z hx hy, fun hk h0 => ?_⟩
      have hfma := Fmt.ffma_inf_inf hF r z hx hy hk (by rwa [hval])
      rwa [hneg] at hfma
    · intro code hx hy
      refine ⟨fun hxn hyn mx => ?_, fun hxn hyn mx => Fmt.minmax_of_one_nan hF z mx hy hxn hyn,
        fun c un => ⟨Fmt.floatCmp_of_nan hF z c un, fun hxn hyn => ?_⟩⟩
      · have hX := (Fmt.isNan_read hF z x).trans hxn
        have hY := (Fmt.isNan_read hF z y).trans hyn
        rw [Fmt.minmax_of_not_nan hF z mx hx hy hxn hyn]
        obtain ⟨heq, hle, htie⟩ | ⟨heq, hle, htie⟩ := Fmt.minmax_choice _ _ hX hY mx (F.flushCode z x) (F.flushCode z y)
        · exact ⟨rfl, _, _, .inl ⟨rfl, rfl⟩, heq, hle, htie⟩
        · exact ⟨rfl, _, _, .inr ⟨rfl, rfl⟩, heq, hle, htie⟩
      · exact Fmt.floatCmp_of_not_nan hF z c un hxn hyn
  case floats =>
    intro dst G src F r sat x hd hs hx
    have hG := isFloat_of_mem hd
    have hF := isFloat_of_mem hs
    exact ⟨convert_of_fin hG hF r sat hx, fun n => convert_of_inf hG hF r sat hx, fun he => convert_e2m1_of_nan hG hF r sat he hx⟩
  case toInt =>
    intro dst sg n src F r sat x hd hs hx
    have hI := isInt_of_mem hd
    have hF := isFloat_of_mem hs
    have hlo : intLo dst = lo sg n := intLo_eq hI
    have hhi : intHi dst = hi sg n := intHi_eq hI
    have hcode : ∀ t, intCode dst t = enc n t := intCode_eq hI
    refine ⟨fun h => ?_, fun m h => ?_, convert_to_int_of_nan hI hF r sat hx⟩
    · simpa only [hlo, hhi, hcode] using convert_to_int_of_fin hI hF r sat hx h
    · simpa only [hlo, hhi, hcode] using convert_to_int_of_inf hI hF r sat hx h
  case ofInt =>
    intro dst G src sg n r sat x hd hs
    have h := convert_of_int (isInt_of_mem hs) (isFloat_of_mem hd) r sat x
    rwa [intOf_eq (isInt_of_mem hs)] at h
  case ints =>
    intro dst sg n src sg' n' r sat x hd hs t
    have hI := isInt_of_mem hd
    have hlo : intLo dst = lo sg n := intLo_eq hI
    have hhi : intHi dst = hi sg n := intHi_eq hI
    have hcode : ∀ t, intCode dst t = enc n t := intCode_eq hI
    have hof : ∀ x, intOf dst x = int sg n x := intOf_eq hI
    have ht : intOf src x = t := intOf_eq (isInt_of_mem hs) x
    rw [convert_between_ints (isInt_of_mem hs) hI, hlo, hhi, hcode, hof, ht]
  case qscl =>
    intro sat a b ha v S
    exact ⟨qsclOf_band sat b ha, qsclOf_of_not_scale sat b ha, qsclOf_of_scale_zero sat b ha, qsclOf_of_large sat b ha, qsclOf_block sat b ha⟩
  case qpk4 =>
    intro xs b hlen sc S s
    refine ⟨qpk4Of_of_bad xs, fun hsc hS => ⟨xs.map (packElem sc (b.toNat / 2 ^ 16)), ?_, qpk4Of_of_scales xs hsc hS, fun j x e hx he => ?_⟩⟩
    · rw [List.length_map, hlen]
    · rw [List.getElem?_map, hx, Option.map_some, Option.some.injEq] at he
      subst he
      have hfin : (Fmt.e3m5.decode sc).isFin = true := isFin_decode_e3m5 (by omega)
      refine ⟨packElem_of_scale_zero hfin hS, fun hs0 hS0 => ?_⟩
      cases hX : Fmt.f32.decode x.toNat with
      | nan sig => exact packElem_of_nan hfin hS hs0 hS0 (by rw [hX]; rfl)
      | inf n => exact packElem_of_inf hfin hS hs0 hS0 hX
      | fin n m k => exact delivers_packElem hfin hS hs0 hS0 hX
  case qxp4 =>
    intro r e sc S _ hsc E s B
    exact ⟨delivers_qxp4 r e hsc, fun n => qxp4Of_of_inf r e hsc⟩

end Sys2Proof.Machine
end

section
/-!
Words whose whole effect is the results that they queue, one lemma for each shape: `o` is the meaning that `exec` gives the word (`he`), of
that shape (`ho`), and `g` the results as a statement writes them.
-/
namespace Sys2Proof.Machine

variable {i : Instr} {s t : State} {c : Ctx}

theorem exec_perLane (o : Out) (h : Issues i s c t) {d : BitVec 10} {f : Warp → Nat → Word} {g : Nat → Word} (he : exec i s = o)
    (ho : o = perLane i s d f) (hf : ∀ l, f c.w l = g l) : exec i s = .next (c.gives t (c.each d g)) := by
  rw [he, ho, perLane_gives h, funext hf]
theorem exec_perLane64 (o : Out) (h : Issues i s c t) {d : BitVec 10} {f : Warp → Nat → DWord} {g : Nat → DWord} (he : exec i s = o)
    (ho : o = perLane64 i s d f) (hf : ∀ l, f c.w l = g l) : exec i s = .next (c.gives t (c.each64 d g)) := by
  rw [he, ho, perLane64_gives h, funext hf]
theorem exec_scalarOp (o : Out) (h : Issues i s c t) {d : BitVec 7} {f : Warp → Word} {x : Word} (he : exec i s = o)
    (ho : o = scalarOp i s d f) (hf : f c.w = x) : exec i s = .next (c.gives t [(.s d.toNat, x)]) := by
  rw [he, ho, scalarOp_gives h, hf]
/-- A word of a shape of its own. -/
theorem exec_after (o : Out) (h : Issues i s c t) {body : Ctx → State → Res} {u : State} (he : exec i s = o) (ho : o = issue i s body)
    (hb : body c t = .ok u) : exec i s = .next (c.after u) := by
  rw [he, ho, issue_ok h hb]
theorem exec_gives (o : Out) (h : Issues i s c t) {body : Ctx → State → Res} {ws ws' : List (RegId × Word)} (he : exec i s = o)
    (ho : o = issue i s body) (hb : body c t = .ok (c.fixed t ws)) (hw : ws = ws') : exec i s = .next (c.gives t ws') := by
  rw [exec_after o h he ho hb, hw, Ctx.gives]

end Sys2Proof.Machine
end

section
/-!
Integer arithmetic, moves and scalar instructions (Tables 7-1, 7-3 and 7-4).
-/
namespace Sys2Proof.Machine

variable {s t : State} {c : Ctx}

/-- The four products of IDOT4 are added one after the other. -/
theorem dot4_eq (sa sb : Sign) (sat : Bool) (a b e : Word) : dot4 sa sb sat a b e =
    let x : Int := e.toInt + byteInt sa a 0 * byteInt sb b 0 + byteInt sa a 1 * byteInt sb b 1 + byteInt sa a 2 * byteInt sb b 2
      + byteInt sa a 3 * byteInt sb b 3
    BitVec.ofInt 32 (if sat then max (-2 ^ 31) (min (2 ^ 31 - 1) x) else x) := by
  cases sat <;> rfl

/-- Settles O13: each word computes the operation of its row on the registers of a lane. -/
theorem integerArithmetic : Obligations.IntegerArithmetic := by
  intro h sg sb sat d a b e imm s c t
  exact ⟨fun hi => exec_perLane (execIadd h d a b s) hi rfl rfl fun _ => rfl,
    fun hi => exec_perLane (execIsub h d a b s) hi rfl rfl fun _ => rfl,
    fun hi => exec_perLane (execIadd3 h d a b e s) hi rfl rfl fun _ => rfl,
    fun hi => exec_perLane (execImul h d a b s) hi rfl rfl fun _ => rfl,
    fun hi => exec_perLane (execImulh h sg d a b s) hi rfl rfl fun _ => rfl,
    fun hi => exec_perLane (execImad h d a b e s) hi rfl rfl fun _ => rfl,
    fun hi => exec_perLane64 (execImadw h sg d a b e s) hi rfl rfl fun _ => rfl,
    fun hi => exec_perLane (execImin h sg d a b s) hi rfl rfl fun _ => rfl,
    fun hi => exec_perLane (execImax h sg d a b s) hi rfl rfl fun _ => rfl,
    fun hi => exec_perLane (execIabs h d a s) hi rfl rfl fun _ => iabsOf_eq _,
    fun hi => exec_perLane (execIneg h d a s) hi rfl rfl fun _ => (BitVec.zero_sub _).symm,
    fun hi => exec_perLane (execIshl h d a b s) hi rfl rfl fun _ => rfl,
    fun hi => exec_perLane (execIshr h d a b s) hi rfl rfl fun _ => rfl,
    fun hi => exec_perLane (execIshra h d a b s) hi rfl rfl fun _ => rfl,
    fun hi => exec_perLane (execIrot h d a b s) hi rfl rfl fun _ => rfl,
    fun hi => exec_perLane (execIdot4 h sg sb sat d a b e s) hi rfl rfl fun _ => dot4_eq ..,
    fun hi => exec_perLane (execIaddi h d a imm s) hi rfl rfl fun _ => rfl,
    fun hi => exec_perLane (execImuli h d a imm s) hi rfl rfl fun _ => rfl⟩

/-- MOVH and SMOVH put an immediate above the low half of a register. -/
theorem append_setWidth (k : BitVec 16) (x : Word) : k ++ x.setWidth 16 = (k.setWidth 32 <<< 16) ||| (x &&& 0xFFFF) := by
  have hx : x.toNat &&& 0xFFFF = x.toNat % 2 ^ 16 := Nat.and_two_pow_sub_one_eq_mod _ 16
  have hk : k.toNat <<< 16 % 2 ^ 32 = k.toNat <<< 16 := Nat.mod_eq_of_lt (by rw [Nat.shiftLeft_eq]; have := k.isLt; omega)
  apply BitVec.eq_of_toNat_eq
  simp only [BitVec.toNat_append, BitVec.toNat_or, BitVec.toNat_shiftLeft, BitVec.toNat_setWidth, BitVec.toNat_and,
    Nat.mod_eq_of_lt (show k.toNat < 2 ^ (16 + 16) by have := k.isLt; omega)]
  rw [hk]
  exact congrArg _ hx.symm

theorem Mask.lanes_eq_nil {m : Mask} : m.lanes 64 = [] ↔ m = 0 := by
  refine ⟨fun h => BitVec.eq_of_getLsbD_eq fun l hl => ?_, fun h => h ▸ Mask.lanes_zero 64⟩
  simpa using List.filter_eq_nil_iff.1 h l (List.mem_range.2 hl)

/-- SRD writes its register, or pair, once, where the run has an active lane. -/
theorem execSrd_eq (h : Hdr) (sd : BitVec 7) (x : BitVec 6) (hi : Issues (.srd h sd x) s c t) : execSrd h sd x s
      = .next (if c.act = 0 then c.after t
          else c.gives t ((.s sd.toNat, loWord (special t c.blk c.ref.num c.w x.toNat 0))
            :: if specialWide x then [(.s (sd.toNat + 1), hiWord (special t c.blk c.ref.num c.w x.toNat 0))] else [])) := by
  refine (issue_ok hi rfl).trans ?_
  simp only [beq_iff_eq, apply_ite c.after, Ctx.gives]

/-- VTOS reads the lowest participant, where there is one. -/
theorem execVtos_eq (h : Hdr) (sd : BitVec 7) (a : BitVec 10) (hi : Issues (.vtos h sd a) s c t) :
    execVtos h sd a s = .next (if c.act = 0 then c.after t else c.gives t [(.s sd.toNat, c.v ((c.act.lanes 64).headD 0) a)]) := by
  refine (issue_ok hi rfl).trans ?_
  cases hl : c.live with
  | nil => rw [if_pos (Mask.lanes_eq_nil.1 hl)]
  | cons l ls =>
    have h0 : c.act ≠ 0 := fun h0 => List.cons_ne_nil l ls (hl.symm.trans (Mask.lanes_eq_nil.2 h0))
    rw [if_neg h0, ← Ctx.live, hl]
    rfl

/-- Settles O18: MOVH joins two halves; SRD and VTOS ask whether the run has an active lane. -/
theorem moves : Obligations.Moves := by
  intro h d a imm k sr sd x s c t
  exact ⟨fun hi => exec_perLane (execMov h d a s) hi rfl rfl fun _ => rfl,
    fun hi => exec_perLane (execMovi h d imm s) hi rfl rfl fun _ => rfl,
    fun hi => exec_perLane (execMovh h d k s) hi rfl rfl fun _ => append_setWidth ..,
    fun hi => exec_perLane (execMovs h d sr s) hi rfl rfl fun _ => rfl,
    fun hi => exec_gives (execVrd h d x s) hi rfl rfl rfl rfl,
    fun hi => execSrd_eq h sd x hi,
    fun hi => execVtos_eq h sd a hi⟩

/-- Settles O20: each word computes the operation of its row on scalar registers, whatever lanes are active. -/
theorem scalarInstructions : Obligations.ScalarInstructions := by
  intro h d a b e tt imm k s c t
  exact ⟨fun hi => exec_scalarOp (execSadd h d a b s) hi rfl rfl rfl,
    fun hi => exec_scalarOp (execSsub h d a b s) hi rfl rfl rfl,
    fun hi => exec_scalarOp (execSmul h d a b s) hi rfl rfl rfl,
    fun hi => exec_scalarOp (execSlop3 h d a b e tt s) hi rfl rfl rfl,
    fun hi => exec_scalarOp (execSshl h d a b s) hi rfl rfl rfl,
    fun hi => exec_scalarOp (execSshr h .s d a b s) hi rfl rfl rfl,
    fun hi => exec_scalarOp (execSshr h .u d a b s) hi rfl rfl rfl,
    fun hi => exec_scalarOp (execSmovi h d imm s) hi rfl rfl rfl,
    fun hi => exec_scalarOp (execSmovh h d k s) hi rfl rfl (append_setWidth ..)⟩

/-- Settles O21: the one compare is combined with the predicate of each lane of the warp. -/
theorem scalarCompareWritesEveryLane : Obligations.ScalarCompareWritesEveryLane := by
  intro h cmp sg cb pd pc a b s c t hi x y r
  refine exec_gives (execSsetp h cmp sg cb pd a b pc s) hi rfl rfl rfl (List.map_congr_left fun l _ => ?_)
  rw [intCmp_eq, combine_eq]
  rfl

end Sys2Proof.Machine
end

section
/-!
Floating-point words that do not trap FPX: compares, results and conversions (Tables 7-5, 7-7 and 7-8).
-/
namespace Sys2Proof.Machine

variable {i : Instr} {s t : State} {c : Ctx}

theorem exec_write32 (o : Out) {d : BitVec 10} {f : Warp → Nat → Nat × Flags} {g : Nat → Nat × Flags} (h : Issues i s c t)
    (hx : c.NoFpx t fun l => (g l).2) (he : exec i s = o) (ho : o = perLaneF i s fun w l => write32 d.toNat l (f w l)) (hf : ∀ l, f c.w l = g l) :
    exec i s = .next (c.gives t (c.each d fun l => BitVec.ofNat 32 (g l).1)) := by
  obtain rfl : f c.w = g := funext hf
  rw [he, ho, perLaneF_write32 h d f hx]
theorem exec_write64 (o : Out) {d : BitVec 10} {f : Warp → Nat → Nat × Flags} {g : Nat → Nat × Flags} (h : Issues i s c t)
    (hx : c.NoFpx t fun l => (g l).2) (he : exec i s = o) (ho : o = perLaneF i s fun w l => write64 d.toNat l (f w l)) (hf : ∀ l, f c.w l = g l) :
    exec i s = .next (c.gives t (c.each64 d fun l => BitVec.ofNat 64 (g l).1)) := by
  obtain rfl : f c.w = g := funext hf
  rw [he, ho, perLaneF_write64 h d f hx]
theorem exec_writeP (o : Out) {pd : Nat} {f : Warp → Nat → Bool × Flags} {k : Warp → Nat → Bool → Bool} {g : Nat → Bool × Flags} {p : Nat → Bool}
    (h : Issues i s c t) (hx : c.NoFpx t fun l => (g l).2) (he : exec i s = o) (ho : o = perLaneF i s fun w l => writeP pd l (f w l) (k w l))
    (hf : ∀ l, f c.w l = g l) (hp : ∀ l, k c.w l (g l).1 = p l) : exec i s = .next (c.gives t (c.eachP pd p)) := by
  obtain rfl : f c.w = g := funext hf
  rw [he, ho, perLaneF_writeP h pd f k hx, ← funext hp]
/-- A word whose lanes write several registers. -/
theorem exec_perLaneF (o : Out) {f : Warp → Nat → List (RegId × Word) × Flags} {ws : Nat → List (RegId × Word)} {g : Nat → Flags}
    (h : Issues i s c t) (hx : c.NoFpx t g) (he : exec i s = o) (ho : o = perLaneF i s f) (hf : ∀ l, f c.w l = (ws l, g l)) :
    exec i s = .next (c.gives t (c.lanes.flatMap ws)) := by
  have hws : (fun l => (f c.w l).1) = ws := funext fun l => congrArg Prod.fst (hf l)
  have hg : (fun l => (f c.w l).2) = g := funext fun l => congrArg Prod.snd (hf l)
  rw [he, ho, perLaneF_gives h f (fpxTrap_none (hg ▸ hx)), hws]

/-- Settles O22: each word computes the operation of its row on the codes of a lane, a packed one on both halves. -/
theorem floatResults : Obligations.FloatResults := by
  intro h r z bf d a b e s c t
  exact ⟨fun hi hx => exec_write32 (execFadd h r z d a b s) hi hx rfl rfl fun _ => rfl,
    fun hi hx => exec_write32 (execFsub h r z d a b s) hi hx rfl rfl fun _ => rfl,
    fun hi hx => exec_write32 (execFmul h r z d a b s) hi hx rfl rfl fun _ => rfl,
    fun hi hx => exec_write32 (execFfma h r z d a b e s) hi hx rfl rfl fun _ => rfl,
    fun hi hx => exec_write32 (execFmin h z d a b s) hi hx rfl rfl fun _ => rfl,
    fun hi hx => exec_write32 (execFmax h z d a b s) hi hx rfl rfl fun _ => rfl,
    fun hi hx => exec_write32 (execFrnd h r z d a s) hi hx rfl rfl fun _ => rfl,
    fun hi hx => exec_write32 (execFscale h r z d a b s) hi hx rfl rfl fun _ => rfl,
    fun hi hx => exec_write64 (execDadd h r z d a b s) hi hx rfl rfl fun _ => rfl,
    fun hi hx => exec_write64 (execDsub h r z d a b s) hi hx rfl rfl fun _ => rfl,
    fun hi hx => exec_write64 (execDmul h r z d a b s) hi hx rfl rfl fun _ => rfl,
    fun hi hx => exec_write64 (execDfma h r z d a b e s) hi hx rfl rfl fun _ => rfl,
    fun hi hx => exec_write64 (execDmin h z d a b s) hi hx rfl rfl fun _ => rfl,
    fun hi hx => exec_write64 (execDmax h z d a b s) hi hx rfl rfl fun _ => rfl,
    fun hi hx => exec_write64 (execDrnd h r z d a s) hi hx rfl rfl fun _ => rfl,
    fun hi hx => exec_write32 (execHadd2 h r z bf d a b s) hi hx rfl rfl fun _ => both_half ..,
    fun hi hx => exec_write32 (execHmul2 h r z bf d a b s) hi hx rfl rfl fun _ => both_half ..,
    fun hi hx => exec_write32 (execHfma2 h r z bf d a b e s) hi hx rfl rfl fun _ => both_half_ffma ..,
    fun hi hx => exec_write32 (execHmin2 h z bf d a b s) hi hx rfl rfl fun _ => both_half ..,
    fun hi hx => exec_write32 (execHmax2 h z bf d a b s) hi hx rfl rfl fun _ => both_half ..⟩

/-- The low half of a register is the code of a 16-bit format (R114). -/
theorem toNat_mod_eq_extractLsb' (x : Word) : x.toNat % 2 ^ 16 = (x.extractLsb' 0 16).toNat := by
  rw [BitVec.extractLsb'_toNat, Nat.shiftRight_zero]

/-- Settles O23: each compare is combined with the predicate of its lane; FCLASS reads the code of its format. -/
theorem floatCompares : Obligations.FloatCompares := by
  intro h cmp un cb z bf f pd pc n d a b s c t comb
  refine ⟨fun hi hx => exec_writeP (execFsetp h cmp un cb z pd a b pc s) hi hx rfl rfl (fun _ => rfl) fun _ => combine_eq ..,
    fun hi hx => exec_writeP (execDsetp h cmp un cb z pd a b pc s) hi hx rfl rfl (fun _ => rfl) fun _ => combine_eq ..,
    fun hi hx => exec_perLaneF (execHsetp2 h cmp un cb z bf n a b pc s) hi hx rfl rfl ?_,
    fun hi => exec_perLane (execFclass h f d a s) hi rfl rfl fun _ => ?_⟩
  · intro l
    simp only [half_eq, combine_eq, predWord, packed, Nat.mul_zero, Nat.mul_one]
    rfl
  · cases f with
    | f32 | f64 => rfl
    | f16 | bf16 => exact congrArg (fun n => BitVec.ofNat 32 (Fmt.classOf _ n)) (toNat_mod_eq_extractLsb' _)

/-- A conversion reads a pair where the source format has 64 bits, and writes one where the destination format has (R117). -/
theorem cvtLane_eq (dst src : CvtFmt) (r : Rnd) (sat : Bool) (d a : BitVec 10) (w : Warp) (l : Nat) : cvtLane dst src r sat d a w l =
    (if dst.wide then write64 d.toNat l else write32 d.toNat l)
      (convert dst src r sat (if src.wide then (w.rv64 l a.toNat).toNat else (w.rv l a.toNat).toNat)) := by
  simp only [cvtLane, cvtBits_eq, n64, n32]
  split <;> rfl

theorem exec_cvtLane (o : Out) {dst src : CvtFmt} {r : Rnd} {sat : Bool} {d a : BitVec 10} {y : Nat → Nat × Flags} (h : Issues i s c t)
    (hx : c.NoFpx t fun l => (y l).2) (he : exec i s = o) (ho : o = perLaneF i s (cvtLane dst src r sat d a))
    (hy : ∀ l, convert dst src r sat (if src.wide then (c.v64 l a).toNat else (c.v l a).toNat) = y l) :
    exec i s = .next (c.gives t (if dst.wide then c.each64 d fun l => BitVec.ofNat 64 (y l).1 else c.each d fun l => BitVec.ofNat 32 (y l).1)) := by
  rw [funext₂ (cvtLane_eq dst src r sat d a)] at ho
  cases hw : dst.wide with
  | true =>
    rw [hw] at ho
    exact exec_write64 o h hx he ho hy
  | false =>
    rw [hw] at ho
    exact exec_write32 o h hx he ho hy

/-- The elements of QXP4 are the eight digits of its first register; block scale and band scale are fields of the second. -/
theorem qxp4Of_fields (r : Rnd) (a b : Word) (j : Nat) : qxp4Of r (a.toNat / 2 ^ (4 * j) % 16) (b.toNat % 256) (b.toNat / 2 ^ 16)
    = qxp4Of r (a.extractLsb' (4 * j) 4).toNat (b.extractLsb' 0 8).toNat (b.extractLsb' 16 16).toNat := by
  have hb : b.toNat / 2 ^ 16 % 2 ^ 16 = b.toNat / 2 ^ 16 := Nat.mod_eq_of_lt (by have := b.isLt; omega)
  simp only [BitVec.extractLsb'_toNat, Nat.shiftRight_eq_div_pow, hb, pow_zero, Nat.div_one]

theorem zero_or_flags (fl : Flags) : 0 ||| fl = fl := BitVec.zero_or

/-- Settles O24: a conversion writes what `convert` gives; the elements of QXP4 are read from fields. -/
theorem conversions : Obligations.Conversions := by
  intro h dst src r sat band d a b s c t y w
  refine ⟨fun hi hx => exec_cvtLane (execCvt h dst src r sat d a s) hi hx rfl rfl fun _ => rfl,
    fun hi hx => exec_cvtLane (execCvti h dst src r sat d a s) hi hx rfl rfl fun _ => rfl,
    fun hi hx => exec_write32 (execQscl h band sat d a b s) hi hx rfl rfl fun _ => rfl,
    fun hi hx => exec_write32 (execQpk4 h d a b s) hi hx rfl rfl fun _ => rfl,
    fun hi hx => exec_perLaneF (execQxp4 h r d a b s) hi hx rfl rfl fun l => Prod.ext ?_ ?_⟩
  · simp only [n32, qxp4Of_fields, List.map_map]
    rfl
  · refine (flags_qxp4 ..).trans ?_
    simp only [List.range, List.range.loop, List.foldl, zero_or_flags]
    rfl

end Sys2Proof.Machine
end

section
/-!
The bytes of PRMT (R104), and the class bits of FCLASS (R114).
-/
namespace Sys2Proof.Machine

/-! ### PRMT -/

theorem prmtByte_lt (a b c : Word) (i : Nat) : prmtByte a b c i < 2 ^ 8 := by
  unfold prmtByte
  dsimp only
  repeat' split
  all_goals omega

/-- Byte `i` of PRMT's result is the one that is built for it. -/
theorem extractLsb'_prmtOf (a b c : Word) {i : Nat} (hi : i < 4) :
    (prmtOf a b c).extractLsb' (8 * i) 8 = BitVec.ofNat 8 (prmtByte a b c i) := by
  have h0 := prmtByte_lt a b c 0
  have h1 := prmtByte_lt a b c 1
  have h2 := prmtByte_lt a b c 2
  have h3 := prmtByte_lt a b c 3
  apply BitVec.eq_of_toNat_eq
  rw [prmtOf, BitVec.extractLsb'_toNat, Nat.shiftRight_eq_div_pow, BitVec.toNat_ofNat, BitVec.toNat_ofNat]
  interval_cases i <;> omega

/-- A control byte `k` selects the source byte `y` of the eight, and a fill mode. -/
theorem prmtByte_eq {a b c : Word} {i : Nat} {k y : BitVec 8} (hk : k.toNat = c.toNat / 2 ^ (8 * i) % 256)
    (hy : y.toNat = (a.toNat + 2 ^ 32 * b.toNat) / 2 ^ (8 * (k.extractLsb' 0 3).toNat) % 256) :
    prmtByte a b c i = if (k.extractLsb' 3 2).toNat = 0 then y.toNat else if (k.extractLsb' 3 2).toNat = 1 then 0
      else if (k.extractLsb' 3 2).toNat = 2 then (if y.msb then 255 else 0) else 255 := by
  have hsrc : (k.extractLsb' 0 3).toNat = k.toNat % 8 := by rw [BitVec.extractLsb'_toNat]; rfl
  have hmode : (k.extractLsb' 3 2).toNat = k.toNat / 8 % 4 := by rw [BitVec.extractLsb'_toNat, Nat.shiftRight_eq_div_pow]
  rw [hsrc] at hy
  simp only [prmtByte, ← hk, ← hy, hmode, BitVec.msb_eq_decide, beq_iff_eq, decide_eq_true_eq]

/-- Settles O16: each byte of the result is the one that its control byte asks for. -/
theorem permuteBytes : Obligations.PermuteBytes := by
  intro a b c i hi k x y
  have hk : k.toNat = c.toNat / 2 ^ (8 * i) % 256 := by
    rw [BitVec.extractLsb'_toNat, Nat.shiftRight_eq_div_pow]
  have hx : x.toNat = a.toNat + 2 ^ 32 * b.toNat := by
    rw [BitVec.toNat_append, ← Nat.shiftLeft_add_eq_or_of_lt a.isLt, Nat.shiftLeft_eq, Nat.add_comm, Nat.mul_comm]
  have hy : y.toNat = (a.toNat + 2 ^ 32 * b.toNat) / 2 ^ (8 * (k.extractLsb' 0 3).toNat) % 256 := by
    rw [BitVec.extractLsb'_toNat, Nat.shiftRight_eq_div_pow, hx]
  rw [extractLsb'_prmtOf a b c hi, prmtByte_eq hk hy]
  match (k.extractLsb' 3 2).toNat with
  | 0 => exact (BitVec.ofNat_toNat 8 y).trans (BitVec.setWidth_eq y)
  | 1 => rfl
  | 2 => cases y.msb <;> rfl
  | n + 3 => rfl

/-! ### FCLASS -/

/-- A code is a NaN, an infinity, or a finite number that is zero, subnormal or normal; each has a bit of its own. -/
theorem classOf_eq_two_pow (F : Fmt) (x : Nat) : ∃ k, k < 10 ∧ F.classOf x = 2 ^ k := by
  unfold Fmt.classOf
  match F.decode x with
  | .nan true => exact ⟨0, by decide, rfl⟩
  | .nan false => exact ⟨1, by decide, rfl⟩
  | .inf true => exact ⟨2, by decide, rfl⟩
  | .inf false => exact ⟨9, by decide, rfl⟩
  | .fin n m _ =>
    by_cases h0 : m = 0
    · cases n with
      | true => exact ⟨5, by decide, by simp [h0]⟩
      | false => exact ⟨6, by decide, by simp [h0]⟩
    · by_cases h1 : m < 2 ^ F.frac
      · cases n with
        | true => exact ⟨4, by decide, by simp [h0, h1]⟩
        | false => exact ⟨7, by decide, by simp [h0, h1]⟩
      · cases n with
        | true => exact ⟨3, by decide, by simp [h0, h1]⟩
        | false => exact ⟨8, by decide, by simp [h0, h1]⟩

/-- Settles O29: in every format. -/
theorem classesAreExclusive : Obligations.ClassesAreExclusive := fun F x _ => classOf_eq_two_pow F x

end Sys2Proof.Machine
end

section
/-!
Special-function queues and cross-lane words (R121 to R130).
-/
namespace Sys2Proof.Machine

/-- Settles O30: the queues change in the state before the step ends. -/
theorem specialFunctionQueues : Obligations.SpecialFunctionQueues := by
  intro h fn z q d a s c t k
  exact ⟨fun hi => exec_after (execSfq h fn z q a s) hi rfl rfl rfl,
    fun hi => exec_after (execQpop h d q s) hi rfl rfl rfl,
    fun hi => exec_perLane (execQlen h d q s) hi rfl rfl fun _ => rfl⟩

/-! ### Results of a lane -/

theorem loWord_eq_extractLsb' (x : DWord) : loWord x = x.extractLsb' 0 32 := by
  rw [loWord, BitVec.setWidth_eq_extractLsb' (by decide)]
theorem hiWord_eq_extractLsb' (x : DWord) : hiWord x = x.extractLsb' 32 32 := by
  apply BitVec.eq_of_toNat_eq
  rw [hiWord, BitVec.toNat_setWidth, BitVec.toNat_ushiftRight, BitVec.extractLsb'_toNat]
theorem writeMask_eq (wide : Bool) (d l : Nat) (m : Mask) :
    writeMask wide d l m = (.v l d, m.extractLsb' 0 32) :: if wide then [(.v l (d + 1), m.extractLsb' 32 32)] else [] := by
  rw [writeMask, loWord_eq_extractLsb', hiWord_eq_extractLsb']

/-- A lane that holds no thread reads as 0, and is not live (R126). -/
theorem laneRead_eq (w64 : Bool) (w : Warp) (src r : Nat) : laneRead w64 w src r =
    (if (w.live ||| w.helpers).getLsbD src = true then readWide w64 w src r else 0,
      (w.live ||| w.helpers).getLsbD src && w.live.getLsbD src) := by
  unfold laneRead Mask.has
  cases (w.live ||| w.helpers).getLsbD src <;> rfl

/-! ### Folds -/

/-- A further value takes one step. -/
theorem redFold_append (op : RedOp) {xs : List Word} (hxs : xs ≠ []) (y : Word) : redFold op (xs ++ [y]) = redStep op (redFold op xs) y := by
  cases xs with
  | nil => exact absurd rfl hxs
  | cons x rest => simp only [redFold, List.cons_append, List.foldl_append, List.foldl_cons, List.foldl_nil]

/-- The lesser of two integers, the first where they are equal. -/
theorem iminOf_eq (sg : Sign) (x y : Word) : iminOf sg x y = if extInt sg y < extInt sg x then y else x := by
  simp only [iminOf, ← not_lt, ite_not]
theorem imaxOf_eq (sg : Sign) (x y : Word) : imaxOf sg x y = if extInt sg x < extInt sg y then y else x := by
  simp only [imaxOf, ← not_lt, ite_not]

theorem iminOf_unsigned (x y : Word) : iminOf .u x y = if y.toNat < x.toNat then y else x := by
  simp only [iminOf_eq, extInt, Int.ofNat_lt]
theorem imaxOf_unsigned (x y : Word) : imaxOf .u x y = if x.toNat < y.toNat then y else x := by
  simp only [imaxOf_eq, extInt, Int.ofNat_lt]

/-- A fold of one value is that value, a NaN in its canonical encoding in the floating-point operations. -/
theorem redFirst_eq (op : RedOp) (x : Word) :
    redFirst op x = if op ∈ [RedOp.fadd, .fmin, .fmax] ∧ (Fmt.f32.decode x.toNat).isNan = true then 0x7FC00000 else x := by
  cases op with
  | fadd | fmin | fmax =>
    simp only [redFirst, Bool.true_and, List.mem_cons, reduceCtorEq, true_or, or_true, true_and, false_or]
    rfl
  | add | mins | maxs | minun | maxun | and | or | xor =>
    simp only [redFirst, Bool.false_and, Bool.false_eq_true, List.mem_cons, List.not_mem_nil, reduceCtorEq, or_self, false_and, if_false]

/-! ### Ranking -/

namespace Num

theorem Le.trans {a b d : Num} (hab : a.Le b) (hbd : b.Le d) : a.Le d := by
  cases a with
  | nan _ => exact hab.elim
  | inf n =>
    obtain hn | rfl := hab
    · exact .inl hn
    · obtain hf | rfl := hbd
      · cases hf
      · exact .inr rfl
  | fin n m e =>
    cases b with
    | nan _ => exact hab.elim
    | inf k =>
      obtain rfl : k = false := hab
      obtain hf | rfl := hbd
      · cases hf
      · rfl
    | fin k p g =>
      cases d with
      | nan _ => exact hbd.elim
      | inf j => exact hbd
      | fin j q f => exact LE.le.trans (α := ℚ) hab hbd

end Num

/-- A value ranks above another where the other does not rank above it, or equal to it. -/
theorem ranksAbove_iff {x y : Word} : ranksAbove x y = true ↔ ¬ RanksFrom y x := by
  unfold ranksAbove RanksFrom
  dsimp only
  cases hx : (Fmt.f32.decode x.toNat).isNan with
  | true => simp
  | false =>
    cases hy : (Fmt.f32.decode y.toNat).isNan with
    | true => simp
    | false => simpa using Num.lt_iff_not_le hy hx
theorem RanksFrom.trans {x y z : Word} (hxy : RanksFrom x y) (hyz : RanksFrom y z) : RanksFrom x z := by
  obtain hz | ⟨hy, hzy⟩ := hyz
  · exact .inl hz
  · obtain hy' | ⟨hx, hyx⟩ := hxy
    · rw [hy] at hy'
      cases hy'
    · exact .inr ⟨hx, hzy.trans hyx⟩
theorem RanksFrom.total (x y : Word) : RanksFrom x y ∨ RanksFrom y x := by
  unfold RanksFrom
  dsimp only
  cases hx : (Fmt.f32.decode x.toNat).isNan with
  | true => exact .inr (.inl rfl)
  | false =>
    cases hy : (Fmt.f32.decode y.toNat).isNan with
    | true => exact .inl (.inl rfl)
    | false => exact (Num.le_total hy hx).imp (fun h => .inr ⟨rfl, h⟩) fun h => .inr ⟨rfl, h⟩

/-- A pair stands before another where it ranks above it, or equal to it and in a lower lane (R130). -/
def StandsBefore (p q : Word × Nat) : Prop := RanksFrom p.1 q.1 ∧ (RanksFrom q.1 p.1 → p.2 < q.2)

theorem insertRank_perm (p : Word × Nat) (L : List (Word × Nat)) : (insertRank p L).Perm (p :: L) := by
  induction L with
  | nil => exact .refl _
  | cons q L ih =>
    unfold insertRank
    split
    · exact .refl _
    · exact (ih.cons q).trans (.swap p q L)

/-- A pair of a higher lane takes its place in a ranked list. -/
theorem pairwise_insertRank {p : Word × Nat} {L : List (Word × Nat)} (hL : L.Pairwise StandsBefore) (hp : ∀ q ∈ L, q.2 < p.2) :
    (insertRank p L).Pairwise StandsBefore := by
  induction L with
  | nil => exact List.pairwise_singleton _ _
  | cons q L ih =>
    obtain ⟨hq, hL⟩ := List.pairwise_cons.1 hL
    unfold insertRank
    split
    · next habove =>
      -- `p` ranks above `q`, which ranks from all the others
      have hnot : ¬ RanksFrom q.1 p.1 := ranksAbove_iff.1 habove
      have hpq : RanksFrom p.1 q.1 := (RanksFrom.total p.1 q.1).resolve_right hnot
      refine List.pairwise_cons.2 ⟨fun r hr => ?_, List.pairwise_cons.2 ⟨hq, hL⟩⟩
      obtain rfl | hr := List.mem_cons.1 hr
      · exact ⟨hpq, fun h => absurd h hnot⟩
      · exact ⟨hpq.trans (hq r hr).1, fun h => absurd ((hq r hr).1.trans h) hnot⟩
    · next hnot =>
      have hqp : RanksFrom q.1 p.1 := not_not.1 fun h => hnot (ranksAbove_iff.2 h)
      refine List.pairwise_cons.2 ⟨fun r hr => ?_, ih hL fun r hr => hp r (List.mem_cons_of_mem _ hr)⟩
      obtain rfl | hr := List.mem_cons.1 ((insertRank_perm p L).mem_iff.1 hr)
      · exact ⟨hqp, fun _ => hp q List.mem_cons_self⟩
      · exact hq r hr

theorem foldl_insertRank_perm (xs acc : List (Word × Nat)) : (xs.foldl (fun acc p => insertRank p acc) acc).Perm (acc ++ xs) := by
  induction xs generalizing acc with
  | nil => rw [List.append_nil, List.foldl_nil]
  | cons p xs ih => exact (ih _).trans (((insertRank_perm p acc).append_right xs).trans List.perm_middle.symm)

/-- Pairs that come in ascending lane order are ranked one after the other. -/
theorem pairwise_foldl_insertRank {xs acc : List (Word × Nat)} (hx : xs.Pairwise fun p q => p.2 < q.2) (ha : acc.Pairwise StandsBefore)
    (h : ∀ p ∈ acc, ∀ q ∈ xs, p.2 < q.2) : (xs.foldl (fun acc p => insertRank p acc) acc).Pairwise StandsBefore := by
  induction xs generalizing acc with
  | nil => exact ha
  | cons p xs ih =>
    obtain ⟨hp, hx⟩ := List.pairwise_cons.1 hx
    refine ih hx (pairwise_insertRank ha fun q hq => h q hq p List.mem_cons_self) fun q hq r hr => ?_
    obtain rfl | hq := List.mem_cons.1 ((insertRank_perm p acc).mem_iff.1 hq)
    · exact hp r hr
    · exact h q hq r (List.mem_cons_of_mem _ hr)

/-- Settles O31: each word's registers are those of the lane that it reads; the folds step value by value, and insertion keeps a list ranked. -/
theorem crossLaneResults : Obligations.CrossLaneResults := by
  intro h mode dir vk op w64 exc k d a b pd pa s c t wide mask rd wr held src nb ps
  have hmask : ∀ l m, writeMask wide d.toNat l m = mask l m := fun l m => writeMask_eq ..
  have hwr : ∀ l x, writeWide w64 d.toNat l x = wr l x := fun l x => writeMask_eq ..
  have hnb : ∀ l, qexLane dir l = nb l := fun l => congrArg (· + _) (Nat.mul_comm _ _)
  refine ⟨fun hi => exec_gives (execShfl h mode w64 d a b pd s) hi rfl rfl rfl ?_,
    fun hi => exec_gives (execQex h dir w64 d a s) hi rfl rfl rfl ?_,
    fun hi => exec_gives (execVote h vk pd pa s) hi rfl rfl rfl ?_,
    fun hi => exec_gives (execBallot h d pa s) hi rfl rfl rfl ?_,
    fun hi => exec_gives (execMatchv h w64 d a s) hi rfl rfl rfl ?_,
    fun hi => exec_gives (execRedux h op d a s) hi rfl rfl rfl rfl,
    fun hi => exec_gives (execScan h op exc d a s) hi rfl rfl rfl rfl,
    fun hi => exec_gives (execTopk h k d a s) hi rfl rfl rfl rfl,
    fun hi => exec_gives (execElect h pd s) hi rfl rfl rfl rfl,
    fun hi => exec_gives (execActm h d s) hi rfl rfl rfl ?_,
    by cases op <;> rfl, redFirst_eq op, fun xs y hxs => (redFold_append op hxs y).trans ?_,
    fun xs => ⟨foldl_insertRank_perm xs [], fun hx => pairwise_foldl_insertRank hx .nil fun _ hp => absurd hp List.not_mem_nil⟩⟩
  · simp only [hwr, laneRead_eq]
    rfl
  · simp only [hwr, laneRead_eq, hnb]
    rfl
  · cases vk <;> rfl
  · exact List.flatMap_congr fun l _ => hmask ..
  · exact List.flatMap_congr fun l _ => hmask ..
  · exact List.flatMap_congr fun l _ => hmask ..
  · cases op with
    | mins => exact iminOf_eq .s _ y
    | maxs => exact imaxOf_eq .s _ y
    | minun => exact iminOf_unsigned _ y
    | maxun => exact imaxOf_unsigned _ y
    | add | and | or | xor | fadd | fmin | fmax => rfl

end Sys2Proof.Machine
end

section
/-!
Runs of bytes (Table 9-1, R139, R140): what an address reads once a run has been written to a memory, to shared memory, or to a lane's stack.
-/
namespace Sys2Proof.Machine

/-- A run of bytes is its first byte and the run from the next address on. -/
theorem dite_run_cons {α : Type} (x : α) (xs : List α) (a k : Nat) (old : α) :
    (if h : a + 1 ≤ k ∧ k - (a + 1) < xs.length then xs[k - (a + 1)]'h.2 else if k = a then x else old)
      = if h : a ≤ k ∧ k - a < (x :: xs).length then (x :: xs)[k - a]'h.2 else old := by
  by_cases hk : k = a
  · subst hk
    rw [dif_neg (by omega), if_pos rfl, dif_pos ⟨le_rfl, by simp⟩]
    simp
  · rw [if_neg hk]
    by_cases h : a + 1 ≤ k ∧ k - (a + 1) < xs.length
    · have hi : k - a = k - (a + 1) + 1 := by omega
      rw [dif_pos h, dif_pos ⟨by omega, by rw [hi]; simpa using h.2⟩]
      simp only [hi, List.getElem_cons_succ]
    · rw [dif_neg h, dif_neg (by rw [List.length_cons]; omega)]

theorem get_writeBytes (m : Memory) (a : Nat) (bs : List Byte) (k : Nat) :
    Sparse.get 0 (writeBytes m a bs) k = if h : a ≤ k ∧ k - a < bs.length then bs[k - a]'h.2 else Sparse.get 0 m k := by
  induction bs generalizing m a with
  | nil => simp [writeBytes]
  | cons b bs ih => rw [writeBytes, ih, Sparse.get_set, dite_run_cons]

theorem get_sharedPut (m : Sparse (Option Byte)) (a : Nat) (bs : List Byte) (k : Nat) :
    Sparse.get none (sharedPut m a bs) k = if h : a ≤ k ∧ k - a < bs.length then some (bs[k - a]'h.2) else Sparse.get none m k := by
  induction bs generalizing m a with
  | nil => simp [sharedPut]
  | cons b bs ih =>
    have := dite_run_cons (some b) (bs.map some) a k (Sparse.get none m k)
    simp only [List.length_cons, List.length_map, List.getElem_map, ← List.map_cons] at this
    rw [sharedPut, ih, Sparse.get_set, this]
    rfl

theorem Block.sharedByte_sharedWrite (b : Block) (a : Nat) (bs : List Byte) (k : Nat) :
    (b.sharedWrite a bs).sharedByte k = if h : a ≤ k ∧ k - a < bs.length then bs[k - a]'h.2 else b.sharedByte k := by
  simp only [Block.sharedByte, Block.sharedWrite, get_sharedPut]
  by_cases h : a ≤ k ∧ k - a < bs.length
  · simp only [dif_pos h]
  · simp only [dif_neg h]

theorem stackKey_eq_iff {l a j k : Nat} (ha : a < 2 ^ 20) (hk : k < 2 ^ 20) : stackKey j k = stackKey l a ↔ j = l ∧ k = a := by
  unfold stackKey
  omega
theorem Warp.stackByte_set (w : Warp) (l a : Nat) (x : Byte) (j k : Nat) (ha : a < 2 ^ 20) (hk : k < 2 ^ 20) :
    Warp.stackByte { w with stack := Sparse.set none w.stack (stackKey l a) (some x) } j k = if j = l ∧ k = a then x else w.stackByte j k := by
  have hget := Sparse.get_set (d := none) (m := w.stack) (stackKey l a) (stackKey j k) (some x)
  simp only [stackKey_eq_iff ha hk] at hget
  simp only [Warp.stackByte, hget]
  by_cases h : j = l ∧ k = a
  · simp only [if_pos h]
  · simp only [if_neg h]

theorem Warp.stackByte_stackWrite (w : Warp) (l a : Nat) (bs : List Byte) (j k : Nat) (ha : a + bs.length ≤ 2 ^ 20) (hk : k < 2 ^ 20) :
    (w.stackWrite l a bs).stackByte j k = if h : j = l ∧ a ≤ k ∧ k - a < bs.length then bs[k - a]'h.2.2 else w.stackByte j k := by
  induction bs generalizing w a with
  | nil => simp [Warp.stackWrite]
  | cons b bs ih =>
    rw [List.length_cons] at ha
    rw [Warp.stackWrite, ih _ _ (by omega), Warp.stackByte_set w l a b j k (by omega) hk]
    by_cases hj : j = l
    · simpa only [hj, true_and] using dite_run_cons b bs a k (w.stackByte l k)
    · simp only [hj, false_and, dif_neg not_false, if_false]

/-- Settles O12: each memory is written byte by byte, and the keys of two lanes' stacks do not meet. -/
theorem memoryReadAfterWrite : Obligations.MemoryReadAfterWrite :=
  ⟨get_writeBytes, Block.sharedByte_sharedWrite, Warp.stackByte_stackWrite⟩

end Sys2Proof.Machine
end

section
/-!
The checks of a memory word on its addresses (R135 to R137, R324) and of a transfer on its descriptor (R242): the trap that each one gives, and what
it needs for none.
-/
namespace Sys2Proof.Machine

variable {i : Instr} {s t : State} {c : Ctx}

/-! ### The lowest lane of which a condition holds -/

theorem find?_eq_some_lowest {ls : List Nat} {p : Nat → Bool} {l : Nat} (hs : ls.Pairwise (· < ·)) (hl : l ∈ ls) (hp : p l = true)
    (hmin : ∀ x ∈ ls, p x = true → l ≤ x) : ls.find? p = some l := by
  obtain ⟨xs, ys, rfl⟩ := List.append_of_mem hl
  refine List.find?_eq_some_iff_append.2 ⟨hp, xs, ys, rfl, fun x hx => ?_⟩
  have hlt : x < l := (List.pairwise_append.1 hs).2.2 x hx l List.mem_cons_self
  cases hpx : p x with
  | false => rfl
  | true => exact absurd (hmin x (List.mem_append_left _ hx) hpx) (by omega)
theorem Mask.pairwise_lanes (m : Mask) (n : Nat) : (m.lanes n).Pairwise (· < ·) := List.pairwise_lt_range.filter _
theorem Ctx.pairwise_live (c : Ctx) : c.live.Pairwise (· < ·) := Mask.pairwise_lanes _ _
theorem find?_append_cons {α : Type} {p : α → Bool} {xs ys : List α} {y : α} (hx : ∀ z ∈ xs, p z = false) (hy : p y = true) :
    (xs ++ y :: ys).find? p = some y := by
  rw [List.find?_append, List.find?_eq_none.2 fun z hz => by simp [hx z hz], Option.none_or, List.find?_cons, hy]

/-! ### The checks of an access -/

namespace Access
variable {a : Access} {ls : List Nat} {n k l : Nat}

theorem trap_of_misaligned (hf : (ls.find? fun l => a.ea l % k != 0) = some l) : a.trap ls n k = some (addrTrap causeAlgn l a.code) := by
  unfold Access.trap
  rw [hf]
theorem trap_of_aligned (ha : ∀ x ∈ ls, a.ea x % k = 0) : a.trap ls n k = (ls.find? fun l => a.out l n).map fun l => addrTrap a.outCause l a.code := by
  unfold Access.trap
  rw [List.find?_eq_none.2 fun x hx => by simp [ha x hx]]
theorem trap_eq_none (h : ∀ x ∈ ls, a.ea x % k = 0 ∧ a.out x n = false) : a.trap ls n k = none := by
  rw [trap_of_aligned fun x hx => (h x hx).1, List.find?_eq_none.2 fun x hx => by simp [(h x hx).2], Option.map_none]
theorem poisTrap_eq_none (h : ∀ x ∈ ls, a.pois x n = false) : a.poisTrap ls n = none := by
  unfold Access.poisTrap
  rw [List.find?_eq_none.2 fun x hx => by simp [h x hx], Option.map_none]

end Access

/-- A word traps on the state before it where a check of its access fails: on its addresses and, where it `reads`, on poison. -/
def Checks (i : Instr) (s : State) (c : Ctx) (a : Access) (n : Nat) (reads : Bool) : Prop :=
  ∀ x, (a.trap c.live n n).or (if reads then a.poisTrap c.live n else none) = some x → exec i s = .next (s.trapWord c.ref c.run.pc c.run.lanes c.w x)

section
variable (o : Out) {a : Access} {n : Nat}

/-- A word whose meaning is `o` and whose body traps. -/
theorem exec_traps {body : Ctx → State → Res} {x : Trap} (h : Issues i s c t) (he : exec i s = o) (ho : o = issue i s body) (hb : body c t = .trap x) :
    exec i s = .next (s.trapWord c.ref c.run.pc c.run.lanes c.w x) := (he.trans ho).trans (issue_trap h hb)
/-- A word whose meaning `o` asks for both checks first. -/
theorem checks_of_reads {body : Ctx → State → Res} (h : Issues i s c t) (he : exec i s = o) (ho : o = issue i s body)
    (hb : ∀ x, (a.trap c.live n n).or (a.poisTrap c.live n) = some x → body c t = .trap x) : Checks i s c a n true :=
  fun x hx => exec_traps o h he ho (hb x hx)
theorem checks_of_writes {body : Ctx → State → Res} (h : Issues i s c t) (he : exec i s = o) (ho : o = issue i s body)
    (hb : ∀ x, a.trap c.live n n = some x → body c t = .trap x) : Checks i s c a n false :=
  fun x hx => exec_traps o h he ho (hb x (by rwa [if_neg Bool.false_ne_true, Option.or_none] at hx))

theorem checks_of_loadOp {d : Nat} {sp : Option StoreSpace} {acq : Bool} {acc : State → Ctx → Access} (h : Issues i s c t) (he : exec i s = o)
    (ho : o = loadOp i s n d sp acq acc) : Checks i s c (acc t c) n true :=
  checks_of_reads o h he ho fun x hx => by simp only [hx]
theorem checks_of_storeOp {d : Nat} {rel : Option Scope} {sp : StoreSpace} {acc : State → Ctx → Access} (h : Issues i s c t) (he : exec i s = o)
    (ho : o = storeOp i s n d rel sp acc) : Checks i s c (acc t c) n false :=
  checks_of_writes o h he ho fun x hx => by simp only [hx]
theorem checks_of_atomOp {op : AtomOp} {or : Order} {sc : Scope} {d : Option Nat} {b c0 : Nat} {sp : StoreSpace} {acc : State → Ctx → Access}
    (h : Issues i s c t) (he : exec i s = o) (ho : o = atomOp i s op or sc d b c0 sp acc) : Checks i s c (acc t c) (atomBytes op) true :=
  checks_of_reads o h he ho fun x hx => by simp only [hx]
theorem checks_of_resolveOp {fault : Bool} {d : BitVec 10} {ad : MAddr} (h : Issues i s c t) (he : exec i s = o)
    (ho : o = resolveOp i fault d ad s) : Checks i s c (futureAccess t c ad) 16 false :=
  checks_of_writes o h he ho fun x hx => by simp only [hx]

end

theorem checks_stk {hd : Hdr} {sz : Size} {d : BitVec 10} {ad : MAddr} (h : Issues (.stk hd sz d ad) s c t) :
    Checks (.stk hd sz d ad) s c (stackAccess t c (stackEA c.w ad)) (sizeBytes sz) false :=
  checks_of_writes (execStk hd sz d ad s) h rfl rfl fun x hx => by simp only [hx]
/-- The access of LDW, which reads d too. -/
def wordAccess (s : State) (c : Ctx) (d : BitVec 10) (ad : MAddr) (n : Nat) : Access :=
  { scratchAccess s c 1 fun l => (scratchEA c.w ad l).toNat with
    bad := fun l => addrPois ad c.w 2 l || (List.range (n / 4)).any fun k => c.w.vPois.contains (vKey l (d.toNat + k)) }
theorem checks_ldw {hd : Hdr} {wide ord : Bool} {sc : Scope} {d : BitVec 10} {ad : MAddr} (h : Issues (.ldw hd wide ord sc d ad) s c t) :
    Checks (.ldw hd wide ord sc d ad) s c (wordAccess t c d ad (if wide then 8 else 4)) (if wide then 8 else 4) true :=
  checks_of_reads (execLdw hd wide ord sc d ad s) h rfl rfl fun x hx => by
    unfold wordAccess at hx
    simp only [hx]
theorem checks_ldf {hd : Hdr} {wide : Bool} {d : BitVec 10} {ad : MAddr} (h : Issues (.ldf hd wide d ad) s c t) :
    Checks (.ldf hd wide d ad) s c (futureAccess t c ad) 16 true :=
  checks_of_reads (execLdf hd wide d ad s) h rfl rfl fun x hx => by simp only [hx]
theorem checks_fpoll {hd : Hdr} {wide : Bool} {d : BitVec 10} {ad : MAddr} (h : Issues (.fpoll hd wide d ad) s c t) :
    Checks (.fpoll hd wide d ad) s c (futureAccess t c ad) 16 true :=
  checks_of_reads (execFpoll hd wide d ad s) h rfl rfl fun x hx => by simp only [hx]

/-- What a word that makes these checks does where one of them fails for a lowest lane. -/
theorem Checks.traps {a : Access} {n space cause : Nat} {reads : Bool} {l : Nat} {ea : Nat → Nat} {out : Nat → Prop} {pois : Nat → Bool}
    (h : Checks i s c a n reads) (hcode : a.code = space) (hcause : a.outCause = cause) (hea : a.ea = ea) (hout : ∀ x, a.out x n = true ↔ out x)
    (hpois : ∀ x, a.pois x n = pois x) :
    (l ∈ c.live ∧ ea l % n ≠ 0 ∧ (∀ x ∈ c.live, ea x % n ≠ 0 → l ≤ x) →
        exec i s = .next (s.trapWord c.ref c.run.pc c.run.lanes c.w { cause := 0x04, info := BitVec.ofNat 32 (l * 2 ^ 26 + space * 2 ^ 24) }))
    ∧ ((∀ x ∈ c.live, ea x % n = 0) → (l ∈ c.live ∧ out l ∧ ∀ x ∈ c.live, out x → l ≤ x) →
        exec i s = .next (s.trapWord c.ref c.run.pc c.run.lanes c.w { cause := cause, info := BitVec.ofNat 32 (l * 2 ^ 26 + space * 2 ^ 24) }))
    ∧ (reads = true → (∀ x ∈ c.live, ea x % n = 0 ∧ ¬out x) → (l ∈ c.live ∧ pois l = true ∧ ∀ x ∈ c.live, pois x = true → l ≤ x) →
        exec i s = .next (s.trapWord c.ref c.run.pc c.run.lanes c.w
          { cause := 0x13, info := BitVec.ofNat 32 (l * 2 ^ 26 + (if space = 3 then 1 else space) * 2 ^ 23) })) := by
  subst hcode hcause hea
  have hs := c.pairwise_live
  refine ⟨fun ⟨hl, hp, hmin⟩ => h _ ?_, fun hal ⟨hl, hp, hmin⟩ => h _ ?_, fun hr hok ⟨hl, hp, hmin⟩ => h _ ?_⟩
  · rw [Access.trap_of_misaligned (find?_eq_some_lowest hs hl (by simpa using hp) fun x hx hpx => hmin x hx (by simpa using hpx)), Option.some_or]
    rfl
  · rw [Access.trap_of_aligned hal, find?_eq_some_lowest hs hl ((hout l).2 hp) fun x hx hpx => hmin x hx ((hout x).1 hpx), Option.map_some, Option.some_or]
    rfl
  · have hin : ∀ x ∈ c.live, a.ea x % n = 0 ∧ a.out x n = false := fun x hx => ⟨(hok x hx).1, Bool.eq_false_iff.2 fun ho => (hok x hx).2 ((hout x).1 ho)⟩
    have hf : (c.live.find? fun l => a.pois l n) = some l :=
      find?_eq_some_lowest hs hl ((hpois l).trans hp) fun x hx hpx => hmin x hx ((hpois x).symm.trans hpx)
    rw [Access.trap_eq_none hin, Option.none_or, if_pos hr]
    unfold Access.poisTrap
    rw [hf, Option.map_some]
    simp only [beq_iff_eq]
    rfl

theorem outOfWindow_iff (s : State) (vf a n : Nat) : outOfWindow s vf a n = true ↔ (s.vf vf).scratch? a = none ∨ (s.vf vf).scratch? (a + n - 1) = none := by
  rw [outOfWindow, Bool.or_eq_true, Option.isNone_iff_eq_none, Option.isNone_iff_eq_none]

/-! ### FREG -/

theorem fregTrap_misaligned {d : BitVec 10} {a : Access} {l : Nat} (hl : l ∈ c.live) (hp : a.ea l % 16 ≠ 0 ∨ (c.v64 l d).toNat % 128 ≠ 0)
    (hmin : ∀ x ∈ c.live, a.ea x % 16 ≠ 0 ∨ (c.v64 x d).toNat % 128 ≠ 0 → l ≤ x) : fregTrap t c d a = some (addrTrap causeAlgn l 3) := by
  have hiff : ∀ x, (a.ea x % 16 != 0 || (c.w.rv64 x d.toNat).toNat % 128 != 0) = true ↔ (a.ea x % 16 ≠ 0 ∨ (c.v64 x d).toNat % 128 ≠ 0) := fun x => by
    simp only [Bool.or_eq_true, bne_iff_ne, Ctx.v64]
  have hf := find?_eq_some_lowest c.pairwise_live hl ((hiff l).2 hp) fun x hx hpx => hmin x hx ((hiff x).1 hpx)
  simp only [fregTrap, hf]
theorem fregTrap_of_aligned {d : BitVec 10} {a : Access} (ha : ∀ x ∈ c.live, a.ea x % 16 = 0 ∧ (c.v64 x d).toNat % 128 = 0) : fregTrap t c d a =
    (c.live.find? fun l => a.out l 16 || outOfWindow t c.blk.vf (c.v64 l d).toNat 128).map fun l => addrTrap causeXbnd l 3 := by
  have hn : (c.live.find? fun x => a.ea x % 16 != 0 || (c.w.rv64 x d.toNat).toNat % 128 != 0) = none :=
    List.find?_eq_none.2 fun x hx => by
      have := ha x hx
      simp only [Ctx.v64] at this
      simp [this]
  simp only [fregTrap, hn]
  rfl
theorem fregTrap_outside {d : BitVec 10} {a : Access} {l : Nat} (ha : ∀ x ∈ c.live, a.ea x % 16 = 0 ∧ (c.v64 x d).toNat % 128 = 0) {out : Nat → Prop}
    (hout : ∀ x, (a.out x 16 || outOfWindow t c.blk.vf (c.v64 x d).toNat 128) = true ↔ out x) (hl : l ∈ c.live) (hp : out l)
    (hmin : ∀ x ∈ c.live, out x → l ≤ x) : fregTrap t c d a = some (addrTrap causeXbnd l 3) := by
  rw [fregTrap_of_aligned ha, find?_eq_some_lowest c.pairwise_live hl ((hout l).2 hp) fun x hx hpx => hmin x hx ((hout x).1 hpx),
    Option.map_some]
theorem fregTrap_eq_none {d : BitVec 10} {a : Access} (h1 : ∀ x ∈ c.live, a.ea x % 16 = 0 ∧ a.out x 16 = false)
    (h2 : ∀ x ∈ c.live, (c.v64 x d).toNat % 128 = 0 ∧ outOfWindow t c.blk.vf (c.v64 x d).toNat 128 = false) : fregTrap t c d a = none := by
  rw [fregTrap_of_aligned fun x hx => ⟨(h1 x hx).1, (h2 x hx).1⟩, List.find?_eq_none.2 fun x hx => by simp [(h1 x hx).2, (h2 x hx).2], Option.map_none]

/-! ### Transfers -/

namespace Reach

/-- The fields of a descriptor that must be multiples of 4, in the order of their checks, each with the side that its trap names (R242, Table 13-1). -/
def fields (x : Reach) : List (Nat × Side) :=
  [(x.d.dst, x.dst)] ++ x.src.toList.map (fun y => (x.d.src, y))
    ++ [(x.d.len, x.dst), (x.d.spitch, x.src.getD { wh := 1, space := some .mm, addr := 0, pitch := 0, rows := 0 }), (x.d.dpitch, x.dst)]
/-- The bounds that are checked, in order: each side in shared memory, then each in the scratchpad. -/
def bounds (x : Reach) : List (Nat × Side) :=
  ((causeSbnd, x.dst) :: x.src.toList.map fun y => (causeSbnd, y)) ++ ((causeXbnd, x.dst) :: x.src.toList.map fun y => (causeXbnd, y))
/-- Whether a side reaches beyond one of its bounds. -/
def beyond (x : Reach) (v : Vf) (shared : Nat) (y : Nat × Side) : Bool :=
  if y.1 = causeSbnd then y.2.shOut shared x.d.len else y.2.spOut v x.d.len

theorem alignTrap_eq (x : Reach) : alignTrap x = (x.fields.find? fun z => z.1 % 4 != 0).map fun z => z.2.trap causeAlgn := by
  obtain ⟨d, dst, src, list⟩ := x
  cases src <;> simp only [alignTrap, fields, Option.toList, List.map_nil, List.map_cons, List.cons_append, List.nil_append, List.find?_cons, List.find?_nil,
    Option.getD_none, Option.getD_some, Option.bind_none, Option.bind_some] <;> grind
theorem descTrap_eq {x : Reach} (h4 : x.d.w4.toNat < 2 ^ 28) (h5 : x.d.w5.toNat < 2 ^ 27) (hn : x.d.rows * x.d.len ≤ 0xFFFFFFFC) (v : Vf) (shared : Nat) :
    descTrap v shared x = (alignTrap x).or ((x.bounds.find? (x.beyond v shared)).map fun z => z.2.trap z.1) := by
  have hill : (x.d.w4.toNat / 2 ^ 28 != 0 || x.d.w5.toNat / 2 ^ 27 != 0 || decide (0xFFFFFFFC < x.d.rows * x.d.len)) = false := by
    simp only [Nat.div_eq_of_lt h4, Nat.div_eq_of_lt h5, bne_self_eq_false, Bool.or_self, Bool.false_or, decide_eq_false_iff_not, not_lt, hn]
  simp only [descTrap, hill, Bool.false_eq_true, if_false]
  congr 1
  obtain ⟨d, dst, src, list⟩ := x
  cases src <;> simp only [bounds, beyond, Option.toList, List.map_nil, List.map_cons, List.cons_append, List.nil_append, List.find?_cons, List.find?_nil] <;> grind [causeSbnd, causeXbnd]

theorem shOut_iff {y : Side} {shared len : Nat} : y.shOut shared len = true
    ↔ y.space = some .sh ∧ (2 ^ 32 ≤ y.addr ∨ (0 < y.rows ∧ 0 < len ∧ shared < y.addr + (y.rows - 1) * y.pitch + len)) := by
  simp only [Side.shOut, Bool.and_eq_true, Bool.or_eq_true, beq_iff_eq, decide_eq_true_eq, and_assoc]
theorem spOut_iff {y : Side} {v : Vf} {len : Nat} : y.spOut v len = true
    ↔ y.space = some .sp ∧ 0 < len ∧ ∃ k < y.rows, v.inWindow (y.addr + k * y.pitch) len = false := by
  simp only [Side.spOut, Bool.and_eq_true, beq_iff_eq, decide_eq_true_eq, and_assoc, List.any_eq_true, List.mem_range, Bool.not_eq_true']

end Reach

/-- Every word with a reach is a transfer of that reach; only BCPP has a check of its own before those of R242. -/
theorem exec_transferOp {x : Reach} (hx : reachOf i c.w = some x)
    (hp : ∀ h pull scr bar a p g, i = .bcpp h pull scr bar a p g → peerIll pull g (c.s p) = none) :
    ∃ req, exec i s = transferOp i s req ∧ (req c).reach = x ∧ (req c).first = none := by
  cases i with
  | bcpp h pull scr bar a p g => exact ⟨_, rfl, Option.some.inj hx, hp h pull scr bar a p g rfl⟩
  | bcp | bfill | bpfx | bmc | bga | bsc => exact ⟨_, rfl, Option.some.inj hx, rfl⟩
  | _ => cases hx

/-- A transfer traps where its first check to fail is one of R242, or one of its own behind them. -/
theorem transferOp_traps {req : Ctx → XReq} (h : Issues i s c t) (hact : c.act ≠ 0) (hf : (req c).first = none) {τ : Trap}
    (hτ : (descTrap (t.vf c.blk.vf) c.blk.decl.shared (req c).reach).or (req c).extra = some τ) :
    transferOp i s req = .next (s.trapWord c.ref c.run.pc c.run.lanes c.w τ) :=
  issue_trap h (by simp only [hf, Option.none_or, hτ, beq_eq_false_iff_ne.2 hact, Bool.false_eq_true, if_false])
theorem exec_transfer_traps {x : Reach} (h : Issues i s c t) (hact : c.act ≠ 0) (hx : reachOf i c.w = some x)
    (hp : ∀ h pull scr bar a p g, i = .bcpp h pull scr bar a p g → peerIll pull g (c.s p) = none) {τ : Trap}
    (hτ : descTrap (t.vf c.blk.vf) c.blk.decl.shared x = some τ) : exec i s = .next (s.trapWord c.ref c.run.pc c.run.lanes c.w τ) := by
  obtain ⟨req, he, hr, hf⟩ := exec_transferOp hx hp
  exact he.trans (transferOp_traps h hact hf (by rw [hr, hτ, Option.some_or]))

theorem exec_transfer_own_traps {req : Ctx → XReq} (h : Issues i s c t) (hact : c.act ≠ 0) (he : exec i s = transferOp i s req) (hf : (req c).first = none)
    (hd : descTrap (t.vf c.blk.vf) c.blk.decl.shared (req c).reach = none) {τ : Trap} (hτ : (req c).extra = some τ) :
    exec i s = .next (s.trapWord c.ref c.run.pc c.run.lanes c.w τ) :=
  he.trans (transferOp_traps h hact hf (by rw [hd, hτ, Option.none_or]))

@[simp] theorem State.beforeAccess_offAccess (s : State) (r : WarpRef) (i : Instr) (act : Mask) : (s.beforeAccess r i act).offAccess = s.offAccess := by
  unfold State.beforeAccess
  split
  · exact State.makeLoads_offAccess s r
  · rfl
/-- A run that moves on leaves the interfaces as they are. -/
theorem Issues.vf_eq (h : Issues i s c t) (n : Nat) : t.vf n = s.vf n := by
  show t.offAccess.vf n = s.offAccess.vf n
  rw [h.moved, State.beforeAccess_offAccess, State.setWarp_offAccess]

/-- A list of indexes is checked behind the descriptor (R246). -/
theorem listTrap_misaligned {shared off rows : Nat} (h : off % 4 ≠ 0) : listTrap shared off rows = some (group5Trap causeAlgn 2 2) := by
  simp only [listTrap, bne_iff_ne, ne_eq, h, not_false_iff, if_true]
theorem listTrap_beyond {shared off rows : Nat} (h : off % 4 = 0) (h0 : 0 < rows) (hs : shared < off + 4 * rows) :
    listTrap shared off rows = some (group5Trap causeSbnd 2 2) := by
  simp only [listTrap, h, h0, hs, bne_self_eq_false, Bool.false_eq_true, if_false, decide_true, Bool.and_self, if_true]
/-- BCPP checks its signal word, then its peer device (R248). -/
theorem peerTrap_misaligned {v : Vf} {p : Word} {sig : Nat} (h : p.getLsbD 8 = true ∧ sig % 4 ≠ 0) : peerTrap v p sig = some (group5Trap causeAlgn 6 3) :=
  if_pos (by simpa [peerSig] using h)
theorem peerTrap_unbound {v : Vf} {p : Word} {sig : Nat} (h : ¬(p.getLsbD 8 = true ∧ sig % 4 ≠ 0)) (hb : v.bound? (p.toNat % 256) = none) :
    peerTrap v p sig = some (group5Trap causeXbnd 5 3) :=
  (if_neg (by simpa [peerSig] using h)).trans (if_pos (by rw [peerDev, hb]; rfl))

/-- Settles O44: each word checks its access, or its descriptor, before its effect. -/
theorem misalignedAccessesTrap : Obligations.MisalignedAccessesTrap := by
  intro h sz ord wide sc op o d r e b ad s c t l n k m lowest trap traps window shared sh st sx sa xa
  have hsh : ∀ ea size x, (sharedAccess t c ea).out x size = true ↔ shared ea size x := fun _ _ _ => decide_eq_true_iff
  have hst : ∀ size x, (stackAccess t c st).out x size = true ↔ c.blk.decl.stack < st x + size := fun _ _ => decide_eq_true_iff
  have hsx : ∀ code ea size x, (scratchAccess t c code ea).out x size = true ↔ window ea size x := fun _ ea size x => outOfWindow_iff t c.blk.vf (ea x) size
  refine ⟨fun hi => (checks_of_loadOp (execLds h sz ord d ad s) hi rfl rfl).traps rfl rfl rfl (hsh sh n) fun _ => rfl,
    fun hi => (checks_of_storeOp (execSts h sz ord d ad s) hi rfl rfl).traps rfl rfl rfl (hsh sh n) fun _ => rfl,
    fun hi => (checks_of_loadOp (execLdx h sz ord sc d ad s) hi rfl rfl).traps rfl rfl rfl (hsx 1 sx n) fun _ => rfl,
    fun hi => (checks_of_storeOp (execStx h sz ord sc d ad s) hi rfl rfl).traps rfl rfl rfl (hsx 1 sx n) fun _ => rfl,
    fun hi => (checks_of_loadOp (execLdk h sz d ad s) hi rfl rfl).traps rfl rfl rfl (hst n) fun _ => rfl,
    fun hi => (checks_stk hi).traps rfl rfl rfl (hst n) fun _ => rfl,
    fun hi => (checks_ldw hi).traps rfl rfl rfl (hsx 1 sx k) fun _ => rfl,
    fun hi => (checks_of_atomOp (execAtoms h op o d r b e s) hi rfl rfl).traps rfl rfl rfl (hsh sa m) fun _ => rfl,
    fun hi => (checks_of_atomOp (execAtomx h op o sc d r b e s) hi rfl rfl).traps rfl rfl rfl (hsx 1 xa m) fun _ => rfl,
    fun hi => (checks_of_atomOp (execRedx h op o sc r b s) hi rfl rfl).traps rfl rfl rfl (hsx 1 xa m) fun _ => rfl,
    fun hi => (checks_ldf hi).traps rfl rfl rfl (hsx 3 sx 16) fun _ => rfl,
    fun hi => (checks_fpoll hi).traps rfl rfl rfl (hsx 3 sx 16) fun _ => rfl,
    fun hi => (checks_of_resolveOp (execFres h d ad s) hi rfl rfl).traps rfl rfl rfl (hsx 3 sx 16) fun _ => rfl,
    fun hi => (checks_of_resolveOp (execFflt h d ad s) hi rfl rfl).traps rfl rfl rfl (hsx 3 sx 16) fun _ => rfl, ?_, ?_⟩
  · intro hi rc
    have hout : ∀ x, ((futureAccess t c ad).out x 16 || outOfWindow t c.blk.vf (c.v64 x d).toNat 128) = true ↔ window sx 16 x ∨ window rc 128 x := fun x => by
      rw [Bool.or_eq_true, outOfWindow_iff]
      exact or_congr (hsx 3 sx 16 x) Iff.rfl
    have htrap : ∀ x, fregTrap t c d (futureAccess t c ad) = some x → exec (.freg h d ad) s = .next (s.trapWord c.ref c.run.pc c.run.lanes c.w x) := fun x hx =>
      exec_traps (execFreg h d ad s) hi rfl rfl (by simp only [hx])
    exact ⟨fun ⟨hl, hp, hmin⟩ => htrap _ (fregTrap_misaligned hl hp hmin), fun ha ⟨hl, hp, hmin⟩ => htrap _ (fregTrap_outside ha hout hl hp hmin)⟩
  · intro i x hx hi hact hill h4 h5 hn at_ src pitched fields out outs
    have hd := Reach.descTrap_eq h4 h5 hn (t.vf c.blk.vf) c.blk.decl.shared
    have hfields : x.fields = fields := rfl
    have houts : x.bounds = outs := rfl
    have hout : ∀ y, x.beyond (t.vf c.blk.vf) c.blk.decl.shared y = true ↔ out y := fun y => by
      unfold Reach.beyond
      show _ ↔ if y.1 = causeSbnd then _ else _
      split
      · exact Reach.shOut_iff
      · exact Reach.spOut_iff
    have halign : (∀ z ∈ fields, z.1 % 4 = 0) → alignTrap x = none := fun hz => by
      rw [Reach.alignTrap_eq, hfields, List.find?_eq_none.2 fun z hm => by simp [hz z hm], Option.map_none]
    refine ⟨fun xs y ys hxs hz hy => ?_, fun hz => ⟨fun xs y ys hxs hin hy => ?_, fun hin => ?_⟩⟩
    · refine exec_transfer_traps hi hact hx hill (τ := y.2.trap causeAlgn) ?_
      rw [hd, Reach.alignTrap_eq, hfields, hxs, find?_append_cons (fun z hm => by simp [hz z hm]) (by simpa using hy)]
      rfl
    · refine exec_transfer_traps hi hact hx hill (τ := y.2.trap y.1) ?_
      rw [hd, halign hz, houts, hxs, find?_append_cons (fun z hm => Bool.eq_false_iff.2 fun hb => hin z hm ((hout z).1 hb)) ((hout y).2 hy)]
      rfl
    · have hnone : descTrap (t.vf c.blk.vf) c.blk.decl.shared x = none := by
        rw [hd, halign hz, houts, List.find?_eq_none.2 fun z hm hb => hin z hm ((hout z).1 hb)]
        rfl
      refine ⟨?_, ?_⟩
      · rintro h u v bar a q (rfl | rfl)
        all_goals
          cases Option.some.inj hx
          exact ⟨fun hq => exec_transfer_own_traps hi hact rfl rfl hnone (listTrap_misaligned hq),
            fun hq h0 hs => exec_transfer_own_traps hi hact rfl rfl hnone (listTrap_beyond hq h0 hs)⟩
      · rintro h pull scr bar a p g rfl
        have hp := hill h pull scr bar a p g rfl
        cases Option.some.inj hx
        intro crooked
        exact ⟨fun hc => exec_transfer_own_traps hi hact rfl hp hnone (peerTrap_misaligned hc),
          fun hc hb => exec_transfer_own_traps hi hact rfl hp hnone (peerTrap_unbound hc (by rw [← hi.vf_eq]; exact hb))⟩

end Sys2Proof.Machine
end

section
/-!
The oldest entry of a store queue (R167, R174, R175): when it leaves, what it then does, and how a write in flight is performed.
-/
namespace Sys2Proof.Machine

variable {s : State} {r : WarpRef} {b : Block} {w : Warp} {e : StoreEntry} {q : List StoreEntry}

theorem State.setWarp_eq_setBlock (hb : s.block? r.blk = some b) (w : Warp) : s.setWarp r w = s.setBlock (b.setWarp r.num w) := by
  simp only [State.setWarp, hb]

/-! ### An entry that leaves -/

/-- The oldest entry of a warp's queue may leave it, and the warp's loads are made. -/
structure Oldest (s : State) (r : WarpRef) (w : Warp) (e : StoreEntry) (q : List StoreEntry) : Prop where
  warp : s.warp? r = some w
  queue : w.storeQ = e :: q
  kept : e.lost = false
  free : e.rel = none ∨ s.jobsBefore r e.seq = false
  after : w.landed e.after = true
  made : ∀ l ∈ w.late, l.rest = []

theorem Oldest.mayLeave (h : Oldest s r w e q) : s.mayLeave r e = true := by
  have hrel : (e.rel.isSome && s.jobsBefore r e.seq) = false := h.free.elim (fun hn => by rw [hn]; rfl) fun hj => by rw [hj, Bool.and_false]
  have hlate : (w.late.any fun l => decide (l.id < e.seq) && w.loadHeld l) = false := List.any_eq_false.2 fun l hl => by simp [Warp.loadHeld, h.made l hl]
  simp only [State.mayLeave, h.kept, hrel, h.warp, h.after, hlate, Bool.not_false, Bool.and_self]
theorem Oldest.drainOne (h : Oldest s r w e q) (hf : e.fut = none) : s.drainOne r = (s.setWarp r { w with storeQ := q }).leaveQueue r e := by
  simp only [State.drainOne, State.makeLoads_eq_self h.warp h.made, h.warp, h.queue, hf, Option.isNone_none, h.mayLeave, Bool.and_self, if_true]
theorem Oldest.drainNext_of_store (h : Oldest s r w e q) (hf : e.fut = none) : s.drainNext r = (s.setWarp r { w with storeQ := q }).leaveQueue r e := by
  simp only [State.drainNext, State.makeLoads_eq_self h.warp h.made, h.warp, h.queue, hf, h.drainOne hf]
theorem Oldest.drainNext_of_future (h : Oldest s r w e q) {f : QueuedFuture} (hf : e.fut = some f) :
    s.drainNext r = (s.setWarp r { w with storeQ := q }).leaveFuture r e f := by
  simp only [State.drainNext, State.makeLoads_eq_self h.warp h.made, h.warp, h.queue, hf, h.mayLeave, if_true]

/-- A future operation acts behind every access before it at package scope (R155, R157, R181). -/
theorem State.leaveFuture_eq (hb : s.block? r.blk = some b) (hr : e.rel = some .pkg) (f : QueuedFuture) :
    let v := (s.closeLoads r (fun l => decide (l.id < e.seq)) fun _ => true).perform (fun g => g.known.contains (.warp r)) .pkg
    s.leaveFuture r e f = match f.kind with
      | .link => ((v.register? (b.link (f.place, f.arg)) b.core).getD v).feedTables
      | .full => (v.resolve? f.place (BitVec.ofNat 64 f.arg) false (b.launch % 2 ^ 16) (some b.core)).getD v
      | .fault => (v.resolve? f.place (BitVec.ofNat 64 f.arg) true (b.launch % 2 ^ 16) (some b.core)).getD v := by
  intro v
  have hv : s.beforeRelease r e = v := by
    unfold State.beforeRelease
    rw [hr]
    rfl
  simp only [State.leaveFuture, hb, hv]
  cases f.kind <;> rfl
theorem State.leaveQueue_eq_putStore (hr : e.rel = none) (ha : e.atom = none) : s.leaveQueue r e = s.putStore r e := by
  unfold State.leaveQueue State.beforeRelease
  rw [ha, hr]
theorem State.putStore_shared (hb : s.block? r.blk = some b) (hs : e.space = .shared) : s.putStore r e = s.setBlock (b.sharedWrite e.addr e.bytes) := by
  unfold State.putStore
  rw [hs, hb]
theorem State.putStore_scratch (hb : s.block? r.blk = some b) (hs : e.space = .scratch) : s.putStore r e = { s with flight := s.flight ++ [{
    blk := r.blk, warp := r.num, core := b.core, die := false, addr := e.addr, bytes := e.bytes, rods := e.rods, known := [.warp r], seq := e.seq }] } := by
  unfold State.putStore
  rw [hs, hb]

/-- A plain shared store changes the bytes of its block, a plain scratchpad store becomes the newest write in flight (R167). -/
theorem Oldest.drainNext_shared (h : Oldest s r w e q) (hb : s.block? r.blk = some b) (hr : e.rel = none) (ha : e.atom = none) (hf : e.fut = none)
    (hs : e.space = .shared) : s.drainNext r = s.setBlock ((b.setWarp r.num { w with storeQ := q }).sharedWrite e.addr e.bytes) := by
  have hb1 := State.setWarp_block? { w with storeQ := q } hb r.blk
  rw [if_pos rfl] at hb1
  rw [h.drainNext_of_store hf, State.leaveQueue_eq_putStore hr ha, State.putStore_shared hb1 hs, State.setWarp_eq_setBlock hb]
  exact State.setBlock_setBlock rfl
theorem Oldest.drainNext_scratch (h : Oldest s r w e q) (hb : s.block? r.blk = some b) (hr : e.rel = none) (ha : e.atom = none) (hf : e.fut = none)
    (hs : e.space = .scratch) : s.drainNext r = { s.setBlock (b.setWarp r.num { w with storeQ := q }) with flight := s.flight ++ [{
      blk := r.blk, warp := r.num, core := b.core, die := false, addr := e.addr, bytes := e.bytes, rods := e.rods, known := [.warp r], seq := e.seq }] } := by
  have hb1 := State.setWarp_block? { w with storeQ := q } hb r.blk
  rw [if_pos rfl] at hb1
  rw [h.drainNext_of_store hf, State.leaveQueue_eq_putStore hr ha, State.putStore_scratch hb1 hs, State.setWarp_eq_setBlock hb]
  rfl

/-! ### What waited for the entry -/

theorem State.rewake_eq_self (h : ∀ x ∈ s.waitTab, x.ref = r → x.woken = false) : s.rewake r = s := by
  have hn : (s.waitTab.filter fun e => e.ref == r && e.woken) = [] := List.filter_eq_nil_iff.2 fun x hx => by
    simp only [Bool.and_eq_true, beq_iff_eq, not_and, Bool.not_eq_true]
    exact h x hx
  unfold State.rewake
  rw [hn]
  rfl

/-- STORE_DRAIN at core scope: the oldest entry leaves, and what waited for it is tried again. -/
theorem exec_storeDrain_core {v : State} (h : s.drainNext r = v) : exec (.storeDrain r .core 0) s = .next ((v.retryArrivals r).rewake r) := by
  rw [← h]
  rfl
theorem exec_storeDrain_core_idle {v : State} (h : s.drainNext r = v) (harr : ∀ w, v.warp? r = some w → ∀ k < 20, w.arrivalDue k = false)
    (hwait : ∀ x ∈ v.waitTab, x.ref = r → x.woken = false) : exec (.storeDrain r .core 0) s = .next v := by
  rw [exec_storeDrain_core h, State.retryArrivals_eq_self harr, State.rewake_eq_self hwait]
theorem exec_storeDrain_flight {f : Flight} {sc : Scope} (hf : s.flight = [f]) (h1 : f.blk = r.blk) (h2 : f.warp = r.num) (hsc : sc ≠ .core) :
    exec (.storeDrain r sc 0) s = .next (s.perform (fun g => g == f) sc) := by
  show execStoreDrain r sc 0 s = _
  cases sc with
  | core => exact absurd rfl hsc
  | die | pkg | sys => simp only [execStoreDrain, hf, List.getElem?_cons_zero, h1, h2, beq_self_eq_true, Bool.and_self, if_true]

/-! ### Performing the only write in flight -/

theorem State.perform_die_singleton {f : Flight} (h : s.flight = [f]) : s.perform (fun g => g == f) .die = { s with flight := [{ f with die := true }] } := by
  simp only [State.perform, h, performSet, beq_self_eq_true, Bool.true_or, List.map_cons, List.map_nil, if_true]
theorem State.perform_pkg_singleton {f : Flight} {sc : Scope} (h : s.flight = [f]) (hsc : sc ∈ [Scope.pkg, .sys]) :
    s.perform (fun g => g == f) sc = ({ s with flight := [] } : State).spWrite f.addr f.bytes (some (f.core, f.die)) := by
  have hp : s.perform (fun g => g == f) .pkg = ({ s with flight := [] } : State).spWrite f.addr f.bytes (some (f.core, f.die)) := by
    simp only [State.perform, h, performSet, beq_self_eq_true, Bool.true_or, List.filter_cons, List.filter_nil, Bool.not_true, Bool.false_eq_true, if_true,
      if_false, List.map_nil, List.foldl_cons, List.foldl_nil]
  obtain rfl | rfl : sc = .pkg ∨ sc = .sys := by simpa using hsc
  · exact hp
  · exact hp

/-- What a write in the scratchpad leaves as it is, beside the other memories. -/
theorem State.spWrite_frame (s : State) (a : Nat) (bs : List Byte) (y : Option (Nat × Bool)) :
    (s.spWrite a bs y).flight = s.flight ∧ (s.spWrite a bs y).blocks = s.blocks ∧ (s.spWrite a bs y).saved = s.saved ∧ (s.spWrite a bs y).links = s.links := by
  unfold State.spWrite
  dsimp only
  split <;> exact ⟨rfl, rfl, rfl, rfl⟩

/-- Settles O45: the oldest entry leaves, a store is put where its space says, and the only write in flight is performed. -/
theorem storesReachTheirAddresses : Obligations.StoresReachTheirAddresses := by
  intro s r b w e q hb hw idle
  have hblk := State.setWarp_block? { w with storeQ := q } hb
  have hid : b.id = r.blk := State.block?_id hb
  -- the warp of a block that holds it without the entry
  have hwarp : ∀ {v : State} {b' : Block}, v.block? r.blk = some b' → b'.warps = (b.setWarp r.num { w with storeQ := q }).warps →
      v.warp? r = some { w with storeQ := q } := fun hv hws => by
    rw [State.warp?_of hv, hws, ← State.warp?_of ((hblk r.blk).trans (if_pos rfl)), State.warp?_setWarp_same _ hw]
  refine ⟨fun hq hl hr ha hm => ?_, ?_, ?_, ?_⟩
  · have ho : Oldest s r w e q := ⟨hw, hq, hl, hr, ha, hm⟩
    refine ⟨fun hf => exec_storeDrain_core (ho.drainNext_of_store hf), fun f hf hrel => ?_⟩
    rw [exec_storeDrain_core ((ho.drainNext_of_future hf).trans (State.leaveFuture_eq ((hblk r.blk).trans (if_pos rfl)) hrel f))]
    cases f.kind <;> rfl
  · intro hq hl hr ha hf hs ⟨haft, hm, harr, hwait⟩
    have ho : Oldest s r w e q := ⟨hw, hq, hl, .inl hr, haft, hm⟩
    have hb2 := State.block?_setBlock s ((b.setWarp r.num { w with storeQ := q }).sharedWrite e.addr e.bytes)
    have hb3 := (hb2 r.blk).trans (if_pos hid)
    rw [hb, Option.map_some] at hb3
    refine ⟨_, _, exec_storeDrain_core_idle (ho.drainNext_shared hb hr ha hf hs) (fun x hx => ?_) hwait, hb3, Block.sharedByte_sharedWrite _ _ _, rfl, rfl,
      fun id hne => (hb2 id).trans (if_neg fun he => hne (he.symm.trans hid))⟩
    cases (hwarp hb3 rfl).symm.trans hx
    exact harr
  · intro hq hl hr ha hf hs ⟨haft, hm, harr, hwait⟩
    have ho : Oldest s r w e q := ⟨hw, hq, hl, .inl hr, haft, hm⟩
    have hb2 := State.block?_setBlock s (b.setWarp r.num { w with storeQ := q })
    have hb3 := (hb2 r.blk).trans (if_pos hid)
    rw [hb, Option.map_some] at hb3
    refine ⟨_, exec_storeDrain_core_idle (ho.drainNext_scratch hb hr ha hf hs) (fun x hx => ?_) hwait, hb3, rfl, rfl,
      fun id hne => (hb2 id).trans (if_neg fun he => hne (he.symm.trans hid))⟩
    cases (hwarp hb3 rfl).symm.trans hx
    exact harr
  · intro f hf h1 h2
    refine ⟨by rw [exec_storeDrain_flight hf h1 h2 (by decide), State.perform_die_singleton hf], fun sc hsc => ?_⟩
    have hne : sc ≠ .core := by
      rintro rfl
      simp at hsc
    obtain ⟨h1', h2', h3', -⟩ := ({ s with flight := [] } : State).spWrite_frame f.addr f.bytes (some (f.core, f.die))
    obtain ⟨h4', h5', h6', h7'⟩ := ({ s with flight := [] } : State).spWrite_mem f.addr f.bytes (some (f.core, f.die))
    rw [exec_storeDrain_flight hf h1 h2 hne, State.perform_pkg_singleton hf hsc]
    exact ⟨_, rfl, h1', fun a => by rw [h5']; exact get_writeBytes _ _ _ _, h4', h6', h7', h2', h3'⟩

end Sys2Proof.Machine
end

section
/-!
Loads and stores (R134 to R142): what a word does whose addresses pass every check.
-/
namespace Sys2Proof.Machine

variable {i : Instr} {s t : State} {c : Ctx}

/-- Every active live lane's address is aligned and inside its space. -/
def Access.Fits (a : Access) (c : Ctx) (n : Nat) : Prop := ∀ l ∈ c.live, a.ea l % n = 0 ∧ a.out l n = false
/-- None of them reads poison. -/
def Access.Clean (a : Access) (c : Ctx) (n : Nat) : Prop := ∀ l ∈ c.live, a.pois l n = false
theorem Access.Fits.trap {a : Access} {n : Nat} (h : a.Fits c n) : a.trap c.live n n = none := trap_eq_none h
theorem Access.Fits.checks {a : Access} {n : Nat} (h : a.Fits c n) (hc : a.Clean c n) : (a.trap c.live n n).or (a.poisTrap c.live n) = none := by
  rw [h.trap, Option.none_or, poisTrap_eq_none hc]

/-! ### Loads and stores of a size -/

theorem exec_loadOp (o : Out) {n d : Nat} {x : StoreSpace} {acq : Bool} {acc : State → Ctx → Access} (h : Issues i s c t) (he : exec i s = o)
    (ho : o = loadOp i s n d (some x) acq acc) (hf : (acc t c).Fits c n) (hc : (acc t c).Clean c n) : exec i s = .next (c.after (if c.act = 0 then t
      else t.startLoad c.ref { id := 0, kind := .load, writes := c.zeros (acc t c) d n ((n + 3) / 4), rods := accessRods t c (acc t c) c.live n,
                               rest := loadParts t c x (acc t c) d n, acq := acq } fun p => p.reg == d)) := by
  refine exec_after o h he ho ?_
  simp only [hf.checks hc, beq_iff_eq]
  split <;> rfl
theorem exec_loadOp_stack (o : Out) {n d : Nat} {acq : Bool} {acc : State → Ctx → Access} (h : Issues i s c t) (he : exec i s = o)
    (ho : o = loadOp i s n d none acq acc) (hf : (acc t c).Fits c n) (hc : (acc t c).Clean c n) : exec i s = .next (c.after (if c.act = 0 then t
      else c.late t .load 0 (c.zeros (acc t c) d n ((n + 3) / 4)
        ++ (c.lanes.filter fun l => c.act.has l || !(acc t c).fails l n n).flatMap fun l => loadWrites d l ((acc t c).view l n)))) := by
  refine exec_after o h he ho ?_
  simp only [hf.checks hc, beq_iff_eq]
  split <;> rfl
theorem exec_storeOp (o : Out) {n d : Nat} {rel : Option Scope} {x : StoreSpace} {acc : State → Ctx → Access} (h : Issues i s c t) (he : exec i s = o)
    (ho : o = storeOp i s n d rel x acc) (hf : (acc t c).Fits c n) : exec i s = .next (c.after (if c.act = 0 then t
      else ({ t with nextId := t.nextId + 1 } : State).mapWarp c.ref fun w => { w with
        storeQ := w.storeQ ++ c.live.flatMap fun l => (storeParts (storeBytes c.w d l n)).map fun y =>
          { space := x, addr := placeOf t c x ((acc t c).ea l) + y.1, bytes := y.2, rel := rel, rods := t.rodTags c.blk ((acc t c).range l n), lost := false,
            seq := t.nextId, after := c.w.afterIds (t.rodTags c.blk ((acc t c).range l n)) } })) := by
  refine exec_after o h he ho ?_
  simp only [hf.trap, beq_iff_eq]

theorem leBytes_length (n v : Nat) : (leBytes n v).length = n := by
  induction n generalizing v with
  | zero => rfl
  | succ n ih => rw [leBytes, List.length_cons, ih]
theorem storeBytes_length (w : Warp) (d l n : Nat) : (storeBytes w d l n).length = n := by
  simp only [storeBytes, List.length_take, List.length_flatMap, leBytes_length, List.map_const', List.sum_replicate, List.length_range, smul_eq_mul]
  omega
/-- A load of 16 bytes makes two accesses of 8 in each lane, every other load one (R170). -/
theorem loadParts_eq (x : StoreSpace) (a : Access) (d : Nat) (sz : Size) : loadParts t c x a d (sizeBytes sz) =
    (c.lanes.filter fun l => c.act.has l || !a.fails l (sizeBytes sz) (sizeBytes sz)).flatMap fun l => if sizeBytes sz = 16
      then [{ lane := l, reg := d, space := x, addr := placeOf t c x (a.ea l), len := 8 },
            { lane := l, reg := d + 2, space := x, addr := placeOf t c x (a.ea l) + 8, len := 8 }]
      else [{ lane := l, reg := d, space := x, addr := placeOf t c x (a.ea l), len := sizeBytes sz }] := by
  cases sz <;> rfl
/-- So does a store. -/
theorem storeParts_map {α : Type} (w : Warp) (d l n : Nat) (f : Nat × List Byte → α) : (storeParts (storeBytes w d l n)).map f =
    if n = 16 then [f (0, (storeBytes w d l n).take 8), f (8, (storeBytes w d l n).drop 8)] else [f (0, storeBytes w d l n)] := by
  simp only [storeParts, storeBytes_length, beq_iff_eq]
  split <;> rfl

theorem exec_stk {hd : Hdr} {sz : Size} {d : BitVec 10} {ad : MAddr} (h : Issues (.stk hd sz d ad) s c t)
    (hf : (stackAccess t c (stackEA c.w ad)).Fits c (sizeBytes sz)) : exec (.stk hd sz d ad) s
      = .next (c.after (t.mapWarp c.ref fun w => c.live.foldl (fun w l => w.stackPut l (stackEA c.w ad l) (storeBytes c.w d.toNat l (sizeBytes sz))) w)) := by
  refine exec_after (execStk hd sz d ad s) h rfl rfl ?_
  simp only [hf.trap]
  rfl
/-- What LDW does where the checks pass. -/
theorem exec_ldw {hd : Hdr} {wide ord : Bool} {sc : Scope} {d : BitVec 10} {ad : MAddr} (h : Issues (.ldw hd wide ord sc d ad) s c t) {k : Nat}
    (hk : k = if wide then 8 else 4) (hf : (wordAccess t c d ad k).Fits c k) (hc : (wordAccess t c d ad k).Clean c k) : exec (.ldw hd wide ord sc d ad) s
      = .next (c.after (c.waitLoad t (wordAccess t c d ad k) k (k / 4) (.word wide ord d.toNat (accessRods t c (wordAccess t c d ad k) c.live k) [])
          fun l => (wordAccess t c d ad k).view l k == storeBytes c.w d.toNat l k)) := by
  subst hk
  refine exec_after (execLdw hd wide ord sc d ad s) h rfl rfl ?_
  have hx := hf.checks hc
  unfold wordAccess at hx
  simp only [hx]
  rfl

/-! ### Waiting for a value (R141, R154) -/

section
variable {wait : Wait} {a : Access} {n : Nat}

theorem waitPart_lane (wait : Wait) (l x : Nat) : (waitPart wait l x).lane = l := by cases wait <;> rfl
theorem waitPart_withPlaces (wait : Wait) (xs : List (Nat × Nat)) : waitPart (wait.withPlaces xs) = waitPart wait := by cases wait <;> rfl
/-- The lanes of a load park, each with its place, where there are any. -/
theorem Ctx.park_withPlaces {xs : List (Nat × Nat)} (hw : (wait.withPlaces xs).places = xs) (woken : Bool) : c.park s (wait.withPlaces xs) woken
    = if xs = [] then s else xs.foldl (fun t x => t.waitOn c.ref x.2 (waitPart wait x.1 x.2).len woken) (c.blockRun s (wait.withPlaces xs)) := by
  simp only [Ctx.park, hw, List.isEmpty_iff, waitPart_withPlaces]

/-- Behind an access that is yet to be made, every lane parks before it reads; a helper lane reads with the loads behind it. -/
theorem Ctx.waitLoad_of_held {regs : Nat} {stay : Nat → Bool}
    (h : (c.now t).heldNow wait.rods (c.lanes.map fun l => waitPart wait l (physOf t c.blk.vf (a.ea l))) = true) :
    let zeros := c.zeros a (waitPart wait 0 0).reg n regs
    let helpers := c.lanes.filter fun l => !c.act.has l && !a.fails l n n
    c.waitLoad t a n regs wait stay = c.park
      (if zeros = [] ∧ helpers = [] then t else t.startLoad c.ref
        { id := 0, kind := .load, writes := zeros, rods := wait.rods, rest := helpers.map fun l => waitPart wait l (physOf t c.blk.vf (a.ea l)) } fun _ => true)
      (wait.withPlaces (c.live.map fun l => (l, physOf t c.blk.vf (a.ea l)))) true := by
  simp only [Ctx.waitLoad, h, if_true, Bool.and_eq_true, List.isEmpty_iff]
/-- Else the lanes read now, and those of which `stay` holds park. -/
theorem Ctx.waitLoad_of_free {regs : Nat} {stay : Nat → Bool}
    (h : (c.now t).heldNow wait.rods (c.lanes.map fun l => waitPart wait l (physOf t c.blk.vf (a.ea l))) = false) :
    let goes := c.live.filter fun l => !stay l
    let helpers := c.lanes.filter fun l => !c.act.has l && !a.fails l n n
    let got := c.late ((t.closePlaces c.ref (c.live.map fun l => waitPart wait l (physOf t c.blk.vf (a.ea l)))).readNow c.ref
        (c.live.map fun l => (physOf t c.blk.vf (a.ea l), n))) .load wait.rods (c.zeros a (waitPart wait 0 0).reg n regs
      ++ (goes ++ helpers).flatMap fun l => (waitPart wait l (physOf t c.blk.vf (a.ea l))).writes (a.view l n))
    c.waitLoad t a n regs wait stay = c.park (if wait.acquires = true ∧ goes ≠ [] then got.observe c.ref else got)
      (wait.withPlaces ((c.live.filter stay).map fun l => (l, physOf t c.blk.vf (a.ea l)))) false := by
  simp only [Ctx.waitLoad, h, Bool.false_eq_true, if_false, Bool.and_eq_true, Bool.not_eq_true', List.isEmpty_eq_false_iff, List.flatMap_map, waitPart_lane]

end

section
variable {r : WarpRef} {b : Block} {w : Warp}

/-! ### A load that starts makes its first accesses (R168, R170) -/

theorem mapIf_append {α : Type} (p : α → Bool) (f : α → α) (xs ys : List α) : mapIf p f (xs ++ ys) = mapIf p f xs ++ mapIf p f ys := by
  induction xs with
  | nil => rfl
  | cons x xs ih => simp only [List.cons_append, mapIf, ih]
theorem mapIf_eq_self {α : Type} {p : α → Bool} (f : α → α) {xs : List α} (h : ∀ x ∈ xs, p x = false) : mapIf p f xs = xs := by
  induction xs with
  | nil => rfl
  | cons x xs ih =>
    rw [List.forall_mem_cons] at h
    simp [mapIf, h.1, ih h.2]

theorem find?_last {xs : List Late} {l : Late} {k : Nat} (hx : ∀ x ∈ xs, x.id ≠ k) (hl : l.id = k) : ((xs ++ [l]).find? fun y => y.id == k) = some l := by
  rw [List.find?_append, List.find?_eq_none.2 fun x h => by simpa using hx x h]
  simp [hl]
theorem mapIf_last {xs : List Late} {l : Late} {k : Nat} (hx : ∀ x ∈ xs, x.id ≠ k) (hl : l.id = k) (m : Late) :
    mapIf (fun y => y.id == k) (fun _ => m) (xs ++ [l]) = xs ++ [m] := by
  rw [mapIf_append, mapIf_eq_self _ fun x h => by simpa using hx x h]
  simp [mapIf, hl]

theorem foldl_readPast {α : Type} (f : α → Nat × Nat × Nat) (xs : List α) (w : Warp) :
    (xs.foldl (fun w x => w.readPast (f x).1 (f x).2.1 (f x).2.2) w).late = w.late ∧ (xs.foldl (fun w x => w.readPast (f x).1 (f x).2.1 (f x).2.2) w).storeQ = w.storeQ := by
  induction xs generalizing w with
  | nil => exact ⟨rfl, rfl⟩
  | cons x xs ih => exact ih _

/-- The bytes of an access as a warp sees them behind its queue. -/
def State.partView (s : State) (b : Block) (q : List StoreEntry) (p : Part) : List Byte :=
  match p.space with
  | .shared => b.shView q p.addr p.len
  | .scratch => s.spView b.core q p.addr p.len
theorem State.partView_congr {q : List StoreEntry} {p p' : Part} (hs : p.space = p'.space) (ha : p.addr = p'.addr) (hl : p.len = p'.len) :
    s.partView b q p = s.partView b q p' := by
  simp only [State.partView, hs, ha, hl]
/-- What a warp sees does not depend on the warps. -/
theorem State.partView_setWarp (s : State) (r : WarpRef) (v : Warp) (b : Block) (q : List StoreEntry) (p : Part) :
    (s.setWarp r v).partView (b.setWarp r.num v) q p = s.partView b q p := by
  unfold State.partView State.spView
  rw [State.setWarp_flight, State.setWarp_sp]
  rfl
theorem State.readPart_now {q : List StoreEntry} {newest : Bool} (h : newest = true ∨ s.past = []) (rods : Word) (free : Nat) (p : Part) (w : Warp) :
    s.readPart b q newest rods free p w = (s.partView b q p, w) := by
  unfold State.readPart State.partView
  cases p.space with
  | shared => rfl
  | scratch =>
    cases newest with
    | true => rfl
    | false => simp [State.looseRead, State.unordered, h.resolve_left Bool.false_ne_true]
/-- An acquire, and any load while no older value can be returned, gives every access the bytes as they are. -/
theorem State.readParts_now {q : List StoreEntry} {newest : Bool} (h : newest = true ∨ s.past = []) (rods : Word) (free : Nat) (ps : List Part)
    (got : List (Part × List Byte)) (hg : ∀ y ∈ got, y.2 = s.partView b q y.1) (w : Warp) :
    s.readParts b q newest rods free ps got w = (got.reverse ++ ps.map fun p => (p, s.partView b q p), w) := by
  induction ps generalizing got with
  | nil => simp [State.readParts]
  | cons p ps ih =>
    have hgot : ∀ y ∈ (p, s.partView b q p) :: got, y.2 = s.partView b q y.1 := by simpa using hg
    cases hf : got.find? fun y => y.1.space == p.space && y.1.addr == p.addr && y.1.len == p.len with
    | none =>
      simp only [State.readParts, hf, State.readPart_now h, ih _ hgot]
      simp
    | some y =>
      have hm := List.find?_some hf
      simp only [Bool.and_eq_true, beq_iff_eq] at hm
      obtain ⟨⟨hsp, ha⟩, hl⟩ := hm
      have hy : y.2 = s.partView b q p := (hg y (List.mem_of_find?_eq_some hf)).trans (State.partView_congr hsp ha hl)
      simp only [State.readParts, hf, hy, ih _ hgot]
      simp

theorem State.observe_warp? (hw : s.warp? r = some w) : (s.observe r).warp? r = some (w.seeAll s.nextId) := by
  have hl : (s.learn r).warp? r = some w := by
    unfold State.learn
    split <;> exact hw
  rw [State.observe, State.mapWarp_eq _ hl, State.prunePast]
  split <;> exact State.warp?_setWarp_same _ hl
theorem State.readNow_late (hw : s.warp? r = some w) (ps : List (Nat × Nat)) : ∃ v, (s.readNow r ps).warp? r = some v ∧ v.late = w.late := by
  unfold State.readNow
  split
  · exact ⟨w, hw, rfl⟩
  · rw [State.mapWarp_eq _ hw]
    exact ⟨_, State.warp?_setWarp_same _ hw, (foldl_readPast (fun x : Nat × Nat => (x.1, x.2, s.nextId)) ps w).1⟩

/-- Closing places in the newest load of a warp leaves the bytes, the queue and every other load. -/
theorem State.closePlaces_last {xs : List Late} {l : Late} (hb : s.block? r.blk = some b) (hw : s.warp? r = some w) (hl : w.late = xs ++ [l])
    (hx : ∀ x ∈ xs, x.loose = [] ∧ x.id ≠ l.id) (ps : List Part) : ∃ b' v m, (s.closePlaces r ps).block? r.blk = some b' ∧ (s.closePlaces r ps).warp? r = some v
      ∧ (∀ q p, (s.closePlaces r ps).partView b' q p = s.partView b q p) ∧ (s.closePlaces r ps).past = s.past ∧ v.late = xs ++ [m] ∧ m.id = l.id ∧ v.storeQ = w.storeQ := by
  have hid : ∀ x ∈ xs, x.id ≠ l.id := fun x h => (hx x h).2
  have hxs : (xs.filter fun l => true && l.loose.any fun p => ps.any p.meets) = [] := List.filter_eq_nil_iff.2 fun x h => by simp [(hx x h).1]
  simp only [State.closePlaces, State.closeLoads, hw, hl, List.filter_append, hxs, List.nil_append]
  by_cases hc : (l.loose.any fun p => ps.any p.meets) = true
  · simp only [hc, Bool.and_self, List.filter_cons_of_pos, List.filter_nil, List.map_cons, List.map_nil, List.foldl_cons, List.foldl_nil, State.closeLoad, hb, hw, hl,
      find?_last hid rfl]
    have hf := foldl_readPast fun x : Part × List Byte × Nat => (x.1.addr, x.1.len, x.2.2)
    have hb1 : ({ s with fresh := s.fresh + 1 } : State).block? r.blk = some b := hb
    have hw1 : ({ s with fresh := s.fresh + 1 } : State).warp? r = some w := hw
    refine ⟨_, _, _, (State.setWarp_block? _ hb1 _).trans (if_pos rfl), State.warp?_setWarp_same _ hw1, fun q p => ?_, State.setWarp_past ..,
      (congrArg _ ((hf _ w).1.trans hl)).trans (mapIf_last hid rfl _), ?_, (hf _ w).2⟩
    · exact State.partView_setWarp ..
    · rfl
  · simp only [hc, Bool.and_false, Bool.false_eq_true, not_false_eq_true, List.filter_cons_of_neg, List.filter_nil, List.map_nil, List.foldl_nil]
    exact ⟨b, w, l, hb, hw, fun _ _ => rfl, trivial, hl, rfl, rfl⟩

theorem State.acquire_late (hw : s.warp? r = some w) (full poll : Bool) (ps : List (Nat × Nat)) :
    ∃ v, (if full then s.observe r else if poll then s.readNow r ps else s).warp? r = some v ∧ v.late = w.late := by
  cases full with
  | true => exact ⟨_, State.observe_warp? hw, rfl⟩
  | false =>
    cases poll with
    | true => exact State.readNow_late hw ps
    | false => exact ⟨w, hw, rfl⟩

/-- A load that has just issued makes the accesses that a test selects. -/
theorem State.makeLoad_last {xs : List Late} {l : Late} (hb : s.block? r.blk = some b) (hw : s.warp? r = some w) (hl : w.late = xs ++ [l])
    (hx : ∀ x ∈ xs, x.loose = [] ∧ x.id ≠ l.id) (hq : ∀ e ∈ w.storeQ, e.seq < l.id) (hn : l.acq = true ∨ s.past = []) (sel : Part → Bool) :
    ∃ v m, (s.makeLoad r l.id sel).warp? r = some v ∧ v.late = xs ++ [m] ∧ m.id = l.id ∧ (m.rest = l.rest.filter fun p => !sel p)
      ∧ m.writes = l.writes ++ (l.rest.filter sel).flatMap fun p => p.writes (s.partView b w.storeQ p) := by
  have hid : ∀ x ∈ xs, x.id ≠ l.id := fun x h => (hx x h).2
  obtain ⟨b', w', l', hb', hw', hv, hp, hl', hm, hwq⟩ := State.closePlaces_last hb hw hl hx (l.rest.filter sel)
  unfold State.makeLoad
  simp only [hw, hl, find?_last hid rfl]
  generalize s.closePlaces r (l.rest.filter sel) = s0 at hb' hw' hv hp
  have hq' : (w'.storeQ.filter fun e => decide (e.seq < l.id)) = w.storeQ := by
    rw [hwq]
    exact List.filter_eq_self.2 fun e he => decide_eq_true (hq e he)
  have hn' : (l.acq || l.poll) = true ∨ s0.past = [] := (hn.imp_left fun h => by simp [h]).imp_right fun h => hp.trans h
  have hw1 : ({ s0 with fresh := s0.fresh + 1 } : State).warp? r = some w' := hw'
  simp only [hb', hw', hq', State.readParts_now hn' _ _ _ [] (by simp), hv, hl', mapIf_last hid hm]
  refine (State.acquire_late (State.warp?_setWarp_same _ hw1) _ _ _).imp fun v hv => ⟨_, hv.1, hv.2, ?_, ?_, ?_⟩
  · rfl
  · rfl
  · simp only [List.reverse_nil, List.nil_append, List.flatMap_map]

theorem State.startLoad_held {l : Late} (hw : s.warp? r = some w) (h : w.heldNow l.rods l.rest = true) (first : Part → Bool) :
    ∃ v m, (s.startLoad r l first).warp? r = some v ∧ v.late = w.late ++ [m] ∧ m.id = s.nextId ∧ m.rest = l.rest
      ∧ m.writes = l.writes ++ l.rest.flatMap fun p => p.writes (List.replicate p.len 0) := by
  have hw1 : ({ s with nextId := s.nextId + 1 } : State).warp? r = some w := hw
  simp only [State.startLoad, hw, h, Bool.true_or, if_true]
  exact ⟨_, _, State.warp?_setWarp_same _ hw1, rfl, rfl, rfl, rfl⟩
theorem State.startLoad_free {l : Late} (hb : s.block? r.blk = some b) (hw : s.warp? r = some w) (h : w.heldNow l.rods l.rest = false) (hr : l.rest ≠ [])
    (hn : l.acq = true ∨ s.past = []) (hx : ∀ x ∈ w.late, x.loose = [] ∧ x.id < s.nextId) (hq : ∀ e ∈ w.storeQ, e.seq < s.nextId) (first : Part → Bool) :
    ∃ v m, (s.startLoad r l first).warp? r = some v ∧ v.late = w.late ++ [m] ∧ m.id = s.nextId ∧ (m.rest = l.rest.filter fun p => !first p)
      ∧ m.writes = l.writes ++ (l.rest.flatMap fun p => p.writes (List.replicate p.len 0))
        ++ (l.rest.filter first).flatMap fun p => p.writes (s.partView b w.storeQ p) := by
  have hb1 : ({ s with nextId := s.nextId + 1 } : State).block? r.blk = some b := hb
  have hw1 : ({ s with nextId := s.nextId + 1 } : State).warp? r = some w := hw
  have hr' : l.rest.isEmpty = false := by simpa using hr
  simp only [State.startLoad, hw, h, hr', Bool.or_self, Bool.false_eq_true, if_false]
  have hv : ∀ v : Warp, (({ s with nextId := s.nextId + 1 } : State).setWarp r v).block? r.blk = some (b.setWarp r.num v) :=
    fun v => (State.setWarp_block? v hb1 _).trans (if_pos rfl)
  have hmk := State.makeLoad_last (hv { w with late := w.late ++ [{ l with
      id := s.nextId
      writes := l.writes ++ l.rest.flatMap fun p => p.writes (List.replicate p.len 0)
      after := w.afterIds l.rods }] })
    (State.warp?_setWarp_same _ hw1) rfl (fun x hm => ⟨(hx x hm).1, (hx x hm).2.ne⟩) hq (hn.imp_right fun h => (State.setWarp_past ..).trans h) first
  simp only [State.partView_setWarp] at hmk
  exact hmk

/-! ### What a relaxed load returns (R169, R171, R173) -/

/-- The words of some bytes. -/
def wordsAt (a n : Nat) : List Nat := (List.range ((a + n + 3) / 4 - a / 4)).map fun k => a / 4 + k

/-- After a read every word of its place has been read past its number, and every other word as before. -/
theorem Warp.get_readPast (w : Warp) (a n seq k : Nat) : Sparse.get 0 (w.readPast a n seq).readAt k
    = if k ∈ wordsAt a n then max seq (Sparse.get 0 w.readAt k) else Sparse.get 0 w.readAt k := by
  have hf : ∀ (ks : List Nat) (m : Sparse Nat), Sparse.get 0 (ks.foldl (fun m k => Sparse.set 0 m k (max seq (Sparse.get 0 m k))) m) k
      = if k ∈ ks then max seq (Sparse.get 0 m k) else Sparse.get 0 m k := by
    intro ks
    induction ks with
    | nil => intro m; rfl
    | cons x ks ih =>
      intro m
      rw [List.foldl_cons, ih, Sparse.get_set]
      by_cases hx : k = x
      · subst hx
        simp
      · simp [hx]
  exact hf _ _

theorem State.mem_unordered {core floor a n : Nat} {p : Past} (h : p ∈ s.unordered core w floor a n) : p ∈ s.past ∧ floor ≤ p.seq
    ∧ meets a n p.addr p.old.length = true ∧ p.seenBy core = false ∧ ∀ k ∈ wordsAt a n, Sparse.get 0 w.readAt k ≤ p.seq := by
  have ht := List.mem_reverse.1 h
  have hm := List.mem_reverse.1 ((List.takeWhile_sublist _).subset ht)
  simp only [List.mem_filter, Bool.and_eq_true, decide_eq_true_eq, List.all_eq_true] at hm
  obtain ⟨hp, ⟨hf, hme⟩, hr⟩ := hm
  exact ⟨hp, hf, hme, by simpa using List.mem_takeWhile_imp ht, hr⟩

/-- The past writes that a relaxed load undoes. -/
def State.undone (s : State) (core : Nat) (w : Warp) (q : List StoreEntry) (floor a n pick : Nat) : List Past :=
  if s.ownBytes core q a n then [] else (s.unordered core w floor a n).reverse.take (pick % ((s.unordered core w floor a n).length + 1))
theorem State.looseRead_eq (s : State) (core : Nat) (w : Warp) (q : List StoreEntry) (floor a n pick : Nat) : s.looseRead core w q floor a n pick =
    ((s.undone core w q floor a n pick).foldl (undoPast a) (s.spView core q a n), if s.unordered core w floor a n = [] then w
      else w.readPast a n (((s.undone core w q floor a n pick).getLast?.map (·.seq)).getD s.nextId)) := by
  unfold State.looseRead State.undone
  by_cases h : s.unordered core w floor a n = []
  · simp [h]
  · simp [h]
theorem State.mem_undone {core floor a n pick : Nat} {q : List StoreEntry} {p : Past} (h : p ∈ s.undone core w q floor a n pick) :
    p ∈ s.unordered core w floor a n := by
  unfold State.undone at h
  split at h
  · exact absurd h List.not_mem_nil
  · exact List.mem_reverse.1 (List.mem_of_mem_take h)
theorem State.undone_of_own {core floor a n pick i : Nat} {q : List StoreEntry} (hi : i < n)
    (h : (queueByte .scratch (a + i) q).isSome = true ∨ (flightByte core (a + i) s.flight).isSome = true) : s.undone core w q floor a n pick = [] :=
  if_pos (List.any_eq_true.2 ⟨i, List.mem_range.2 hi, by simpa using h⟩)
/-- What it undid is then the newest that it may undo. -/
theorem State.readAt_of_undone {core floor a n pick : Nat} {q : List StoreEntry} (h : s.undone core w q floor a n pick ≠ []) :
    ∃ p ∈ s.undone core w q floor a n pick, ∀ k ∈ wordsAt a n, Sparse.get 0 (s.looseRead core w q floor a n pick).2.readAt k = p.seq := by
  have hm := List.getLast_mem h
  have hu := State.mem_undone hm
  refine ⟨_, hm, fun k hk => ?_⟩
  simp only [State.looseRead_eq, List.ne_nil_of_mem hu, if_false, List.getLast?_eq_some_getLast h, Option.map_some, Option.getD_some, Warp.get_readPast, hk, if_true]
  exact max_eq_left ((State.mem_unordered hu).2.2.2.2 k hk)
theorem State.readAt_of_newest {core floor a n pick k : Nat} {q : List StoreEntry} (h : s.undone core w q floor a n pick = [])
    (hu : s.unordered core w floor a n ≠ []) (hk : k ∈ wordsAt a n) : s.nextId ≤ Sparse.get 0 (s.looseRead core w q floor a n pick).2.readAt k := by
  simp only [State.looseRead_eq, hu, if_false, h, List.getLast?_nil, Option.map_none, Option.getD_none, Warp.get_readPast, hk, if_true]
  exact le_max_left ..
theorem State.readAt_le_looseRead (s : State) (core : Nat) (w : Warp) (q : List StoreEntry) (floor a n pick k : Nat) :
    Sparse.get 0 w.readAt k ≤ Sparse.get 0 (s.looseRead core w q floor a n pick).2.readAt k := by
  rw [State.looseRead_eq]
  split
  · exact le_refl _
  · rw [Warp.get_readPast]
    split
    · exact le_max_right ..
    · exact le_refl _
theorem State.looseRead_of_past {core floor a n pick : Nat} {q : List StoreEntry} (h : s.past = []) :
    s.looseRead core w q floor a n pick = (s.spView core q a n, w) := by
  simp [State.looseRead, State.unordered, h]

/-- The newer write that an access made before it returns is one of those that may still come before the access. -/
theorem State.newerBytes_eq_some {core pick : Nat} {p : Part} {x : List Byte × Nat} (h : s.newerBytes core p pick = some x) :
    ∃ y ∈ s.newer core p, x = ((s.past.filter fun z => decide (y.seq < z.seq) && meets p.addr p.len z.addr z.old.length).reverse.foldl (undoPast p.addr)
      (readBytes s.sp p.addr p.len), y.seq + 1) := by
  obtain ⟨y, hy, hx⟩ := Option.map_eq_some_iff.1 h
  exact ⟨y, List.mem_of_mem_take (List.mem_of_getLast? hy), hx.symm⟩
theorem State.mem_newer {core : Nat} {p : Part} {y : Past} (h : y ∈ s.newer core p) :
    y ∈ s.past ∧ p.made ≤ y.seq ∧ meets p.addr p.len y.addr y.old.length = true ∧ y.seenBy core = false := by
  have hm := (List.takeWhile_sublist _).subset h
  simp only [List.mem_filter, Bool.and_eq_true, decide_eq_true_eq] at hm
  obtain ⟨hp, hma, hme⟩ := hm
  exact ⟨hp, hma, hme, by simpa using List.mem_takeWhile_imp h⟩

end

/-- LDW's parked lanes, each with its place. -/
def Ctx.wordPark (c : Ctx) (u : State) (wide ord : Bool) (d : BitVec 10) (rods : Word) (xs : List (Nat × Nat)) (k : Nat) (woken : Bool) : State :=
  if xs = [] then u else xs.foldl (fun u x => u.waitOn c.ref x.2 k woken) (c.blockRun u (.word wide ord d.toNat rods xs))
/-- The access of a lane of LDW. -/
def wordPart (t : State) (c : Ctx) (a : Access) (d : BitVec 10) (k l : Nat) : Part :=
  { lane := l, reg := d.toNat, space := .scratch, addr := physOf t c.blk.vf (a.ea l), len := k }

section
variable {wide ord : Bool} {d : BitVec 10} {k : Nat} {rods : Word} {a : Access} {stay : Nat → Bool} (hk : (if wide then 8 else 4) = k)
include hk
theorem waitPart_word : (fun l => waitPart (.word wide ord d.toNat rods []) l (physOf t c.blk.vf (a.ea l))) = wordPart t c a d k := by
  subst hk
  rfl
theorem Ctx.park_word (u : State) (xs : List (Nat × Nat)) (woken : Bool) :
    c.park u ((Wait.word wide ord d.toNat rods []).withPlaces xs) woken = c.wordPark u wide ord d rods xs k woken := by
  subst hk
  exact Ctx.park_withPlaces rfl woken
theorem Ctx.waitLoad_word_free (hw : (c.now t).heldNow rods (c.lanes.map (wordPart t c a d k)) = false) :
    let goes := c.live.filter fun l => !stay l
    let helpers := c.lanes.filter fun l => !c.act.has l && !a.fails l k k
    let got := c.late ((t.closePlaces c.ref (c.live.map (wordPart t c a d k))).readNow c.ref (c.live.map fun l => (physOf t c.blk.vf (a.ea l), k))) .load rods
      (c.zeros a d.toNat k (k / 4) ++ (goes ++ helpers).flatMap fun l => loadWrites d.toNat l (a.view l k))
    c.waitLoad t a k (k / 4) (.word wide ord d.toNat rods []) stay = c.wordPark (if ord = true ∧ goes ≠ [] then got.observe c.ref else got) wide ord d rods
      ((c.live.filter stay).map fun l => (l, physOf t c.blk.vf (a.ea l))) k false := by
  rw [← waitPart_word hk] at hw
  rw [Ctx.waitLoad_of_free hw, Ctx.park_word hk, waitPart_word hk]
  rfl
theorem Ctx.waitLoad_word_held (hw : (c.now t).heldNow rods (c.lanes.map (wordPart t c a d k)) = true) :
    let zeros := c.zeros a d.toNat k (k / 4)
    let helpers := c.lanes.filter fun l => !c.act.has l && !a.fails l k k
    let behind := if zeros = [] ∧ helpers = [] then t else t.startLoad c.ref
      { id := 0, kind := .load, writes := zeros, rods := rods, rest := helpers.map (wordPart t c a d k) } fun _ => true
    c.waitLoad t a k (k / 4) (.word wide ord d.toNat rods []) stay
      = c.wordPark behind wide ord d rods (c.live.map fun l => (l, physOf t c.blk.vf (a.ea l))) k true := by
  rw [← waitPart_word hk] at hw
  rw [Ctx.waitLoad_of_held hw, Ctx.park_word hk, waitPart_word hk]
  rfl
end


/-- Settles O43: each word's effect once its checks pass, the first accesses of a load that starts, and what a relaxed access may return. -/
theorem loadsAndStores : Obligations.LoadsAndStores := by
  intro h sz ord wide sc d ad s c t n tainted sh st sx good clean zeros reads loads queued
  refine ⟨fun hi hg hc => ?_, fun hi hg hc => ?_, fun hi hg hc => ?_, fun hi hg => ?_, fun hi hg => ?_, fun hi hg => exec_stk hi hg, ?_, ?_, ?_, ?_⟩
  · refine (exec_loadOp (acc := fun s c => { sharedAccess s c (sharedEA c.w ad) with bad := addrPois ad c.w 1 }) (execLds h sz ord d ad s) hi rfl rfl hg hc).trans ?_
    rw [loadParts_eq]
    rfl
  · refine (exec_loadOp (acc := fun s c => { scratchAccess s c 1 fun l => (scratchEA c.w ad l).toNat with bad := addrPois ad c.w 2 })
      (execLdx h sz ord sc d ad s) hi rfl rfl hg hc).trans ?_
    rw [loadParts_eq]
    rfl
  · exact exec_loadOp_stack (acc := fun s c => { stackAccess s c (stackEA c.w ad) with bad := addrPois ad c.w 1 }) (execLdk h sz d ad s) hi rfl rfl hg hc
  · refine (exec_storeOp (acc := fun s c => sharedAccess s c (sharedEA c.w ad)) (execSts h sz ord d ad s) hi rfl rfl hg).trans ?_
    simp only [storeParts_map]
    rfl
  · refine (exec_storeOp (acc := fun s c => scratchAccess s c 1 fun l => (scratchEA c.w ad l).toNat) (execStx h sz ord sc d ad s) hi rfl rfl hg).trans ?_
    simp only [storeParts_map]
    rfl
  · intro hi k sw at_ part rods helpers stays goes parked got behind w hg hc
    have hpark : ∀ (u : State) (ls : List Nat) (woken : Bool), c.wordPark u wide ord d rods (ls.map fun l => (l, at_ l)) k woken = parked u ls woken := by
      intro u ls woken
      simp only [Ctx.wordPark, List.map_eq_nil_iff]
      rfl
    have hex := exec_ldw hi rfl hg hc
    refine ⟨fun hw => hex.trans ?_, fun hw => hex.trans ?_⟩
    · exact congrArg (fun u => (.next (c.after u) : Out)) ((Ctx.waitLoad_word_free (a := sw) rfl hw).trans (hpark _ stays false))
    · exact congrArg (fun u => (.next (c.after u) : Out)) ((Ctx.waitLoad_word_held (a := sw) rfl hw).trans (hpark behind c.live true))
  · intro s r b w l first hb hw zero now starts
    exact ⟨fun h => (State.startLoad_held hw h first).imp fun v hv => hv.imp fun m ⟨hs, hl, hid, hr, hm⟩ => ⟨hs, hl, hid, hr, by rw [hm, List.append_nil]⟩,
      fun h hr hn hx hq => State.startLoad_free hb hw h hr hn hx hq first⟩
  · intro s core floor a n pick w q r words
    refine ⟨⟨s.undone core w q floor a n pick, ?_, fun p hp => ?_, fun ⟨i, hi, h⟩ => State.undone_of_own hi h, State.readAt_of_undone,
      fun hb hu k hk => State.readAt_of_newest hb hu hk⟩, State.readAt_le_looseRead s core w q floor a n pick, State.looseRead_of_past, ?_⟩
    · exact congrArg Prod.fst (State.looseRead_eq ..)
    · exact State.mem_unordered (State.mem_undone hp)
    · show (s.looseRead core w q floor a n pick).2.runs = _ ∧ (s.looseRead core w q floor a n pick).2.v = _ ∧ (s.looseRead core w q floor a n pick).2.late = _
        ∧ (s.looseRead core w q floor a n pick).2.storeQ = _
      rw [State.looseRead_eq]
      split <;> exact ⟨rfl, rfl, rfl, rfl⟩
  · intro s core pick p x h
    obtain ⟨y, hy, rfl⟩ := State.newerBytes_eq_some h
    obtain ⟨hp, hm, hme, hs⟩ := State.mem_newer hy
    exact ⟨y, hp, hm, hme, hs, rfl, rfl⟩

end Sys2Proof.Machine
end

section
/-!
Atomics (R143 to R145): what the word puts behind the store queue, and what the entry does when it leaves.
-/
namespace Sys2Proof.Machine

variable {i : Instr} {s t : State} {c : Ctx} {r : WarpRef} {b : Block} {w : Warp} {e : StoreEntry}

/-! ### The word -/

theorem orderRel_iff (o : Order) : orderRel o = true ↔ o = .rel ∨ o = .ar := by cases o <;> decide
theorem orderAcq_iff (o : Order) : orderAcq o = true ↔ o = .acq ∨ o = .ar := by cases o <;> decide

/-- What a lane of an atomic receives, before it acts. -/
def atomLate (t : State) (c : Ctx) (a : Access) (op : AtomOp) (ord : Order) : Option Nat → List Late
  | some d => [{
      id := t.nextId, kind := .load, writes := c.lanes.flatMap fun l => loadWrites d l (List.replicate (atomBytes op) 0),
      rods := accessRods t c a c.live (atomBytes op), acq := orderAcq ord, queued := true }]
  | none => []
/-- What an atomic puts behind the store queue. -/
def atomEntry (t : State) (c : Ctx) (a : Access) (op : AtomOp) (ord : Order) (sc : Scope) (d : Option Nat) (b c0 : Nat) (x : StoreSpace) : StoreEntry :=
  let rods := accessRods t c a c.live (atomBytes op)
  { space := x, addr := 0, bytes := [], rel := if ord = .rel ∨ ord = .ar then some sc else none, rods := rods, lost := false, seq := t.nextId,
    after := c.w.afterIds rods
    atom := some {
      op := op, order := ord, lanes := c.live.map fun l => (l, placeOf t c x (a.ea l), atomArg op c.w l b, atomArg op c.w l c0), result := d.map fun d => (t.nextId, d) } }
def Ctx.queueAtom (c : Ctx) (t : State) (a : Access) (op : AtomOp) (ord : Order) (sc : Scope) (d : Option Nat) (b c0 : Nat) (x : StoreSpace) : State :=
  let u := t.closePlaces c.ref (c.live.map fun l => { lane := l, reg := 0, space := x, addr := placeOf t c x (a.ea l), len := atomBytes op })
  (({ u with nextId := t.nextId + 1 } : State).mapWarp c.ref fun w => { w with
    late := w.late ++ atomLate t c a op ord d
    storeQ := w.storeQ ++ [atomEntry t c a op ord sc d b c0 x] }).drainAll c.ref

theorem exec_atomOp (o : Out) {op : AtomOp} {ord : Order} {sc : Scope} {d : Option Nat} {b c0 : Nat} {x : StoreSpace} {acc : State → Ctx → Access}
    (h : Issues i s c t) (he : exec i s = o) (ho : o = atomOp i s op ord sc d b c0 x acc) (hf : (acc t c).Fits c (atomBytes op))
    (hc : (acc t c).Clean c (atomBytes op)) :
    exec i s = .next (c.after (if c.act = 0 then t else c.queueAtom t (acc t c) op ord sc d b c0 x)) := by
  refine exec_after o h he ho ?_
  simp only [hf.checks hc, beq_iff_eq]
  by_cases h0 : c.act = 0
  · simp only [h0, if_true]
  · simp only [h0, if_false, orderRel_iff]
    cases d <;> rfl

section
variable {hd : Hdr} {op : AtomOp} {ord : Order} {sc : Scope} {d a cc : BitVec 10} {b : BitVec 8}

theorem toNat_setWidth_reg (b : BitVec 8) : (b.setWidth 10).toNat = b.toNat := by
  rw [BitVec.toNat_setWidth, Nat.mod_eq_of_lt (by omega)]
theorem exec_atoms (h : Issues (.atoms hd op ord d a b cc) s c t) {x : Access} (hx : (sharedAccess t c fun l => (c.v l a).toNat) = x)
    (hf : x.Fits c (atomBytes op)) (hc : x.Clean c (atomBytes op)) : exec (.atoms hd op ord d a b cc) s
      = .next (c.after (if c.act = 0 then t else c.queueAtom t x op ord .core (some d.toNat) (b.setWidth 10).toNat cc.toNat .shared)) := by
  subst hx
  rw [toNat_setWidth_reg]
  exact exec_atomOp (acc := fun s c => sharedAccess s c fun l => (c.w.rv l a.toNat).toNat) (execAtoms hd op ord d a b cc s) h rfl rfl hf hc
theorem exec_atomx (h : Issues (.atomx hd op ord sc d a b cc) s c t) {x : Access} (hx : (scratchAccess t c 1 fun l => (c.v64 l a).toNat) = x)
    (hf : x.Fits c (atomBytes op)) (hc : x.Clean c (atomBytes op)) : exec (.atomx hd op ord sc d a b cc) s
      = .next (c.after (if c.act = 0 then t else c.queueAtom t x op ord sc (some d.toNat) (b.setWidth 10).toNat cc.toNat .scratch)) := by
  subst hx
  rw [toNat_setWidth_reg]
  exact exec_atomOp (acc := fun s c => scratchAccess s c 1 fun l => (c.w.rv64 l a.toNat).toNat) (execAtomx hd op ord sc d a b cc s) h rfl rfl hf hc
theorem exec_redx (h : Issues (.redx hd op ord sc a b) s c t) {x : Access} (hx : (scratchAccess t c 1 fun l => (c.v64 l a).toNat) = x)
    (hf : x.Fits c (atomBytes op)) (hc : x.Clean c (atomBytes op)) : exec (.redx hd op ord sc a b) s
      = .next (c.after (if c.act = 0 then t else c.queueAtom t x op ord sc none (b.setWidth 10).toNat (0 : BitVec 10).toNat .scratch)) := by
  subst hx
  rw [toNat_setWidth_reg]
  exact exec_atomOp (acc := fun s c => scratchAccess s c 1 fun l => (c.w.rv64 l a.toNat).toNat) (execRedx hd op ord sc a b s) h rfl rfl hf hc
theorem Ctx.live_nil (h : c.act = 0) : c.live = [] := by
  rw [Ctx.live, h, Mask.lanes_zero]
end

/-! ### An atomic that leaves the queue -/

/-- An atomic alone in its queue leaves it at once, where nothing holds it. -/
theorem Oldest.drainAll (h : Oldest s r w e []) (hf : e.fut = none) : s.drainAll r = ((s.setWarp r { w with storeQ := [] }).leaveQueue r e).makeLoads r := by
  simp only [State.drainAll, h.warp, h.queue, Option.map_some, List.length_cons, List.length_nil, Option.getD_some, State.drain, h.drainOne hf]

/-- The lanes of an atomic act one after the other, each on what the one before left (R138). -/
theorem State.foldl_atomLane (s : State) (r : WarpRef) (core : Nat) (sp : StoreSpace) (op : AtomOp) (ys : List (Nat × Nat × Nat × Nat)) (acc : List (Nat × Option Nat)) :
    ys.foldl (fun (x : List (Nat × Option Nat) × State) y =>
      let z := x.2.atomLane r core sp op y.2.1 y.2.2.1 y.2.2.2
      (x.1 ++ [(y.1, z.1)], z.2)) (acc, s) = (acc ++ (s.atomLanes r core sp op ys).1, (s.atomLanes r core sp op ys).2) := by
  induction ys generalizing s acc with
  | nil => simp [State.atomLanes]
  | cons y ys ih => simp only [List.foldl_cons, ih, State.atomLanes, List.append_assoc, List.singleton_append]

theorem State.leaveQueue_atom (hr : e.rel = none) {a : QueuedAtomic} (ha : e.atom = some a) : s.leaveQueue r e = s.performAtomic r e.space a := by
  simp only [State.leaveQueue, State.beforeRelease, ha, hr]
theorem State.performAtomic_of_none (hb : s.block? r.blk = some b) {sp : StoreSpace} {a : QueuedAtomic} (ha : a.result = none) :
    let got := (s.atomLanes r b.core sp a.op a.lanes).2
    s.performAtomic r sp a = if a.order = .acq ∨ a.order = .ar then got.observe r else got := by
  simp only [State.performAtomic, hb, ha, orderAcq_iff]
theorem State.performAtomic_of_some (hb : s.block? r.blk = some b) {sp : StoreSpace} {a : QueuedAtomic} {id d : Nat} (ha : a.result = some (id, d)) :
    let acts := s.atomLanes r b.core sp a.op a.lanes
    let got := acts.2.mapWarp r fun w => w.takeAtomic id d sp (atomBytes a.op) acts.1
    s.performAtomic r sp a = if a.order = .acq ∨ a.order = .ar then got.observe r else got := by
  simp only [State.performAtomic, hb, ha, orderAcq_iff]

/-! ### One lane of an atomic -/

theorem anyPois_iff {marks : List Nat} {a n : Nat} (hn : 0 < n) : anyPois marks (fun _ => false) a n = true ↔ ∃ i ∈ marks, a < 4 * i + 4 ∧ 4 * i < a + n := by
  simp [anyPois, meets, hn]
theorem anyPois_eq_false {marks : List Nat} {a n : Nat} (hn : 0 < n) (h : ∀ i ∈ marks, ¬(a < 4 * i + 4 ∧ 4 * i < a + n)) : anyPois marks (fun _ => false) a n = false :=
  Bool.eq_false_iff.2 fun hp => have ⟨i, hi, hm⟩ := (anyPois_iff hn).1 hp; h i hi hm
theorem atomBytes_pos (op : AtomOp) : 0 < atomBytes op := by
  unfold atomBytes
  split <;> decide

/-- Performing writes changes the scratchpad and no other memory or block. -/
theorem State.perform_frame (s : State) (sel : Flight → Bool) (sc : Scope) : (s.perform sel sc).mm = s.mm ∧ (s.perform sel sc).host = s.host
    ∧ (s.perform sel sc).stagingArea = s.stagingArea ∧ (s.perform sel sc).blocks = s.blocks := by
  have hfold : ∀ (xs : List (Bool × Flight)) (u : State), let v := xs.foldl (fun t x => t.spWrite x.2.addr x.2.bytes (some (x.2.core, x.2.die))) u
      v.mm = u.mm ∧ v.host = u.host ∧ v.stagingArea = u.stagingArea ∧ v.blocks = u.blocks := by
    intro xs
    induction xs with
    | nil => exact fun u => ⟨rfl, rfl, rfl, rfl⟩
    | cons x xs ih =>
      intro u
      obtain ⟨hm, -, hh, hst⟩ := u.spWrite_mem x.2.addr x.2.bytes (some (x.2.core, x.2.die))
      obtain ⟨-, hb, -, -⟩ := u.spWrite_frame x.2.addr x.2.bytes (some (x.2.core, x.2.die))
      obtain ⟨hm', hh', hst', hb'⟩ := ih (u.spWrite x.2.addr x.2.bytes (some (x.2.core, x.2.die)))
      exact ⟨hm'.trans hm, hh'.trans hh, hst'.trans hst, hb'.trans hb⟩
  cases sc with
  | core | die => exact ⟨rfl, rfl, rfl, rfl⟩
  | pkg | sys => exact hfold _ _

theorem State.atomLane_scratch_pois {core : Nat} {op : AtomOp} {a x y : Nat} (h : ∃ i ∈ (s.settle a (atomBytes op)).spPois, a < 4 * i + 4 ∧ 4 * i < a + atomBytes op) :
    s.atomLane r core .scratch op a x y = (none, s.settle a (atomBytes op)) := by
  simp only [State.atomLane, State.atomBad, (anyPois_iff (atomBytes_pos op)).2 h, if_true]
theorem State.atomLane_scratch {core : Nat} {op : AtomOp} {a x y : Nat}
    (h : ∀ i ∈ (s.settle a (atomBytes op)).spPois, ¬(a < 4 * i + 4 ∧ 4 * i < a + atomBytes op)) :
    let u := s.settle a (atomBytes op)
    let m := leValue (readBytes u.sp a (atomBytes op))
    s.atomLane r core .scratch op a x y = (some m, u.spWrite a (leBytes (atomBytes op) (atomNew op m x y)) (some (core, false))) := by
  simp only [State.atomLane, State.atomBad, anyPois_eq_false (atomBytes_pos op) h, Bool.false_eq_true, if_false]
  rfl
theorem State.atomLane_shared_pois {core : Nat} {op : AtomOp} {a x y : Nat} (hb : s.block? r.blk = some b)
    (h : ∃ i ∈ b.sharedPois, a < 4 * i + 4 ∧ 4 * i < a + atomBytes op) : s.atomLane r core .shared op a x y = (none, s) := by
  simp only [State.atomLane, State.atomBad, hb, Option.map_some, Option.getD_some, (anyPois_iff (atomBytes_pos op)).2 h, if_true]
theorem State.atomLane_shared {core : Nat} {op : AtomOp} {a x y : Nat} (hb : s.block? r.blk = some b)
    (h : ∀ i ∈ b.sharedPois, ¬(a < 4 * i + 4 ∧ 4 * i < a + atomBytes op)) :
    let m := leValue (b.sharedRead a (atomBytes op))
    s.atomLane r core .shared op a x y = (some m, s.setBlock (b.sharedWrite a (leBytes (atomBytes op) (atomNew op m x y)))) := by
  simp only [State.atomLane, State.atomBad, State.rmwShared, hb, Option.map_some, Option.getD_some, anyPois_eq_false (atomBytes_pos op) h, Bool.false_eq_true, if_false]

/-! ### What the lanes receive -/

theorem find?_mapIf {α : Type} {p : α → Bool} {f : α → α} {xs : List α} {x : α} (h : xs.find? p = some x) (hf : p (f x) = true) : (mapIf p f xs).find? p = some (f x) := by
  induction xs with
  | nil => exact absurd h (by simp)
  | cons y ys ih =>
    by_cases hy : p y = true
    · rw [List.find?_cons_of_pos hy] at h
      cases h
      simp only [mapIf, hy, if_true, List.find?_cons_of_pos hf]
    · rw [List.find?_cons_of_neg hy] at h
      simp only [mapIf, hy, Bool.false_eq_true, if_false, List.find?_cons_of_neg hy, ih h]

theorem dite_run_getD {bs : List Byte} {a n : Nat} (hn : bs.length = n) (k : Nat) (old : Byte) :
    (if h : a ≤ k ∧ k - a < bs.length then bs[k - a]'h.2 else old) = if a ≤ k ∧ k < a + n then (bs[k - a]?).getD 0 else old := by
  by_cases h : a ≤ k ∧ k - a < bs.length
  · rw [dif_pos h, if_pos (by omega), List.getElem?_eq_getElem h.2, Option.getD_some]
  · rw [dif_neg h, if_neg (by omega)]
theorem State.block?_setBlock_same {k : Nat} {b' : Block} (hb : s.block? k = some b) (hid : b'.id = b.id) : (s.setBlock b').block? k = some b' := by
  rw [State.block?_setBlock, if_pos (hid.trans (State.block?_id hb)), hb, Option.map_some]

/-- Settles O46: the word's entry, the entry that leaves, each lane on what the one before left, and what it returns. -/
theorem atomicsReadModifyWrite : Obligations.AtomicsReadModifyWrite := by
  constructor
  · intro h op o sc d a b e s c t n sh sx good arg rel queued at_
    have hqueue : ∀ (sp : StoreSpace) (x : Access) (sc : Scope) (cmp : BitVec 10) (d : Option Nat), c.after (c.queueAtom t x op o sc d (b.setWidth 10).toNat cmp.toNat sp)
        = queued sp x (fun l => placeOf t c sp (x.ea l)) (rel sc) cmp d := by
      intro sp x sc cmp d
      cases d <;> rfl
    refine ⟨fun i hi h h0 => ?_, fun h0 => ⟨fun hi hg => ?_, fun hi hg => ?_, fun hi hg => ?_⟩⟩
    · have hl : ∀ {P : Nat → Prop}, ∀ l ∈ c.live, P l := by simp [Ctx.live_nil h0]
      simp only [List.mem_cons, List.not_mem_nil, or_false] at hi
      obtain rfl | rfl | rfl := hi
      · rw [exec_atoms h rfl hl hl, if_pos h0]
      · rw [exec_atomx h rfl hl hl, if_pos h0]
      · rw [exec_redx h rfl hl hl, if_pos h0]
    · rw [exec_atoms hi rfl (fun l hl => ⟨(hg l hl).1, (hg l hl).2.1⟩) fun l hl => (hg l hl).2.2, if_neg h0, hqueue]
      rfl
    · rw [exec_atomx hi rfl (fun l hl => ⟨(hg l hl).1, (hg l hl).2.1⟩) fun l hl => (hg l hl).2.2, if_neg h0, hqueue]
      rfl
    · rw [exec_redx hi rfl (fun l hl => ⟨(hg l hl).1, (hg l hl).2.1⟩) fun l hl => (hg l hl).2.2, if_neg h0, hqueue]
      rfl
  · intro s r b hb
    refine ⟨fun w e hw hq hf hl hr ha hm => (Oldest.mk hw hq hl hr ha hm).drainAll hf, ?_, ?_, ?_⟩
    · intro e a hr ha acts got
      have hacts : acts = s.atomLanes r b.core e.space a.op a.lanes := (State.foldl_atomLane ..).trans (by rw [List.nil_append])
      rw [State.leaveQueue_atom hr ha]
      cases hres : a.result with
      | none =>
        have hgot : got = acts.2 := by simp only [got, hres]
        rw [State.performAtomic_of_none hb hres, hgot, hacts]
      | some x =>
        have hgot : got = acts.2.mapWarp r fun w => w.takeAtomic x.1 x.2 e.space (atomBytes a.op) acts.1 := by
          simp only [got, hres]
          rfl
        rw [State.performAtomic_of_some hb hres, hgot, hacts]
    · intro core op addr x y n u m k
      obtain ⟨hmm, hhost, hst, hblk⟩ := s.perform_frame (fun f => meets f.addr f.bytes.length addr n) .pkg
      obtain ⟨hmm', hsp', hhost', hst'⟩ := u.spWrite_mem addr (leBytes n (atomNew op m x y)) (some (core, false))
      obtain ⟨-, hblk', -, -⟩ := u.spWrite_frame addr (leBytes n (atomNew op m x y)) (some (core, false))
      refine ⟨State.atomLane_scratch_pois, fun h => ⟨_, State.atomLane_scratch h, fun a => ?_, hmm'.trans hmm, hhost'.trans hhost, hst'.trans hst, hblk'.trans hblk⟩,
        State.atomLane_shared_pois hb, fun h => ⟨_, _, State.atomLane_shared hb h, State.block?_setBlock_same hb rfl, fun a => ?_, rfl, rfl, rfl⟩⟩
      · exact (congrArg (Sparse.get 0 · a) hsp').trans ((get_writeBytes ..).trans (dite_run_getD (leBytes_length n _) a _))
      · exact (Block.sharedByte_sharedWrite ..).trans (dite_run_getD (leBytes_length n _) a _)
    · intro w id d n sp vals l hl here
      have hid : (l.id == id) = true := List.find?_some (p := fun x : Late => x.id == id) hl
      refine ⟨_, find?_mapIf (p := fun x : Late => x.id == id) hl hid, rfl, congrArg _ (List.flatMap_congr fun x _ => ?_)⟩
      cases x.2 <;> rfl

end Sys2Proof.Machine
end

section
/-!
Fences and rods (R146 to R151, R178, R179, R263).
-/
namespace Sys2Proof.Machine

variable {i : Instr} {s t : State} {c : Ctx}

/-- A word whose meaning is `o` and whose body holds the run at it. -/
theorem exec_holds (o : Out) {body : Ctx → State → Res} {u : State} (h : Issues i s c t) (he : exec i s = o) (ho : o = issue i s body) (hb : body c t = .hold u) :
    exec i s = .next u := by
  rw [he, ho, issue_of_issues h, hb]

theorem Ctx.act_beq (h : c.act ≠ 0) : (c.act == 0) = false := beq_eq_false_iff_ne.2 h
theorem Ctx.flushed_eq (u : State) (sc : Scope) : c.flushed u sc = if sc = .sys then c.blockRun u .flush else u := by
  simp only [Ctx.flushed, beq_iff_eq]

/-! ### FENCE and RODDEF -/

theorem exec_fence {h : Hdr} {k : FenceKind} {sc : Scope} (hi : Issues (.fence h k sc) s c t) (hact : c.act ≠ 0) : exec (.fence h k sc) s = .next (c.after (match k with
    | .acq => t.observe c.ref
    | .rel => c.flushed (t.performWarp c.ref sc) sc
    | .full => c.flushed ((t.performWarp c.ref sc).observe c.ref) sc)) := by
  refine exec_after (execFence h k sc s) hi rfl rfl ?_
  simp only [Ctx.act_beq hact]
  cases k <;> rfl
theorem exec_roddef {h : Hdr} {rs : RodSpace} {k : BitVec 4} {a b : BitVec 7} (hi : Issues (.roddef h rs k a b) s c t) (hact : c.act ≠ 0) :
    exec (.roddef h rs k a b) s = .next (c.after (t.mapBlock c.ref.blk fun x =>
      { x with rods := listSet x.rods (16 + k.toNat) (rodRanges t c.blk.vf rs (c.w.rs64 a.toNat) (c.s b)) })) := by
  refine exec_after (execRoddef h rs k a b s) hi rfl rfl ?_
  simp only [Ctx.act_beq hact]
  rfl

/-! ### The views of an acquire range fence, group by group (R261, R263, R269) -/

/-- A group whose stamp has reached the generation of its source tile, and not poisoned. -/
def State.freshGroup (s : State) (vf : Nat) (g : Nat × Nat) : Prop := s.staleOf (s.sampleGroups vf [g]) = [] ∧ s.poisonedOf (s.sampleGroups vf [g]) = none

section
variable {vf : Nat} {g : Nat × Nat} {xs zs : List (Nat × Nat)} {w : ViewWait}

theorem State.walkRest_of_fresh (h : s.freshGroup vf g) : s.walkRest vf (g :: zs) = s.walkRest vf zs := by
  obtain ⟨w, hw⟩ : ∃ w, s.sampleGroups vf [g] = [w] := ⟨_, rfl⟩
  obtain ⟨hs, hp⟩ := h
  rw [hw] at hs hp
  simp [State.walkRest, hw, hs, hp]
theorem State.walkRest_append (h : ∀ x ∈ xs, s.freshGroup vf x) : s.walkRest vf (xs ++ zs) = s.walkRest vf zs := by
  induction xs with
  | nil => rfl
  | cons x xs ih =>
    rw [List.forall_mem_cons] at h
    rw [List.cons_append, State.walkRest_of_fresh h.1, ih h.2]
theorem State.walkRest_done (h : ∀ x ∈ xs, s.freshGroup vf x) : s.walkRest vf xs = .done := by
  have := State.walkRest_append (zs := []) h
  rwa [List.append_nil] at this
theorem State.walkRest_stale (hg : s.sampleGroups vf [g] = [w]) (hs : s.staleOf [w] ≠ []) : s.walkRest vf (g :: zs) = .wait w zs := by
  simp [State.walkRest, hg, hs]
theorem State.walkRest_poisoned (hg : s.sampleGroups vf [g] = [w]) (hs : s.staleOf [w] = []) (hp : s.poisonedOf [w] ≠ none) : s.walkRest vf (g :: zs) = .trap w.group := by
  simp [State.walkRest, hg, hs, Option.isSome_iff_ne_none.2 hp]
end

/-! ### FENCER -/

section
variable {h : Hdr} {sc : Scope} {all dyn : Bool} {mask : BitVec 16} {sA : BitVec 7}

theorem exec_fencer_release (hi : Issues (.fencer h true all sc dyn mask sA) s c t) (hact : c.act ≠ 0) :
    let m := fencerMask c.blk c.w all dyn mask sA
    exec (.fencer h true all sc dyn mask sA) s = .next (c.after (if m.2 = true then c.flushed (t.performWarp c.ref sc) sc
      else if m.1 = 0 then t else c.flushed (t.performRods c.ref m.1 sc) sc)) := by
  refine exec_after (execFencer h true all sc dyn mask sA s) hi rfl rfl ?_
  simp only [Ctx.act_beq hact, beq_iff_eq]
  rfl

/-- What an acquire range fence orders once its views are fresh. -/
def Ctx.orderRods (c : Ctx) (t : State) (m : Word × Bool) : State := if m.2 = true then t.observe c.ref else if m.1 = 0 then t else t.acquireRods c.ref m.1

variable (hi : Issues (.fencer h false all sc dyn mask sA) s c t) (hact : c.act ≠ 0) {m : Word × Bool} (hm : fencerMask c.blk c.w all dyn mask sA = m)
include hi hact hm
theorem exec_fencer_sampled (hs : c.run.samples = some []) : exec (.fencer h false all sc dyn mask sA) s = .next (c.after (c.orderRods t m)) := by
  subst hm
  refine exec_after (execFencer h false all sc dyn mask sA s) hi rfl rfl ?_
  simp only [Ctx.act_beq hact, hs, beq_self_eq_true, beq_iff_eq]
  rfl

variable (hs : c.run.samples = none)
include hs
theorem exec_fencer_passes (hw : t.walkRest c.blk.vf (fenceViews t c.blk m.1) = .done) (hl : (m.2 && c.w.late.any fun l => l.kind == .load) = false) :
    exec (.fencer h false all sc dyn mask sA) s = .next (c.after (c.orderRods t m)) := by
  subst hm
  refine exec_after (execFencer h false all sc dyn mask sA s) hi rfl rfl ?_
  have hw' : t.walkGroups c.blk.vf none (fenceViews t c.blk (fencerMask c.blk c.w all dyn mask sA).1) = .done := hw
  simp only [Ctx.act_beq hact, hs, Option.bind_none, Option.map_none, Option.getD_none, hw', hl, beq_iff_eq]
  rfl
theorem exec_fencer_loads (hw : t.walkRest c.blk.vf (fenceViews t c.blk m.1) = .done) (hl : (m.2 && c.w.late.any fun l => l.kind == .load) = true) :
    exec (.fencer h false all sc dyn mask sA) s = .next (c.holdSamples t []) := by
  subst hm
  refine exec_holds (execFencer h false all sc dyn mask sA s) hi rfl rfl ?_
  have hw' : t.walkGroups c.blk.vf none (fenceViews t c.blk (fencerMask c.blk c.w all dyn mask sA).1) = .done := hw
  simp only [Ctx.act_beq hact, hs, Option.bind_none, Option.map_none, Option.getD_none, hw', hl]
  rfl
theorem exec_fencer_stale {w : ViewWait} {zs : List (Nat × Nat)} (hw : t.walkRest c.blk.vf (fenceViews t c.blk m.1) = .wait w zs) :
    exec (.fencer h false all sc dyn mask sA) s = .next (c.holdSamples t [w]) := by
  subst hm
  refine exec_holds (execFencer h false all sc dyn mask sA s) hi rfl rfl ?_
  have hw' : t.walkGroups c.blk.vf none (fenceViews t c.blk (fencerMask c.blk c.w all dyn mask sA).1) = .wait w zs := hw
  simp only [Ctx.act_beq hact, hs, Option.bind_none, Option.map_none, Option.getD_none, hw']
  rfl
theorem exec_fencer_poisoned {g : Nat} (hw : t.walkRest c.blk.vf (fenceViews t c.blk m.1) = .trap g) :
    exec (.fencer h false all sc dyn mask sA) s = .next (s.trapWord c.ref c.run.pc c.run.lanes c.w (groupTrap causeVpois g)) := by
  subst hm
  refine exec_traps (execFencer h false all sc dyn mask sA s) hi rfl rfl ?_
  have hw' : t.walkGroups c.blk.vf none (fenceViews t c.blk (fencerMask c.blk c.w all dyn mask sA).1) = .trap g := hw
  simp only [Ctx.act_beq hact, hs, Option.bind_none, Option.map_none, Option.getD_none, hw']
  rfl
end

/-- Settles O48: the three fences, a release range fence, an acquire one by what its views have come to, and RODDEF. -/
theorem fencesAndRods : Obligations.FencesAndRods := by
  intro h sc all dyn mask sA a b rs k s c t m flush order gs fresh acq hact
  have hflush : ∀ u, c.flushed u sc = flush u := fun u => Ctx.flushed_eq u sc
  refine ⟨fun hi => exec_fence hi hact, fun hi => ?_, fun hi => ?_, fun hi => ?_, fun hi hs => exec_fencer_sampled hi hact rfl hs,
    fun hi hs hf => ⟨fun hl => ?_, fun hm ⟨l, hl, hk⟩ => ?_⟩,
    fun hi hs xs g zs w hgs hf hg => ⟨fun hst => ?_, fun hst hp => ?_⟩, fun hi => exec_roddef hi hact⟩
  · rw [exec_fence hi hact]
    exact congrArg _ (congrArg _ (hflush _))
  · rw [exec_fence hi hact]
    exact congrArg _ (congrArg _ (hflush _))
  · rw [exec_fencer_release hi hact]
    simp only [hflush]
    rfl
  · refine exec_fencer_passes hi hact rfl hs (State.walkRest_done hf) ?_
    rw [Bool.and_eq_false_iff, List.any_eq_false]
    simpa using hl
  · refine exec_fencer_loads hi hact rfl hs (State.walkRest_done hf) ?_
    rw [Bool.and_eq_true, List.any_eq_true]
    exact ⟨hm, l, hl, beq_iff_eq.2 hk⟩
  · refine exec_fencer_stale hi hact rfl hs (zs := zs) ((congrArg _ hgs).trans ?_)
    rw [State.walkRest_append hf, State.walkRest_stale hg hst]
  · refine ⟨_, ?_, exec_fencer_poisoned hi hact rfl hs (g := w.group) ((congrArg _ hgs).trans ?_)⟩
    · rfl
    · rw [State.walkRest_append hf, State.walkRest_poisoned hg hst hp]

end Sys2Proof.Machine
end

section
/-!
Futures and continuations (R152 to R159): reads of futures, their resolution and registration, at once or through the store queue.
-/
namespace Sys2Proof.Machine

variable {i : Instr} {s t : State} {c : Ctx} {hd : Hdr} {wide : Bool} {d : BitVec 10} {ad : MAddr} {a : Access} {rods : Word}

/-! ### Reads of futures (R154) -/

/-- The access of a lane to its future. -/
def futurePart (t : State) (c : Ctx) (a : Access) (wide : Bool) (d : BitVec 10) (l : Nat) : Part :=
  { lane := l, reg := d.toNat, space := .scratch, addr := physOf t c.blk.vf (a.ea l), len := 16, skip := if wide then 0 else 8 }

theorem exec_fpoll (h : Issues (.fpoll hd wide d ad) s c t) (ha : futureAccess t c ad = a) (hf : a.Fits c 16) (hc : a.Clean c 16) : exec (.fpoll hd wide d ad) s
    = .next (c.after (if c.act = 0 then t else t.startLoad c.ref {
        id := 0, kind := .load, writes := c.zeros a d.toNat 16 (if wide then 4 else 2), rods := accessRods t c a c.live 16, poll := true,
        rest := (c.lanes.filter fun l => c.act.has l || !a.fails l 16 16).map (futurePart t c a wide d) } fun _ => true)) := by
  subst ha
  refine exec_after (execFpoll hd wide d ad s) h rfl rfl ?_
  simp only [hf.checks hc, beq_iff_eq]
  rfl
theorem exec_ldf (h : Issues (.ldf hd wide d ad) s c t) (ha : futureAccess t c ad = a) (hf : a.Fits c 16) (hc : a.Clean c 16) : exec (.ldf hd wide d ad) s
    = .next (c.after (c.waitLoad t a 16 (if wide then 4 else 2) (.future wide d.toNat (accessRods t c a c.live 16) []) fun l => !futureRead (a.view l 16))) := by
  subst ha
  refine exec_after (execLdf hd wide d ad s) h rfl rfl ?_
  simp only [hf.checks hc]

/-- LDF's parked lanes, each with its place. -/
def Ctx.futurePark (c : Ctx) (u : State) (wide : Bool) (d : BitVec 10) (rods : Word) (xs : List (Nat × Nat)) (woken : Bool) : State :=
  if xs = [] then u else xs.foldl (fun u x => u.waitOn c.ref x.2 16 woken) (c.blockRun u (.future wide d.toNat rods xs))
theorem waitPart_future : (fun l => waitPart (.future wide d.toNat rods []) l (physOf t c.blk.vf (a.ea l))) = futurePart t c a wide d := rfl
theorem Ctx.park_future (u : State) (xs : List (Nat × Nat)) (woken : Bool) :
    c.park u ((Wait.future wide d.toNat rods []).withPlaces xs) woken = c.futurePark u wide d rods xs woken := Ctx.park_withPlaces rfl woken
theorem futurePart_writes (l : Nat) (bs : List Byte) : (futurePart t c a wide d l).writes bs = loadWrites d.toNat l (if wide then bs else bs.drop 8) := by
  cases wide <;> rfl

theorem Ctx.waitLoad_future_free {regs : Nat} {stay : Nat → Bool} (hw : (c.now t).heldNow rods (c.lanes.map (futurePart t c a wide d)) = false) :
    let goes := c.live.filter fun l => !stay l
    let helpers := c.lanes.filter fun l => !c.act.has l && !a.fails l 16 16
    let got := c.late ((t.closePlaces c.ref (c.live.map (futurePart t c a wide d))).readNow c.ref (c.live.map fun l => (physOf t c.blk.vf (a.ea l), 16))) .load rods
      (c.zeros a d.toNat 16 regs ++ (goes ++ helpers).flatMap fun l => loadWrites d.toNat l (if wide then a.view l 16 else (a.view l 16).drop 8))
    c.waitLoad t a 16 regs (.future wide d.toNat rods []) stay = c.futurePark (if goes ≠ [] then got.observe c.ref else got) wide d rods
      ((c.live.filter stay).map fun l => (l, physOf t c.blk.vf (a.ea l))) false := by
  rw [← waitPart_future] at hw
  rw [Ctx.waitLoad_of_free hw, Ctx.park_future, waitPart_future]
  simp only [← futurePart_writes (t := t) (c := c) (a := a), Wait.acquires, true_and]
  rfl
theorem Ctx.waitLoad_future_held {regs : Nat} {stay : Nat → Bool} (hw : (c.now t).heldNow rods (c.lanes.map (futurePart t c a wide d)) = true) :
    let zeros := c.zeros a d.toNat 16 regs
    let helpers := c.lanes.filter fun l => !c.act.has l && !a.fails l 16 16
    let behind := if zeros = [] ∧ helpers = [] then t else t.startLoad c.ref
      { id := 0, kind := .load, writes := zeros, rods := rods, rest := helpers.map (futurePart t c a wide d) } fun _ => true
    c.waitLoad t a 16 regs (.future wide d.toNat rods []) stay
      = c.futurePark behind wide d rods (c.live.map fun l => (l, physOf t c.blk.vf (a.ea l))) true := by
  rw [← waitPart_future] at hw
  rw [Ctx.waitLoad_of_held hw, Ctx.park_future, waitPart_future]
  rfl

/-! ### Resolutions of a word's lanes (R155) -/

/-- FRES and FFLT end: a lane that failed traps FDBL. -/
def Ctx.resolved (c : Ctx) (r : State × Option (Nat × Nat)) : State :=
  match r.2 with
  | none => r.1
  | some y => r.1.takeTrap c.ref c.run.pc c.run.lanes { cause := causeFdbl, info := BitVec.ofNat 32 (y.1 * 2 ^ 26 + y.2) }

section
variable {fault : Bool} (o : Out) (h : Issues i s c t) (he : exec i s = o) (ho : o = resolveOp i fault d ad s) (ha : futureAccess t c ad = a)
  (hf : a.Fits c 16)
include h he ho ha hf

theorem exec_resolveOp_idle (hact : c.act = 0) : exec i s = .next (c.after t) := by
  subst ha
  refine exec_after o h he ho ?_
  simp only [hf.trap, hact]
  rfl
theorem exec_resolveOp_now (hact : c.act ≠ 0) (hb : t.futureHeld c.ref (accessRods t c a c.live 16) = false) :
    let at_ : Nat → Nat := fun l => physOf t c.blk.vf (a.ea l)
    exec i s = .next (c.after (c.resolved (resolveLanes (fun s l => s.resolve? (at_ l) (c.v64 l d) fault (c.blk.launch % 2 ^ 16) (some c.blk.core))
      (fun s l => s.futureFound c.ref (at_ l)) c.live (t.performWarp c.ref .pkg)))) := by
  subst ha
  refine exec_after o h he ho ?_
  simp only [hf.trap, Ctx.act_beq hact, hb]
  rfl
theorem exec_resolveOp_later (hact : c.act ≠ 0) (hr : accessRods t c a c.live 16 = rods) (hb : t.futureHeld c.ref rods = true) :
    let at_ : Nat → Nat := fun l => physOf t c.blk.vf (a.ea l)
    exec i s = .next (c.after (c.resolved (resolveLanes (fun u l => u.queueResolve? c.ref rods t.nextId (at_ l) (c.v64 l d) fault)
      (fun s l => s.futureFound c.ref (at_ l)) c.live { t with nextId := t.nextId + 1 }))) := by
  subst ha hr
  refine exec_after o h he ho ?_
  simp only [hf.trap, Ctx.act_beq hact, hb]
  rfl
end

/-! ### Registrations of a word's lanes (R157) -/

theorem exec_freg (h : Issues (.freg hd d ad) s c t) (ha : futureAccess t c ad = a) (hf : fregTrap t c d a = none) {x : State × List (Nat × Nat)}
    (hx : t.registerLanes c.ref c.blk (accessRods t c a c.live 16) (c.live.map fun l => (physOf t c.blk.vf (a.ea l), physOf t c.blk.vf (c.v64 l d).toNat)) = x) :
    exec (.freg hd d ad) s = .next (c.after (if c.act = 0 then t else if x.2 = [] then x.1 else c.blockRun x.1 (.freg (accessRods t c a c.live 16) x.2))) := by
  subst ha hx
  refine exec_after (execFreg hd d ad s) h rfl rfl ?_
  simp only [hf, beq_iff_eq, List.isEmpty_iff]
  by_cases h0 : c.act = 0
  · simp only [h0, if_true]
  · simp only [h0, if_false]
    rfl

theorem State.registerLanes_now {r : WarpRef} {b : Block} (h : s.futureHeld r rods = false) (xs : List (Nat × Nat)) :
    s.registerLanes r b rods xs = (s.performWarp r .pkg).registerAll b xs := by
  simp only [State.registerLanes, h, Bool.false_eq_true, if_false]
theorem State.registerLanes_later {r : WarpRef} {b : Block} (h : s.futureHeld r rods = true) (xs : List (Nat × Nat)) :
    s.registerLanes r b rods xs = ({ s with nextId := s.nextId + 1 } : State).queueLinks r rods s.nextId xs := by
  simp only [State.registerLanes, h, if_true]

theorem State.foldl_register (s : State) (b : Block) (xs left : List (Nat × Nat)) :
    xs.foldl (fun (u : State × List (Nat × Nat)) y => match u.1.register? (b.link y) b.core with
      | some v => (v, u.2)
      | none => (u.1, u.2 ++ [y])) (s, left) = ((s.registerAll b xs).1, left ++ (s.registerAll b xs).2) := by
  induction xs generalizing s left with
  | nil => simp [State.registerAll]
  | cons x xs ih =>
    cases hx : s.register? (b.link x) b.core with
    | some v => simp only [List.foldl_cons, State.registerAll, hx, ih]
    | none => simp only [List.foldl_cons, State.registerAll, hx, ih, List.append_assoc, List.singleton_append]
theorem State.foldl_queueLink (s : State) (r : WarpRef) (rods : Word) (id : Nat) (xs left : List (Nat × Nat)) :
    xs.foldl (fun (u : State × List (Nat × Nat)) y => if 4096 ≤ u.1.linkCount (y.1 / 2 ^ 30) then (u.1, u.2 ++ [y])
      else (u.1.queueFuture r rods id { kind := .link, place := y.1, arg := y.2 }, u.2)) (s, left)
      = ((s.queueLinks r rods id xs).1, left ++ (s.queueLinks r rods id xs).2) := by
  induction xs generalizing s left with
  | nil => simp [State.queueLinks]
  | cons x xs ih =>
    have hc : Config.contEntries = 4096 := rfl
    by_cases hx : 4096 ≤ s.linkCount (x.1 / 2 ^ 30)
    · simp only [List.foldl_cons, State.queueLinks, hc, hx, if_true, ih, List.append_assoc, List.singleton_append]
    · simp only [List.foldl_cons, State.queueLinks, hc, hx, if_false, ih]

/-! ### One future (R155, R157) -/

theorem readBytes_length (m : Memory) (a n : Nat) : (readBytes m a n).length = n := by
  simp [readBytes]
theorem readBytes_writeBytes {bs : List Byte} {n : Nat} (m : Memory) (a : Nat) (hn : bs.length = n) : readBytes (writeBytes m a bs) a n = bs := by
  refine List.ext_getElem (by simp [readBytes, hn]) fun k h1 h2 => ?_
  simp only [readBytes, List.getElem_map, List.getElem_range, get_writeBytes]
  rw [dif_pos (by omega)]
  simp only [Nat.add_sub_cancel_left]
theorem get_writeBytes_outside {bs : List Byte} {n k a : Nat} (m : Memory) (hn : bs.length = n) (hk : k < a ∨ a + n ≤ k) :
    Sparse.get 0 (writeBytes m a bs) k = Sparse.get 0 m k := by
  rw [get_writeBytes, dif_neg (by omega)]

theorem get_writeBytes_one (m : Memory) (a v k : Nat) : Sparse.get 0 (writeBytes m a (leBytes 1 v)) k = if k = a then BitVec.ofNat 8 v else Sparse.get 0 m k := by
  simp only [leBytes, writeBytes, Sparse.get_set]

/-- The bytes of a future once it is resolved: STATE, TAG and VALUE are new, the others stay (Table 9-6). -/
def resolvedBytes (old : List Byte) (fault : Bool) (tag : Nat) (value : DWord) : List Byte :=
  leBytes 1 (u8 old 0 + (if fault then 2 else 1)) ++ (old.drop 1).take 1 ++ leBytes 2 tag ++ (old.drop 4).take 4 ++ leBytes 8 value.toNat
theorem resolvedBytes_length {old : List Byte} (h : old.length = 16) (fault : Bool) (tag : Nat) (value : DWord) : (resolvedBytes old fault tag value).length = 16 := by
  simp [resolvedBytes, leBytes_length, h]

/-- No run of the device is blocked in FREG. -/
def State.NoFreg (s : State) : Prop := ∀ k ∈ s.blocks, ∀ w ∈ k.warps, ∀ r ∈ w.runs, ∀ m xs, r.wait ≠ some (.freg m xs)
theorem State.feedTables_eq_self (h : s.NoFreg) : s.feedTables = s := by
  unfold State.feedTables
  refine (congrArg (List.foldl _ s) (?_ : _ = [])).trans rfl
  refine List.flatMap_eq_nil_iff.2 fun b hb => List.flatMap_eq_nil_iff.2 fun x hx => List.map_eq_nil_iff.2 (List.filter_eq_nil_iff.2 fun r hr => ?_)
  have hw := h b hb x.1 (List.of_mem_zip hx).1 r hr
  split
  next m xs he => exact absurd he (hw m xs)
  next => exact Bool.false_ne_true

section
variable {f tag core : Nat} {value : DWord} {fault : Bool}

theorem State.resolve?_eq_none (h : u8 (readBytes (s.settle f 16).sp f 16) 0 % 4 ≠ 0 ∨ s.claim? f ≠ none) : s.resolve? f value fault tag (some core) = none := by
  have hc : (u8 (readBytes (s.settle f 16).sp f 16) 0 % 4 != 0 || (s.claim? f).isSome) = true := by
    rw [Bool.or_eq_true, bne_iff_ne, Option.isSome_iff_ne_none]
    exact h
  simp only [State.resolve?, hc, if_true]
/-- The state that a resolution leaves where no link is registered for the future and no run is blocked in FREG. -/
theorem State.resolve?_eq_some (h : u8 (readBytes (s.settle f 16).sp f 16) 0 % 4 = 0) (hq : s.claim? f = none) : ∃ y, s.resolve? f value fault tag (some core) = some y
    ∧ ((∀ l ∈ (s.settle f 16).links, l.future ≠ f) → (s.settle f 16).NoFreg →
      y.sp = writeBytes (s.settle f 16).sp f (resolvedBytes (readBytes (s.settle f 16).sp f 16) fault tag value)) := by
  generalize hv : s.settle f 16 = v at h
  have hc : (u8 (readBytes v.sp f 16) 0 % 4 != 0 || (s.claim? f).isSome) = false := by simp [h, hq]
  simp only [State.resolve?, hv, hc, Bool.false_eq_true, if_false]
  refine ⟨_, rfl, fun hl hr => ?_⟩
  have hold : [((readBytes v.sp f 16)[1]?).getD 0] = ((readBytes v.sp f 16).drop 1).take 1 := rfl
  rw [hold]
  generalize hs1 : v.spWrite f _ _ = s1
  obtain ⟨-, hsp, -, -⟩ := v.spWrite_mem f (resolvedBytes (readBytes v.sp f 16) fault tag value) (some (core, false))
  obtain ⟨-, hblocks, -, hlinks⟩ := v.spWrite_frame f (resolvedBytes (readBytes v.sp f 16) fault tag value) (some (core, false))
  have hs1' : v.spWrite f (resolvedBytes (readBytes v.sp f 16) fault tag value) (some (core, false)) = s1 := by
    rw [← hs1]
    simp only [resolvedBytes, List.append_assoc]
    rfl
  rw [hs1'] at hsp hblocks hlinks
  have hnone : (s1.links.filter fun l => l.future == f) = [] := List.filter_eq_nil_iff.2 fun l hm => by simpa using hl l (hlinks ▸ hm)
  have hnf : ({ s1 with links := s1.links.filter fun l => l.future != f } : State).NoFreg := fun k hk => hr k (hblocks ▸ hk)
  rw [hnone, List.foldl_nil]
  exact (congrArg State.sp (State.feedTables_eq_self hnf)).trans hsp
end

theorem futState_eq (s : State) (f : Nat) : futState s f = (Sparse.get 0 s.sp f).toNat % 4 := rfl
section
variable {l : Link} {core : Nat}

theorem State.register?_full (h : futState (s.settle l.future 16) l.future = 0) (hn : 4096 ≤ (s.settle l.future 16).linkCount (l.future / 2 ^ 30)) :
    s.register? l core = none := by
  have hc : Config.contEntries = 4096 := rfl
  simp only [State.register?, h, beq_self_eq_true, if_true, hc, hn]
theorem State.register?_empty (h : futState (s.settle l.future 16) l.future = 0) (hn : (s.settle l.future 16).linkCount (l.future / 2 ^ 30) < 4096) :
    ∃ y, s.register? l core = some y ∧ y.links = (s.settle l.future 16).links ++ [l] ∧ y.sp = writeBytes (s.settle l.future 16).sp (l.future + 1)
      (leBytes 1 (min ((Sparse.get 0 (s.settle l.future 16).sp (l.future + 1)).toNat + 1) 255)) := by
  have hc : Config.contEntries = 4096 := rfl
  simp only [State.register?, h, beq_self_eq_true, if_true, hc, Nat.not_le.2 hn, if_false]
  exact ⟨_, rfl, rfl, (State.spWrite_mem ..).2.1⟩
theorem State.register?_resolved (h : futState (s.settle l.future 16) l.future ≠ 0) :
    s.register? l core = some ((s.settle l.future 16).joinStep l (futState (s.settle l.future 16) l.future != 1)) := by
  simp only [State.register?, beq_eq_false_iff_ne.2 h, Bool.false_eq_true, if_false]
end

/-! ### A word without an active lane -/

theorem Warp.helpersOf_zero (w : Warp) : w.helpersOf 0 = 0 := by
  unfold Warp.helpersOf
  refine (congrArg Mask.ofLanes (List.filter_eq_nil_iff.2 fun l _ => ?_)).trans rfl
  cases w.anchor l <;> simp [Mask.has]
theorem Issues.lanes_nil (h : Issues i s c t) (h0 : c.act = 0) : c.lanes = [] := by
  have hall : c.all = 0 := by
    rw [h.all, h0, Warp.helpersOf_zero]
    rfl
  rw [Ctx.lanes, hall, Mask.lanes_zero]

/-- LDF with no lane at all: none loads and none parks. -/
theorem Ctx.waitLoad_nil (hl : c.lanes = []) (hv : c.live = []) (a : Access) (n regs : Nat) (wait : Wait) (stay : Nat → Bool) :
    c.waitLoad t a n regs wait stay = t := by
  have hz : ∀ d, c.zeros a d n regs = [] := fun d => by rw [Ctx.zeros, hl]; rfl
  unfold Ctx.waitLoad
  simp only [hz, hl, hv, List.filter_nil, List.map_nil, List.append_nil, List.flatMap_nil, List.isEmpty_nil, Bool.and_self, Bool.not_true, Bool.and_false,
    Bool.false_eq_true, if_true, if_false, State.closePlaces_nil, State.readNow_nil, Ctx.late_empty, Ctx.park_nil, ite_self]

/-- Settles O49: what each of the five words does, how a future is resolved and how a lane is registered. -/
theorem futuresAndContinuations : Obligations.FuturesAndContinuations := by
  intro h wide d ad s c t x at_ good clean regs zeros part helpers rods base found waits behind later res resLater done
  have hx : futureAccess t c ad = x := rfl
  have hdone : ∀ r, done r = c.after (c.resolved r) := by
    intro r
    obtain ⟨u, y⟩ := r
    cases y <;> rfl
  have hlater : ∀ fault, resLater (if fault = true then .fault else .full) = resolveLanes (fun u l => u.queueResolve? c.ref rods t.nextId (at_ l) (c.v64 l d) fault)
      (fun s l => s.futureFound c.ref (at_ l)) c.live later := by
    intro fault
    simp only [State.queueResolve?, beq_iff_eq]
    rfl
  refine ⟨fun hi hg hc h0 => ?_, fun hi hg hc => ?_, fun hi hg h0 => ⟨fun hb => ?_, fun hb => ?_⟩, fun hi hg h0 => ⟨fun hb => ?_, fun hb => ?_⟩, fun hi hg h0 hr => ?_,
    fun u f tag core value fault => ?_, fun u l core => ?_, ?_⟩
  · rw [exec_fpoll hi hx hg hc, if_neg h0]
    rfl
  · intro stays goes parked got behind' w
    have hstay : (fun l => !futureRead (x.view l 16)) = fun l => u8 (x.view l 16) 0 % 4 == 0 := funext fun l => by simp [futureRead, bne]
    have hpark : ∀ (u : State) (ls : List Nat) (woken : Bool), c.futurePark u wide d rods (ls.map fun l => (l, at_ l)) woken = parked u ls woken := by
      intro u ls woken
      simp only [Ctx.futurePark, List.map_eq_nil_iff]
      rfl
    have hex := exec_ldf hi hx hg hc
    rw [hstay] at hex
    refine ⟨fun hw => hex.trans ?_, fun hw => hex.trans ?_⟩
    · exact congrArg (fun u => (.next (c.after u) : Out)) ((Ctx.waitLoad_future_free (a := x) hw).trans (hpark _ stays false))
    · exact congrArg (fun u => (.next (c.after u) : Out)) ((Ctx.waitLoad_future_held (a := x) hw).trans (hpark behind' c.live true))
  · rw [exec_resolveOp_now (execFres h d ad s) hi rfl rfl hx hg h0 (Bool.eq_false_iff.2 hb), hdone]
    rfl
  · rw [exec_resolveOp_later (execFres h d ad s) hi rfl rfl hx hg h0 rfl hb, hdone, ← hlater false]
    rfl
  · rw [exec_resolveOp_now (execFflt h d ad s) hi rfl rfl hx hg h0 (Bool.eq_false_iff.2 hb), hdone]
    rfl
  · rw [exec_resolveOp_later (execFflt h d ad s) hi rfl rfl hx hg h0 rfl hb, hdone, ← hlater true]
    rfl
  · intro lanes ends endsLater left
    have hreg := fun x => exec_freg (x := x) hi hx (fregTrap_eq_none hg hr)
    simp only [if_neg h0] at hreg
    refine ⟨fun hb => hreg _ ((State.registerLanes_now (Bool.eq_false_iff.2 hb) _).trans ?_), fun hb => hreg _ ((State.registerLanes_later hb _).trans ?_)⟩
    · exact (Prod.ext rfl (List.nil_append _).symm).trans (State.foldl_register base c.blk lanes []).symm
    · exact (Prod.ext rfl (List.nil_append _).symm).trans (State.foldl_queueLink later c.ref rods t.nextId lanes []).symm
  · intro v old
    refine ⟨fun h => State.resolve?_eq_none h, fun h hq => ?_⟩
    obtain ⟨y, hy, hsp⟩ := State.resolve?_eq_some (tag := tag) (core := core) (value := value) (fault := fault) h hq
    refine ⟨y, hy, fun hl hr => ?_⟩
    have hlen := resolvedBytes_length (readBytes_length v.sp f 16) fault tag value
    rw [hsp hl hr]
    exact ⟨readBytes_writeBytes _ _ hlen, fun a ha => get_writeBytes_outside _ hlen ha⟩
  · intro v here
    refine ⟨State.register?_full, fun h hn => ?_, State.register?_resolved⟩
    obtain ⟨y, hy, hl, hsp⟩ := State.register?_empty (core := core) h hn
    refine ⟨y, hy, hl, ?_, fun a ha => ?_⟩
    · rw [hsp, get_writeBytes_one, if_pos rfl, BitVec.toNat_ofNat, Nat.mod_eq_of_lt (by omega)]
    · rw [hsp, get_writeBytes_one, if_neg ha]
  · intro i hi h h0
    have hl : ∀ {P : Nat → Prop}, ∀ l ∈ c.live, P l := by simp [Ctx.live_nil h0]
    simp only [List.mem_cons, List.not_mem_nil, or_false] at hi
    obtain rfl | rfl | rfl | rfl | rfl := hi
    · rw [exec_ldf h hx hl hl, Ctx.waitLoad_nil (h.lanes_nil h0) (Ctx.live_nil h0)]
    · rw [exec_fpoll h hx hl hl, if_pos h0]
    · exact exec_resolveOp_idle (execFres _ d ad s) h rfl rfl hx hl h0
    · exact exec_resolveOp_idle (execFflt _ d ad s) h rfl rfl hx hl h0
    · rw [exec_freg h hx (fregTrap_eq_none hl hl) rfl, if_pos h0]

end Sys2Proof.Machine
end

section
/-!
SPAWN and LNCH (R160 to R164, R181): the release, then the task or the launch, or the reason against it.
-/
namespace Sys2Proof.Machine

variable {s t : State} {c : Ctx} {h : Hdr} {noargs : Bool} {pd : BitVec 3} {a b e : BitVec 7}

/-- The words of a block of arguments, as its bytes are read. -/
theorem wordsOf_spView (s : State) (core : Nat) (q : List StoreEntry) (p : Nat) :
    wordsOf (s.spView core q p 64) = (List.range 16).map fun k => BitVec.ofNat 32 (u32 (s.spView core q p 64) (4 * k)) := by
  simp [wordsOf, State.spView]

section
variable (hi : Issues (.spawn h noargs pd a b e) s c t) (hact : c.act ≠ 0)
include hi hact
theorem exec_spawn_queued {u : State} (hu : t.performWarp c.ref .pkg = u) (hr : u.spawnReason c.blk noargs (c.s a).toNat (c.w.rs64 b.toNat).toNat = 0) :
    let p := physOf u c.blk.vf (c.w.rs64 b.toNat).toNat
    exec (.spawn h noargs pd a b e) s = .next (c.after (c.spawnResult (u.enqueueTask c.blk (c.s a).toNat
      (if noargs then List.replicate 16 0 else wordsOf (u.blockBytes c.ref c.blk.core p 64)) (if noargs then [] else wordsBad u.spPois p)
      (u.jobIds c.ref) (u.coverOf c.ref)) pd e true 0)) := by
  subst hu
  refine exec_after (execSpawn h noargs pd a b e s) hi rfl rfl ?_
  unfold Ctx.s at hr
  simp only [Ctx.act_beq hact, hr, beq_self_eq_true, if_true]
  rfl
theorem exec_spawn_refused {u : State} (hu : t.performWarp c.ref .pkg = u) {r : Nat} (hr : u.spawnReason c.blk noargs (c.s a).toNat (c.w.rs64 b.toNat).toNat = r)
    (h0 : r ≠ 0) : exec (.spawn h noargs pd a b e) s = .next (c.after (c.spawnResult u pd e false r)) := by
  subst hu
  refine exec_after (execSpawn h noargs pd a b e s) hi rfl rfl ?_
  unfold Ctx.s at hr
  simp only [Ctx.act_beq hact, hr, beq_eq_false_iff_ne.2 h0]
  rfl
end

section
variable (hi : Issues (.lnch h pd a b e) s c t) (hact : c.act ≠ 0) {u : State} (hu : t.performWarp c.ref .pkg = u) {bs : List Byte}
  (hbs : u.blockBytes c.ref c.blk.core (physOf u c.blk.vf (c.w.rs64 b.toNat).toNat) 128 = bs)
include hi hact hu hbs
theorem exec_lnch_submits (hr : u.lnchReason c.blk (c.s a).toNat (c.w.rs64 b.toNat).toNat bs = 0) {k : CodeEntry} (hk : u.codeEntry? c.blk.vf (c.s a).toNat = some k) :
    let y := u.submit c.blk.vf k false none false c.blk.cls c.blk.deadline 0 u.clock
      (launchOpts bs (wordsBad u.spPois (physOf u c.blk.vf (c.w.rs64 b.toNat).toNat))) none
    exec (.lnch h pd a b e) s
      = .next (c.after (c.spawnResult (y.2.launchAfter c.blk.vf y.1 (u.jobIds c.ref) (u.coverOf c.ref)) pd e true y.1)) := by
  subst hu hbs
  refine exec_after (execLnch h pd a b e s) hi rfl rfl ?_
  unfold Ctx.s at hr hk
  simp only [Ctx.act_beq hact, hr, hk]
  rfl
theorem exec_lnch_refused {r : Nat} (hr : u.lnchReason c.blk (c.s a).toNat (c.w.rs64 b.toNat).toNat bs = r) (h0 : r ≠ 0) :
    exec (.lnch h pd a b e) s = .next (c.after (c.spawnResult u pd e false r)) := by
  subst hu hbs
  refine exec_after (execLnch h pd a b e s) hi rfl rfl ?_
  obtain ⟨n, rfl⟩ := Nat.exists_eq_succ_of_ne_zero h0
  unfold Ctx.s at hr
  simp only [Ctx.act_beq hact, hr]
  rfl
end

/-- Settles O50: the task that is queued and the launch that is submitted, or the reason that stands against it. -/
theorem spawnAndLaunch : Obligations.SpawnAndLaunch := by
  intro h noargs pd a b e s c t num addr u p bytes answer task hact
  refine ⟨fun hi hr => ?_, fun hi r hr h0 => exec_spawn_refused hi hact rfl hr h0, fun hi hr k hk => exec_lnch_submits hi hact rfl rfl hr hk,
    fun hi r hr h0 => exec_lnch_refused hi hact rfl rfl hr h0⟩
  have htask : u.enqueueTask c.blk num (if noargs then List.replicate 16 0 else wordsOf (u.blockBytes c.ref c.blk.core p 64))
      (if noargs then [] else wordsBad u.spPois p) (u.jobIds c.ref) (u.coverOf c.ref)
      = { u.mapBlock c.blk.id fun x => { x with reserve := x.reserve - 1 } with
          tasks := (u.mapBlock c.blk.id fun x => { x with reserve := x.reserve - 1 }).tasks ++ [task] } := by
    rw [State.blockBytes, wordsOf_spView]
    simp only [State.enqueueTask, beq_iff_eq]
    rfl
  rw [exec_spawn_queued hi hact rfl hr]
  exact congrArg (fun u => (.next (c.after (c.spawnResult u pd e true 0)) : Out)) htask

end Sys2Proof.Machine
end

section
/-!
A step with a run latched at a word: what stands at its PC is read and decoded, and the word has its effect (R20, R51, R190).
-/
namespace Sys2Proof.Machine

variable {s : State} {l : Latch} {b : Block} {w : Warp} {r : Run} {i : Instr}

theorem State.fetch_eq_word {p : Loc} (hp : s.translate b.vf (runEntry b w r).early r.pc.toNat false true = some p) (hclean : s.locPois p = false)
    (hd : decode (BitVec.ofNat 64 (leValue (s.locBytes p 8))) = .ok i) : s.fetch b w r = .word i := by
  unfold State.fetch
  simp only [hp, hclean, hd, Bool.false_eq_true, if_false]
theorem State.latched_eq_word (hb : s.block? l.ref.blk = some b) (hw : s.warp? l.ref = some w)
    (hr : (w.runs.find? fun r => r.lanes == l.d0 && r.wait.isNone) = some r) (hf : s.fetch b (w.landDue s.clock) r = .word i) :
    s.latched l = .word i := by
  unfold State.latched
  simp only [hb, hw, hr, hf]

/-- Beside `step_word`: a word that gives no next state gives the step its own outcome. -/
theorem step_wordFault {f : Fault} (hi : s.issue = some l) (hl : s.latched l = .word i) (he : exec i s = .fault f) : step s = .fault f := by
  simp only [step, hi, hl, he]
theorem step_wordRefused {f : Refusal} (hi : s.issue = some l) (hl : s.latched l = .word i) (he : exec i s = .refused f) : step s = .refused f := by
  simp only [step, hi, hl, he]

/-- Settles O6: the run's fetch gives the decoded word, so the latch holds that word. -/
theorem stepRunsTheDecodedWord : Obligations.StepRunsTheDecodedWord := by
  intro s l b w r p i hi hb hw hr hp hclean hd
  have hl : s.latched l = .word i := State.latched_eq_word hb hw hr (State.fetch_eq_word hp hclean hd)
  exact ⟨fun _ => step_word hi hl, fun _ => step_wordFault hi hl, fun _ => step_wordRefused hi hl⟩

end Sys2Proof.Machine
end

section
/-!
Calls and returns of one lane (R191, R192): the record that a call leaves on the lane's stack, and what a return reads from it.
-/
namespace Sys2Proof.Machine

/-! ### Values and runs of bytes -/

theorem leValue_leBytes (n v : Nat) : leValue (leBytes n v) = v % 256 ^ n := by
  induction n generalizing v with
  | zero => rw [pow_zero, Nat.mod_one, leBytes, leValue]
  | succ n ih =>
    have hlow : (BitVec.ofNat 8 v).toNat = v % 256 := rfl
    rw [leBytes, leValue, ih, hlow, pow_succ', Nat.mod_mul]

namespace Warp

/-- A part of a run of bytes is read back where it was written. -/
theorem stackRead_stackWrite (w : Warp) (l a : Nat) (xs bs ys : List Byte) (h : a + (xs ++ bs ++ ys).length ≤ 2 ^ 20) :
    (w.stackWrite l a (xs ++ bs ++ ys)).stackRead l (a + xs.length) bs.length = bs := by
  refine List.ext_getElem (by rw [stackRead, List.length_map, List.length_range]) fun n hn hn' => ?_
  have hlen : (xs ++ bs ++ ys).length = xs.length + bs.length + ys.length := by simp only [List.length_append]
  have hget : (xs ++ bs ++ ys)[xs.length + n]'(by omega) = bs[n] := by
    rw [List.getElem_append_left (by rw [List.length_append]; omega), List.getElem_append_right (by omega)]
    simp only [Nat.add_sub_cancel_left]
  simp only [stackRead, List.getElem_map, List.getElem_range]
  rw [stackByte_stackWrite _ _ _ _ _ _ h (by omega), dif_pos ⟨rfl, by omega, by omega⟩, ← hget]
  congr 1
  omega
theorem stackWrite_frame (w : Warp) (l a : Nat) (bs : List Byte) : (w.stackWrite l a bs).sp = w.sp ∧ (w.stackWrite l a bs).depth = w.depth := by
  induction bs generalizing w a with
  | nil => exact ⟨rfl, rfl⟩
  | cons b bs ih => exact ih _ _

/-! ### A call -/

/-- The 16 bytes of a call record: the return address, %sp, and four bytes of 0 (R191). -/
def callRecord (back : DWord) (sp : Word) : List Byte := leBytes 8 back.toNat ++ leBytes 4 sp.toNat ++ leBytes 4 0

theorem callRecord_length (back : DWord) (sp : Word) : (callRecord back sp).length = 16 := by
  simp only [callRecord, List.length_append, leBytes_length]

variable {b : Block} {w : Warp} {l k : Nat} {back : DWord}

theorem call_stack :
    (w.call l k back).stack = (w.stackWrite l ((w.sp1 l).toNat + k) (callRecord back (w.sp1 l))).stack
      ∧ (w.call l k back).stackTag = (w.stackWrite l ((w.sp1 l).toNat + k) (callRecord back (w.sp1 l))).stackTag := by
  simp only [call, stackPut, callRecord, and_self]
/-- Of the stack, a call changes the bytes of its record. -/
theorem call_stackByte (m a : Nat) :
    (w.call l k back).stackByte m a = (w.stackWrite l ((w.sp1 l).toNat + k) (callRecord back (w.sp1 l))).stackByte m a := by
  obtain ⟨hstack, htag⟩ := call_stack (w := w) (l := l) (k := k) (back := back)
  rw [stackByte, hstack, htag, stackByte]
theorem call_stackRead (m a n : Nat) :
    (w.call l k back).stackRead m a n = (w.stackWrite l ((w.sp1 l).toNat + k) (callRecord back (w.sp1 l))).stackRead m a n :=
  List.map_congr_left fun _ _ => call_stackByte m _
theorem call_sp1 : (w.call l k back).sp1 l = BitVec.ofNat 32 ((w.sp1 l).toNat + k + 16) :=
  (Sparse.get_set l l _).trans (if_pos rfl)
theorem call_depth1 : (w.call l k back).depth1 l = w.depth1 l + 1 := by
  simp only [depth1, call, Sparse.get_set, if_true]
theorem uncall_sp1 : (w.uncall l).sp1 l = BitVec.ofNat 32 (leValue (w.stackRead l ((w.sp1 l).toNat - 16 + 8) 4) / 16 * 16) :=
  (Sparse.get_set l l _).trans (if_pos rfl)
theorem uncall_depth1 : (w.uncall l).depth1 l = w.depth1 l - 1 :=
  (Sparse.get_set l l _).trans (if_pos rfl)

/-! ### A call that does not overflow -/

theorem record_le_of_not_callBad (hk : callBad b w k l = false) : (w.sp1 l).toNat + k + 16 ≤ b.decl.stack := by
  obtain ⟨-, h⟩ := Bool.or_eq_false_iff.1 hk
  exact Nat.le_of_not_lt (of_decide_eq_false h)

section
variable (hfit : (w.sp1 l).toNat + k + 16 ≤ 2 ^ 20)
include hfit

theorem call_sp1_toNat : ((w.call l k back).sp1 l).toNat = (w.sp1 l).toNat + k + 16 := by
  rw [call_sp1, BitVec.toNat_ofNat, Nat.mod_eq_of_lt (by omega)]
theorem call_holds_return : (w.call l k back).stackRead l ((w.sp1 l).toNat + k) 8 = leBytes 8 back.toNat := by
  have h := stackRead_stackWrite w l ((w.sp1 l).toNat + k) [] (leBytes 8 back.toNat) (leBytes 4 (w.sp1 l).toNat ++ leBytes 4 0)
    (by simpa [leBytes_length] using hfit)
  rw [leBytes_length, List.nil_append, ← List.append_assoc] at h
  rw [call_stackRead]
  exact h
theorem call_holds_sp : (w.call l k back).stackRead l ((w.sp1 l).toNat + k + 8) 4 = leBytes 4 (w.sp1 l).toNat := by
  have h := stackRead_stackWrite w l ((w.sp1 l).toNat + k) (leBytes 8 back.toNat) (leBytes 4 (w.sp1 l).toNat) (leBytes 4 0)
    (by simpa [leBytes_length] using hfit)
  rw [leBytes_length, leBytes_length] at h
  rw [call_stackRead]
  exact h
/-- A byte below the record, or of another lane, is as it was. -/
theorem call_stackByte_outside {m a : Nat} (h : m ≠ l ∨ a < (w.sp1 l).toNat + k) (ha : a < 2 ^ 20) :
    (w.call l k back).stackByte m a = w.stackByte m a := by
  rw [call_stackByte, stackByte_stackWrite _ _ _ _ _ _ (by rw [callRecord_length]; omega) ha, dif_neg]
  rintro ⟨hm, hle, -⟩
  omega
/-- A return reads back %sp as the call had it, a multiple of 16. -/
theorem uncall_call_sp1 (h16 : (w.sp1 l).toNat % 16 = 0) : ((w.call l k back).uncall l).sp1 l = w.sp1 l := by
  have hlt : (w.sp1 l).toNat < 256 ^ 4 := (w.sp1 l).isLt
  rw [uncall_sp1, call_sp1_toNat hfit, Nat.add_sub_cancel, call_holds_sp hfit, leValue_leBytes, Nat.mod_eq_of_lt hlt,
    Nat.div_mul_cancel (Nat.dvd_of_mod_eq_zero h16), BitVec.ofNat_toNat, BitVec.setWidth_eq]
end
theorem uncall_call_depth1 : ((w.call l k back).uncall l).depth1 l = w.depth1 l := by
  rw [uncall_depth1, call_depth1, Nat.add_sub_cancel]

end Warp

/-- Settles O36: the record lies inside the stack, so the return reads what the call has written. -/
theorem callThenReturn : Obligations.CallThenReturn := by
  intro b w l k back hk hstack h16 u
  have hfit : (w.sp1 l).toNat + k + 16 ≤ 2 ^ 20 := (Warp.record_le_of_not_callBad hk).trans hstack
  have hback : back.toNat < 256 ^ 8 := back.isLt
  refine ⟨?_, Warp.uncall_call_sp1 hfit h16, Warp.uncall_call_depth1, Warp.call_depth1,
    fun a ha => Warp.call_stackByte_outside hfit (.inr ha) (by omega), fun m a hm ha => Warp.call_stackByte_outside hfit (.inl hm) ha⟩
  rw [Warp.call_sp1_toNat hfit, Nat.add_sub_cancel, Warp.call_holds_return hfit, leValue_leBytes, Nat.mod_eq_of_lt hback]

end Sys2Proof.Machine
end

section
/-!
Branches, calls and returns of a run (R190 to R192): where each active live lane goes on.
-/
namespace Sys2Proof.Machine

variable {i : Instr} {s t : State} {c : Ctx}

/-- A call that no active live lane has to trap for: every active lane that can makes its record, and the live ones go to their targets. -/
theorem exec_callTo (o : Out) (h : Issues i s c t) {frame : Nat} {target : Ctx → Nat → DWord} (he : exec i s = o)
    (ho : o = callTo i frame target s) (hfit : ∀ l ∈ c.live, callBad c.blk c.w frame l = false) :
    exec i s = .next (c.after (c.jump
      (t.mapWarp c.ref fun w => (c.lanes.filter fun l => !callBad c.blk c.w frame l).foldl (fun w l => w.call l frame (c.run.pc + 8)) w)
      (c.live.map fun l => (l, target c l)))) := by
  have hnone : (c.live.find? fun l => callBad c.blk c.w frame l) = none := List.find?_eq_none.2 fun l hl => by simp [hfit l hl]
  refine exec_after o h he ho ?_
  simp only [hnone]
/-- A return that no active live lane has to trap for. -/
theorem exec_ret {hd : Hdr} (h : Issues (.ret hd) s c t) (hok : ∀ l ∈ c.live, retTrap c.blk c.w l = none) :
    exec (.ret hd) s =
      let back := c.live.filter fun l => c.w.depth1 l != 0
      let helps := ((c.all.diff c.act).lanes 64).filter fun l => c.w.depth1 l != 0 && (retTrap c.blk c.w l).isNone
      .next (c.after ((c.jump (t.mapWarp c.ref fun w => (back ++ helps).foldl (fun w l => w.uncall l) w)
        (back.map fun l => (l, clear8 (BitVec.ofNat 64 (leValue (c.w.stackRead l ((c.w.sp1 l).toNat - 16) 8)))))).exitLanes c.ref
          (Mask.ofLanes (c.live.filter fun l => c.w.depth1 l == 0)))) := by
  have hnone : (c.live.findSome? fun l => retTrap c.blk c.w l) = none := List.findSome?_eq_none_iff.2 hok
  refine exec_after (execRet hd s) h rfl rfl ?_
  simp only [hnone]

/-- Settles O35: a branch has no check; a call and a return act once no active live lane's check fails. -/
theorem controlTransfers : Obligations.ControlTransfers := by
  intro h imm a frame s c t near far calls
  exact ⟨fun hi => exec_after (execBra h imm s) hi rfl rfl rfl,
    fun hi => exec_after (execBrx h a s) hi rfl rfl rfl,
    fun hi hfit => exec_callTo (frame := 0) (target := fun c _ => c.target imm) (execCall h imm s) hi rfl rfl hfit,
    fun hi hfit => exec_callTo (frame := 16 * frame.toNat) (target := fun c l => clear8 (c.w.rv64 l a.toNat)) (execCallx h a frame s) hi rfl rfl
      hfit,
    fun hi hok => exec_ret hi hok⟩

end Sys2Proof.Machine
end

section
/-!
The end of a thread, waits, traps (R193 to R196) and rejoin sets (R198 to R201).
-/
namespace Sys2Proof.Machine

variable {i : Instr} {s t : State} {c : Ctx}

/-! ### A body that asks first whether a lane is active -/

theorem Ctx.ite_act {α : Type} (h : c.act ≠ 0) (x y : α) : (if c.act == 0 then x else y) = y := by
  rw [Ctx.act_beq h]
  rfl
theorem Ctx.ite_no_act {α : Type} (h : c.act = 0) (x y : α) : (if c.act == 0 then x else y) = x := if_pos (beq_iff_eq.2 h)

/-! ### Threads and traps -/

theorem exec_trapLanes (o : Out) (h : Issues i s c t) {cause : Nat} {n : BitVec 16} (he : exec i s = o) (ho : o = trapLanes i cause n s)
    (hact : c.act ≠ 0) : exec i s = .next (c.after (t.takeTrap c.ref c.run.pc c.act { cause := cause, info := n.setWidth 32 })) :=
  exec_after o h he ho (congrArg Res.ok (Ctx.ite_act hact _ _))
theorem exec_trapLanes_idle (o : Out) (h : Issues i s c t) {cause : Nat} {n : BitVec 16} (he : exec i s = o) (ho : o = trapLanes i cause n s)
    (h0 : c.act = 0) : exec i s = .next (c.after t) :=
  exec_after o h he ho (congrArg Res.ok (Ctx.ite_no_act h0 _ _))
theorem exec_exit {hd : Hdr} (h : Issues (.exit hd) s c t) (hact : c.act ≠ 0) (htrap : c.w.trap = none) :
    exec (.exit hd) s = .next (c.after (t.exitLanes c.ref c.act)) := by
  refine exec_after (execExit hd s) h rfl rfl ((Ctx.ite_act hact _ _).trans ?_)
  rw [htrap]
/-- EXIT at trap level. -/
theorem exec_exit_handler {hd : Hdr} {lvl : TrapLevel} (h : Issues (.exit hd) s c t) (hact : c.act ≠ 0) (htrap : c.w.trap = some lvl) :
    exec (.exit hd) s = .next (c.after ((t.mapWarp c.ref Warp.leaveTrap).exitLanes c.ref lvl.mask)) := by
  refine exec_after (execExit hd s) h rfl rfl ((Ctx.ite_act hact _ _).trans ?_)
  rw [htrap]
theorem exec_nap {hd : Hdr} {n : BitVec 16} (h : Issues (.nap hd n) s c t) (hn : n ≠ 0) :
    exec (.nap hd n) s = .next (c.after (c.block t c.act (.nap (t.clock + c.blk.cycles + n.toNat)))) :=
  exec_after (execNap hd n s) h rfl rfl (congrArg Res.ok (if_neg fun h0 => hn (beq_iff_eq.1 h0)))
theorem exec_nap_zero {hd : Hdr} (h : Issues (.nap hd 0) s c t) : exec (.nap hd 0) s = .next (c.after t) :=
  exec_after (execNap hd 0 s) h rfl rfl rfl
theorem exec_nap_idle {hd : Hdr} {n : BitVec 16} (h : Issues (.nap hd n) s c t) (h0 : c.act = 0) : exec (.nap hd n) s = .next (c.after t) := by
  by_cases hn : n = 0
  · subst hn
    exact exec_nap_zero h
  · rw [exec_nap h hn, h0, Ctx.block_zero]
theorem exec_rtt {hd : Hdr} {m : RttMode} (h : Issues (.rtt hd m) s c t) (hact : c.act ≠ 0) (htrap : c.w.trap.isSome = true) :
    exec (.rtt hd m) s = .next (c.after (t.returnTrap c.ref m c.nextAt)) :=
  exec_after (execRtt hd m s) h rfl rfl ((Ctx.ite_act hact _ _).trans (if_pos htrap))
/-- RTT outside trap level. -/
theorem exec_rtt_priv {hd : Hdr} {m : RttMode} (h : Issues (.rtt hd m) s c t) (hact : c.act ≠ 0) (htrap : c.w.trap = none) :
    exec (.rtt hd m) s = .next (s.trapWord c.ref c.run.pc c.run.lanes c.w { cause := causePriv, info := 0xCA }) :=
  exec_traps (execRtt hd m s) h rfl rfl ((Ctx.ite_act hact _ _).trans (if_neg (by simp [htrap])))

/-- Settles O37: each word's effect by whether a lane is active, and by trap level. -/
theorem threadControl : Obligations.ThreadControl := by
  intro h n m s c t
  refine ⟨exec_exit, fun _ => exec_exit_handler, fun hi hact => exec_after (execYield h s) hi rfl rfl (congrArg Res.ok (Ctx.ite_act hact _ _)),
    exec_nap, exec_nap_zero, fun hi => exec_after (execNop h s) hi rfl rfl rfl,
    fun hi => exec_trapLanes (execTrap h n s) hi rfl rfl, fun hi => exec_trapLanes (execBkpt h n s) hi rfl rfl, exec_rtt,
    exec_rtt_priv, fun i hmem hi h0 => ?_⟩
  simp only [List.mem_cons, List.not_mem_nil, or_false] at hmem
  obtain rfl | rfl | rfl | rfl | rfl | rfl | rfl := hmem
  · exact exec_after (execExit h s) hi rfl rfl (Ctx.ite_no_act h0 _ _)
  · exact exec_after (execYield h s) hi rfl rfl (congrArg Res.ok (Ctx.ite_no_act h0 _ _))
  · exact exec_nap_idle hi h0
  · exact exec_after (execNop h s) hi rfl rfl rfl
  · exact exec_trapLanes_idle (execTrap h n s) hi rfl rfl h0
  · exact exec_trapLanes_idle (execBkpt h n s) hi rfl rfl h0
  · exact exec_after (execRtt h m s) hi rfl rfl (Ctx.ite_no_act h0 _ _)

/-! ### Rejoin sets -/

theorem exec_perLaneP (o : Out) (h : Issues i s c t) {pd : Nat} {f : Warp → Nat → Bool} {g : Nat → Bool} (he : exec i s = o)
    (ho : o = perLaneP i s pd f) (hf : ∀ l, f c.w l = g l) : exec i s = .next (c.gives t (c.eachP pd g)) := by
  rw [he, ho, perLaneP_gives h, funext hf]

theorem exec_jenter {hd : Hdr} {j : BitVec 4} (h : Issues (.jenter hd j) s c t) (hl : c.live ≠ []) :
    exec (.jenter hd j) s = .next (c.after (t.mapWarp c.ref fun w =>
      w.setJset j.toNat { w.jset j.toNat with
        member := (w.jset j.toNat).member ||| c.act
        depth := if (w.jset j.toNat).member = 0 then w.depth1 (c.live.headD 0) else (w.jset j.toNat).depth })) := by
  obtain ⟨l, ls, hls⟩ := List.exists_cons_of_ne_nil hl
  refine exec_after (execJenter hd j s) h rfl rfl ?_
  simp only [hls, List.headD_cons, beq_iff_eq]

/-- Settles O39: each word but JENTER asks only whether a lane is active. -/
theorem rejoinSets : Obligations.RejoinSets := by
  intro h j mask k part pd d s c t x wide wr
  have hwr : ∀ l m, writeMask wide d.toNat l m = wr l m := fun l m => writeMask_eq ..
  refine ⟨exec_jenter, fun hi hact => exec_after (execJquit h j s) hi rfl rfl (congrArg Res.ok (Ctx.ite_act hact _ _)),
    fun hi hact => exec_after (execJquitm h mask s) hi rfl rfl (congrArg Res.ok (Ctx.ite_act hact _ _)),
    fun hi hact => exec_after (execJwait h j s) hi rfl rfl (congrArg Res.ok (Ctx.ite_act hact _ _)),
    fun hi => exec_perLaneP (execJtest h k pd j s) hi rfl rfl fun _ => ?_,
    fun hi => exec_gives (execJmask h part d j s) hi rfl rfl rfl ?_⟩
  · cases k <;> rfl
  · cases part with
    | mem => exact List.flatMap_congr fun l _ => hwr ..
    | arr => exact List.flatMap_congr fun l _ => hwr ..
    | dep => rfl

end Sys2Proof.Machine
end

section
/-!
Barriers (R205 to R213) and REGRP as a word (R131).
-/
namespace Sys2Proof.Machine

variable {i : Instr} {s t : State} {c : Ctx}

theorem satByte_eq_min (n : Nat) : satByte n = min 0xFFFFFFFF n := by
  unfold satByte
  split <;> omega
theorem runValue_eq (c : Ctx) (b : BSrc) : runValue c b = bval c.w b (c.live.headD 0) := by
  rw [runValue, List.headD_eq_head?_getD]

/-! ### A word that acts on a barrier that is READY and not LOST -/

theorem blostTrap_eq_none {bar : Bar} {x : Barrier} (hr : x.ready = true) (hl : x.lost = false) : blostTrap bar x = none := by
  rw [blostTrap, hr, hl]
  rfl
theorem blostTrap_eq_some (bar : Bar) {x : Barrier} (h : x.ready = false ∨ x.lost = true) :
    ∃ info, blostTrap bar x = some { cause := 0x0A, info := info } := by
  have hno : (x.ready && !x.lost) = false := Bool.and_eq_false_iff.2 (h.imp_right fun hl => by rw [hl]; rfl)
  rw [blostTrap, hno]
  exact ⟨_, rfl⟩

section
variable (o : Out) (h : Issues i s c t) {bar : Bar} {f : Ctx → State → Barrier → State} (he : exec i s = o) (ho : o = barOp i bar s f)
include h he ho
theorem exec_barOp (hact : c.act ≠ 0) (hr : (t.barrier c.ref.blk (barIdx bar)).ready = true) (hl : (t.barrier c.ref.blk (barIdx bar)).lost = false) :
    exec i s = .next (c.after (f c t (t.barrier c.ref.blk (barIdx bar)))) := by
  refine exec_after o h he ho ((Ctx.ite_act hact _ _).trans ?_)
  rw [blostTrap_eq_none hr hl]
theorem exec_barOp_blost (hact : c.act ≠ 0) (hx : (t.barrier c.ref.blk (barIdx bar)).ready = false ∨ (t.barrier c.ref.blk (barIdx bar)).lost = true) :
    ∃ info, exec i s = .next (s.trapWord c.ref c.run.pc c.run.lanes c.w { cause := 0x0A, info := info }) := by
  obtain ⟨info, hb⟩ := blostTrap_eq_some bar hx
  refine ⟨info, exec_traps o h he ho ((Ctx.ite_act hact _ _).trans ?_)⟩
  rw [hb]
theorem exec_barOp_idle (h0 : c.act = 0) : exec i s = .next (c.after t) := exec_after o h he ho (Ctx.ite_no_act h0 _ _)
end

/-- Settles O41: each of the five words has the shape that checks its barrier first. -/
theorem lostBarriersTrap : Obligations.LostBarriersTrap := by
  intro h bar b d pd s c t x hact hx i hmem hi
  simp only [List.mem_cons, List.not_mem_nil, or_false] at hmem
  obtain rfl | rfl | rfl | rfl | rfl := hmem
  · exact exec_barOp_blost (execBarx h bar b s) hi rfl rfl hact hx
  · exact exec_barOp_blost (execBara h d bar s) hi rfl rfl hact hx
  · exact exec_barOp_blost (execBarw h bar b s) hi rfl rfl hact hx
  · exact exec_barOp_blost (execBar h bar s) hi rfl rfl hact hx
  · exact exec_barOp_blost (execBarq h pd bar b s) hi rfl rfl hact hx

/-! ### Words of a shape of their own -/

/-- REGRP parks where its active lanes are members of the set, at depth 0. -/
theorem exec_regrp {hd : Hdr} {desc : Bool} {d a : BitVec 10} {n : BitVec 7} {j : BitVec 4} (h : Issues (.regrp hd desc d a n j) s c t)
    (hact : c.act ≠ 0) (hmem : c.act &&& ~~~(c.w.jset j.toNat).member = 0) (hdepth : ∀ l ∈ c.live, c.w.depth1 l = 0) :
    exec (.regrp hd desc d a n j) s = .next (c.after (c.blockRun t (.regrp desc d.toNat a.toNat n.toNat j.toNat c.act))) := by
  have hsub : c.act.sub (c.w.jset j.toNat).member = true := beq_iff_eq.2 hmem
  have hany : (c.live.any fun l => c.w.depth1 l != 0) = false := List.any_eq_false.2 fun l hl => by simp [hdepth l hl]
  refine exec_after (execRegrp hd desc d a n j s) h rfl rfl ((Ctx.ite_act hact _ _).trans ?_)
  rw [hsub, hany]
  rfl

/-- Settles O40: the words of the shape `barOp` act on the barrier as it stands; BARI asks of it only whether it was READY. -/
theorem barrierInstructions : Obligations.BarrierInstructions := by
  intro h bar n b d a pd desc j s c t k x val up
  have hval : runValue c b = val := runValue_eq c b
  refine ⟨fun hi hact => ?_, fun hi ⟨hact, hr, hl⟩ => ?_, fun hi ⟨hact, hr, hl⟩ => exec_barOp (execBara h d bar s) hi rfl rfl hact hr hl,
    fun hi ⟨hact, hr, hl⟩ => exec_barOp (execBar h bar s) hi rfl rfl hact hr hl, fun hi ⟨hact, hr, hl⟩ => ?_, fun hi ⟨hact, hr, hl⟩ => ?_,
    exec_regrp, fun i hmem hi h0 => ?_⟩
  · rw [← hval]
    exact exec_after (execBari h bar n b s) hi rfl rfl (Ctx.ite_act hact _ _)
  · rw [exec_barOp (execBarx h bar b s) hi rfl rfl hact hr hl, satByte_eq_min, hval]
    rfl
  · rw [exec_barOp (execBarw h bar b s) hi rfl rfl hact hr hl, hval]
    simp only [beq_iff_eq]
    rfl
  · rw [exec_barOp (execBarq h pd bar b s) hi rfl rfl hact hr hl, hval]
    rfl
  · simp only [List.mem_cons, List.not_mem_nil, or_false] at hmem
    obtain rfl | rfl | rfl | rfl | rfl | rfl | rfl := hmem
    · exact exec_after (execBari h bar n b s) hi rfl rfl (Ctx.ite_no_act h0 _ _)
    · exact exec_barOp_idle (execBarx h bar b s) hi rfl rfl h0
    · exact exec_barOp_idle (execBara h d bar s) hi rfl rfl h0
    · exact exec_barOp_idle (execBar h bar s) hi rfl rfl h0
    · exact exec_barOp_idle (execBarw h bar b s) hi rfl rfl h0
    · exact exec_barOp_idle (execBarq h pd bar b s) hi rfl rfl h0
    · exact exec_after (execRegrp h desc d a n j s) hi rfl rfl (Ctx.ite_no_act h0 _ _)

end Sys2Proof.Machine
end

section
/-!
Matrix words as instructions (R231, R237, R238): signing, and what the operations of a stream have come to.
-/
namespace Sys2Proof.Machine

variable {i : Instr} {s t : State} {c : Ctx}

/-! ### MMA, MMAS and MMAT -/

/-- The one trap of a matrix word's scalar pairs is POIS. -/
theorem pairPois_cause {w : Warp} {word : MatWord} {m : Mask} {τ : Trap} (h : pairPois w word m = some τ) : τ.cause = causePois := by
  obtain ⟨n, -, rfl⟩ := Option.map_eq_some_iff.1 h
  rfl

section
variable (o : Out) {word : MatWord} (h : Issues i s c t) (he : exec i s = o) (ho : o = signOp i word s) (hact : c.act ≠ 0)
include h he ho hact

/-- No scalar that the word reads is poisoned, and its set holds the live lanes: the active lanes sign. -/
theorem exec_signOp (hp : pairPois c.w word c.act = none) (hset : (c.w.jset word.j).member = c.w.live) :
    exec i s = .next (c.after (c.block t c.act (.sign word))) := by
  refine exec_after o h he ho ((Ctx.ite_act hact _ _).trans ?_)
  rw [hp]
  exact if_neg fun hne => bne_iff_ne.1 hne hset
theorem exec_signOp_pois {τ : Trap} (hp : pairPois c.w word c.act = some τ) :
    exec i s = .next (s.trapWord c.ref c.run.pc c.run.lanes c.w τ) := by
  refine exec_traps o h he ho ((Ctx.ite_act hact _ _).trans ?_)
  rw [hp]
/-- A set that is not the warp's live lanes (R231). -/
theorem exec_signOp_mteam (hp : pairPois c.w word c.act = none) (hset : (c.w.jset word.j).member ≠ c.w.live) :
    exec i s = .next (s.trapWord c.ref c.run.pc c.run.lanes c.w { cause := causeMteam, info := mteamInfo c.ref.num 1 }) := by
  refine exec_traps o h he ho ((Ctx.ite_act hact _ _).trans ?_)
  rw [hp]
  exact if_pos (bne_iff_ne.2 hset)
end

/-- Each of the three words signs with its own number and fields. -/
theorem exec_matWord {h : Hdr} {st : BitVec 2} {j : BitVec 4} {d a b e : BitVec 10} {x : Instr × Nat}
    (hx : x ∈ [(Instr.mma h st j d a b e, opMMA), (.mmas h st j d a b e, opMMAS), (.mmat h st j d a b e, opMMAT)]) (s : State) :
    exec x.1 s = signOp x.1 (matWord x.2 st j d a b e) s := by
  simp only [List.mem_cons, List.not_mem_nil, or_false] at hx
  obtain rfl | rfl | rfl := hx
  · rfl
  · rfl
  · rfl

/-! ### MSYNC and MCHG -/

theorem exec_msync {hd : Hdr} {st : BitVec 2} (h : Issues (.msync hd st) s c t) {ids : List Nat}
    (hids : (t.ops.filter fun o => o.blk == c.ref.blk && o.team == c.team && o.st == st.toNat).map (·.id) = ids) :
    exec (.msync hd st) s = .next (c.after (if ids = [] then t else c.block t c.act (.msync ids))) := by
  refine exec_after (execMsync hd st s) h rfl rfl ?_
  simp only [hids, List.isEmpty_iff]

/-- What MCHG queues, by whether the last operation of its team on the stream is outstanding. -/
theorem exec_mchg {hd : Hdr} {st : BitVec 2} {d : BitVec 10} (h : Issues (.mchg hd st d) s c t) {tm : Team} {held : Bool}
    (htm : (c.blk.teams[c.team]?).getD { avg := 0, lastOp := [], charge := [], passed := 0 } = tm)
    (hheld : (Sparse.get 0 tm.lastOp st.toNat != 0 && (t.op? (Sparse.get 0 tm.lastOp st.toNat - 1)).isSome) = held) :
    exec (.mchg hd st d) s = .next (c.after (c.late t (if held then .opCharge (Sparse.get 0 tm.lastOp st.toNat - 1) else .plain) 0
      (c.each d fun _ => if held then 0 else Sparse.get 0 tm.charge st.toNat))) := by
  refine exec_after (execMchg hd st d s) h rfl rfl ?_
  simp only [htm, hheld]
  rfl

/-- Settles O51: the three signing words are one shape; the other two depend on the team's operations on the stream. -/
theorem matrixWords : Obligations.MatrixWords := by
  intro h st j d a b e s c t signed team words mine tm last pois
  refine ⟨fun x hx hi hact hp hset => exec_signOp _ hi (exec_matWord hx s) rfl hact hp hset,
    fun x hx τ hi hact hp => ⟨pairPois_cause hp, exec_signOp_pois _ hi (exec_matWord hx s) rfl hact hp⟩,
    fun x hx hi hact hp hset => exec_signOp_mteam _ hi (exec_matWord hx s) rfl hact hp hset,
    fun hi => exec_msync hi rfl,
    fun hi hnone => exec_mchg (tm := tm) (held := false) hi rfl ?_,
    fun hi hlast hsome => exec_mchg (tm := tm) (held := true) hi rfl ?_⟩
  · obtain h0 | hop := hnone
    · exact Bool.and_eq_false_iff.2 (.inl (bne_eq_false_iff_eq.2 h0))
    · exact Bool.and_eq_false_iff.2 (.inr (Option.isSome_eq_false_iff.2 (Option.isNone_iff_eq_none.2 hop)))
  · obtain ⟨o, ho⟩ := hsome
    exact Bool.and_eq_true_iff.2 ⟨bne_iff_ne.2 hlast, Option.isSome_iff_exists.2 ⟨o, ho⟩⟩

end Sys2Proof.Machine
end

section
/-!
Transfer words (R240 to R249): the job that each starts, and the remote signal at the end of a push.
-/
namespace Sys2Proof.Machine

variable {i : Instr} {s t : State} {c : Ctx}

/-! ### A transfer that nothing stands against -/

@[simp] theorem State.readGroups_nil (vf : Nat) : t.readGroups vf [] = [] := rfl
@[simp] theorem State.sampleGroups_nil (vf : Nat) : t.sampleGroups vf [] = [] := rfl
@[simp] theorem State.checkViews_nil : t.checkViews [] = .pass false := rfl
/-- A transfer that moves nothing reads no view, and any other reads what its source reaches. -/
theorem Reach.readGroups_viewReads {x : Reach} {vf : Nat} (h : t.readGroups vf ((x.src.map fun y => y.ranges x.d.len).getD []) = []) :
    t.readGroups vf x.viewReads = [] := by
  unfold Reach.viewReads
  split
  · exact State.readGroups_nil vf
  · exact h

/-- Nothing stands against a transfer: a lane is active, no check of R242 or of its own fails, it holds no samples, and its source is no view. -/
structure Ctx.Passes (c : Ctx) (t : State) (x : XReq) : Prop where
  act : c.act ≠ 0
  first : x.first = none
  desc : descTrap (t.vf c.blk.vf) c.blk.decl.shared x.reach = none
  extra : x.extra = none
  samples : c.run.samples = none
  views : t.readGroups c.blk.vf ((x.reach.src.map fun y => y.ranges x.reach.d.len).getD []) = []

/-- What the transfer then does. -/
def Ctx.transfers (c : Ctx) (t : State) (x : XReq) : State :=
  if x.reach.d.rows == 0 || x.reach.d.len == 0 then
    if x.job.kind == .push then ({ t with nextId := t.nextId + 1 } : State).endJob { x.job with id := t.nextId } else t
  else c.startJob t x none

theorem transferOp_passes {req : Ctx → XReq} (h : Issues i s c t) (hp : c.Passes t (req c)) :
    transferOp i s req = .next (c.after (c.transfers t (req c))) := by
  refine issue_ok h ((Ctx.ite_act hp.act _ _).trans ?_)
  simp only [hp.first, hp.desc, hp.extra, hp.samples, Reach.readGroups_viewReads hp.views, Option.or_none, Option.getD_none, State.sampleGroups_nil,
    State.checkViews_nil]
  rfl
theorem Ctx.transfers_moves {x : XReq} (hr : x.reach.d.rows ≠ 0) (hl : x.reach.d.len ≠ 0) : c.transfers t x = c.startJob t x none :=
  if_neg (by simp [hr, hl])
/-- A transfer of no bytes ends its copy, where that is a push, and does nothing else. -/
theorem Ctx.transfers_nothing {x : XReq} (h : x.reach.d.rows = 0 ∨ x.reach.d.len = 0) : c.transfers t x =
    if x.job.kind = .push then ({ t with nextId := t.nextId + 1 } : State).endJob { x.job with id := t.nextId } else t := by
  refine (if_pos (by simpa using h)).trans ?_
  simp only [beq_iff_eq]

/-- A word that is a transfer of the request `x`, by whether it moves any bytes. -/
theorem exec_transfers (o : Out) {req : Ctx → XReq} {x : XReq} (hx : req c = x) (h : Issues i s c t) (he : exec i s = o) (ho : o = transferOp i s req)
    (hp : c.Passes t x) : (x.reach.d.rows ≠ 0 → x.reach.d.len ≠ 0 → exec i s = .next (c.after (c.startJob t x none)))
      ∧ (x.reach.d.rows = 0 ∨ x.reach.d.len = 0 → exec i s = .next (c.after
        (if x.job.kind = .push then ({ t with nextId := t.nextId + 1 } : State).endJob { x.job with id := t.nextId } else t))) := by
  subst hx
  have hpass := (he.trans ho).trans (transferOp_passes h hp)
  exact ⟨fun hr hl => by rw [hpass, Ctx.transfers_moves hr hl], fun hz => by rw [hpass, Ctx.transfers_nothing hz]⟩

/-! ### The remote signal at the end of a push (R248) -/

/-- Beside its signal, the end of a job changes its warp, and what its block waits for. -/
theorem State.endJob_offAccess (j : Job) :
    (t.endJob j).offAccess = (({ t with jobs := t.jobs.filter fun x => x.id != j.id } : State).sendSignal j).offAccess := by
  unfold State.endJob
  dsimp only
  rw [State.noteBlock_offAccess, State.mapWarp_offAccess]
theorem State.endJob_fab (j : Job) : (t.endJob j).fab = (({ t with jobs := t.jobs.filter fun x => x.id != j.id } : State).sendSignal j).fab :=
  (congrArg State.fab (State.endJob_offAccess j) :)
theorem State.endJob_signals (j : Job) : (t.endJob j).signals = (({ t with jobs := t.jobs.filter fun x => x.id != j.id } : State).sendSignal j).signals :=
  (congrArg State.signals (State.endJob_offAccess j) :)
theorem Job.signals_iff (j : Job) : j.signals = true ↔ j.kind = .push ∧ j.peer.getLsbD 8 = true ∧ j.failed = false := by
  simp [Job.signals, peerSig, and_assoc]

theorem State.sendSignal_silent {j : Job} (h : j.signals = false) : t.sendSignal j = t := by simp [State.sendSignal, h]
theorem State.reaches_eq_false {vf dev : Nat} (h : t.ports = 0 ∨ (t.vf vf).bound? dev = none) : t.reaches vf dev = false := by
  obtain h | h := h <;> simp [State.reaches, h]
theorem State.reaches_eq_true {vf dev u : Nat} (hp : t.ports ≠ 0) (hu : (t.vf vf).bound? dev = some u) : t.reaches vf dev = true := by
  rw [State.reaches, hu, bne_iff_ne.2 hp]
  rfl
/-- A signal that reaches no peer is not sent: the host is told. -/
theorem State.sendSignal_unreached {j : Job} (h : t.reaches j.vf j.dev = false) : (t.sendSignal j).offReport = t.offReport := by
  unfold State.sendSignal
  simp only [h, Bool.false_eq_true, if_false]
  split
  · rfl
  · exact State.report_offReport t _ _ _ _
theorem State.sendSignal_sent {j : Job} {u : Nat} (hs : j.signals = true) (hp : t.ports ≠ 0) (hu : (t.vf j.vf).bound? j.dev = some u) :
    t.sendSignal j = { t with
      fab := t.fab ++ [.signal j.dev u j.sig (peerVal j.peer)]
      signals := t.signals ++ [(j.id, j.vf)] } := by
  simp [State.sendSignal, hs, State.reaches_eq_true hp hu, State.peerVf, hu]

theorem State.endJob_silent {j : Job} (h : j.signals = false) : (t.endJob j).fab = t.fab ∧ (t.endJob j).signals = t.signals := by
  rw [State.endJob_fab, State.endJob_signals, State.sendSignal_silent h]
  exact ⟨rfl, rfl⟩
theorem State.endJob_unreached {j : Job} (h : t.ports = 0 ∨ (t.vf j.vf).bound? j.dev = none) :
    (t.endJob j).fab = t.fab ∧ (t.endJob j).signals = t.signals := by
  have hrep := State.sendSignal_unreached (t := { t with jobs := t.jobs.filter fun x => x.id != j.id }) (State.reaches_eq_false h)
  rw [State.endJob_fab, State.endJob_signals]
  exact ⟨(congrArg State.fab hrep :), (congrArg State.signals hrep :)⟩
theorem State.endJob_sent {j : Job} {u : Nat} (hs : j.signals = true) (hp : t.ports ≠ 0) (hu : (t.vf j.vf).bound? j.dev = some u) :
    (t.endJob j).fab = t.fab ++ [.signal j.dev u j.sig (peerVal j.peer)] ∧ (t.endJob j).signals = t.signals ++ [(j.id, j.vf)] := by
  rw [State.endJob_fab, State.endJob_signals, State.sendSignal_sent (t := { t with jobs := t.jobs.filter fun x => x.id != j.id }) hs hp hu]
  exact ⟨rfl, rfl⟩

/-- Settles O53: each word is a transfer of its own request, and the end of a push sends by `Job.signals` and `State.reaches`. -/
theorem transferWords : Obligations.TransferWords := by
  intro h dst src bar mask a x g pull scr s c t d sideD sideS job starts off limit lim list here word sig
  refine ⟨?_, ?_, ?_, ?_, ?_, ?_, fun j => ⟨fun hno => ?_, State.endJob_unreached, fun hs hp u hu => ?_⟩, ?_⟩
  · exact fun hi hact hd he hs hg => exec_transfers (execBcp h dst src bar a s) rfl hi rfl rfl ⟨hact, rfl, hd, he, hs, hg⟩
  · exact fun hi hact hd he hs hg => exec_transfers (execBfill h dst bar a s) rfl hi rfl rfl ⟨hact, rfl, hd, he, hs, hg⟩
  · exact fun hi hact hd he hs hg => exec_transfers (execBpfx h bar a s) rfl hi rfl rfl ⟨hact, rfl, hd, he, hs, hg⟩
  · exact fun hi hact hd he hs hg => exec_transfers (execBmc h src bar a mask s) rfl hi rfl rfl ⟨hact, rfl, hd, he, hs, hg⟩
  · exact fun hi hact hd he hs hg => exec_transfers (execBga h dst src bar a x s) rfl hi rfl rfl ⟨hact, rfl, hd, he, hs, hg⟩
  · exact fun hi hact hd he hs hg => exec_transfers (execBsc h dst src bar a x s) rfl hi rfl rfl ⟨hact, rfl, hd, he, hs, hg⟩
  · exact State.endJob_silent (Bool.eq_false_iff.2 fun hsig => hno ((Job.signals_iff j).1 hsig))
  · exact State.endJob_sent ((Job.signals_iff j).2 hs) hp hu
  · intro hi hact hd he hs hg
    obtain ⟨hfirst, hextra⟩ := Option.or_eq_none_iff.1 he
    rw [hi.vf_eq] at hextra
    cases pull with
    | true => exact exec_transfers (execBcpp h true scr bar a x g s) rfl hi rfl rfl ⟨hact, hfirst, hd, hextra, hs, hg⟩
    | false => exact exec_transfers (execBcpp h false scr bar a x g s) rfl hi rfl rfl ⟨hact, hfirst, hd, hextra, hs, hg⟩

end Sys2Proof.Machine
end

section
/-!
The matrix engine's steps (R233, R239): the operation that starts, and the one that lands.
-/
namespace Sys2Proof.Machine

variable {s : State} {core id : Nat} {o : MatOp} {b : Block}

/-! ### MATRIX_OP_START -/

theorem fw_bit (w : Word) (k : Nat) : fw w k 1 = 1 ↔ w.getLsbD k = true := by
  rw [fw, BitVec.getLsbD, Nat.testBit_eq_decide_div_mod_eq, decide_eq_true_eq, pow_one]

/-- The accumulator input of element (i, j): zero under ZC, else the unit that the team's registers hold, its low half where that is a half. -/
theorem Block.accInput_codes (b : Block) (o : MatOp) : (b.accInput o).map (·.1) =
    (List.range (accUnits o.fmt)).flatMap fun i => (List.range (accUnits o.fmt)).map fun j =>
      if o.fmt.getLsbD 20 = true then 0
      else if fw o.fmt 8 4 = 2 ∨ fw o.fmt 8 4 = 3 then b.unit o.team o.dst (accUnits o.fmt) (accUnits o.fmt) (accRegs o.fmt) i j % 2 ^ 16
      else b.unit o.team o.dst (accUnits o.fmt) (accUnits o.fmt) (accRegs o.fmt) i j := by
  unfold Block.accInput
  simp only [List.map_flatMap, List.map_map, beq_iff_eq, fw_bit, Bool.or_eq_true]
  refine List.flatMap_congr fun i _ => List.map_congr_left fun j _ => ?_
  exact apply_ite Prod.fst _ _ _
theorem Block.accInput_poison (b : Block) (o : MatOp) : (b.accInput o).map (·.2) =
    (List.range (accUnits o.fmt)).flatMap fun i => (List.range (accUnits o.fmt)).map fun j =>
      if o.fmt.getLsbD 20 = true then false else b.unitPois o.team o.dst (accUnits o.fmt) (accUnits o.fmt) (accRegs o.fmt) i j := by
  unfold Block.accInput
  simp only [List.map_flatMap, List.map_map, beq_iff_eq, fw_bit, Bool.or_eq_true]
  refine List.flatMap_congr fun i _ => List.map_congr_left fun j _ => ?_
  exact apply_ite Prod.snd _ _ _

/-- The operation granted has started, its accumulator input read. -/
theorem State.startOp_op? (hidle : ∀ p ∈ s.coreOps core, p.started = false) (hg : s.granted core = some o) (ho : s.op? o.id = some o)
    (hb : s.block? o.blk = some b) (hva : s.operandVa o = none) :
    (s.startOp core).op? o.id = some { o with
      started := true
      acc := (b.accInput o).map (·.1)
      accBad := (b.accInput o).map (·.2) } := by
  have hany : ((s.coreOps core).any fun p => p.started) = false := List.any_eq_false.2 fun p hp => by simp [hidle p hp]
  simp only [State.startOp, hany, hg, hb, hva, Bool.false_eq_true, if_false]
  exact State.op?_setOp (o := { o with
    started := true
    acc := (b.accInput o).map (·.1)
    accBad := (b.accInput o).map (·.2) }) ho

/-! ### MATRIX_OP_COMPLETE -/

theorem getD_false_of_all {xs : List Bool} (h : ∀ x ∈ xs, x = false) (k : Nat) : (xs[k]?).getD false = false := by
  cases hk : xs[k]? with
  | none => rfl
  | some x => exact h x (List.mem_of_getElem? hk)
theorem any_id_eq_false {xs : List Bool} (h : ∀ x ∈ xs, x = false) : (xs.any fun x => x) = false := List.any_eq_false.2 fun x hx => by simp [h x hx]

/-- Element (i, j) of an operation's result, written in a block's warps where its lane holds a thread (R226, R233). -/
def MatOp.putElem (o : MatOp) (b : Block) (A B : MatData) (k : Block) (i j : Nat) : Block :=
  let n := accUnits o.fmt
  let w := accRegs o.fmt
  let x := layoutAt b.teamLanes n n i j
  let v := matElem o.op o.fmt o.positions A B ((o.acc[i * n + j]?).getD 0) false i j
  match k.warps[b.teamFirst o.team + x.1 / b.decl.width]? with
  | some wp =>
    if (wp.live ||| wp.helpers).getLsbD (x.1 % b.decl.width) = true then
      let lo := wp.put (.v (x.1 % b.decl.width) (o.dst + x.2 * w)) (BitVec.ofNat 32 v)
      k.setWarp (b.teamFirst o.team + x.1 / b.decl.width)
        (if w = 2 then lo.put (.v (x.1 % b.decl.width) (o.dst + x.2 * w + 1)) (BitVec.ofNat 32 (v / 2 ^ 32)) else lo)
    else k
  | none => k
/-- Every element of the result, row by row. -/
def MatOp.putAll (o : MatOp) (b : Block) (A B : MatData) : Block :=
  (List.range (accUnits o.fmt)).foldl (fun k i => (List.range (accUnits o.fmt)).foldl (fun k j => o.putElem b A B k i j) k) b
/-- A block after an operation has landed: its elements are written, results that waited for it land, and its team takes the charge (R237, R238). -/
def MatOp.landed (o : MatOp) (b : Block) (A B : MatData) (rest : List MatOp) : Block :=
  let k := o.putAll b A B
  let ch := charge o.fmt A B
  let t := (k.teams[o.team]?).getD { avg := 0, lastOp := [], charge := [], passed := 0 }
  { k with
    warps := k.warps.map fun wp => wp.opLanded o.id ch rest
    teams := listSet k.teams o.team { t with
      avg := t.avg - (t.avg >>> 3) + (ch >>> 3)
      charge := Sparse.set 0 t.charge o.st ch } }

/-- An operation that lands: it has started, no commit holds it, and no element of its operands or its accumulator input is poisoned. -/
theorem State.finishOp_lands {A B : MatData} (ho : s.op? id = some o) (hs : o.started = true) (hb : s.block? o.blk = some b)
    (hA : s.operandData o true = some A) (hB : s.operandData o false = some B) (hAc : ∀ x ∈ A.bad, x = false) (hBc : ∀ x ∈ B.bad, x = false)
    (hacc : ∀ x ∈ o.accBad, x = false) (hheld : s.commitHeld b.vf o.reads = false) :
    s.finishOp id
      = ({ s.setBlock (o.landed b A B (s.ops.filter fun p => p.id != id)) with ops := s.ops.filter fun p => p.id != id } : State).noteBlock o.blk := by
  have hid : o.id = id := by simpa using List.find?_some ho
  subst hid
  have hpois : (A.bad.any (fun x => x) || B.bad.any (fun x => x) || o.accBad.any (fun x => x)) = false := by
    rw [any_id_eq_false hAc, any_id_eq_false hBc, any_id_eq_false hacc]
    rfl
  simp only [State.finishOp, ho, hs, hb, hA, hB, hheld, hpois, getD_false_of_all hacc, Option.map_some, Option.getD_some, Bool.not_true, Bool.or_self,
    Bool.false_eq_true, if_false, beq_iff_eq]
  rfl

end Sys2Proof.Machine
end

section
/-!
The transfer engine's steps (R243, R248, R321): a chunk that moves, a row that is sent, and a remote signal that arrives.
-/
namespace Sys2Proof.Machine

variable {s : State} {b : Block} {j : Job} {c : Chunk} {id cid : Nat}

/-! ### TRANSFER_CHUNK -/

/-- A job without an index list takes no index with a chunk. -/
theorem Job.withIndex_eq_self (hg : j.kind ≠ .gather) (hs : j.kind ≠ .scatter) : j.withIndex s b c = j := by
  have hno : (j.kind == .gather || j.kind == .scatter) = false := by simp [hg, hs]
  rw [Job.withIndex, hno, Bool.not_false, Bool.or_true, if_pos rfl]
theorem Job.srcAt_row (hg : j.kind ≠ .gather) : j.srcAt c = j.srcAddr + c.row * j.sPitch + c.off := by
  simp [Job.srcAt, hg]
theorem Job.dstAt_row (hs : j.kind ≠ .scatter) : j.dstAt c = j.dstAddr + c.row * j.dPitch + c.off := by
  simp [Job.dstAt, hs]

/-- A job of which a chunk has moved. -/
def Job.start (j : Job) : Job := { j with begun := true }

/-- A chunk whose bytes can be written moves, and ends. -/
theorem State.placeChunk_ok {bs : List Byte} {bad : List Nat} {u : State} (hs : j.kind ≠ .scatter)
    (hw : s.writeChunk b j (j.dstAddr + c.row * j.dPitch + c.off) bs bad = .ok u) : s.placeChunk b j c (.ok (bs, bad)) = u.endChunk b j c.id c.len true := by
  have hno : (j.kind == .scatter) = false := by simp [hs]
  simp only [State.placeChunk, hno, Job.dstAt_row hs, hw, Bool.false_and, Bool.false_eq_true, if_false]

section
variable (hj : s.job? id = some j) (hb : s.block? j.blk = some b) (hc : (j.chunks.find? fun c => c.id == cid) = some c)
  (hfree : s.chunkFree j c = true) (hserved : s.served b j = true)
include hj hb hc hfree hserved

/-- A chunk that may move, of a job without an index list: it goes to a peer or is asked of one, or its bytes move here. -/
theorem execTransferChunk_eq (hg : j.kind ≠ .gather) (hs : j.kind ≠ .scatter) :
    execTransferChunk id cid s = .next (if j.kind = .push ∨ j.kind = .pull then (s.setJob j.start).sendChunk b j.start c
      else (s.setJob j.start).placeChunk b j.start c ((s.setJob j.start).chunkBytes b j.start c)) := by
  simp only [execTransferChunk, hj, hb, hc, Job.withIndex_eq_self hg hs, hfree, hserved, Bool.not_true, Bool.or_self, Bool.false_eq_true, if_false,
    Bool.or_eq_true, beq_iff_eq]
  rfl
theorem execTransferChunk_places (hk : j.kind ∈ [JobKind.copy, .fill, .multicast, .prefetch]) {bs : List Byte} {bad : List Nat} {u : State}
    (hbytes : (s.setJob j.start).chunkBytes b j.start c = .ok (bs, bad))
    (hw : (s.setJob j.start).writeChunk b j.start (j.dstAddr + c.row * j.dPitch + c.off) bs bad = .ok u) :
    execTransferChunk id cid s = .next (u.endChunk b j.start c.id c.len true) := by
  simp only [List.mem_cons, List.not_mem_nil, or_false] at hk
  obtain ⟨hg, hs, hpeer⟩ : j.kind ≠ .gather ∧ j.kind ≠ .scatter ∧ ¬(j.kind = .push ∨ j.kind = .pull) := by
    obtain hk | hk | hk | hk := hk <;> simp [hk]
  rw [execTransferChunk_eq hj hb hc hfree hserved hg hs, if_neg hpeer, hbytes, State.placeChunk_ok (j := j.start) hs hw]
theorem execTransferChunk_asks (hk : j.kind = .pull) : execTransferChunk id cid s = .next ((s.setJob j.start).sendChunk b j.start c) := by
  rw [execTransferChunk_eq hj hb hc hfree hserved (by simp [hk]) (by simp [hk]), if_pos (.inr hk)]
end

/-! ### Rows of peer copies -/

/-- A row of a pull is asked of its peer, where one is reached. -/
theorem State.sendChunk_pull {u : Nat} (hk : j.kind = .pull) (hp : s.ports ≠ 0) (hu : (s.vf j.vf).bound? j.dev = some u) :
    (s.sendChunk b j c).fab = s.fab ++ [.read j.dev u j.id c.id (!j.peer.getLsbD 9) (j.srcAddr + c.row * j.sPitch + c.off) c.len] := by
  have hsrc : j.srcAt c = j.srcAddr + c.row * j.sPitch + c.off := Job.srcAt_row (by simp [hk])
  simp only [State.sendChunk, State.sendRow, hk, State.reaches_eq_true hp hu, State.peerVf, hu, hsrc, peerScr, beq_self_eq_true, if_true, Bool.not_true,
    Bool.false_eq_true, if_false, Option.getD_some]
/-- PEER_ROW_RESEND of a row that waits for its receiver. -/
theorem execPeerRowResend_sends (hcommit : (s.commits.find? fun c => c.id == id) = none) (hmig : (s.migrating.find? fun m => m.id == id) = none)
    (hj : s.job? id = some j) (hb : s.block? j.blk = some b) (hc : (j.chunks.find? fun c => c.id == cid) = some c) (hl : c.later = true) :
    execPeerRowResend id cid s = .next (s.sendChunk b j c) := by
  simp only [execPeerRowResend, hcommit, hmig, State.resendRow, hj, hb, hc, hl, if_true]

/-! ### REMOTE_SIGNAL -/

section
variable {vf dev u addr : Nat} (hu : (s.vf vf).bound? dev = some u) (ha : addr % 4 = 0) (hin : outOfWindow s vf addr 4 = false)
include hu ha hin

/-- A signal that its binding accepts, to an aligned word of the window: the writes in flight to the word are performed first, and poison keeps it. -/
theorem execRemoteSignal_eq (val : BitVec 16) : execRemoteSignal vf dev u addr val s =
    .next (let v := s.settle (physOf s vf addr) 4
      if physOf s vf addr / 4 ∈ v.spPois then v else (v.rmwScratch (physOf s vf addr) 4 fun m => (m + val.toNat) % 2 ^ 32).2) := by
  have hacc : s.accepts vf dev u = true := by simp [State.accepts, hu]
  simp only [execRemoteSignal, hacc, ha, hin, bne_self_eq_false, Bool.or_self, Bool.not_true, Bool.false_eq_true, if_false, List.contains_iff_mem]
end

end Sys2Proof.Machine
end

section
/-!
The start of tasks and continuations (R12, R159, R162, R163).
-/
namespace Sys2Proof.Sparse

/-- Keys set one by one from a function. -/
theorem get_foldl_set {α : Type} [DecidableEq α] (d : α) (f : Nat → α) (ks : List Nat) (m : Sparse α) (n : Nat) :
    get d (ks.foldl (fun m k => set d m k (f k)) m) n = if n ∈ ks then f n else get d m n := by
  induction ks generalizing m with
  | nil => rfl
  | cons k ks ih =>
    rw [List.foldl_cons, ih, get_set]
    by_cases hk : n = k
    · subst hk
      simp
    · simp [hk]

end Sys2Proof.Sparse

namespace Sys2Proof.Machine

variable {s : State} {k : PendTask} {e : CodeEntry} {pl : Place}

/-! ### The block of one warp that a task runs as -/

/-- A warp starts with its arguments in s0 to s15. -/
theorem newWarp_rs (d : CodeEntry) (n : Nat) (args : List Word) (bad : List Nat) (tag : Nat) {m : Nat} (hm : m < 16) :
    (newWarp d n args bad tag).rs m = (args[m]?).getD 0 :=
  (Sparse.get_foldl_set 0 (fun k => (args[k]?).getD 0) (List.range 16) [] m).trans (if_pos (List.mem_range.2 hm))

/-- Pacing counts the start of a block: nothing that a task's start is about. -/
theorem State.countStart_frame (s : State) (die : Nat) :
    (s.countStart die).blocks = s.blocks ∧ (s.countStart die).tasks = s.tasks ∧ (s.countStart die).conts = s.conts := by
  unfold State.countStart
  split <;> exact ⟨rfl, rfl, rfl⟩
theorem State.createTask_tasks (s : State) (k : PendTask) (d : CodeEntry) (pl : Place) : (s.createTask k d pl).tasks = s.tasks :=
  (State.countStart_frame _ _).2.1
theorem State.createTask_conts (s : State) (k : PendTask) (d : CodeEntry) (pl : Place) : (s.createTask k d pl).conts = s.conts :=
  (State.countStart_frame _ _).2.2

/-- The block of a task is put behind the others, with the task's launch, depth, class and deadline, and one warp. -/
theorem State.createTask_starts (s : State) (k : PendTask) (d : CodeEntry) (pl : Place) : ∃ b w, (s.createTask k d pl).blocks = s.blocks ++ [b] ∧ b.task = true
    ∧ b.vf = k.vf ∧ b.launch = k.launch ∧ b.depth = k.depth ∧ b.cls = k.cls ∧ b.deadline = k.deadline ∧ b.core = pl.core ∧ b.decl = d ∧ b.cstat = k.cstat
    ∧ b.tile = 0xFFFFFFFF ∧ b.warps = [w] ∧ (∀ m, m < 16 → w.rs m = (k.args[m]?).getD 0) ∧ w.picked = s.clock := by
  refine ⟨_, _, (State.countStart_frame _ _).1, rfl, rfl, rfl, rfl, rfl, rfl, rfl, rfl, rfl, rfl, rfl, fun m hm => ?_, rfl⟩
  exact newWarp_rs d 0 k.args k.bad (s.fresh * 2 ^ 32) hm

/-! ### Starting a task -/

/-- A task may start at a place: its entry names a task that this level of service runs, what its issuer covers is complete, its launch is not suspended and
it fits. -/
structure State.TaskMay (s : State) (k : PendTask) (e : CodeEntry) (pl : Place) : Prop where
  entry : s.codeEntry? k.vf k.num = some e
  task : e.isTask = true
  drained : s.drained k.after = true
  covered : s.covered k.cover = true
  level : s.deferredUse e = false
  running : ∀ l, s.launch? k.vf k.launch = some l → l.suspended = false
  place : s.taskPlace k e.asTask pl = true

theorem State.TaskMay.startTask? (h : s.TaskMay k e pl) : s.startTask? k pl = some (s.createTask k e.asTask pl) := by
  have hrun : ((s.launch? k.vf k.launch).map (·.suspended)).getD false = false := by
    cases hl : s.launch? k.vf k.launch with
    | none => rfl
    | some l => exact h.running l hl
  simp only [State.startTask?, h.entry, h.task, h.drained, h.covered, h.level, hrun, h.place, Bool.not_false, Bool.and_self, if_true]

@[simp] theorem State.returnEntry_tasks (s : State) (owner : Option Nat) : (s.returnEntry owner).tasks = s.tasks := by cases owner <;> rfl
@[simp] theorem State.returnEntry_clock (s : State) (owner : Option Nat) : (s.returnEntry owner).clock = s.clock := by cases owner <;> rfl

theorem execTaskStart_starts {n : Nat} (hk : s.tasks[n]? = some k) (h : (({ s with tasks := dropAt s.tasks n } : State).returnEntry k.owner).TaskMay k e pl) :
    execTaskStart k.vf n pl s = .next ((({ s with tasks := dropAt s.tasks n } : State).returnEntry k.owner).createTask k e.asTask pl) := by
  simp only [execTaskStart, hk, bne_self_eq_false, Bool.false_eq_true, if_false, h.startTask?, Option.getD_some]
/-- The continuations of a die start in order. -/
theorem execContinuationStart_starts {n : Nat} (hk : s.conts[n]? = some k) (hfirst : ∀ x ∈ s.conts.take n, x.die ≠ k.die ∨ x.vf ≠ k.vf)
    (h : ({ s with conts := dropAt s.conts n } : State).TaskMay k e pl) :
    execContinuationStart k.vf n pl s = .next (({ s with conts := dropAt s.conts n } : State).createTask k e.asTask pl) := by
  have hany : ((s.conts.take n).any fun x => x.die == k.die && x.vf == k.vf) = false := List.any_eq_false.2 fun x hx => by
    simpa [imp_iff_not_or] using hfirst x hx
  simp only [execContinuationStart, hk, hany, bne_self_eq_false, Bool.or_self, Bool.false_eq_true, if_false, h.startTask?, Option.getD_some]

end Sys2Proof.Machine
end

section
/-!
The view engine's steps (R258, R264, R265): a refresh that starts, is pre-empted, is built, committed part by part, taken back, stamped.
-/
namespace Sys2Proof.Machine

variable {s : State} {c : Commit} {v : View} {d m : Desc} {vf h : Nat}

/-! ### Which step a refresh makes -/

/-- The refresh of a view that goes on, of those in progress. -/
def State.going (s : State) (vf h : Nat) (v : View) (d m : Desc) : Option Commit :=
  s.commits.find? fun c => c.vf == vf && c.handle == h && s.commitMoves c v d m

section
variable (hv : s.view? vf h = some v) (hd : s.desc? vf h = some d) (hm : s.desc? vf v.master = some m)
include hv hd hm

/-- With no refresh that goes on, the first dirty group that none holds back starts, at the present generation of its source tile. -/
theorem execViewRefresh_starts {x : Dirty} (hg : s.going vf h v d m = none)
    (hx : (s.dirty.find? fun x => x.vf == vf && x.handle == h && !s.dirtyHeld x) = some x) :
    execViewRefresh vf h s = .next { s.undirty vf h x.group with
      nextId := s.nextId + 1
      commits := s.commits ++ [{ id := s.nextId, vf := vf, handle := h, group := x.group, gen := s.sourceGen v d x.group, stage := .source, parked := none,
                                 rows := [], far := [], near := [] }] } := by
  unfold State.going at hg
  simp only [execViewRefresh, hv, hd, hm, Option.bind_some, hg, hx]
theorem execViewRefresh_goes (hg : s.going vf h v d m = some c) : execViewRefresh vf h s = .next (s.stepCommit c v d m) := by
  unfold State.going at hg
  simp only [execViewRefresh, hv, hd, hm, Option.bind_some, hg]
end

/-- Whether the view engine is pre-empted where it may be: a free value (assumption 74). -/
def State.preempts (s : State) : Bool := (Config.freeWord ((s.fresh + 1) * 2 ^ 48)).getLsbD 0

theorem State.stepCommit_discards (hs : c.stage = .source ∨ c.stage = .ready) (hp : s.preempts = true) :
    s.stepCommit c v d m = ({ s with fresh := s.fresh + 1 } : State).discardBuild c := by
  have hstage : (c.stage == .source || c.stage == .ready) = true := by simpa using hs
  exact if_pos (by rw [hstage]; exact hp)
theorem State.stepCommit_stays (hp : s.preempts = false) :
    s.stepCommit c v d m = ({ s with fresh := s.fresh + 1 } : State).advanceCommit c v d m :=
  if_neg (by rw [State.preempts] at hp; rw [hp, Bool.and_false]; exact Bool.false_ne_true)
/-- Once its commit has begun, a refresh is not pre-empted. -/
theorem State.stepCommit_begun (h1 : c.stage ≠ .source) (h2 : c.stage ≠ .ready) :
    s.stepCommit c v d m = ({ s with fresh := s.fresh + 1 } : State).advanceCommit c v d m :=
  if_neg (by simp [h1, h2])

theorem State.rows_of_going (hg : s.going vf h v d m = some c) : c.rows = [] := by
  have hmoves := List.find?_some hg
  simp only [Bool.and_eq_true, State.commitMoves, List.isEmpty_iff] at hmoves
  obtain ⟨-, ⟨-, hrows⟩, -⟩ := hmoves
  exact hrows

/-! ### The source is read, and the content built -/

theorem State.advanceCommit_source {r : Rec} {x : Copy} {xs : List Copy} {die : Nat} {steps : List (List (Nat × List Byte))} (hs : c.stage = .source)
    (hr : s.record? c.vf m (sourceTile d m c.group) = some r) (hres : r.state = .resident) (hx : r.copies = x :: xs) (hhome : x.home = .main die)
    (hmov : s.tileMoving v d (groupTile c.group) = false)
    (hbuild : buildGroup d m c.group (fun i => s.readTileElem {} c.vf m true x.addr none i) = .ok steps) :
    s.advanceCommit c v d m = s.beginCommit c d (steps.map linedWrites) := by
  have hstate : (RecState.resident == RecState.moving) = false := rfl
  simp only [State.advanceCommit, hs, hr, hres, hx, hhome, hmov, hstate, List.head?_cons, Bool.or_self, Bool.false_eq_true, if_false, State.rebuild, hbuild]

/-! ### What the homes hold is kept -/

theorem allSome_map_some {α : Type} (xs : List α) : allSome (xs.map some) = some xs := by
  induction xs with
  | nil => rfl
  | cons x xs ih => rw [List.map_cons, allSome, ih, Option.map_some]

/-- The rows that ask the peers for what they hold. -/
def Commit.asks (c : Commit) : List (Nat × FabMsg) := c.far.flatten.map fun m => (m.row, m.probe)

theorem State.advanceCommit_ready {r : Rec} {old : List (List (Nat × List Byte × List Nat))} (hs : c.stage = .ready)
    (hr : s.record? c.vf d (groupTile c.group) = some r) (hput : ∀ x ∈ r.copies, x.peerDev? = none → (s.putCopy c.vf d x c.near.flatten).isSome = true)
    (huse : s.groupInUse c = false)
    (hold : (c.near.map fun ws => ((r.near.head?).map fun x => s.heldCopy c.vf d x ws).getD (some [])) = old.map some) :
    s.advanceCommit c v d m = { s.setCommit { c with
      stage := if c.asks = [] then .commit else .probe
      rows := c.asks
      old := old } with fab := s.fab ++ c.asks.map (·.2) } := by
  have hnear : (r.near.any fun x => (s.putCopy c.vf d x c.near.flatten).isNone) = false := List.any_eq_false.2 fun x hx => by
    obtain ⟨hmem, hhere⟩ := List.mem_filter.1 hx
    simpa using Option.isSome_iff_ne_none.1 (hput x hmem (Option.isNone_iff_eq_none.1 hhere))
  simp only [State.advanceCommit, hs, hr, huse, hnear, hold, allSome_map_some, Bool.false_eq_true, if_false, List.isEmpty_iff]
  rfl

/-! ### The commit, part by part -/

theorem State.advanceCommit_probe (hs : c.stage = .probe) (hrows : c.rows = []) : s.advanceCommit c v d m = s.setCommit { c with stage := .commit } := by
  simp only [State.advanceCommit, hs, hrows, List.isEmpty_nil, if_true]

section
variable (hs : c.stage = .commit) (hrows : c.rows = [])
include hs hrows

theorem State.advanceCommit_far {ms : List FabMsg} {far : List (List FabMsg)} (hf : c.far = ms :: far) :
    s.advanceCommit c v d m = { s.setCommit { c with
      far := far
      rows := ms.map fun y => (FabMsg.row y, y) } with fab := s.fab ++ ms } := by
  simp only [State.advanceCommit, hs, hrows, hf, List.isEmpty_nil, Bool.not_true, Bool.false_eq_true, if_false]

section
variable {ws : List (Nat × List Byte)} {near : List (List (Nat × List Byte))} {r : Rec} (hf : c.far = []) (hn : c.near = ws :: near)
  (hr : s.record? c.vf d (groupTile c.group) = some r)
include hf hn hr

/-- A part that can be written at every copy on this device. -/
theorem State.advanceCommit_near {t : State}
    (hput : r.near.foldl (fun (acc : Option State) x => acc.bind fun t => t.putCopy c.vf d x ws) (some s) = some t) :
    s.advanceCommit c v d m = t.setCommit { c with near := near } := by
  simp only [State.advanceCommit, hs, hrows, hf, hn, hr, hput, List.isEmpty_nil, Bool.not_true, Bool.false_eq_true, if_false, Option.bind_some]
theorem State.advanceCommit_near_fails
    (hput : r.near.foldl (fun (acc : Option State) x => acc.bind fun t => t.putCopy c.vf d x ws) (some s) = none) :
    s.advanceCommit c v d m = s.undoCommit c := by
  simp only [State.advanceCommit, hs, hrows, hf, hn, hr, hput, List.isEmpty_nil, Bool.not_true, Bool.false_eq_true, if_false, Option.bind_some]
end

theorem State.advanceCommit_stamp (hf : c.far = []) (hn : c.near = []) :
    s.advanceCommit c v d m = (s.dropCommit c).stampGroup c.vf c.handle c.group { pois := false, gen := c.gen } := by
  simp only [State.advanceCommit, hs, hrows, hf, hn, List.isEmpty_nil, Bool.not_true, Bool.false_eq_true, if_false]
end

/-- What a commit that fails does, where no row of it is under way: the rows that peers have answered are sent back, and behind them, or at once where
there is none or no port is up, what this device held is put back and the refresh fails (R265). -/
theorem State.undoCommit_eq (hrows : c.rows = []) (hf : c.far = []) :
    s.undoCommit c = (let sent := c.back.filter fun m => !c.far.any fun ms => ms.any fun y => y.row == m.row
      let c1 := { c with stage := RefreshStage.undo }
      if sent = [] ∨ s.ports = 0 then ((s.restoreNear c).dropCommit c).failGroup c.vf c.handle c.group c.gen
      else { s.setCommit { c1 with
        back := []
        rows := sent.map fun m => (m.row, m) } with fab := s.fab ++ sent }) := by
  simp only [State.undoCommit, hrows, hf, List.isEmpty_nil, Bool.not_true, Bool.false_eq_true, if_false, Bool.or_eq_true, List.isEmpty_iff, beq_iff_eq,
    State.failCommit]

end Sys2Proof.Machine
end

section
/-!
The end of a block (R163, R193, R291), and every engine step at once.
-/
namespace Sys2Proof.Machine

variable {s : State} {blk : Nat} {b : Block}

/-! ### BLOCK_END -/

/-- Nothing keeps a block from its end: its warps have ended, none of them halted by a lost store, no engine job of it is outstanding, and no completion
window parks it. -/
structure State.BlockOver (s : State) (blk : Nat) (b : Block) : Prop where
  here : s.block? blk = some b
  ended : ∀ w ∈ b.warps, w.ended = true ∧ w.halted = false
  jobs : ∀ j ∈ s.jobs, j.blk ≠ blk
  ops : ∀ o ∈ s.ops, o.blk ≠ blk
  placed : b.parked = false

/-- Every access of a block's warps is performed. -/
def State.finishBlock (s : State) (blk : Nat) (b : Block) : State := (List.range b.warps.length).foldl (fun t n => t.finishWarp ⟨blk, n⟩) s
/-- A block is taken away, and its core counts a stop. -/
def State.takeBlock (s : State) (blk : Nat) (b : Block) : State :=
  ({ s.countEnd b.core with blocks := (s.countEnd b.core).blocks.filter fun x => x.id != blk } : State).pruneGangs

namespace State.BlockOver

variable (h : s.BlockOver blk b)
include h

theorem not_held : (!b.over || s.jobs.any (fun j => j.blk == blk) || s.ops.any (fun o => o.blk == blk) || b.parked) = false := by
  have hover : b.over = true := List.all_eq_true.2 fun w hw => by simp [h.ended w hw]
  have hjobs : (s.jobs.any fun j => j.blk == blk) = false := List.any_eq_false.2 fun j hj => by simp [h.jobs j hj]
  have hops : (s.ops.any fun o => o.blk == blk) = false := List.any_eq_false.2 fun o ho => by simp [h.ops o ho]
  rw [hover, hjobs, hops, h.placed]
  rfl
theorem execBlockEnd_task (ht : b.task = true) :
    execBlockEnd blk s = .next ((((s.finishBlock blk b).failOwned b).unpin b.vf b.pins).takeBlock blk b) := by
  simp only [execBlockEnd, h.here, h.not_held, ht, Bool.false_eq_true, if_false, if_true]
  rfl
/-- The block of a tile below the completion window: its tile completes (R291, R292). -/
theorem execBlockEnd_tile {l : Launch} (ht : b.task = false) (hl : ((s.finishBlock blk b).unpin b.vf b.pins).launch? b.vf b.launch = some l)
    (hw : b.tile < l.completed + Config.window) :
    execBlockEnd blk s = .next ((((s.finishBlock blk b).unpin b.vf b.pins).takeBlock blk b).tilesDone b.vf b.launch
      [(b.tile, { stat := 0, ranAt := ((s.finishBlock blk b).unpin b.vf b.pins).homeCode b.vf b.clu, spill := b.spill, version := b.version })]) := by
  unfold State.finishBlock at hl ⊢
  simp only [execBlockEnd, h.here, h.not_held, ht, hl, Nat.not_le.2 hw, Bool.false_eq_true, if_false]
  rfl

end State.BlockOver

/-! ### Every engine step -/

/-- Settles O56: each step is the one that the lemmas on its engine give. -/
theorem engineSteps : Obligations.EngineSteps := by
  intro s
  refine ⟨?_, ?_, ?_, ?_, ?_, ?_, ?_, ?_⟩
  -- MATRIX_OP_START
  · intro core o b hidle hg ho hb hva n zc
    have hop := State.startOp_op? hidle hg ho hb hva
    rw [Block.accInput_codes, Block.accInput_poison] at hop
    exact ⟨_, rfl, hop⟩
  -- MATRIX_OP_COMPLETE
  · intro id o b A B ho hs hb hA hB hAc hBc hacc hheld n w rest put written ch t0 b'
    have hid : o.id = id := by simpa using List.find?_some ho
    subst hid
    exact congrArg (fun t : State => Host.Outcome.next t.settleAll) (State.finishOp_lands ho hs hb hA hB hAc hBc hacc hheld)
  -- TRANSFER_CHUNK
  · intro id cid j b c hj hb hc hfree hserved m
    exact ⟨fun hk bs bad u hbytes hw => execTransferChunk_places hj hb hc hfree hserved hk hbytes hw,
      fun hk hp u hu => ⟨_, execTransferChunk_asks hj hb hc hfree hserved hk,
        State.sendChunk_pull (s := s.setJob j.start) (j := j.start) hk hp hu⟩⟩
  -- REMOTE_SIGNAL
  · intro vf dev u addr val hu ha hin p v
    have hsig := execRemoteSignal_eq hu ha hin val
    exact ⟨fun hclean => hsig.trans (congrArg _ (if_neg hclean)), fun hbad => hsig.trans (congrArg _ (if_pos hbad))⟩
  -- PEER_ROW_RESEND
  · intro id cid j b c hcommit hmig hj hb hc hl hk hp u hu
    exact ⟨_, execPeerRowResend_sends hcommit hmig hj hb hc hl, State.sendChunk_pull hk hp hu⟩
  -- TASK_START and CONTINUATION_START
  · intro vf n pl k e started may u v
    refine ⟨fun hk hmay => ?_, fun hk hfirst hmay => ?_⟩
    · obtain ⟨rfl, hentry, htask, hdrained, hcovered, hlevel, hrunning, hplace⟩ := hmay
      refine ⟨_, execTaskStart_starts hk ⟨hentry, htask, hdrained, hcovered, hlevel, hrunning, hplace⟩, ?_, ?_⟩
      · have hstart := State.createTask_starts u k e.asTask pl
        rw [State.returnEntry_clock] at hstart
        exact hstart
      · rw [State.createTask_tasks, State.returnEntry_tasks]
    · obtain ⟨rfl, hentry, htask, hdrained, hcovered, hlevel, hrunning, hplace⟩ := hmay
      exact ⟨_, execContinuationStart_starts hk hfirst ⟨hentry, htask, hdrained, hcovered, hlevel, hrunning, hplace⟩,
        State.createTask_starts v k e.asTask pl, State.createTask_conts ..⟩
  -- VIEW_REFRESH
  · intro vf h v d m hv hd hm going u stays
    refine ⟨fun x hg hx => execViewRefresh_starts hv hd hm hg hx, fun c hg => ?_⟩
    have hgoes : exec (.viewRefresh vf h) s = .next (s.stepCommit c v d m) := execViewRefresh_goes hv hd hm hg
    have hrows : c.rows = [] := State.rows_of_going hg
    have hbegun : c.stage = .probe ∨ c.stage = .commit → exec (.viewRefresh vf h) s = .next (u.advanceCommit c v d m) := fun hs =>
      hgoes.trans (congrArg _ (by obtain hs | hs := hs <;> exact State.stepCommit_begun (by simp [hs]) (by simp [hs])))
    refine ⟨fun hs hno => ?_, fun r x xs die steps hs hstay hr hres hx hhome hmov hbuild => ?_, fun r old hs hstay hr hput huse hold => ?_, fun hs => ?_,
      fun ms far hs hf => ?_, fun ws near r hs hf hn hr => ⟨fun t hput => ?_, fun hput => ?_⟩, fun hs hf hn => ?_⟩
    · rw [hgoes, State.stepCommit_discards hs (Bool.eq_true_of_not_eq_false hno)]
      rfl
    · rw [hgoes, State.stepCommit_stays hstay, State.advanceCommit_source hs hr hres hx hhome hmov hbuild]
    · have hheld : (c.near.map fun ws => ((r.near.head?).map fun x => u.heldCopy c.vf d x ws).getD (some [])) = old.map some := by
        rw [← hold]
        refine List.map_congr_left fun ws _ => ?_
        unfold Rec.near
        cases (r.copies.filter fun x => x.peerDev?.isNone).head? <;> rfl
      rw [hgoes, State.stepCommit_stays hstay, State.advanceCommit_ready hs hr hput huse hheld]
      rfl
    · rw [hbegun (.inl hs), State.advanceCommit_probe hs hrows]
    · rw [hbegun (.inr hs), State.advanceCommit_far hs hrows hf]
    · rw [hbegun (.inr hs), State.advanceCommit_near hs hrows hf hn hr hput]
    · rw [hbegun (.inr hs), State.advanceCommit_near_fails hs hrows hf hn hr hput, State.undoCommit_eq hrows hf]
    · rw [hbegun (.inr hs), State.advanceCommit_stamp hs hrows hf hn]
  -- BLOCK_END
  · intro blk b hb hended hjobs hops hparked u gone
    have hover : s.BlockOver blk b := ⟨hb, hended, hjobs, hops, hparked⟩
    exact ⟨hover.execBlockEnd_task, fun l ht hl hw => hover.execBlockEnd_tile ht hl hw⟩

end Sys2Proof.Machine
end

section
/-!
View instructions (R266 to R270): what VMARK marks and VSTAMP reads, and what VWAIT and VREFR do with the groups that their scalars name.
-/
namespace Sys2Proof.Machine

variable {s t : State} {c : Ctx}

/-! ### What a handle and a group number name -/

section
variable {vf h g : Nat} {v : View} {d : Desc} {gen : Bool}

theorem State.viewDesc?_eq_some (hv : s.view? vf h = some v) (hd : s.desc? vf h = some d) : s.viewDesc? vf h = some (v, d) := by
  simp [State.viewDesc?, hv, hd]
theorem State.viewDesc?_eq_none (hno : s.view? vf h = none ∨ s.desc? vf h = none) : s.viewDesc? vf h = none := by
  unfold State.viewDesc?
  obtain hv | hd := hno
  · rw [hv]
  · rw [hd]
    cases s.view? vf h <;> rfl
theorem State.stampRead_group (hv : s.view? vf h = some v) (hd : s.desc? vf h = some d) (hg : d.hasGroup g = true) :
    s.stampRead vf h g gen = if gen then (s.sourceGen v d g, 0) else ((v.stamp g).gen, if (v.stamp g).pois then 1 else 0) := by
  simp only [State.stampRead, State.viewDesc?_eq_some hv hd, hg, Bool.not_true, Bool.false_eq_true, if_false]
/-- No view of that handle is registered, or it has no group of that number. -/
theorem State.stampRead_nothing (hno : s.view? vf h = none ∨ s.desc? vf h = none ∨ ∃ d, s.desc? vf h = some d ∧ d.hasGroup g = false) :
    s.stampRead vf h g gen = (0, 0x80000000) := by
  obtain hv | hd | ⟨d, hd, hg⟩ := hno
  · rw [State.stampRead, State.viewDesc?_eq_none (.inl hv)]
  · rw [State.stampRead, State.viewDesc?_eq_none (.inr hd)]
  · cases hv : s.view? vf h with
    | none => rw [State.stampRead, State.viewDesc?_eq_none (.inl hv)]
    | some v => simp only [State.stampRead, State.viewDesc?_eq_some hv hd, hg, Bool.not_false, if_true]
end

/-! ### The predicate result of a view instruction (R266) -/

/-- The result of a word, queued in the predicate of every active lane. -/
def Ctx.answers (c : Ctx) (u : State) (pd : BitVec 3) (ok : Bool) : State := c.late u .plain 0 (predWrites c.all pd.toNat ok)

variable {hdr : Hdr} {all : Bool} {pd : BitVec 3} {a b : BitVec 7} {gs : List (Nat × Nat)}

/-! ### VMARK (R267) -/

theorem exec_vmark_tile {m : Desc} (hi : Issues (.vmark hdr pd a b) s c t) (hact : c.act ≠ 0)
    (hm : (t.performWarp c.ref .pkg).desc? c.blk.vf (viewHandle (c.s a)) = some m) (hview : m.view = false) (htile : (c.s b).toNat < m.tiles) :
    exec (.vmark hdr pd a b) s = .next (c.after
      (c.answers ((t.performWarp c.ref .pkg).rise c.blk.vf (viewHandle (c.s a)) (c.s b).toNat m fun _ _ => true) pd true)) := by
  refine exec_after (execVmark hdr pd a b s) hi rfl rfl ((Ctx.ite_act hact _ _).trans (congrArg Res.ok ?_))
  have hmark : (!m.view && decide ((c.s b).toNat < m.tiles)) = true := by simp [hview, htile]
  unfold Ctx.s at hm hmark ⊢
  simp only [hm, hmark, if_true]
  rfl
/-- Not a tile of a master tensor: VMARK marks nothing. -/
theorem exec_vmark_nothing (hi : Issues (.vmark hdr pd a b) s c t) (hact : c.act ≠ 0)
    (hno : ∀ m, (t.performWarp c.ref .pkg).desc? c.blk.vf (viewHandle (c.s a)) = some m → m.view = true ∨ m.tiles ≤ (c.s b).toNat) :
    exec (.vmark hdr pd a b) s = .next (c.after (c.answers (t.performWarp c.ref .pkg) pd false)) := by
  refine exec_after (execVmark hdr pd a b s) hi rfl rfl ((Ctx.ite_act hact _ _).trans (congrArg Res.ok ?_))
  unfold Ctx.s at hno
  cases hm : (t.performWarp c.ref .pkg).desc? c.blk.vf (viewHandle (c.w.rs a.toNat)) with
  | none => rfl
  | some m =>
    have hmark : (!m.view && decide ((c.w.rs b.toNat).toNat < m.tiles)) = false := by
      obtain hview | htile := hno m hm
      · simp [hview]
      · simp [htile]
    simp only [hmark, Bool.false_eq_true, if_false]
    rfl

/-! ### VSTAMP (R268) -/

theorem exec_vstamp {gen : Bool} {d : BitVec 10} {x : Word × Word} (hi : Issues (.vstamp hdr gen d a b) s c t) (hact : c.act ≠ 0)
    (hx : t.stampRead c.blk.vf (viewHandle (c.s a)) (viewGroup (c.s a) (c.s b)) gen = x) :
    exec (.vstamp hdr gen d a b) s
      = .next (c.after (c.late t .plain 0 (c.lanes.flatMap fun l => [(.v l d.toNat, x.1), (.v l (d.toNat + 1), x.2)]))) := by
  subst hx
  exact exec_after (execVstamp hdr gen d a b s) hi rfl rfl (congrArg Res.ok (Ctx.ite_act hact _ _))

/-! ### VWAIT (R269) -/

section
variable (hi : Issues (.vwait hdr all pd a b) s c t) (hact : c.act ≠ 0)
include hi hact

theorem exec_vwait_unnamed (hn : t.named? c all a b = none) : exec (.vwait hdr all pd a b) s = .next (c.after (c.answers t pd false)) := by
  refine exec_after (execVwait hdr all pd a b s) hi rfl rfl ((Ctx.ite_act hact _ _).trans ?_)
  simp only [hn]
  rfl

variable (hn : t.named? c all a b = some gs)
include hn

theorem exec_vwait_fresh (hw : t.walkRest c.blk.vf gs = .done) :
    exec (.vwait hdr all pd a b) s = .next (c.after ((c.answers t pd true).observe c.ref)) := by
  refine exec_after (execVwait hdr all pd a b s) hi rfl rfl ((Ctx.ite_act hact _ _).trans ?_)
  simp only [hn, State.walkGroups, hw]
  rfl
theorem exec_vwait_stale {w : ViewWait} {zs : List (Nat × Nat)} (hw : t.walkRest c.blk.vf gs = .wait w zs) :
    exec (.vwait hdr all pd a b) s = .next (c.after (c.blockRun t (.view pd.toNat c.all w zs))) := by
  refine exec_after (execVwait hdr all pd a b s) hi rfl rfl ((Ctx.ite_act hact _ _).trans ?_)
  simp only [hn, State.walkGroups, hw]
theorem exec_vwait_poisoned {g : Nat} (hw : t.walkRest c.blk.vf gs = .trap g) :
    exec (.vwait hdr all pd a b) s = .next (s.trapWord c.ref c.run.pc c.run.lanes c.w (groupTrap causeVpois g)) := by
  refine exec_traps (execVwait hdr all pd a b s) hi rfl rfl ((Ctx.ite_act hact _ _).trans ?_)
  simp only [hn, State.walkGroups, hw]
end

/-! ### VREFR (R270) -/

section
variable (hi : Issues (.vrefr hdr all pd a b) s c t) (hact : c.act ≠ 0)
include hi hact

theorem exec_vrefr_unnamed (hn : t.named? c all a b = none) : exec (.vrefr hdr all pd a b) s = .next (c.after (c.answers t pd false)) := by
  refine exec_after (execVrefr hdr all pd a b s) hi rfl rfl ((Ctx.ite_act hact _ _).trans ?_)
  simp only [hn]
  rfl
theorem exec_vrefr_named (hn : t.named? c all a b = some gs) : exec (.vrefr hdr all pd a b) s
    = .next (c.after (c.answers (gs.reverse.foldl (fun u x => u.markDirty c.blk.vf x.1 x.2 true) t) pd true)) := by
  refine exec_after (execVrefr hdr all pd a b s) hi rfl rfl ((Ctx.ite_act hact _ _).trans ?_)
  simp only [hn]
  rfl
end

/-- Settles O54: each word's effect by what its scalars name; VWAIT passes the groups that are fresh, and its walk ends at the first that is not. -/
theorem viewWords : Obligations.ViewWords := by
  intro h gen all pd d a b s c t hd queue g preds u pair hact
  refine ⟨fun hi m hm hview htile => exec_vmark_tile hi hact hm hview htile, fun hi hno => exec_vmark_nothing hi hact hno, fun hi v m hv hm hg => ?_,
    fun hi hno => exec_vstamp hi hact (State.stampRead_nothing hno), fun hi hn => exec_vwait_unnamed hi hact hn,
    fun hi gs hn => ?_, fun hi hn => exec_vrefr_unnamed hi hact hn, fun hi gs hn => exec_vrefr_named hi hact hn⟩
  -- VSTAMP of a group
  · refine (exec_vstamp hi hact (State.stampRead_group hv hm hg)).trans ?_
    cases gen <;> rfl
  -- VWAIT: every group is fresh, or the first that is not is poisoned, or stale
  · intro one passes
    refine ⟨fun hf => exec_vwait_fresh hi hact hn (State.walkRest_done hf), fun ys x zs hgs hf hs hp => ?_, fun ys x zs w hgs hf hw hs => ?_⟩
    · obtain ⟨w, hw⟩ : ∃ w, one x = [w] := ⟨_, rfl⟩
      rw [hw] at hs hp
      refine ⟨groupTrap causeVpois w.group, rfl, exec_vwait_poisoned hi hact hn ?_⟩
      rw [hgs, State.walkRest_append hf, State.walkRest_poisoned hw hs hp]
    · refine exec_vwait_stale hi hact hn ?_
      rw [hgs, State.walkRest_append hf, State.walkRest_stale hw hs]

end Sys2Proof.Machine
end

section
/-!
The walk of a launch (R280 to R282, R293): its start, the tiles it takes, and their hand-off to the leaves.
-/
namespace Sys2Proof.Machine

variable {s : State} {vf num leaf : Nat} {l : Launch}

theorem State.key_of_launch? (h : s.launch? vf num = some l) : l.vf = vf ∧ l.num = num := by
  simpa using List.find?_some h

/-! ### WALK_START -/

/-- A queue gives the launch that starts its binding, and with it its class; a launch of LNCH keeps what it was given. -/
theorem State.bound_eq (s : State) (l : Launch) : s.bound l = { l with
    cls := match l.queue with
      | some q => bindClass ((s.vf l.vf).queue q).bind
      | none => l.cls
    bind := match l.queue with
      | some q => ((s.vf l.vf).queue q).bind
      | none => l.bind } := by
  cases l
  unfold State.bound
  dsimp only
  split <;> rfl
/-- The count that a launch reads as it starts (R289). -/
def State.countOf (s : State) (l : Launch) : Nat :=
  match l.opts.count with
  | some a => (readWord s.sp (physOf s l.vf a)).toNat
  | none => l.tiles
theorem State.beginWalk_walks (hfault : s.predFault (s.bound l) = false) (hn : min (s.countOf (s.bound l)) (s.bound l).tiles ≠ 0) :
    s.beginWalk l = s.setLaunch { s.bound l with
      phase := .walking
      tiles := min (s.countOf (s.bound l)) (s.bound l).tiles
      countWord := s.countOf (s.bound l)
      clusters := s.launchClusters (s.bound l)
      started := s.clock } := by
  unfold State.beginWalk
  exact (if_neg (ne_true_of_eq_false hfault)).trans (if_neg (ne_true_of_eq_false (beq_eq_false_iff_ne.2 hn)))
theorem State.waiting_of_mayWalk (h : s.mayWalk l = true) : l.phase = .waiting := by
  simp only [State.mayWalk, Bool.and_eq_true, beq_iff_eq] at h
  exact h.1.2
theorem State.members_alone (hb : l.bundle = none) : s.members l = [l] := by
  rw [State.members, hb]
theorem execWalkStart_alone (hl : s.launch? vf num = some l) (hmay : s.mayWalk l = true) (hb : l.bundle = none) :
    execWalkStart vf num s = .next (s.beginWalk l) := by
  obtain ⟨rfl, rfl⟩ := State.key_of_launch? hl
  have hmembers : ((s.members l).filter fun x => x.phase == .waiting) = [l] := by simp [State.members_alone hb, State.waiting_of_mayWalk hmay]
  simp only [execWalkStart, hl, hmay, hmembers, List.foldl_cons, List.foldl_nil, if_true]

/-! ### WALK_TILE -/

/-- The spill code of a tile (Table 17-7): it was spilled or roams, or it stays at the leaf of its copy. -/
theorem State.code_of_spillTo {t k code : Nat} {peer : Bool} (h : s.spillTo l t k peer = .leaf leaf code) :
    code = 1 ∨ code = 2 ∨ code = if peer then 3 else 0 := by
  simp only [State.spillTo] at h
  split at h
  -- outside the engine group
  · split at h <;> cases h
    · exact .inr (.inl rfl)
    · exact .inr (.inr rfl)
  · split at h
    -- the leaf is not overloaded, or the tile may not be spilled
    · cases h
      exact .inr (.inr rfl)
    · split at h
      · split at h <;> cases h
        · split
          · exact .inl rfl
          · exact .inr (.inl rfl)
        · exact .inr (.inr rfl)
      · cases h
        exact .inr (.inr rfl)
theorem State.code_of_placeTile {t code : Nat} {r : Rec} (h : s.placeTile l t r = .leaf leaf code) :
    ∃ c, s.chooseCopy l r = some c ∧ (code = 1 ∨ code = 2 ∨ code = if c.isPeer then 3 else 0) := by
  unfold State.placeTile at h
  split at h
  · cases h
  · cases h
  · split at h
    · cases h
    · next c hc =>
      split at h
      · cases h
      · exact ⟨c, hc, State.code_of_spillTo h⟩
/-- A single tile that a leaf takes is pinned, and waits for its hand-off with the spill code of its place. -/
theorem State.decideUnit_leaf {t code : Nat} {r : Rec} (h : s.placeTile l t r = .leaf leaf code) :
    s.decideUnit l [(t, r)] = (({ s with pinned := s.pinned ++ [(l.vf, l.kernel.overTh, t)] } : State).setLaunch
      { l with handing := some (leaf, [(t, r.version, if code = 1 ∨ code = 2 ∨ code = 3 then code else 0)]) }).tilesDone l.vf l.num [] := by
  obtain ⟨c, hc, hcode⟩ := State.code_of_placeTile h
  have hspill : (if (code == 1 || code == 2) = true then code else if ((s.chooseCopy l r).map Copy.isPeer).getD false = true then 3 else 0)
      = if code = 1 ∨ code = 2 ∨ code = 3 then code else 0 := by
    rw [hc]
    obtain rfl | rfl | rfl := hcode
    · rfl
    · rfl
    · cases hp : c.isPeer <;> simp [hp]
  simp only [State.decideUnit, List.foldl_cons, List.foldl_nil, h, Nat.zero_max, List.map_cons, List.map_nil, List.filterMap_cons, List.filterMap_nil,
    List.head?_cons, hspill]

theorem Launch.unit_single (hg : l.kernel.cluster < 2) (t : Nat) : l.unit t = [t] := if_pos hg
theorem Launch.take_next (hg : l.kernel.cluster < 2) (hnext : l.next < l.tiles) : l.take = some (l.next, false, { l with next := l.next + 1 }) := by
  rw [Launch.take, if_pos hnext, Launch.unit_single hg, List.length_singleton, Nat.min_eq_right hnext]
theorem State.bundleTurn_alone (hb : l.bundle = none) (t : Nat) : s.bundleTurn l t = true := by
  simp [State.bundleTurn, State.members_alone hb]

/-- Nothing keeps a walk without gangs from its next tile: no hand-off is outstanding, nothing has stopped or parked it, and the host has not aborted
a fault of the tile's record. -/
structure State.WalksOn (s : State) (vf num : Nat) (l : Launch) : Prop where
  here : s.launch? vf num = some l
  walking : l.phase = .walking
  handed : l.handing = none
  running : l.suspended = false
  served : s.coreHalted = false
  unparked : l.parkedRec = none
  kept : l.next ∉ l.lostRecs
  single : l.kernel.cluster < 2
  alone : l.bundle = none
  left : l.next < l.tiles

theorem State.WalksOn.execWalkTile_eq (h : s.WalksOn vf num l) {d : Desc} {r : Rec} (hd : s.desc? vf l.kernel.overTh = some d)
    (hr : s.record? vf d l.next = some r) (hm : r.state ≠ .moving) :
    execWalkTile vf num s = .next (s.decideUnit { l with next := l.next + 1 } [(l.next, r)]) := by
  have hgoes : (l.phase != .walking || l.handing.isSome || l.suspended || s.coreHalted || l.parkedRec.isSome) = false := by
    rw [h.walking, h.handed, h.running, h.served, h.unparked]
    rfl
  simp [execWalkTile, h.here, hgoes, Launch.take_next h.single h.left, hd, State.bundleTurn_alone h.alone, Launch.unit_single h.single, h.kept, hr, hm]

/-! ### TILE_HANDOFF -/

theorem execTileHandoff_spends {ts : List (Nat × Nat × Nat)} (hl : s.launch? vf num = some l) (hh : l.handing = some (leaf, ts))
    (hp : (s.leaf leaf).incoming.length < Config.linkPermits) :
    execTileHandoff vf num s = .next (((s.setLeaf leaf { s.leaf leaf with incoming := (s.leaf leaf).incoming ++ [{
      vf := vf, launch := num, tiles := ts, gang := decide (2 ≤ l.kernel.cluster), cls := l.cls, deadline := l.deadline, resume := none,
      accepted := 0 }] }).setLaunch { l with handing := none }).settleWalk vf num) := by
  simp only [execTileHandoff, hl, hh, if_neg (Nat.not_le.2 hp)]

end Sys2Proof.Machine
end

section
/-!
The steps of a leaf (R282 to R286, R297, R298): it accepts a hand-off, creates the block of an entry or the blocks of a gang, and ages the gangs at its
head; and the pacing of a die (R303).
-/
namespace Sys2Proof

theorem mapIf_eq_map {α : Type} (p : α → Bool) (f : α → α) (xs : List α) : mapIf p f xs = xs.map fun x => if p x then f x else x := by
  induction xs with
  | nil => rfl
  | cons x xs ih => rw [mapIf, ih, List.map_cons]

namespace Machine

variable {s : State} {leaf n : Nat} {e : LeafEntry} {l : Launch}

/-! ### LEAF_ACCEPT -/

theorem execLeafAccept_takes {rest : List LeafEntry} (hin : (s.leaf leaf).incoming = e :: rest)
    (hroom : s.queued leaf + e.tiles.length ≤ Config.leafQueue) :
    execLeafAccept leaf s = .next ((({ s with nextId := s.nextId + 1 } : State).setLeaf leaf { s.leaf leaf with
      incoming := rest
      queue := enqueue { e with accepted := s.nextId } (s.leaf leaf).queue }).noteHead leaf) := by
  simp only [execLeafAccept, hin, if_neg (Nat.not_lt.2 hroom)]

/-! ### BLOCK_CREATE and GANG_PLACE -/

/-- An entry of a leaf's queue whose turn it is: it is a new one of a launch that runs, and the order of the queue lets it be created. -/
structure State.EntryDue (s : State) (leaf n : Nat) (e : LeafEntry) (l : Launch) : Prop where
  queued : (s.leaf leaf).queue[n]? = some e
  launch : s.launch? e.vf e.launch = some l
  isNew : e.resume = none
  running : l.suspended = false
  order : s.orderOk leaf n e = true

theorem State.EntryDue.execBlockCreate_eq (h : s.EntryDue leaf n e l) {pl : Place} {x : Nat × Nat × Nat} {xs : List (ToStage × Copy)} (hx : e.tiles = [x])
    (hg : e.gang = false) (hmay : s.mayCreate (leaf / 16) 1 = true) (hpl : pl.core / 4 = leaf)
    (hready : s.tileReady l (leaf / 16) x.1 x.2.2 (s.stageLost leaf e) = .ok xs) (hfits : s.fits e.vf l.kernel pl (s.layout l pl xs).2.1 = true) :
    execBlockCreate leaf n pl s = .next (((s.clearStage leaf e).leaveLeaf leaf n).createBlock l x pl none (s.layout l pl xs).1 (s.layout l pl xs).2.1
      (s.layout l pl xs).2.2) := by
  have hgoes : (e.gang || e.resume.isSome || l.suspended || !s.orderOk leaf n e || !s.mayCreate (leaf / 16) 1 || pl.core / 4 != leaf) = false := by
    rw [hg, h.isNew, h.running, h.order, hmay, hpl, bne_self_eq_false]
    rfl
  simp only [execBlockCreate, h.queued, h.launch, hx, hgoes, hready, hfits, Bool.false_eq_true, if_false, if_true]

/-- The gang that the blocks of ready tiles form, with the barriers its warps share (R204, R297). -/
def State.newGang (s : State) (leaf : Nat) (l : Launch) (size : Nat) : Gang := {
  id := s.nextId
  cluster := leaf
  created := size * l.kernel.created
  bars := List.replicate 4 { ready := true, phase := 0, expW := size * l.kernel.created, arrW := 0, expB := 0, arrB := 0, lost := false } }
/-- The gang joins the gangs of the device. -/
def State.joinGang (s : State) (g : Gang) : State := { s with
  nextId := g.id + 1
  gangs := s.gangs ++ [g] }

/-- A gang all of whose tiles are ready and whose blocks all fit: they are created in one step. -/
theorem State.EntryDue.execGangPlace_eq (h : s.EntryDue leaf n e l) {pls : List Place} {rs : List ((Nat × Nat × Nat) × List (ToStage × Copy))} {u : State}
    (hg : e.gang = true) (hmay : s.mayCreate (leaf / 16) rs.length = true) (hhere : s.gangHere leaf none = false) (hpls : ∀ p ∈ pls, p.core / 4 = leaf)
    (hcores : distinctCores pls = true) (hne : rs ≠ []) (hlen : rs.length = pls.length) (htiles : e.tiles = rs.map (·.1))
    (hready : ∀ y ∈ rs, s.tileReady l (leaf / 16) y.1.1 y.1.2.2 (s.stageLost leaf e) = .ok y.2)
    (hu : (((s.clearStage leaf e).leaveLeaf leaf n).joinGang (s.newGang leaf l rs.length)).createGang l s.nextId
      ((rs.zip pls).map fun y => (y.1.1, y.2, y.1.2)) = some u) :
    execGangPlace leaf n pls s = .next u := by
  have hleaf : (pls.any fun p => p.core / 4 != leaf) = false := List.any_eq_false.2 fun p hp => by simp [hpls p hp]
  have hgoes : (!e.gang || e.resume.isSome || l.suspended || !s.orderOk leaf n e || s.gangHere leaf none || pls.any (fun p => p.core / 4 != leaf)
      || !distinctCores pls) = false := by
    rw [hg, h.isNew, h.running, h.order, hhere, hleaf, hcores]
    rfl
  have hfound : (e.tiles.map fun t => (t, s.tileReady l (leaf / 16) t.1 t.2.2 (s.stageLost leaf e))) = rs.map fun y => (y.1, Ready.ok y.2) := by
    rw [htiles, List.map_map]
    exact List.map_congr_left fun y hy => congrArg (Prod.mk y.1) (hready y hy)
  have hnum : (rs.length != pls.length || !s.mayCreate (leaf / 16) rs.length) = false := by rw [hlen, bne_self_eq_false, ← hlen, hmay]; rfl
  have hnil : rs.isEmpty = false := List.isEmpty_eq_false_iff.2 hne
  simp only [State.joinGang, State.newGang] at hu
  simp only [execGangPlace, h.queued, h.launch, hgoes, hfound, hnum, hnil, hu, List.filterMap_map, List.any_map, List.filter_map, Function.comp_def,
    Prod.mk.eta, List.filterMap_none, List.filterMap_some, List.filter_false, List.any_eq_true, beq_iff_eq, reduceCtorEq, and_false, exists_const, List.map_nil,
    List.isEmpty_nil, Bool.false_eq_true, if_false, if_true]

/-! ### GANG_AGE_EXPIRY -/

theorem execGangAgeExpiry_marks {u : State} (hu : s.noteHead leaf = u) (hold : ∃ e ∈ (u.leaf leaf).queue, u.pastAge e = true ∧ e.aged = false) :
    execGangAgeExpiry leaf s = .next (u.setLeaf leaf { u.leaf leaf with
      queue := (u.leaf leaf).queue.map fun e => if u.pastAge e then { e with aged := true } else e }) := by
  have hany : ((u.leaf leaf).queue.any fun e => u.pastAge e && !e.aged) = true := by
    obtain ⟨e, he, hage, hnot⟩ := hold
    exact List.any_eq_true.2 ⟨e, he, by rw [hage, hnot]; rfl⟩
  simp only [execGangAgeExpiry, hu, hany, if_true, mapIf_eq_map]

/-! ### RAMP_INTERVAL -/

theorem execRampInterval_due {die : Nat} (h : s.rampDue die = true) : execRampInterval die s = .next { s with
    starts := Sparse.set 0 s.starts die (Sparse.get 0 s.starts die - rampStep s.ramp)
    ends := Sparse.set 0 s.ends die (min (rampStep s.ramp) (s.idling.filter fun c => c / 64 == die).length)
    rampAt := Sparse.set 0 s.rampAt die s.clock
    idling := (s.idling.filter fun c => c / 64 != die) ++ (s.idling.filter fun c => c / 64 == die).drop (rampStep s.ramp) } := by
  simp only [execRampInterval, h, if_true]

/-- Settles O57: each step is the one that the lemmas on the walk, on the leaves and on pacing give. -/
theorem walkSteps : Obligations.WalkSteps := by
  intro s
  refine ⟨?_, ?_, fun vf num leaf l ts hl hh hp => execTileHandoff_spends hl hh hp, fun leaf e rest hin hroom => execLeafAccept_takes hin hroom,
    ?_, ?_, ?_, ?_⟩
  -- WALK_START
  · intro vf num l hl hmay hb hfault n hn
    obtain ⟨rfl, rfl⟩ := State.key_of_launch? hl
    have hbound : s.predFault (s.bound l) = false := by rw [State.bound_eq]; exact hfault
    have hcount : min (s.countOf (s.bound l)) (s.bound l).tiles ≠ 0 := by rw [State.bound_eq]; exact hn
    refine (execWalkStart_alone hl hmay hb).trans (congrArg _ ?_)
    rw [State.beginWalk_walks hbound hcount, State.bound_eq]
    rfl
  -- WALK_TILE
  · intro vf num l d x leaf code hl hwalk hh hsus hcore hpark hlost hg hb hnext l1 hd hr hm hplace
    obtain ⟨rfl, rfl⟩ := State.key_of_launch? hl
    have h : s.WalksOn l.vf l.num l := ⟨hl, hwalk, hh, hsus, hcore, hpark, hlost, hg, hb, hnext⟩
    exact (h.execWalkTile_eq hd hr hm).trans (congrArg _ (State.decideUnit_leaf hplace))
  -- BLOCK_CREATE
  · intro leaf n pl e l x xs hq hl hx hg hnew hsus horder hmay hpl hready hfits
    exact State.EntryDue.execBlockCreate_eq ⟨hq, hl, hnew, hsus, horder⟩ hx hg hmay hpl hready hfits
  -- GANG_PLACE
  · intro leaf n pls e l rs u hq hl hg hnew hsus horder hmay hhere hpls hcores hne hlen htiles hready v g hu
    exact State.EntryDue.execGangPlace_eq ⟨hq, hl, hnew, hsus, horder⟩ hg hmay hhere hpls hcores hne hlen htiles hready hu
  -- GANG_AGE_EXPIRY
  · intro leaf u old hold
    exact execGangAgeExpiry_marks rfl hold
  -- RAMP_INTERVAL
  · intro die hon hdue step mine
    exact execRampInterval_due (by simp only [State.rampDue, hon, hdue, decide_true, Bool.and_self])

end Machine
end Sys2Proof
end

section
/-!
The end of a step in a quiet block (R132, R231, R359).
-/
namespace Sys2Proof.Machine

/-- Settles O42: no arrival is owed, no team signs, no set regroups and no condition of R359 holds. -/
theorem quietStepsEnd : Obligations.QuietStepsEnd := by
  intro s r cand b hb hquiet
  exact hquiet.endStep hb cand

end Sys2Proof.Machine
end

section
/-!
Traps (R196, R306): the warp that a delivered trap leaves, and the one that a return resumes.
-/
namespace Sys2Proof.Machine

variable {s : State} {r : WarpRef} {b : Block} {w : Warp} {e : CodeEntry} {lvl : TrapLevel}

theorem Mask.mem_lanes {m : Mask} {n l : Nat} : l ∈ m.lanes n ↔ l < n ∧ m.getLsbD l = true := by
  rw [Mask.lanes, List.mem_filter, List.mem_range]

/-! ### Results that land -/

theorem Warp.put_runs_live (w : Warp) (q : RegId) (x : Word) : ((w.put q x).runs, (w.put q x).live) = (w.runs, w.live) := by
  cases q with
  | v | s => rfl
  | p =>
    unfold Warp.put
    dsimp only
    split <;> rfl
theorem Warp.landAll_runs_live (w : Warp) : (w.landAll.runs, w.landAll.live) = (w.runs, w.live) :=
  foldl_same (fun w : Warp => (w.runs, w.live)) (fun w (p : Pending) => w.put p.reg p.val) (fun w p => w.put_runs_live p.reg p.val) w.pend w
theorem Warp.landAll_runs (w : Warp) : w.landAll.runs = w.runs := congrArg Prod.fst w.landAll_runs_live
theorem Warp.landAll_live (w : Warp) : w.landAll.live = w.live := congrArg Prod.snd w.landAll_runs_live

/-! ### Taking a trap -/

/-- What trap level holds of a warp for the lanes of a mask. -/
def Warp.trapLevel (w : Warp) (e : CodeEntry) (mask : Mask) : TrapLevel := {
  mask := mask
  handler := e
  depth := (mask.lanes 64).foldl (fun d l => Sparse.set 0 d l (w.depth1 l)) []
  sp := (mask.lanes 64).foldl (fun d l => Sparse.set 0 d l (w.sp1 l)) [] }
/-- The run of the handler. -/
def CodeEntry.handlerRun (e : CodeEntry) (mask : Mask) : Run := {
  pc := e.code, lanes := mask, age := 0, yieldEnd := none, notBefore := 0, wait := none, held := false, handler := true, samples := none }
def Trap.record (x : Trap) (pc : DWord) (mask : Mask) : TrapRec := {
  cause := BitVec.ofNat 32 x.cause, pc := pc, mask := mask, info := x.info, infx := x.infx }
/-- A warp to which a trap has been delivered. -/
def Warp.trapped (w : Warp) (e : CodeEntry) (pc : DWord) (mask : Mask) (x : Trap) : Warp :=
  { w.landAll.landQueues with
    trec := x.record pc mask
    trap := some (w.trapLevel e mask)
    runs := dropLanes mask w.landAll.runs ++ [e.handlerRun mask] }

/-- Trap level holds the call depth and %sp of each of its lanes. -/
theorem Warp.trapLevel_holds {mask : Mask} {l : Nat} (hl : l < 64) (hm : mask.getLsbD l = true) :
    Sparse.get 0 (w.trapLevel e mask).depth l = w.depth1 l ∧ Sparse.get 0 (w.trapLevel e mask).sp l = w.sp1 l := by
  have hmem : l ∈ mask.lanes 64 := Mask.mem_lanes.2 ⟨hl, hm⟩
  exact ⟨(Sparse.get_foldl_set 0 w.depth1 _ _ l).trans (if_pos hmem), (Sparse.get_foldl_set 0 w.sp1 _ _ l).trans (if_pos hmem)⟩
theorem Warp.trapped_runs (pc : DWord) (mask : Mask) (x : Trap) : (w.trapped e pc mask x).runs = dropLanes mask w.runs ++ [e.handlerRun mask] := by
  rw [Warp.trapped, Warp.landAll_runs]
theorem State.takeTrap_delivers (hb : s.block? r.blk = some b) (hw : s.warp? r = some w) (hout : w.trap = none) (he : s.handler? b.vf = some e)
    (pc : DWord) (mask : Mask) (x : Trap) : (s.takeTrap r pc mask x).warp? r = some (w.trapped e pc mask x) := by
  have hwarp : ({ s with issue := none } : State).warp? r = some w := hw
  have htake : s.takeTrap r pc mask x = ({ s with issue := none } : State).setWarp r (w.trapped e pc mask x) := by
    simp only [State.takeTrap, hb, hw, hout, he]
    rfl
  rw [htake, State.warp?_setWarp_same _ hwarp]

/-! ### Returning -/

/-- Where the lanes of a trap resume (R196): under `.auto` behind the word of TRAP (0x14), BKPT (0x15) and FDBL (0x0F) alone. -/
def TrapRec.resumePc (t : TrapRec) : RttMode → DWord
  | .retry => t.pc
  | .skip => t.pc + 8
  | .auto => if t.cause = 0x14 ∨ t.cause = 0x15 ∨ t.cause = 0x0F then t.pc + 8 else t.pc
/-- The run that resumes. -/
def TrapRec.resumedRun (t : TrapRec) (m : RttMode) (lanes : Mask) (at_ : Nat) : Run := {
  pc := t.resumePc m, lanes := lanes, age := 0, yieldEnd := none, notBefore := at_, wait := none, held := false, handler := false, samples := none }

theorem State.returnTrap_resumes (hw : s.warp? r = some w) (hlvl : w.trap = some lvl) (hback : lvl.mask &&& w.live ≠ 0) (m : RttMode) (at_ : Nat) :
    ∃ v, (s.returnTrap r m at_).warp? r = some v ∧ v.trap = none ∧ w.trec.resumedRun m (lvl.mask &&& w.live) at_ ∈ v.runs := by
  unfold State.returnTrap
  simp only [hw, hlvl, beq_iff_eq, hback, if_false]
  refine ⟨_, State.warp?_setWarp_same _ hw, rfl, List.mem_append_right _ (List.mem_singleton.2 ?_)⟩
  cases m with
  | retry | skip => rfl
  | auto => simp only [TrapRec.resumedRun, TrapRec.resumePc, Bool.or_eq_true, beq_iff_eq, or_assoc]

/-- Settles O38: the delivered trap's warp and the resumed run are those of `takeTrap_delivers` and `returnTrap_resumes`. -/
theorem trapEntryAndReturn : Obligations.TrapEntryAndReturn := by
  intro s r b w e pc mask x hb hw hout he
  constructor
  · refine ⟨_, State.takeTrap_delivers hb hw hout he pc mask x, rfl, ?_, rfl, Warp.landAll_live w, ?_⟩
    · exact ⟨w.trapLevel e mask, rfl, rfl, rfl, fun l hl hm => Warp.trapLevel_holds hl hm⟩
    · exact ⟨e.handlerRun mask, Warp.trapped_runs pc mask x, rfl, rfl, rfl, rfl⟩
  · intro u k v lvl m at_ hk hv hlvl hback
    obtain ⟨v', hv', hnone, hrun⟩ := State.returnTrap_resumes hv hlvl hback m at_
    refine ⟨v', hv', hnone, _, hrun, rfl, rfl, rfl, ?_⟩
    cases m <;> rfl

end Sys2Proof.Machine
end

section
/-!
Pre-emption (R312 to R316): a request, the save of a block with its gang, and the return of one saved block.
-/
namespace Sys2Proof.Machine

variable {s : State} {b : Block} {k : Nat}

/-! ### Requests -/

/-- Changes that keep the numbers of the blocks leave each block in its place. -/
theorem State.block?_mapIf {p : Block → Bool} {f : Block → Block} (hid : ∀ x, (f x).id = x.id) (hb : s.block? k = some b) :
    ({ s with blocks := mapIf p f s.blocks } : State).block? k = some (if p b then f b else b) := by
  have hkeep : ((fun x : Block => x.id == k) ∘ fun x => if p x then f x else x) = fun x => x.id == k := by
    funext x
    rw [Function.comp_apply, apply_ite Block.id, hid, ite_self]
  have hfind : s.blocks.find? (fun x => x.id == k) = some b := hb
  show (mapIf p f s.blocks).find? (fun x => x.id == k) = _
  rw [mapIf_eq_map, List.find?_map, hkeep, hfind, Option.map_some]
/-- Holding runs at safe points changes the warps alone (R313). -/
theorem State.block?_holdRequested (hb : s.block? k = some b) : ∃ b', s.holdRequested.block? k = some b' ∧ b'.preempt = b.preempt := by
  refine ⟨_, State.block?_mapIf (fun _ => rfl) hb, ?_⟩
  split <;> rfl
theorem State.mem_unitOf (hb : s.block? k = some b) : b ∈ s.unitOf b :=
  List.mem_filter.2 ⟨State.block?_mem hb, by rw [beq_self_eq_true, Bool.true_or]⟩
theorem State.requestPreempt_marks (hb : s.block? k = some b) (hpark : b.parked = false) :
    ∃ b', (s.requestPreempt b).block? k = some b' ∧ b'.preempt = .requested := by
  have hunit : (((s.unitOf b).map (·.id)).contains b.id && !b.parked) = true := by
    rw [hpark, List.contains_iff_mem.2 (List.mem_map_of_mem (State.mem_unitOf hb))]
    rfl
  have hmark := State.block?_mapIf (p := fun x => ((s.unitOf b).map (·.id)).contains x.id && !x.parked)
    (f := fun x => { x with preempt := .requested }) (fun _ => rfl) hb
  rw [if_pos hunit] at hmark
  exact State.block?_holdRequested hmark
theorem execPreemptRequest_marks (hb : s.block? k = some b) (hmay : s.mayPreempt b = true) (hpark : b.parked = false) :
    ∃ t b', execPreemptRequest k s = .next t ∧ t.block? k = some b' ∧ b'.preempt = .requested := by
  obtain ⟨b', hb', hreq⟩ := State.requestPreempt_marks hb hpark
  refine ⟨s.requestPreempt b, b', ?_, hb', hreq⟩
  simp only [execPreemptRequest, hb, hmay, hpark, Bool.not_false, Bool.and_self, if_true]

/-! ### What a save writes -/

theorem State.perform_saved (s : State) (sel : Flight → Bool) (sc : Scope) : (s.perform sel sc).saved = s.saved := by
  show (s.perform sel sc).offAccess.saved = s.offAccess.saved
  rw [State.perform_offAccess]
theorem State.perform_blocks (s : State) (sel : Flight → Bool) (sc : Scope) : (s.perform sel sc).blocks = s.blocks := by
  obtain ⟨-, -, -, hblocks⟩ := s.perform_frame sel sc
  exact hblocks
theorem State.writePlace_blocks_saved (s : State) (l : Loc) (bs : List Byte) (bad : List Nat) :
    ((s.writePlace l bs bad).blocks, (s.writePlace l bs bad).saved) = (s.blocks, s.saved) := by
  cases l with
  | main a => rfl
  | scratch a =>
    obtain ⟨-, hblocks, hsaved, -⟩ := (s.settle a bs.length).spWrite_frame a bs none
    show (((s.settle a bs.length).spWrite a bs).blocks, ((s.settle a bs.length).spWrite a bs).saved) = _
    rw [hblocks, hsaved, State.settle, State.perform_blocks, State.perform_saved]
/-- The image of a record is written to memory alone (R315). -/
theorem State.writeRecord_blocks_saved (s : State) (b : Block) (n : Nat) :
    ((s.writeRecord b n).blocks, (s.writeRecord b n).saved) = (s.blocks, s.saved) := by
  refine foldl_same (fun t : State => (t.blocks, t.saved)) _ (fun t p => ?_) _ s
  split
  · exact t.writePlace_blocks_saved _ _ _
  · rfl
theorem State.writeRecord_blocks (s : State) (b : Block) (n : Nat) : (s.writeRecord b n).blocks = s.blocks :=
  congrArg Prod.fst (s.writeRecord_blocks_saved b n)
theorem State.writeRecord_saved (s : State) (b : Block) (n : Nat) : (s.writeRecord b n).saved = s.saved :=
  congrArg Prod.snd (s.writeRecord_blocks_saved b n)
theorem State.saveBlock_blocks (s : State) (b : Block) : (s.saveBlock b).blocks = s.blocks.filter fun x => x.id != b.id := by
  unfold State.saveBlock
  dsimp only
  rw [State.writeRecord_blocks]
  dsimp only
  rw [State.perform_blocks]
theorem State.saveBlock_saved_ids (s : State) (b : Block) : (s.saveBlock b).saved.map Block.id = s.saved.map Block.id ++ [b.id] := by
  have hsame : ∀ (p : Block → Bool) (xs : List Block), (mapIf p (fun x => { x with record := none }) xs).map Block.id = xs.map Block.id := fun p xs => by
    rw [mapIf_eq_map, List.map_map]
    refine List.map_congr_left fun x _ => ?_
    rw [Function.comp_apply, apply_ite Block.id, ite_self]
  unfold State.saveBlock
  dsimp only
  rw [State.writeRecord_saved]
  dsimp only
  rw [List.map_append, hsame, State.perform_saved, List.map_singleton]

/-! ### The save of a unit -/

/-- The blocks of a unit leave the cores. -/
theorem State.mem_blocks_saveBlocks {x : Block} (us : List Block) (h : x ∈ (us.foldl (fun t y => t.saveBlock y) s).blocks) : ∀ y ∈ us, x.id ≠ y.id := by
  induction us using List.reverseRecOn with
  | nil => exact fun y hy => absurd hy List.not_mem_nil
  | append_singleton us u ih =>
    rw [List.foldl_append, List.foldl_cons, List.foldl_nil, State.saveBlock_blocks, List.mem_filter, bne_iff_ne] at h
    intro y hy
    obtain hy | hy := List.mem_append.1 hy
    · exact ih h.1 y hy
    · exact List.mem_singleton.1 hy ▸ h.2
theorem State.saveBlocks_saved_ids (us : List Block) (s : State) :
    (us.foldl (fun t y => t.saveBlock y) s).saved.map Block.id = s.saved.map Block.id ++ us.map Block.id := by
  induction us generalizing s with
  | nil => exact (List.append_nil _).symm
  | cons u us ih => rw [List.foldl_cons, ih, State.saveBlock_saved_ids, List.append_assoc, List.map_cons, List.singleton_append]
/-- After the save of a unit none of its blocks is resident, and each is kept. -/
theorem State.saveBlocks_moves {us : List Block} (hb : b ∈ us) : (us.foldl (fun t y => t.saveBlock y) s).block? b.id = none
    ∧ ∃ x ∈ (us.foldl (fun t y => t.saveBlock y) s).saved, x.id = b.id := by
  constructor
  · exact List.find?_eq_none.2 fun x hx => by simpa using State.mem_blocks_saveBlocks us hx b hb
  · refine List.mem_map.1 ?_
    rw [State.saveBlocks_saved_ids]
    exact List.mem_append_right _ (List.mem_map_of_mem hb)
theorem State.no_savePark (h : ∀ f ∈ s.faults, f.what ≠ .save k) : (s.faults.any fun f => f.what == .save k) = false :=
  List.any_eq_false.2 fun f hf => by simpa using h f hf
theorem execPreemptSave_moves (hb : s.holdRequested.block? k = some b)
    (hstop : ∀ x ∈ s.holdRequested.unitOf b, s.holdRequested.blockStopped x = true) (hfault : ∀ f ∈ s.holdRequested.faults, f.what ≠ .save k)
    (htrans : ∀ x ∈ s.holdRequested.unitOf b, s.holdRequested.saveFault x true = none) :
    ∃ t, execPreemptSave k s = .next t ∧ t.block? k = none ∧ ∃ x ∈ t.saved, x.id = k := by
  obtain rfl := State.block?_id hb
  obtain ⟨hgone, hkept⟩ := State.saveBlocks_moves (s := s.holdRequested) (State.mem_unitOf hb)
  simp only [execPreemptSave, hb, List.all_eq_true.2 hstop, State.no_savePark hfault, List.findSome?_eq_none_iff.2 htrans, Bool.not_true, Bool.or_self,
    Bool.false_eq_true, if_false]
  refine ⟨_, rfl, ?_⟩
  split <;> exact ⟨hgone, hkept⟩

/-! ### The return of a block -/

theorem State.restoreAll_singleton {pl : Place} {u : State} (hu : s.restoreBlock b pl = some u) : s.restoreAll [(b, pl)] = some u := by
  simp only [State.restoreAll, hu, Option.bind_some]
/-- A block whose record fails the check ends (R315). -/
theorem State.failRecords_singleton (s u : State) (b : Block) :
    ([b].filter fun x => !s.recordKept x).foldl State.failRecord u = if s.recordKept b then u else u.failRecord b := by
  cases hkept : s.recordKept b with
  | true => simp [hkept]
  | false => simp [hkept]
theorem execBlockResume_restores {e : LeafEntry} {q : List LeafEntry} {pl : Place} {u : State} (hb : s.saved.find? (fun x => x.id == k) = some b)
    (hq : (s.leaf b.clu).queue = e :: q) (he : e.resume = some k) (hunit : s.savedUnit b = [b]) (horder : s.resumeOk b.clu 0 e = true)
    (hgang : b.gang = none ∨ s.gangHere b.clu b.gang = false) (hfault : ∀ f ∈ s.faults, f.what ≠ .save k) (htrans : s.saveFault b false = none)
    (hu : (s.leaveLeaf b.clu 0).restoreBlock b pl = some u) : execBlockResume k [pl] s = .next (if s.recordKept b then u else u.failRecord b) := by
  have hhead : ((e :: q).zip (List.range (e :: q).length)).find? (fun x => x.1.resume == some k) = some (e, 0) := by
    rw [List.length_cons, List.range_succ_eq_map, List.zip_cons_cons, List.find?_cons_of_pos (by rw [he, beq_self_eq_true])]
  have hroom : (b.gang.isSome && s.gangHere b.clu b.gang) = false := by
    obtain h | h := hgang
    · rw [h]; rfl
    · rw [h, Bool.and_false]
  have hmay : ([b].length != [pl].length || !distinctCores [pl] || !s.resumeOk b.clu 0 e || (b.gang.isSome && s.gangHere b.clu b.gang)
      || s.faults.any (fun x => x.what == .save k)) = false := by
    rw [horder, hroom, State.no_savePark hfault]
    rfl
  have hpages : [b].findSome? (fun x => s.saveFault x false) = none := List.findSome?_eq_none_iff.2 (List.forall_mem_singleton.2 htrans)
  simp only [execBlockResume, hb, hq, hhead, hunit, hmay, hpages, List.zip_cons_cons, List.zip_nil_right, State.restoreAll_singleton hu,
    State.failRecords_singleton, Bool.false_eq_true, if_false]

end Sys2Proof.Machine
end

section
/-!
Errors (R322 to R328): the data that an uncorrectable error poisons, the entry that a store queue loses, and the queue that an error in its table halts.
-/
namespace Sys2Proof.Machine

variable {s : State} {b : Block} {w : Warp} {r : WarpRef} {k : Nat}

theorem mem_addPois (p : List Nat) (x : Nat) : x ∈ addPois p x := by
  unfold addPois
  split
  · exact List.contains_iff_mem.1 ‹_›
  · exact List.mem_cons_self
theorem satInc_eq_ite (x : Word) : satInc x = if x = BitVec.allOnes 32 then x else x + 1 := by
  simp only [satInc, beq_iff_eq]

/-! ### What a report leaves alone -/

theorem State.block?_of_blocks {t : State} (h : t.blocks = s.blocks) : t.block? k = s.block? k := by
  unfold State.block?
  rw [h]
theorem State.warp?_of_blocks {t : State} (h : t.blocks = s.blocks) : t.warp? r = s.warp? r := by
  unfold State.warp?
  rw [State.block?_of_blocks h]
theorem State.reportPf_frame (s : State) (kind : Nat) :
    (s.reportPf kind).spPois = s.spPois ∧ (s.reportPf kind).mmPois = s.mmPois ∧ (s.reportPf kind).blocks = s.blocks := by
  unfold State.reportPf
  dsimp only
  split <;> exact ⟨rfl, rfl, rfl⟩
theorem State.report_frame (s : State) (vf kind launch : Nat) (body : List Byte) : (s.report vf kind launch body).spPois = s.spPois
    ∧ (s.report vf kind launch body).mmPois = s.mmPois ∧ (s.report vf kind launch body).blocks = s.blocks := by
  have h := State.report_offReport s vf kind launch body
  have hsp := congrArg State.spPois h
  have hmm := congrArg State.mmPois h
  exact ⟨hsp, hmm, State.report_blocks s vf kind launch body⟩
/-- An error's report leaves the poison marks and the blocks as they are. -/
theorem State.errorReport_frame (s : State) (vf : Option Nat) (launch : Nat) :
    (s.errorReport vf launch).spPois = s.spPois ∧ (s.errorReport vf launch).mmPois = s.mmPois ∧ (s.errorReport vf launch).blocks = s.blocks := by
  cases vf with
  | none => exact State.reportPf_frame _ 3
  | some n => exact State.report_frame { s with uecnt := satInc s.uecnt } n 3 launch []
theorem State.blockError_blocks (s : State) (k : Nat) : (s.blockError k).blocks = s.blocks := by
  unfold State.blockError
  split
  · obtain ⟨-, -, h⟩ := s.errorReport_frame (some _) _
    exact h
  · rfl

/-! ### UNCORRECTABLE_ERROR -/

theorem execUncorrectableError_scratch (a : Nat) : ∃ t, execUncorrectableError (.scratch a) s = .next t ∧ a / 4 ∈ t.spPois := by
  obtain ⟨h, -, -⟩ := State.errorReport_frame { s with spPois := addPois s.spPois (a / 4) } (s.ownerOf a) 0
  exact ⟨_, rfl, h ▸ mem_addPois _ _⟩
theorem execUncorrectableError_main (a : Nat) : ∃ t, execUncorrectableError (.main a) s = .next t ∧ a / 64 ∈ t.mmPois := by
  obtain ⟨-, h, -⟩ := State.errorReport_frame { s with mmPois := addPois s.mmPois (a / 64) } none 0
  exact ⟨_, rfl, h ▸ mem_addPois _ _⟩
theorem State.block?_struck (f : Block → Block) (hid : (f b).id = b.id) (hb : s.block? k = some b) :
    ((s.mapBlock k f).blockError k).block? k = some (f b) := by
  rw [State.block?_of_blocks (State.blockError_blocks _ k), State.mapBlock_eq f hb, State.block?_setBlock_same hb hid]
theorem State.warp?_struck (f : Warp → Warp) (hw : s.warp? r = some w) : ((s.mapWarp r f).blockError r.blk).warp? r = some (f w) := by
  rw [State.warp?_of_blocks (State.blockError_blocks _ r.blk), State.mapWarp_eq f hw, State.warp?_setWarp_same _ hw]

/-! ### STORE_QUEUE_LOSS -/

/-- The mark on one element of a list, found by its number. -/
theorem getElem?_markAt {α : Type} {xs : List α} {n : Nat} {x : α} (f : α → α) (hx : xs[n]? = some x) :
    ((xs.zip (List.range xs.length)).map fun y => if y.2 == n then f y.1 else y.1)[n]? = some (f x) := by
  have hn : n < xs.length := (List.getElem?_eq_some_iff.1 hx).1
  have hzip : (xs.zip (List.range xs.length))[n]? = some (x, n) :=
    List.getElem?_zip_eq_some.2 ⟨hx, List.getElem?_range hn⟩
  rw [List.getElem?_map, hzip, Option.map_some, beq_self_eq_true, if_pos rfl]
theorem execStoreQueueLoss_halts {n : Nat} {e : StoreEntry} (hw : s.warp? r = some w) (he : w.storeQ[n]? = some e) :
    ∃ t w', execStoreQueueLoss r n s = .next t ∧ t.warp? r = some w' ∧ w'.halted = true ∧ w'.storeQ[n]? = some { e with lost := true } := by
  obtain ⟨b, hb, -⟩ := State.warp?_block hw
  have hn : n < w.storeQ.length := (List.getElem?_eq_some_iff.1 he).1
  simp only [execStoreQueueLoss, hb, hw, hn, if_true]
  exact ⟨_, _, rfl, (State.report_warp? _ _ _ _ _ _).trans (State.warp?_setWarp_same _ hw), rfl, getElem?_markAt (fun e => { e with lost := true }) he⟩

/-! ### QUEUE_TABLE_ERROR -/

/-- Ending launches and reporting it moves no read index and halts no queue. -/
theorem State.abortLaunches_report_sameQueues (s : State) (vf kind launch : Nat) (body : List Byte) (ls : List Launch) :
    SameQueues s ((ls.foldl (fun t l => t.abortLaunch vf l.num true) s).report vf kind launch body) :=
  (SameQueues.foldl (fun t (l : Launch) => t.abortLaunch vf l.num true) (fun t l => t.abortLaunch_sameQueues vf l.num true) ls s).trans
    (State.report_sameQueues (ls.foldl (fun t l => t.abortLaunch vf l.num true) s) vf kind launch body)
/-- An interface whose event is raised, counted and signalled. -/
theorem State.vf_raiseEvent (s : State) (n : Nat) (bits count : Word) (vector : Nat) :
    (({ s.setVf n { s.vf n with event := (s.vf n).event ||| bits } with uecnt := count } : State).irq (some n) vector).vf n
      = { s.vf n with event := (s.vf n).event ||| bits } :=
  (State.vf_setVf s n n _).trans (if_pos rfl)
/-- The queue halts with its read index frozen, and the interface's event is raised (R328). -/
theorem execQueueTableError_halts (vf q : Nat) : ∃ t, execQueueTableError vf q s = .next t ∧ ((t.vf vf).queue q).halted = true
    ∧ (t.vf vf).event.getLsbD 3 = true ∧ ((t.vf vf).queue q).qrd = ((s.vf vf).queue q).qrd := by
  refine ⟨_, rfl, ?_⟩
  rw [State.vf_raiseEvent]
  have hsame := fun ls u => State.abortLaunches_report_sameQueues u vf 3 0 [] ls
  refine ⟨((hsame _ _).halted vf q).trans ?_, ?_, ((hsame _ _).qrd vf q).trans ?_⟩
  · rw [State.queue_setQueue]
  · rw [BitVec.getLsbD_or, Bool.or_eq_true]
    exact .inr (by decide)
  · rw [State.queue_setQueue]

/-- Settles O58: each step is the one that the lemmas on pre-emption and on errors give. -/
theorem preemptionAndErrors : Obligations.PreemptionAndErrors := by
  intro s
  refine ⟨fun _ _ => execPreemptRequest_marks, fun _ _ => execPreemptSave_moves, ?_, ?_, execUncorrectableError_scratch, execUncorrectableError_main,
    ?_, ?_, fun _ _ _ _ => execStoreQueueLoss_halts, ?_, ?_, execQueueTableError_halts⟩
  -- BLOCK_RESUME
  · intro blk b e q pl u hb hq he hunit horder hgang hfault htrans hu
    exact execBlockResume_restores hb hq he hunit horder hgang hfault htrans hu
  -- SOFT_ERROR
  · rw [← satInc_eq_ite]
    rfl
  -- UNCORRECTABLE_ERROR in shared memory, and in a warp's stacks and registers
  · intro blk b a hb
    exact ⟨_, _, rfl, State.block?_struck _ rfl hb, mem_addPois _ _⟩
  · intro r w l n hw
    exact ⟨⟨_, _, rfl, State.warp?_struck _ hw, mem_addPois _ (stackKey l n / 4)⟩, ⟨_, _, rfl, State.warp?_struck _ hw, mem_addPois _ (vKey l n)⟩,
      ⟨_, _, rfl, State.warp?_struck _ hw, mem_addPois _ n⟩⟩
  -- DISPATCH_CORE_ERROR
  · dsimp only
    rw [← satInc_eq_ite]
    rfl
  -- QUEUE_TABLE_ERROR
  · intro vf q
    dsimp only
    rw [← satInc_eq_ite]
    rfl

end Sys2Proof.Machine
end

section
/-!
What reset gives (Tables 21-1, 21-4, 21-8, 21-9 and 21-10).
-/
namespace Sys2Proof.Machine

/-- After reset no interface is listed, so each one, with its queues, has its reset value. -/
theorem State.vf_reset (n : Nat) : State.reset.vf n = Vf.reset := rfl
theorem Vf.queue_reset (q : Nat) : Vf.reset.queue q = Queue.reset := rfl

/-- Settles O5: each register has the value that `State.reset`, `Vf.reset` or `Queue.reset` gives it. -/
theorem resetValues : Obligations.ResetValues := by
  refine ⟨rfl, rfl, rfl, rfl, fun n => ?_, rfl, rfl, rfl, rfl⟩
  rw [State.vf_reset]
  refine ⟨rfl, rfl, rfl, rfl, rfl, fun q => ?_⟩
  rw [Vf.queue_reset]
  exact ⟨rfl, rfl⟩

end Sys2Proof.Machine
end

section
/-!
The commands of a queue (R334 to R338): what one comes to where it is taken in its turn, or goes on, and what each asks for.
-/
namespace Sys2Proof.Machine

variable {s u t : State} {vf q opc n tile : Nat} {d : Desc} {l : Launch}

/-! ### A command at the head of a queue -/

/-- The bytes of the command at the head of a queue. -/
abbrev State.headBytes (s : State) (vf q : Nat) : List Byte := s.entry vf q ((s.vf vf).queue q).qrd
/-- The command at the head of a queue has an opcode and sets no reserved field (R336, R337). -/
structure State.Heads (s : State) (vf q opc : Nat) : Prop where
  opcode : u8 (s.headBytes vf q) 0 = opc
  header : headerBad (s.headBytes vf q) = false
  rest : zeros (s.headBytes vf q) 64 128 = true
/-- The command is taken, and its turn leaves the state `u` (R299). -/
structure State.Takes (s : State) (vf q opc : Nat) (u : State) : Prop extends s.Heads vf q opc where
  may : s.mayTake vf q = true
  turn : s.takeTurn vf q = u
/-- What a command comes to (R337, R338), from the state that its run has left. -/
def State.endsAs (s : State) (vf q : Nat) : CmdRes → State
  | .done t r => t.endCommand vf q (s.headBytes vf q) 0 r
  | .refuse t => t.endCommand vf q (s.headBytes vf q) 3 0
  | .wait t => t.setQueue vf q { (t.vf vf).queue q with started := true, startBind := ((s.vf vf).queue q).binding }

theorem State.Takes.host (h : s.Takes vf q opc u) : u.host = s.host := by rw [← h.turn]; rfl
/-- A command that may be taken has not started. -/
theorem State.started_of_mayTake (hmay : s.mayTake vf q = true) : ((s.vf vf).queue q).started = false := by
  rw [State.mayTake, Bool.and_eq_true, State.headReady] at hmay
  obtain ⟨hready, -⟩ := hmay
  simp only [Bool.and_eq_true, Bool.not_eq_true'] at hready
  obtain ⟨⟨-, hstarted⟩, -⟩ := hready
  exact hstarted
/-- A command that is taken has its effect once the turn has passed to the next queue (R299). -/
theorem command_taken (h : s.Takes vf q opc u) (run : List Byte → State → CmdRes) :
    command vf q opc s run = .next (s.endsAs vf q (run (s.headBytes vf q) u)) := by
  simp only [command, State.started_of_mayTake h.may, h.may, h.turn, h.opcode, h.header, h.rest, Bool.false_and, Bool.false_or, Bool.not_true,
    bne_self_eq_false, Bool.or_false, Bool.false_eq_true, if_false]
  cases run (s.headBytes vf q) u <;> rfl
/-- A command in progress goes on while its queue is up and the dispatch core runs (R338). -/
theorem command_goesOn (h : s.Heads vf q opc) (hstarted : ((s.vf vf).queue q).started = true) (hup : s.queueUp vf q = true)
    (hcore : s.coreHalted = false) (run : List Byte → State → CmdRes) :
    command vf q opc s run = .next (s.endsAs vf q (run (s.headBytes vf q) s)) := by
  simp only [command, hstarted, hup, hcore, h.opcode, h.header, h.rest, Bool.not_false, Bool.not_true, bne_self_eq_false,
    Bool.true_and, Bool.true_or, Bool.or_false, Bool.false_eq_true, if_false, if_true]
  cases run (s.headBytes vf q) s <;> rfl

/-! ### LAUNCH and BUNDLE -/

theorem execLaunch_submits {y : Nat × State} (hmay : s.mayTake vf q = true) (hopc : u8 (s.headBytes vf q) 0 = 1)
    (hy : (s.takeTurn vf q).submitEntry vf q ((s.vf vf).queue q).recent (s.headBytes vf q) ((s.vf vf).queue q).qrd false none = y) :
    execLaunch vf q s = .next (y.2.passCommand vf q y.1) := by
  simp [execLaunch, hmay, hopc, hy]
/-- The number of the launch that an interface submits next. -/
def Vf.nextLaunch (v : Vf) : Nat := if v.lastLaunch ≥ 0xFFFFFFFF then 1 else v.lastLaunch + 1
/-- A bundle whose sub-launches are pending, and of which none is refused, is done, and its sub-launches pass with their numbers (R296). -/
theorem execBundle_submits {y : List Nat × Bool × State} (h : s.Takes vf q 2 u) (hn : u32 (s.headBytes vf q) 16 = n) (hlo : 2 ≤ n) (hhi : n ≤ 4)
    (hpend : n < (((s.vf vf).queue q).qwr - ((s.vf vf).queue q).qrd).toNat)
    (hsub : ∀ k, k < n → u8 (u.entry vf q (((s.vf vf).queue q).qrd + BitVec.ofNat 32 (k + 1))) 0 = 1)
    (hy : u.submitSubs vf q false ((u.vf vf).nextLaunch, n) n (0 :: ((s.vf vf).queue q).recent) u = y) (hok : y.2.1 = false) :
    execBundle vf q s
      = .next ((y.1.take n).reverse.foldl (fun t k => t.passCommand vf q k) (y.2.2.endCommand vf q (s.headBytes vf q) 0 0)) := by
  have hall : ((List.range n).map fun k => u.entry vf q (((s.vf vf).queue q).qrd + BitVec.ofNat 32 (k + 1))).any (fun e => u8 e 0 != 1) = false := by
    rw [List.any_eq_false]
    intro e he
    obtain ⟨k, hk, rfl⟩ := List.mem_map.1 he
    simp [hsub k (List.mem_range.1 hk)]
  unfold Vf.nextLaunch at hy
  simp only [execBundle, cmdNum, h.turn, h.may, h.opcode, h.header, h.rest, hn, hall, hy, hok, Nat.not_lt.2 hlo, Nat.not_lt.2 hhi, Nat.not_le.2 hpend,
    Bool.not_true, bne_self_eq_false, Bool.or_self, decide_false, Bool.false_eq_true, if_false]

/-! ### WRDESC and WRREC -/

theorem execWrdesc_writes {bs : List Byte} (h : s.Takes vf q 3 u) (hn : u32 (s.headBytes vf q) 16 = n) (hpos : 0 < n) (hlt : n < 2 ^ 20)
    (hd : readBytes s.host (u64 (s.headBytes vf q) 24) 256 = bs) (hok : u32 bs 0 / 2 ^ 31 = 1 → descBad bs = false)
    (ht : u.vaWrite vf false ((u.vf vf).htab.toNat + 256 * n) bs = some t) :
    execWrdesc vf q s = .next (((t.rewritten vf n).clearGens vf n).endCommand vf q (s.headBytes vf q) 0 0) := by
  have hbad : (u32 bs 0 / 2 ^ 31 == 1 && descBad bs) = false := by
    by_cases hv : u32 bs 0 / 2 ^ 31 = 1
    · rw [hok hv, Bool.and_false]
    · rw [beq_eq_false_iff_ne.2 hv, Bool.false_and]
  rw [execWrdesc, command_taken h]
  simp only [cmdNum, cmdAddr, hn, h.host, hd, hbad, ht, beq_eq_false_iff_ne.2 hpos.ne', Nat.not_le.2 hlt, Bool.or_self, decide_false,
    Bool.false_eq_true, if_false]
  rfl
theorem execWrrec_writes {old : List Byte} (h : s.Takes vf q 4 u) (hn : u32 (s.headBytes vf q) 16 = n) (htile : u32 (s.headBytes vf q) 32 = tile)
    (hd : u.desc? vf n = some d) (hold : u.recBytes vf d tile = some old) (hpin : u.pinnedTile vf n tile = false)
    (ht : u.vaWrite vf d.early (d.ptab + 64 * tile) (readBytes s.host (u64 (s.headBytes vf q) 24) 64) = some t) :
    execWrrec vf q s = .next (t.settleAll.endCommand vf q (s.headBytes vf q) 0 0) := by
  rw [execWrrec, command_taken h]
  simp only [cmdNum, cmdTile, cmdAddr, hn, htile, h.host, hd, hold, hpin, ht, Bool.false_and, Bool.false_eq_true, if_false]
  rfl

/-! ### MIGRATE -/

theorem Copy.home_ne_peer {c : Copy} (hc : c.isPeer = false) (dev : Nat) : c.home ≠ .peer dev := by
  intro h
  simp [Copy.isPeer, h] at hc
/-- Between copies of this device no rows are sent. -/
theorem State.sendRows_near (m : Migration) {src dst : Copy} (hsrc : src.isPeer = false) (hdst : dst.isPeer = false) : s.sendRows m src dst = some [] := by
  unfold State.sendRows
  split
  · exact absurd ‹src.home = _› (Copy.home_ne_peer hsrc _)
  · exact absurd ‹dst.home = _› (Copy.home_ne_peer hdst _)
  · rfl
/-- The migration that MIGRATE begins, of a tile homed at `src`, whose record is `r`, between copies of this device. -/
def State.migration (u : State) (vf q : Nat) (bs : List Byte) (d : Desc) (r : List Byte) (src : Copy) : Migration :=
  { id := u.nextId, vf := vf, queue := q, handle := u32 bs 16, tile := u32 bs 32, copy := u8 bs 36, len := d.tileBytes, fromCode := u16 r (8 + 16 * u8 bs 36),
    fromAddr := src.addr, toCode := u16 bs 40, toAddr := u64 bs 48, early := d.early, rows := [], failed := false }
theorem execMigrate_moves {r : List Byte} {y : Rec} {src dst : Copy} (h : s.Takes vf q 5 u)
    (hone : ∀ m ∈ u.migrating, ¬(m.vf = vf ∧ m.queue = q)) (hd : u.desc? vf (u32 (s.headBytes vf q) 16) = some d)
    (hr : u.recBytes vf d (u32 (s.headBytes vf q) 32) = some r) (hy : u.record? vf d (u32 (s.headBytes vf q) 32) = some y)
    (hdst : u.home? vf (u16 (s.headBytes vf q) 40) (u64 (s.headBytes vf q) 48) = some dst) (hres : y.state = .resident)
    (hsrc : y.copies[u8 (s.headBytes vf q) 36]? = some src) (hpin : u.pinnedTile vf (u32 (s.headBytes vf q) 16) (u32 (s.headBytes vf q) 32) = false)
    (hnear : src.isPeer = false) (hnear' : dst.isPeer = false) :
    execMigrate vf q s = .next (s.endsAs vf q (.wait (({ u with
      nextId := u.nextId + 1
      migrating := u.migrating ++ [u.migration vf q (s.headBytes vf q) d r src] } : State).writeRec (u.migration vf q (s.headBytes vf q) d r src) 1 false))) := by
  have hnone : (u.migrating.any fun m => m.vf == vf && m.queue == q) = false :=
    List.any_eq_false.2 fun m hm => by simpa using hone m hm
  rw [execMigrate, command_taken h]
  simp only [cmdNum, cmdTile, hnone, hd, hr, hy, hdst, hres, hsrc, hpin, State.sendRows_near _ hnear hnear', List.map_nil, List.append_nil,
    List.isEmpty_nil, Bool.not_true, Bool.false_and, Bool.false_eq_true, if_false]
  rfl
theorem execMigrationComplete_copies {m : Migration} {src dst : Copy} {w : List Byte × List Nat}
    (hm : s.migrating.find? (fun m => m.vf == vf && m.handle == n && m.tile == tile) = some m) (hrows : m.rows = []) (hok : m.failed = false)
    (hsrc : s.home? vf m.fromCode m.fromAddr = some src) (hdst : s.home? vf m.toCode m.toAddr = some dst)
    (hnear : src.isPeer = false) (hnear' : dst.isPeer = false)
    (hw : ({ s with migrating := s.migrating.filter fun y => y.id != m.id } : State).copyWords m src 0 m.len = some w)
    (ht : ({ s with migrating := s.migrating.filter fun y => y.id != m.id } : State).putWords m dst 0 w.1 w.2 = some t) :
    execMigrationComplete vf n tile s
      = .next ((t.writeRec m 0 true).settleAll.endCommand vf m.queue (s.headBytes vf m.queue) 0 0) := by
  simp only [execMigrationComplete, hm, hrows, hok, hsrc, hdst, hnear, hnear', hw, ht, List.isEmpty_nil, Bool.not_true, Bool.or_self, Bool.false_eq_true,
    if_false, Option.bind_some]

/-! ### VIEWREG, VIEWDEREG and INVAL -/

theorem execViewreg_registers {addrs : List Nat} (h : s.Takes vf q 6 u) (hnone : u.views.find? (fun v => v.vf == vf && v.reg == some q) = none)
    (hpos : 0 < n) (hlt : n < 2 ^ 20) (hd : u.desc? vf n = none) (hv : u.view? vf n = none)
    (ht : u.registerView vf q n (readBytes s.host (u64 (s.headBytes vf q) 24) 32) addrs = .ok t) :
    execViewreg vf q n addrs s = .next (s.endsAs vf q (.wait (t.clearGens vf n))) := by
  rw [execViewreg, command_taken h]
  simp only [cmdAddr, h.host, hnone, hd, hv, ht, beq_eq_false_iff_ne.2 hpos.ne', Nat.not_le.2 hlt, Option.isSome_none, Bool.or_self, decide_false,
    Bool.false_eq_true, if_false]
/-- VIEWREG in progress completes once every group of its view has been built (R253). -/
theorem execViewreg_completes {v : View} {addrs : List Nat} (h : s.Heads vf q 6) (hstarted : ((s.vf vf).queue q).started = true)
    (hup : s.queueUp vf q = true) (hcore : s.coreHalted = false) (hv : s.views.find? (fun v => v.vf == vf && v.reg == some q) = some v)
    (hbuilt : s.building vf v.handle = false) :
    execViewreg vf q n addrs s = .next ((s.setView { v with reg := none }).endCommand vf q (s.headBytes vf q) 0 v.handle) := by
  rw [execViewreg, command_goesOn h hstarted hup hcore]
  simp only [hv, hbuilt, Bool.false_eq_true, if_false]
  rfl
theorem execViewdereg_drops {v : View} (h : s.Takes vf q 7 u) (hn : u32 (s.headBytes vf q) 16 = n) (hv : u.view? vf n = some v)
    (hbuilt : ∀ c ∈ u.commits, ¬(c.vf = vf ∧ c.handle = n)) (hread : u.viewReaders vf n = false) :
    execViewdereg vf q s = .next ((u.dropView vf n).wakeViews.endCommand vf q (s.headBytes vf q) 0 0) := by
  have hnone : (u.commits.any fun c => c.vf == vf && c.handle == n) = false :=
    List.any_eq_false.2 fun c hc => by simpa using hbuilt c hc
  rw [execViewdereg, command_taken h]
  simp only [cmdNum, hn, hv, hnone, hread, Option.isNone_some, Bool.or_self, Bool.false_eq_true, if_false]
  rfl
theorem execInval_done (h : s.Takes vf q 8 u) : execInval vf q s = .next (u.endCommand vf q (s.headBytes vf q) 0 0) := by
  rw [execInval, command_taken h]
  rfl

/-! ### SUSPEND, RESUME, ABORT and STATUS, of a launch; FRESP -/

theorem execSuspend_done (h : s.Takes vf q 9 u) (hl : u.launch? vf (u32 (s.headBytes vf q) 32) = some l) (hnone : u.blocksOf vf l.num = []) :
    execSuspend vf q s = .next ((u.setLaunch { l with suspended := true }).endCommand vf q (s.headBytes vf q) 0 0) := by
  have hsame : (u.setLaunch { l with suspended := true }).blocksOf vf l.num = [] := hnone
  rw [execSuspend, command_taken h]
  simp only [cmdTile, hl, hsame, List.isEmpty_nil, if_true]
  rfl
theorem execResume_done (h : s.Takes vf q 10 u) (hl : u.launch? vf (u32 (s.headBytes vf q) 32) = some l) :
    execResume vf q s = .next ((u.resumeLaunch l).endCommand vf q (s.headBytes vf q) 0 0) := by
  rw [execResume, command_taken h]
  simp only [cmdTile, hl]
  rfl
/-- ABORT of a launch without a parked walk, whose blocks are gone once it is aborted. -/
theorem execAbort_done (h : s.Takes vf q 11 u) (hl : u.launch? vf (u32 (s.headBytes vf q) 32) = some l) (hfaults : u.faults = [])
    (hnone : (u.abortLaunch vf l.num true).blocksOf vf l.num = []) :
    execAbort vf q s = .next ((u.abortLaunch vf l.num true).endCommand vf q (s.headBytes vf q) 0 0) := by
  have hsame : ({ u with faults := [] } : State) = u := by rw [← hfaults]
  rw [execAbort, command_taken h]
  simp only [cmdTile, hl, hfaults, List.filter_nil, hsame, hnone, List.foldl_nil]
  rfl
theorem execStatus_done (h : s.Takes vf q 12 u) (hl : u.launch? vf (u32 (s.headBytes vf q) 32) = some l) :
    execStatus vf q s = .next ((u.hostWrite (u64 (s.headBytes vf q) 24) (leBytes 4 l.status ++ leBytes 4 l.completed ++ leBytes 4 l.created
      ++ leBytes 4 ((u.blocksOf vf l.num).filter fun b => !b.task).length)).endCommand vf q (s.headBytes vf q) 0 0) := by
  rw [execStatus, command_taken h]
  simp only [cmdTile, cmdAddr, hl]
  rfl
theorem execFresp_answers {f : ParkedFault} (h : s.Takes vf q 13 u)
    (hf : u.faults.find? (fun f => f.vf == vf && f.recno == u32 (s.headBytes vf q) 32 && f.abort.isNone) = some f) (hle : u8 (s.headBytes vf q) 36 ≤ 1) :
    execFresp vf q s = .next ((u.answerFault f (u8 (s.headBytes vf q) 36 == 1)).endCommand vf q (s.headBytes vf q) 0 0) := by
  rw [execFresp, command_taken h]
  simp only [cmdTile, hf, Nat.not_lt.2 hle, if_false]
  rfl

/-! ### The end of a command -/

/-- A command that completes moves the read index by one and queues its completion entry (R335, R339). -/
theorem State.endCommand_queue (t : State) (vf q : Nat) (bs : List Byte) (st res : Nat) :
    ((t.endCommand vf q bs st res).vf vf).queue q = { (t.vf vf).queue q with
      qrd := ((t.vf vf).queue q).qrd + 1
      started := false
      posts := ((t.vf vf).queue q).posts ++ [{ tile := false, bytes := t.cmdEntry vf q (u8 bs 0) st res, irq := u32 bs 0 / 2 ^ 16 % 2 == 0 }]
      recent := (0 :: ((t.vf vf).queue q).recent).take 32768
      arrivals := ((t.vf vf).queue q).arrivals.filter fun a => a.1 != ((t.vf vf).queue q).qrd + 1 && !(a.1 - (((t.vf vf).queue q).qrd + 1)).msb } := by
  simp only [State.endCommand, State.passCommand, State.post, State.vf_setVf, State.vf_setQueue, Vf.queue, Sparse.get_set, if_true]

end Sys2Proof.Machine
end

section
/-!
The queue registers, what the device reports of a queue or an engine group, and the posting of completions (R299, R304, R335, R339, R344).
-/
namespace Sys2Proof.Machine

variable {s : State} {vf q : Nat}

/-! ### QWR_WRITE and COMMAND_HOLD_RELEASE -/

theorem State.serves_iff : s.serves vf = true ↔ vf < 128 ∧ (s.level = 2 ∨ (s.level = 1 ∧ vf = 0)) := by
  simp [State.serves]
/-- What is noted of the groups that have work is their interface's alone, and not of its queues. -/
theorem State.noteBusy_vf (s : State) (n m : Nat) : ∃ x, (s.noteBusy n).vf m = { s.vf m with idle := x } := by
  unfold State.noteBusy
  dsimp only
  split
  · exact ⟨_, rfl⟩
  · rw [State.vf_setVf]
    split
    · exact ⟨_, by rw [‹m = n›]⟩
    · exact ⟨_, rfl⟩
theorem State.noteBusy_queue (s : State) (n m k : Nat) : ((s.noteBusy n).vf m).queue k = (s.vf m).queue k := by
  obtain ⟨x, hx⟩ := s.noteBusy_vf n m
  rw [hx]
  rfl
/-- The commands up to the index are pending, those that it adds with the cycle and %time as their arrival (R335, R346). -/
theorem execQwrWrite_pends (val : Word) (hserved : s.serves vf = true) :
    ∃ t, execQwrWrite vf q val s = .next t ∧ ((t.vf vf).queue q).qwr = val
      ∧ (val ≠ ((s.vf vf).queue q).qwr → ((t.vf vf).queue q).arrivals = ((s.vf vf).queue q).arrivals ++ [(val, s.clock, BitVec.ofNat 64 s.time)]) := by
  refine ⟨s.writeQwr vf q val, by rw [execQwrWrite, if_pos hserved], ?_, fun hnew => ?_⟩ <;>
    rw [State.writeQwr, State.noteBusy_queue, State.vf_setVf, if_pos rfl, Vf.queue_set, if_pos rfl]
  exact if_neg (by simpa using hnew)
theorem execCommandHoldRelease_releases (hheld : ((s.vf vf).queue q).held = true) :
    execCommandHoldRelease vf q s = .next ((s.setQueue vf q { (s.vf vf).queue q with
      held := false
      arrivals := ((s.vf vf).queue q).arrivals.map fun a => (a.1, s.clock, BitVec.ofNat 64 s.time) }).noteBusy vf) := by
  rw [execCommandHoldRelease, if_pos hheld]

/-! ### QUANTUM_EXPIRY and ENGINE_GROUP_IDLE -/

/-- Whether the time of a launch of a queue has expired: it walks or runs since QUANTUM, while another queue of its group waits (R344). -/
def State.quantumOver (s : State) (vf q : Nat) (l : Launch) : Bool :=
  l.vf == vf && l.queue == some q && (l.phase == .walking || l.phase == .walked) && !l.quantumFired
    && bindQuantum l.bind != 0 && decide (bindQuantum l.bind * 10 * s.mhz ≤ s.clock - l.started)
    && (List.range 32).any fun p => p != q && bindGroup ((s.vf vf).queue p).bind == bindGroup l.bind && s.queueWaits vf p
theorem execQuantumExpiry_fires {l : Launch} (hl : s.launches.find? (s.quantumOver vf q) = some l) :
    execQuantumExpiry vf q s = .next (((s.setLaunch { l with quantumFired := true }).setVf vf { s.vf vf with
      quant := (s.vf vf).quant ||| BitVec.ofNat 32 (2 ^ q)
      event := (s.vf vf).event ||| 4 }).irq (some vf) 3) := by
  unfold State.quantumOver at hl
  simp only [execQuantumExpiry, hl]
theorem execEngineGroupIdle_reports {g : Nat} (hg : g < 8) (hnew : (s.vf vf).idle.getLsbD g = false) (hbusy : s.groupBusy vf g = false) :
    execEngineGroupIdle vf g s = .next ((s.setVf vf { s.vf vf with
      idle := (s.vf vf).idle ||| BitVec.ofNat 8 (2 ^ g)
      event := (s.vf vf).event ||| BitVec.ofNat 32 (2 ^ (8 + g)) }).irq (some vf) 3) := by
  simp only [execEngineGroupIdle, Nat.not_le.2 hg, hnew, hbusy, decide_false, Bool.or_self, Bool.false_eq_true, if_false]

/-! ### COMPLETION_POST -/

/-- A launch completion entry is written to its slot, then the index, and the vector is raised (R339). -/
theorem execCompletionPost_writes {x : Queue} {p : Posting} {ps : List Posting} (hq : q < 32) (hx : (s.vf vf).queue q = x) (hp : x.posts = p :: ps)
    (hlaunch : p.tile = false) (hen : ringEn false x.qcfg = true)
    (hroom : (x.lwr.toNat + 2 ^ 16 - x.qcrd.toNat % 2 ^ 16) % 2 ^ 16 < 2 ^ lrsz x.qcfg) :
    let t := ((s.hostWrite (x.qcomp.toNat + 64 + 32 * (x.lwr.toNat % 2 ^ lrsz x.qcfg)) p.bytes).hostWrite x.qcomp.toNat
      (leBytes 4 (x.lwr + 1).toNat)).setQueue vf q { x with posts := ps, lwr := x.lwr + 1 }
    execCompletionPost vf q s = .next (if p.irq then t.irq (some vf) (4 + x.qcfg.toNat / 2 ^ 28 % 4) else t) := by
  have hfree : ringFree x.lwr.toNat (x.qcrd.toNat % 2 ^ 16) (2 ^ lrsz x.qcfg) = true := by
    rw [ringFree, Nat.mod_mod, decide_eq_true hroom]
  simp only [execCompletionPost, hq, State.ring, hx, hp, hlaunch, hfree, hen, Option.isNone_some, Bool.false_eq_true, if_true, if_false,
    Bool.and_self, Bool.not_true, Nat.add_zero]
  rfl

/-- Settles O59: a command that is taken acts once the turn has passed, and each clause is the lemma of its command or step. -/
theorem hostCommands : Obligations.HostCommands := by
  intro s vf q x bs takes u plain waits num tile
  have heads : ∀ {opc}, takes opc → plain → s.Takes vf q opc u := fun h hp => ⟨⟨h.2, hp.1, hp.2⟩, h.1, rfl⟩
  refine ⟨fun h => execLaunch_submits h.1 h.2 rfl, ?_, ?_, ?_, ?_, ?_, ?_, ?_, ?_, fun h hp => execInval_done (heads h hp), ?_, ?_,
    fun t st res => t.endCommand_queue vf q bs st res, ?_, execCommandHoldRelease_releases, fun l hl => execQuantumExpiry_fires hl,
    fun g hg hnew hbusy => execEngineGroupIdle_reports hg hnew hbusy, ?_⟩
  -- BUNDLE
  · intro h hp hlo hhi hpend hsub id hok y
    exact execBundle_submits (heads h hp) rfl hlo hhi hpend hsub rfl hok
  -- WRDESC
  · intro h hp hpos hlt d hok t ht
    exact execWrdesc_writes (heads h hp) rfl hpos hlt rfl hok ht
  -- WRREC
  · intro h hp d old t hd hold hpin ht
    exact execWrrec_writes (heads h hp) rfl rfl hd hold hpin ht
  -- MIGRATE
  · intro h hp d r y src dst hone hd hr hy hdst hres hsrc hpin hnear hnear' m
    exact execMigrate_moves (heads h hp) hone hd hr hy hdst hres hsrc hpin hnear hnear'
  -- MIGRATION_COMPLETE
  · intro h k m src dst w t hm hrows hok hsrc hdst hnear hnear' s0 hw ht
    exact execMigrationComplete_copies hm hrows hok hsrc hdst hnear hnear' hw ht
  -- VIEWREG as it starts, and as it completes
  · intro h addrs t htake hp hnone hpos hlt hd hv ht
    exact execViewreg_registers (heads htake hp) hnone hpos hlt hd hv ht
  · intro hstarted hup hcore hopc hp v hv hbuilt
    exact execViewreg_completes ⟨hopc, hp.1, hp.2⟩ hstarted hup hcore hv hbuilt
  -- VIEWDEREG
  · intro h hp v hv hbuilt hread
    exact execViewdereg_drops (heads h hp) rfl hv hbuilt hread
  -- SUSPEND, RESUME, ABORT and STATUS
  · intro l hl hp
    exact ⟨fun h hnone => execSuspend_done (heads h hp) hl hnone, fun h => execResume_done (heads h hp) hl,
      fun h hfaults hnone => execAbort_done (heads h hp) hl hfaults hnone, fun h => execStatus_done (heads h hp) hl⟩
  -- FRESP
  · intro h hp f hf hle
    exact execFresp_answers (heads h hp) hf hle
  -- QWR_WRITE
  · intro val hlt hlevel
    exact execQwrWrite_pends val (State.serves_iff.2 ⟨hlt, hlevel⟩)
  -- COMPLETION_POST
  · intro p ps hq hposts hlaunch hen hqsz hlrsz htrsz hroom
    refine execCompletionPost_writes hq rfl hposts hlaunch ?_ hroom
    simp [ringEn, sizeOk, hen, hqsz, hlrsz, htrsz]

end Sys2Proof.Machine
end

section
/-!
Runs that wait to register futures are fed (R157) when an interface halts: what that leaves as it was.
-/
namespace Sys2Proof.Machine

variable (s : State) {r : WarpRef}

/-! ### The interfaces that blocks belong to -/

/-- The interfaces of the resident blocks, in their order. -/
def State.owners (s : State) : List Nat := s.blocks.map (·.vf)

theorem State.owners_of_blocks {s t : State} (h : t.blocks = s.blocks) : t.owners = s.owners := by rw [State.owners, h, State.owners]
theorem map_listPut {α β : Type} (f : α → β) (p : α → Bool) (y : α) {x : α} {xs : List α} (hx : xs.find? p = some x) (hf : f y = f x) :
    (listPut p y xs).map f = xs.map f := by
  induction xs with
  | nil => rfl
  | cons z zs ih =>
    by_cases hz : p z = true
    · rw [List.find?_cons_of_pos hz] at hx
      obtain rfl := Option.some.inj hx
      rw [listPut, if_pos hz, List.map_cons, List.map_cons, hf]
    · rw [List.find?_cons_of_neg hz] at hx
      rw [listPut, if_neg hz, List.map_cons, List.map_cons, ih hx]
theorem State.setBlock_owners {s : State} {b y : Block} (hb : s.block? y.id = some b) (hvf : y.vf = b.vf) : (s.setBlock y).owners = s.owners :=
  map_listPut _ _ _ hb hvf
@[simp] theorem State.setWarp_owners (w : Warp) : (s.setWarp r w).owners = s.owners := by
  unfold State.setWarp
  split
  · next b hb => exact State.setBlock_owners (b := b) ((State.block?_id hb).symm ▸ hb) rfl
  · rfl
@[simp] theorem State.mapWarp_owners (f : Warp → Warp) : (s.mapWarp r f).owners = s.owners := by
  unfold State.mapWarp
  split
  · exact s.setWarp_owners _
  · rfl
@[simp] theorem State.perform_owners (sel : Flight → Bool) (sc : Scope) : (s.perform sel sc).owners = s.owners :=
  State.owners_of_blocks (s.perform_blocks sel sc)
@[simp] theorem State.observe_owners : (s.observe r).owners = s.owners := by
  have hprune : ∀ t : State, t.prunePast.owners = t.owners := fun t => by unfold State.prunePast; split <;> rfl
  have hlearn : (s.learn r).owners = s.owners := by unfold State.learn; split <;> rfl
  rw [State.observe, hprune, State.mapWarp_owners, hlearn]
@[simp] theorem State.readNow_owners (ps : List (Nat × Nat)) : (s.readNow r ps).owners = s.owners := by
  unfold State.readNow
  split
  · rfl
  · exact s.mapWarp_owners _
@[simp] theorem State.spWrite_owners (a : Nat) (bs : List Byte) (y : Option (Nat × Bool)) : (s.spWrite a bs y).owners = s.owners := by
  obtain ⟨-, hblocks, -, -⟩ := s.spWrite_frame a bs y
  exact State.owners_of_blocks hblocks
theorem State.setWarp_fresh_owners (n : Nat) (w : Warp) : (State.setWarp { s with fresh := n } r w).owners = s.owners :=
  State.setWarp_owners { s with fresh := n } w
@[simp] theorem State.closeLoads_owners (which : Late → Bool) (sel : Part → Bool) : (s.closeLoads r which sel).owners = s.owners := by
  unfold State.closeLoads
  split
  · rfl
  · refine foldl_same State.owners _ (fun t id => ?_) _ _
    unfold State.closeLoad
    split
    · split
      · exact t.setWarp_fresh_owners _ _
      · rfl
    · rfl
@[simp] theorem State.makeLoad_owners (id : Nat) (sel : Part → Bool) : (s.makeLoad r id sel).owners = s.owners := by
  unfold State.makeLoad
  split
  · rfl
  · split
    · rfl
    · next l _ =>
      have hclose : (s.closePlaces r (l.rest.filter sel)).owners = s.owners := s.closeLoads_owners _ _
      dsimp only
      generalize s.closePlaces r (l.rest.filter sel) = s0 at hclose ⊢
      split
      · split
        · rw [State.observe_owners, State.setWarp_fresh_owners, hclose]
        · split
          · rw [State.readNow_owners, State.setWarp_fresh_owners, hclose]
          · rw [State.setWarp_fresh_owners, hclose]
      · rfl
@[simp] theorem State.makeLoads_owners : (s.makeLoads r).owners = s.owners := by
  unfold State.makeLoads
  split
  · rfl
  · refine (foldl_same (fun x : Bool × State => x.2.owners) _ (fun acc l => ?_) _ _)
    split
    · exact acc.2.makeLoad_owners l.id _
    · rfl
@[simp] theorem State.atomLane_owners (core : Nat) (sp : StoreSpace) (op : AtomOp) (a b c : Nat) : (s.atomLane r core sp op a b c).2.owners = s.owners := by
  have hset := s.perform_owners (fun f => meets f.addr f.bytes.length a (atomBytes op)) .pkg
  cases sp <;> unfold State.atomLane <;> dsimp only <;> split
  · rfl
  · unfold State.rmwShared
    split
    · next k hk => exact State.setBlock_owners (b := k) ((State.block?_id hk).symm ▸ hk) rfl
    · rfl
  · exact hset
  · exact (State.spWrite_owners _ _ _ _).trans hset
theorem State.atomLanes_owners (core : Nat) (sp : StoreSpace) (op : AtomOp) (ys : List (Nat × Nat × Nat × Nat)) :
    (s.atomLanes r core sp op ys).2.owners = s.owners := by
  induction ys generalizing s with
  | nil => rfl
  | cons y ys ih => exact (ih _).trans (s.atomLane_owners core sp op _ _ _)
@[simp] theorem State.leaveQueue_owners (e : StoreEntry) : (s.leaveQueue r e).owners = s.owners := by
  have hbefore : (s.beforeRelease r e).owners = s.owners := by
    unfold State.beforeRelease
    split
    · exact (State.perform_owners _ _ _).trans (s.closeLoads_owners _ _)
    · rfl
  unfold State.leaveQueue
  generalize s.beforeRelease r e = s0 at hbefore ⊢
  split
  · next a _ =>
    unfold State.performAtomic
    split
    · exact hbefore
    · next b _ =>
      have hlanes := (s0.atomLanes_owners (r := r) b.core e.space a.op a.lanes).trans hbefore
      dsimp only
      generalize s0.atomLanes r b.core e.space a.op a.lanes = x at hlanes ⊢
      split
      · rw [State.observe_owners]
        split
        · exact hlanes
        · rw [State.mapWarp_owners, hlanes]
      · split
        · exact hlanes
        · rw [State.mapWarp_owners, hlanes]
  · rw [← hbefore]
    unfold State.putStore
    split
    · next b _ hb => exact State.setBlock_owners (b := b) ((State.block?_id hb).symm ▸ hb) rfl
    · rfl
    · rfl
@[simp] theorem State.drain_owners (n : Nat) : (State.drain r n s).owners = s.owners := by
  induction n generalizing s with
  | zero => exact s.makeLoads_owners
  | succ n ih =>
    refine (ih _).trans ?_
    unfold State.drainOne
    dsimp only
    split
    · split
      · split
        · rw [State.leaveQueue_owners, State.setWarp_owners, State.makeLoads_owners]
        · exact s.makeLoads_owners
      · exact s.makeLoads_owners
    · exact s.makeLoads_owners
theorem State.performWarp_owners (sc : Scope) : (s.performWarp r sc).owners = s.owners :=
  (State.perform_owners _ _ _).trans ((State.closeLoads_owners _ _ _).trans (s.drain_owners _))

/-! ### What feeding leaves alone -/

/-- What the runs that are fed leave as it was: the interfaces of the blocks, the jobs, the launches, and whether an interface is enabled or halted. -/
structure SameHolders (s t : State) : Prop where
  owners : t.owners = s.owners
  jobs : t.jobs = s.jobs
  launches : t.launches = s.launches
  vfctl : ∀ n, (t.vf n).vfctl = (s.vf n).vfctl
  devHalted : ∀ n, (t.vf n).devHalted = (s.vf n).devHalted

variable {s} {t u : State}

theorem SameHolders.refl (s : State) : SameHolders s s := ⟨rfl, rfl, rfl, fun _ => rfl, fun _ => rfl⟩
theorem SameHolders.trans (h : SameHolders s t) (k : SameHolders t u) : SameHolders s u :=
  ⟨k.owners.trans h.owners, k.jobs.trans h.jobs, k.launches.trans h.launches, fun n => (k.vfctl n).trans (h.vfctl n),
    fun n => (k.devHalted n).trans (h.devHalted n)⟩
/-- Accesses change no jobs, launches or interfaces. -/
theorem SameHolders.of_access (h : t.offAccess = s.offAccess) (hown : t.owners = s.owners) : SameHolders s t := by
  have hvf : ∀ n, t.vf n = s.vf n := fun n => by
    show t.offAccess.vf n = s.offAccess.vf n
    rw [h]
  refine ⟨hown, ?_, ?_, fun n => by rw [hvf], fun n => by rw [hvf]⟩
  · show t.offAccess.jobs = s.offAccess.jobs
    rw [h]
  · show t.offAccess.launches = s.offAccess.launches
    rw [h]
theorem SameHolders.spWrite (s : State) (a : Nat) (bs : List Byte) (y : Option (Nat × Bool)) : SameHolders s (s.spWrite a bs y) :=
  .of_access (s.spWrite_offAccess a bs y) (s.spWrite_owners a bs y)
theorem SameHolders.perform (s : State) (sel : Flight → Bool) (sc : Scope) : SameHolders s (s.perform sel sc) :=
  .of_access (s.perform_offAccess sel sc) (s.perform_owners sel sc)
theorem SameHolders.mapWarp (s : State) (r : WarpRef) (f : Warp → Warp) : SameHolders s (s.mapWarp r f) :=
  .of_access (s.mapWarp_offAccess r f) (s.mapWarp_owners f)
/-- A new value of an interface that keeps whether it is enabled and halted. -/
theorem SameHolders.setVf {n : Nat} {v : Vf} (h : v.vfctl = (s.vf n).vfctl) (h' : v.devHalted = (s.vf n).devHalted) : SameHolders s (s.setVf n v) := by
  refine ⟨rfl, rfl, rfl, fun m => ?_, fun m => ?_⟩ <;> rw [State.vf_setVf] <;> split
  · rw [h, ‹m = n›]
  · rfl
  · rw [h', ‹m = n›]
  · rfl
theorem SameHolders.of_vfs (hb : t.blocks = s.blocks) (hj : t.jobs = s.jobs) (hl : t.launches = s.launches) (hv : t.vfs = s.vfs) : SameHolders s t :=
  ⟨State.owners_of_blocks hb, hj, hl, fun n => by rw [State.vf, hv, State.vf], fun n => by rw [State.vf, hv, State.vf]⟩
theorem SameHolders.ringRecord? {n : Nat} {bs : List Byte} (h : s.ringRecord? n bs = some t) : SameHolders s t := by
  unfold State.ringRecord? at h
  dsimp only at h
  split at h
  · cases h
    exact SameHolders.trans (t := s.setVf n { s.vf n with frwr := (s.vf n).frwr + 1, event := (s.vf n).event ||| 2 }) (.setVf rfl rfl) (.of_vfs rfl rfl rfl rfl)
  · cases h
theorem SameHolders.report (s : State) (n kind launch : Nat) (bs : List Byte) : SameHolders s (s.report n kind launch bs) := by
  have hcount : SameHolders s (s.setVf n { s.vf n with records := (s.vf n).records + 1 }) := .setVf rfl rfl
  unfold State.report
  dsimp only
  split
  · next h => exact hcount.trans (.ringRecord? h)
  · split
    · exact hcount.trans (.setVf rfl rfl)
    · exact hcount.trans (.of_vfs rfl rfl rfl rfl)
theorem SameHolders.startContinuation (s : State) (l : Link) : SameHolders s (s.startContinuation l) := by
  have hover : SameHolders s (s.overRecord l) := (SameHolders.spWrite ..).trans (.report ..)
  unfold State.startContinuation
  dsimp only
  split
  · split
    · exact .of_vfs rfl rfl rfl rfl
    · exact hover
  · exact hover
theorem SameHolders.joinStep (s : State) (l : Link) (fault : Bool) : SameHolders s (s.joinStep l fault) := by
  unfold State.joinStep
  dsimp only
  split
  · exact (SameHolders.spWrite ..).trans (.startContinuation ..)
  · exact .spWrite ..
theorem SameHolders.register? {l : Link} {core : Nat} (h : s.register? l core = some t) : SameHolders s t := by
  have hsettle : SameHolders s (s.settle l.future 16) := .perform ..
  unfold State.register? at h
  dsimp only at h
  split at h
  · split at h
    · cases h
    · cases h
      exact hsettle.trans ((SameHolders.spWrite ..).trans (.of_vfs rfl rfl rfl rfl))
  · cases h
    exact hsettle.trans (.joinStep ..)
theorem SameHolders.registerAll (s : State) (b : Block) (xs : List (Nat × Nat)) : SameHolders s (s.registerAll b xs).1 := by
  induction xs generalizing s with
  | nil => exact .refl s
  | cons x xs ih =>
    unfold State.registerAll
    split
    · next h => exact (SameHolders.register? h).trans (ih _)
    · exact ih s
theorem SameHolders.queueLinks (s : State) (r : WarpRef) (rods : Word) (id : Nat) (xs : List (Nat × Nat)) :
    SameHolders s (s.queueLinks r rods id xs).1 := by
  induction xs generalizing s with
  | nil => exact .refl s
  | cons x xs ih =>
    unfold State.queueLinks
    split
    · exact ih s
    · exact (SameHolders.mapWarp ..).trans (ih _)
theorem SameHolders.registerLanes (s : State) (r : WarpRef) (b : Block) (rods : Word) (xs : List (Nat × Nat)) :
    SameHolders s (s.registerLanes r b rods xs).1 := by
  unfold State.registerLanes
  split
  · exact SameHolders.trans (t := { s with nextId := s.nextId + 1 }) (.of_vfs rfl rfl rfl rfl) (.queueLinks ..)
  · exact (SameHolders.of_access (s.performWarp_offAccess r .pkg) (s.performWarp_owners .pkg)).trans (.registerAll ..)
theorem SameHolders.feedRun (s : State) (r : WarpRef) (run : Run) : SameHolders s (s.feedRun r run) := by
  unfold State.feedRun
  split
  · exact (SameHolders.registerLanes ..).trans (.mapWarp ..)
  · exact .refl s
theorem SameHolders.foldl {α : Type} (f : State → α → State) (h : ∀ t x, SameHolders t (f t x)) (xs : List α) (s : State) : SameHolders s (xs.foldl f s) := by
  induction xs generalizing s with
  | nil => exact .refl s
  | cons x xs ih => exact (h s x).trans (ih (f s x))
theorem SameHolders.feedTables (s : State) : SameHolders s s.feedTables := .foldl _ (fun t _ => .feedRun t _ _) _ s

end Sys2Proof.Machine
end

section
/-!
Interfaces (R347 to R349): clusters, enabling, halting and zeroing.
-/
namespace Sys2Proof.Machine

variable {s : State} {vf : Nat}

/-! ### Pacing (R303, R357) -/

theorem SameHolders.setRamp (s : State) (w : Word) : SameHolders s (s.setRamp w) := by
  unfold State.setRamp
  split
  · exact .of_vfs rfl rfl rfl rfl
  · split <;> exact .of_vfs rfl rfl rfl rfl
theorem State.setRamp_vf (s : State) (w : Word) (n : Nat) : (s.setRamp w).vf n = s.vf n := by
  unfold State.setRamp
  split
  · rfl
  · split <;> rfl
theorem State.setPacing_vf (s : State) (n : Nat) : s.setPacing.vf n = s.vf n := State.setRamp_vf ..
theorem State.setRamp_off {w : Word} (hw : w.getLsbD 31 = false) : s.setRamp w = { s with ramp := w, idling := [] } := by
  rw [State.setRamp, hw]
  rfl
theorem State.setRamp_stays {w : Word} (hw : w.getLsbD 31 = true) (hon : s.ramp.getLsbD 31 = true) : s.setRamp w = { s with ramp := w } := by
  rw [State.setRamp, hw, hon]
  rfl
/-- As pacing is turned on, an interval of every die begins (R303). -/
theorem State.setRamp_on {w : Word} (hw : w.getLsbD 31 = true) (hoff : s.ramp.getLsbD 31 = false) :
    (s.setRamp w).ramp = w ∧ (s.setRamp w).starts = [] ∧ (s.setRamp w).ends = [] ∧ ∀ die, die < 8 → Sparse.get 0 (s.setRamp w).rampAt die = s.clock := by
  rw [State.setRamp, hw, hoff]
  refine ⟨rfl, rfl, rfl, fun die hdie => ?_⟩
  exact (Sparse.get_foldl_set 0 (fun _ => s.clock) (List.range 8) [] die).trans (if_pos (List.mem_range.2 hdie))

/-! ### VFCLU_WRITE -/

theorem execVfcluWrite_gives {m : BitVec 128} (hvf : vf < 128) (hoff : (s.vf vf).vfctl &&& 3 = 0)
    (hfree : ∀ x ∈ s.vfs, x.1 ≠ vf → x.2.vfclu &&& m = 0) (hearly : s.level ≠ 1 ∨ vf ≠ 0) :
    ∃ t, execVfcluWrite vf m s = .next t ∧ t.vf vf = { s.vf vf with vfclu := m, coreless := m &&& ~~~s.enabled } := by
  have hnone : (s.vfs.any fun x => x.1 != vf && (x.2.vfclu &&& m) != 0) = false :=
    List.any_eq_false.2 fun x hx => by simpa using hfree x hx
  have hlevel : (s.level == 1 && vf == 0) = false := by simpa [Decidable.imp_iff_not_or] using hearly
  refine ⟨_, rfl, ?_⟩
  rw [State.writeVfclu, if_neg (Nat.not_le.2 hvf)]
  simp only [hoff, hnone, hlevel, bne_self_eq_false, Bool.or_self, Bool.false_eq_true, if_false]
  rw [State.setPacing_vf, State.vf_setVf, if_pos rfl]
/-- The write is refused, and REFUSED set, while the interface is enabled or zeroed, where another one holds a cluster, and in early service for
interface 0. -/
theorem execVfcluWrite_refuses {m : BitVec 128} (hvf : vf < 128)
    (h : (s.vf vf).vfctl &&& 3 ≠ 0 ∨ (∃ x ∈ s.vfs, x.1 ≠ vf ∧ x.2.vfclu &&& m ≠ 0) ∨ (s.level = 1 ∧ vf = 0)) :
    execVfcluWrite vf m s = .next (s.setVf vf { s.vf vf with vfctl := (s.vf vf).vfctl ||| 4 }) := by
  have hrefused : ((s.vf vf).vfctl &&& 3 != 0 || (s.vfs.any fun x => x.1 != vf && (x.2.vfclu &&& m) != 0) || (s.level == 1 && vf == 0)) = true := by
    simpa [or_assoc] using h
  rw [execVfcluWrite, State.writeVfclu, if_neg (Nat.not_le.2 hvf)]
  simp only [hrefused, if_true]

/-! ### Enabling -/

theorem execVfctlEnWrite_enables (hvf : vf < 128) (hlevel : s.level = 2 ∨ vf = 0) (hzero : (s.vf vf).vfctl.getLsbD 1 = false)
    (hoff : (s.vf vf).vfctl.getLsbD 0 = false) :
    ∃ t, execVfctlEnWrite vf true s = .next t ∧ (t.vf vf).vfctl = (s.vf vf).vfctl ||| 1 ∧ (t.vf vf).devHalted = s.coreHalted := by
  have hmay : (s.level != 2 && vf != 0) = false := by simpa [Decidable.imp_iff_not_or] using hlevel
  refine ⟨s.enableVf vf, ?_, ?_⟩
  · simp only [execVfctlEnWrite, State.writeEn, Nat.not_le.2 hvf, hmay, hzero, hoff, Bool.false_eq_true, if_false, if_true]
  · rw [State.enableVf]
    obtain ⟨x, hx⟩ := State.noteBusy_vf ((s.setVf vf { s.vf vf with
      vfctl := (s.vf vf).vfctl ||| 1
      queues := (s.vf vf).queues.map fun x => (x.1, { x.2 with halted := false })
      devHalted := s.coreHalted
      enWaits := false }).setPacing) vf vf
    rw [hx, State.setPacing_vf, State.vf_setVf, if_pos rfl]
    exact ⟨rfl, rfl⟩

/-! ### Halting -/

/-- From one state to the next an interface has halted (R349): it is being zeroed, its blocks and jobs are gone and its launches done. -/
def State.HaltsTo (s : State) (vf : Nat) (t : State) : Prop :=
  (t.vf vf).vfctl = ((s.vf vf).vfctl &&& 4) ||| 2 ∧ (t.vf vf).devHalted = true
    ∧ (∀ b ∈ t.blocks, b.vf ≠ vf) ∧ (∀ j ∈ t.jobs, j.vf ≠ vf) ∧ ∀ l ∈ t.launches, l.vf = vf → l.phase = .done
/-- Only what `SameHolders` speaks of decides whether an interface has halted. -/
theorem State.HaltsTo.mono {t u : State} (h : s.HaltsTo vf t) (k : SameHolders t u) : s.HaltsTo vf u := by
  obtain ⟨hctl, hdev, hblocks, hjobs, hlaunches⟩ := h
  refine ⟨(k.vfctl vf).trans hctl, (k.devHalted vf).trans hdev, fun b hb hvf => ?_, by rwa [k.jobs], by rwa [k.launches]⟩
  have hown : vf ∈ t.owners := k.owners ▸ List.mem_map.2 ⟨b, hb, hvf⟩
  obtain ⟨b', hb', hvf'⟩ := List.mem_map.1 hown
  exact hblocks b' hb' hvf'
theorem State.markDirty_holds (s : State) (n hd g : Nat) (ahead : Bool) :
    ((s.markDirty n hd g ahead).blocks, (s.markDirty n hd g ahead).jobs, (s.markDirty n hd g ahead).launches) = (s.blocks, s.jobs, s.launches) := by
  unfold State.markDirty
  dsimp only
  split
  · rfl
  · split <;> rfl
/-- What an interface holds once it has halted, before the groups that it was committing are marked dirty. -/
theorem State.haltsTo_of_cleared {t : State} {v : Vf} (hblocks : t.blocks = s.blocks.filter fun b => b.vf != vf)
    (hjobs : t.jobs = s.jobs.filter fun j => j.vf != vf)
    (hlaunches : t.launches = s.launches.map fun l =>
      if l.vf == vf && l.phase != .done then { l with phase := .done, status := 4, aborted := true, retired := true } else l)
    (hctl : v.vfctl = ((s.vf vf).vfctl &&& 4) ||| 2) (hdev : v.devHalted = true) : s.HaltsTo vf (t.setVf vf v) := by
  refine ⟨by rw [State.vf_setVf, if_pos rfl, hctl], by rw [State.vf_setVf, if_pos rfl, hdev], ?_, ?_, ?_⟩
  · intro b hb
    rw [State.setVf_blocks, hblocks, List.mem_filter, bne_iff_ne] at hb
    exact hb.2
  · intro j hj
    rw [State.setVf_jobs, hjobs, List.mem_filter, bne_iff_ne] at hj
    exact hj.2
  · intro l hl hvf
    rw [State.setVf_launches, hlaunches, List.mem_map] at hl
    obtain ⟨k, -, rfl⟩ := hl
    split
    · rfl
    · next hk =>
      rw [if_neg hk] at hvf
      simpa [hvf] using hk
theorem State.haltVf_halts (s : State) (vf : Nat) : s.HaltsTo vf (s.haltVf vf) := by
  have hdirty := fun (u : State) (cs : List Commit) => foldl_same (fun t : State => (t.blocks, t.jobs, t.launches))
    (fun t c => t.markDirty vf c.handle c.group false) (fun t c => t.markDirty_holds vf c.handle c.group false) cs u
  unfold State.haltVf
  dsimp only
  refine State.HaltsTo.mono (State.haltsTo_of_cleared ?_ ?_ ?_ rfl rfl) (SameHolders.feedTables _)
  · exact congrArg Prod.fst (hdirty _ _)
  · exact congrArg (·.2.1) (hdirty _ _)
  · exact congrArg (·.2.2) (hdirty _ _)
/-- An interface that halts keeps what further is written of its registers, and pacing changes nothing of it. -/
theorem State.HaltsTo.setPacing {t : State} {v : Vf} (h : s.HaltsTo vf t) (hctl : v.vfctl = (t.vf vf).vfctl) (hdev : v.devHalted = (t.vf vf).devHalted) :
    s.HaltsTo vf (t.setVf vf v).setPacing :=
  h.mono ((SameHolders.setVf hctl hdev).trans (.setRamp ..))
theorem execVfctlEnWrite_halts (hvf : vf < 128) : ∃ t, execVfctlEnWrite vf false s = .next t ∧ s.HaltsTo vf t := by
  refine ⟨_, rfl, ?_⟩
  rw [State.writeEn, if_neg (Nat.not_le.2 hvf)]
  exact (s.haltVf_halts vf).setPacing rfl rfl
theorem execFunctionLevelReset_halts (hvf : vf < 128) : ∃ t, execFunctionLevelReset vf s = .next t ∧ (t.vf vf).flr = true ∧ s.HaltsTo vf t := by
  refine ⟨_, rfl, ?_⟩
  rw [if_neg (Nat.not_le.2 hvf)]
  refine ⟨?_, (s.haltVf_halts vf).setPacing rfl rfl⟩
  rw [State.setPacing_vf, State.vf_setVf, if_pos rfl]

/-! ### Zeroing -/

/-- A byte that a filter drops reads zero. -/
theorem get_filter_dropped {m : Memory} {p : Nat × Byte → Bool} {a : Nat} (h : ∀ v, p (a, v) = false) : Sparse.get 0 (m.filter p) a = 0 := by
  induction m with
  | nil => rfl
  | cons e m ih =>
    rw [List.filter_cons]
    split
    · next hp =>
      have hne : a ≠ e.1 := fun he => by
        subst he
        exact absurd hp (by rw [h e.2]; decide)
      rw [Sparse.get, if_neg hne, ih]
    · exact ih
/-- Once its clusters are zeroed, an interface that no EN waits for is enabled or zeroed no longer (R349). -/
theorem execZeroingComplete_ends (hzero : (s.vf vf).vfctl.getLsbD 1 = true) (hwait : (s.vf vf).enWaits = false) :
    ∃ t, execZeroingComplete vf s = .next t ∧ (t.vf vf).vfctl = (s.vf vf).vfctl &&& 5 ∧ (t.vf vf).flr = false
      ∧ ∀ a, (s.vf vf).vfclu.getLsbD (a / 2 ^ 30 * 16 + a % 2 ^ 30 / Config.sliceBytes) = true → Sparse.get 0 t.sp a = 0 := by
  refine ⟨_, rfl, ?_⟩
  simp only [hzero, Bool.not_true, Bool.false_eq_true, if_false]
  -- with a function-level reset or without one
  cases (s.vf vf).flr with
  | false | true =>
    simp only [hwait, Bool.false_and, Bool.false_eq_true, if_false, if_true]
    refine ⟨by rw [State.vf_setVf, if_pos rfl], by rw [State.vf_setVf, if_pos rfl], fun a ha => ?_⟩
    exact get_filter_dropped fun v => by rw [inClusters, ha, Bool.not_true]

end Sys2Proof.Machine
end

section
/-!
The host port (R329, R330): windows of the scratchpad, registers, main memory, and requests that are not supported.
-/
namespace Sys2Proof.Machine

variable {s : State} {vf off n : Nat} {bs : List Byte} {ps : List Nat}

/-! ### Bytes of a window -/

/-- The bytes of an aligned word of a window stand side by side: slices and dies hold whole words. -/
theorem Vf.scratch?_add {v : Vf} {a p i : Nat} (ha : a % 4 = 0) (hi : i < 4) (h : v.scratch? a = some p) : v.scratch? (a + i) = some (p + i) := by
  have hoff : (a + i) % 2 ^ 30 = a % 2 ^ 30 + i := by omega
  have hdie : (a + i) / 2 ^ 30 = a / 2 ^ 30 := by omega
  have hslice : (a % 2 ^ 30 + i) / Config.sliceBytes = a % 2 ^ 30 / Config.sliceBytes := by unfold Config.sliceBytes; omega
  have hin : (a % 2 ^ 30 + i) % Config.sliceBytes = a % 2 ^ 30 % Config.sliceBytes + i := by unfold Config.sliceBytes; omega
  unfold Vf.scratch? at h ⊢
  dsimp only at h ⊢
  rw [hoff, hdie, hslice, hin]
  by_cases hwin : a < 2 ^ 33 ∧ a % 2 ^ 30 < Config.dieBytes
  · have hwin' : a + i < 2 ^ 33 ∧ a % 2 ^ 30 + i < Config.dieBytes := by
      unfold Config.dieBytes at hwin ⊢
      omega
    rw [if_pos (by simpa using hwin)] at h
    rw [if_pos (by simpa using hwin')]
    obtain ⟨k, hk, hp⟩ := Option.map_eq_some_iff.1 h
    rw [hk, Option.map_some, ← hp, Nat.add_assoc _ _ i]
  · rw [if_neg (by simpa using hwin)] at h
    cases h
/-- Bytes set one by one at the places of a list. -/
def setBytes (m : Memory) (xs : List (Nat × Byte)) : Memory := xs.foldl (fun m y => Sparse.set 0 m y.1 y.2) m
theorem setBytes_run (m : Memory) (p : Nat) (bs : List Byte) : setBytes m (((List.range bs.length).map (p + ·)).zip bs) = writeBytes m p bs := by
  induction bs generalizing m p with
  | nil => rfl
  | cons b bs ih =>
    rw [writeBytes, ← ih, List.length_cons, List.range_succ_eq_map, List.map_cons, List.map_map, List.zip_cons_cons]
    simp only [setBytes, List.foldl_cons, Nat.add_zero]
    congr 3
    funext i
    exact Nat.add_right_comm p i 1
/-- Bytes written to a scratchpad place while no write is in flight. -/
theorem State.writePlace_idle {t : State} (p : Nat) (bs : List Byte) (h : t.flight = []) :
    (t.writePlace (.scratch p) bs []).flight = [] ∧ (t.writePlace (.scratch p) bs []).vfs = t.vfs
      ∧ (t.writePlace (.scratch p) bs []).sp = writeBytes t.sp p bs := by
  have hsettle : (t.settle p bs.length).flight = [] ∧ (t.settle p bs.length).sp = t.sp := by
    unfold State.settle State.perform
    simp [h, performSet]
  obtain ⟨hflight, hsp⟩ := hsettle
  obtain ⟨hf, -, -, -⟩ := (t.settle p bs.length).spWrite_frame p bs none
  obtain ⟨-, hs, -, -⟩ := (t.settle p bs.length).spWrite_mem p bs none
  exact ⟨hf.trans hflight, (State.spWrite_vfs ..).trans (t.settle_vfs p bs.length), hs.trans (by rw [hsp])⟩
/-- The walk of a host write over its bytes puts a whole aligned word down at its first byte: the number of bytes that stand once `k` have been passed. -/
def standing (off n k : Nat) : Nat :=
  if (off + k) % 4 ≠ 0 ∧ (off + k) % 4 ≤ k ∧ k - (off + k) % 4 + 4 ≤ n then k - (off + k) % 4 + 4 else k
/-- A host write of bytes whose places are `ps` stands up to a number of bytes. -/
structure State.Stands (s : State) (ps : List Nat) (bs : List Byte) (k : Nat) (t : State) : Prop where
  flight : t.flight = []
  vfs : t.vfs = s.vfs
  sp : t.sp = setBytes s.sp ((ps.zip bs).take k)
/-- A piece of the bytes whose places stand side by side is put down behind those that stand. -/
theorem State.Stands.write {t : State} {k j p : Nat} (h : s.Stands ps bs k t) (hlen : k + j ≤ bs.length) (hps : ∀ i, i < j → ps[k + i]? = some (p + i)) :
    s.Stands ps bs (k + j) (t.writePlace (.scratch p) ((bs.drop k).take j) []) := by
  obtain ⟨hflight, hvfs, hsp⟩ := t.writePlace_idle p ((bs.drop k).take j) h.flight
  have hpiece : ((bs.drop k).take j).length = j := by rw [List.length_take, List.length_drop]; omega
  have hplaces : (ps.drop k).take j = (List.range j).map (p + ·) := List.ext_getElem? fun i => by
    by_cases hi : i < j
    · simp [hi, hps i hi]
    · simp [hi]
  refine ⟨hflight, hvfs.trans h.vfs, ?_⟩
  have hrun := setBytes_run t.sp p ((bs.drop k).take j)
  rw [hpiece, ← hplaces] at hrun
  rw [hsp, ← hrun, h.sp]
  rw [List.take_add, setBytes, setBytes, setBytes, List.foldl_append]
  simp only [List.zip_eq_zipWith, List.drop_zipWith, List.take_zipWith]
/-- The step of the walk of a host write over its bytes. -/
def State.hostByte (t : State) (vf off : Nat) (bs : List Byte) (k : Nat) : State :=
  match (t.vf vf).scratch? (off + k), bs[k]? with
  | some p, some b =>
    if (off + k) % 4 == 0 && decide (k + 4 ≤ bs.length) then t.writePlace (.scratch p) ((bs.drop k).take 4) []
    else if (off + k) % 4 != 0 && decide ((off + k) % 4 ≤ k) && decide (k - (off + k) % 4 + 4 ≤ bs.length) then t
    else t.writePlace (.scratch p) [b] []
  | _, _ => t
theorem State.hostScratch_eq (s : State) (vf off : Nat) (bs : List Byte) :
    s.hostScratch vf off bs = (List.range bs.length).foldl (fun t k => t.hostByte vf off bs k) s := rfl
/-- One step of the walk: a whole word is put down at its first byte, and its other bytes stand then; any other byte is put down alone. -/
theorem State.Stands.hostByte {t : State} {k : Nat} (h : s.Stands ps bs (standing off bs.length k) t) (hk : k < bs.length)
    (hps : ∀ k, k < bs.length → (s.vf vf).scratch? (off + k) = ps[k]?) (hsome : ps.length = bs.length) :
    s.Stands ps bs (standing off bs.length (k + 1)) (t.hostByte vf off bs k) := by
  have hp : ps[k]? = some (ps[k]'(hsome ▸ hk)) := List.getElem?_eq_getElem _
  have hscratch : (t.vf vf).scratch? (off + k) = some (ps[k]'(hsome ▸ hk)) := by
    rw [State.vf, h.vfs, ← State.vf, hps k hk, hp]
  generalize ps[k]'(hsome ▸ hk) = p at hp hscratch
  have hb : bs[k]? = some bs[k] := List.getElem?_eq_getElem hk
  simp only [State.hostByte, hscratch, hb]
  split
  · next hword =>
    obtain ⟨hal, hroom⟩ : (off + k) % 4 = 0 ∧ k + 4 ≤ bs.length := by simpa using hword
    have h0 : standing off bs.length k = k := by unfold standing; split <;> omega
    have h1 : standing off bs.length (k + 1) = k + 4 := by unfold standing; split <;> omega
    rw [h0] at h
    rw [h1]
    refine h.write hroom fun i hi => ?_
    rw [← hps (k + i) (by omega), ← Nat.add_assoc]
    exact Vf.scratch?_add hal hi (by rw [hps k hk, hp])
  · next hword =>
    split
    · next hin =>
      have h1 : standing off bs.length (k + 1) = standing off bs.length k := by
        simp only [Bool.and_eq_true, bne_iff_ne, decide_eq_true_eq] at hin
        unfold standing
        split <;> split <;> omega
      rwa [h1]
    · next hin =>
      simp only [Bool.and_eq_true, beq_iff_eq, bne_iff_ne, decide_eq_true_eq] at hin hword
      have h0 : standing off bs.length k = k := by unfold standing; split <;> omega
      have h1 : standing off bs.length (k + 1) = k + 1 := by unfold standing; split <;> omega
      rw [h0] at h
      rw [h1]
      have hone : (bs.drop k).take 1 = [bs[k]] := by rw [List.drop_eq_getElem_cons hk, List.take_succ_cons, List.take_zero]
      rw [← hone]
      refine h.write hk fun i hi => ?_
      obtain rfl : i = 0 := by omega
      exact hp
/-- A host write whose bytes all lie in the windows writes each at its place, while no write is in flight. -/
theorem State.hostScratch_stands (hflight : s.flight = []) (hps : ∀ k, k < bs.length → (s.vf vf).scratch? (off + k) = ps[k]?) (hsome : ps.length = bs.length) :
    s.Stands ps bs bs.length (s.hostScratch vf off bs) := by
  have hwalk : ∀ k, k ≤ bs.length → s.Stands ps bs (standing off bs.length k) ((List.range k).foldl (fun t k => t.hostByte vf off bs k) s) := by
    intro k
    induction k with
    | zero =>
      have h0 : standing off bs.length 0 = 0 := by unfold standing; split <;> omega
      exact fun _ => ⟨hflight, rfl, by rw [h0]; rfl⟩
    | succ k ih =>
      intro hk
      rw [List.range_succ, List.foldl_append]
      exact (ih (by omega)).hostByte hk hps hsome
  have hend : standing off bs.length bs.length = bs.length := by unfold standing; split <;> omega
  have h := hwalk bs.length le_rfl
  rwa [hend] at h

/-! ### BAR2 -/

theorem execHostBar2Write_writes (hvf : vf < 128) (hserved : s.serves vf = true)
    (hps : (List.range bs.length).map (fun k => (s.vf vf).scratch? (off + k)) = ps.map some) (hin : s.ingress vf off bs.length = []) (hflight : s.flight = []) :
    ∃ t, execHostBar2Write vf off bs s = .next t ∧ t.sp = setBytes s.sp (ps.zip bs) := by
  have hlen : ps.length = bs.length := by simpa using (congrArg List.length hps).symm
  have hplace : ∀ k, k < bs.length → (s.vf vf).scratch? (off + k) = ps[k]? := fun k hk => by
    have hget := congrArg (·[k]?) hps
    simp only [List.getElem?_map, List.getElem?_range hk, Option.map_some, List.getElem?_eq_getElem (hlen ▸ hk), Option.some.injEq] at hget
    rw [hget, List.getElem?_eq_getElem]
  have hwin : ((List.range bs.length).any fun k => ((s.vf vf).scratch? (off + k)).isNone) = false := List.any_eq_false.2 fun k hk => by
    rw [hplace k (List.mem_range.1 hk), List.getElem?_eq_getElem (hlen ▸ List.mem_range.1 hk)]
    exact Bool.false_ne_true
  have h := State.hostScratch_stands hflight hplace hlen
  have hin' : (s.hostScratch vf off bs).ingress vf off bs.length = [] := by
    rw [← hin, State.ingress, State.ingress, State.vf, h.vfs, ← State.vf]
  refine ⟨s.hostScratch vf off bs, ?_, ?_⟩
  · simp only [execHostBar2Write, Nat.not_le.2 hvf, hserved, hwin, hin', Bool.not_true, Bool.false_eq_true, if_false, List.foldl_nil]
  · rw [h.sp, List.take_of_length_le (by rw [List.length_zip]; omega)]

theorem execHostBar2Write_stages (hvf : 128 ≤ vf) (hroom : off + bs.length ≤ 2 ^ 26) :
    execHostBar2Write vf off bs s = .next { s with stagingArea := writeBytes s.stagingArea off bs } := by
  rw [execHostBar2Write, if_pos hvf, if_pos hroom]
theorem execHostBar2Read_window (hvf : vf < 128) (hserved : s.serves vf = true) (hn : n ≤ 64)
    (hps : (List.range n).map (fun k => (s.vf vf).scratch? (off + k)) = ps.map some) :
    execHostBar2Read (.window vf) off n s = .next (s.readOut (ps.map fun p => Sparse.get 0 s.sp p)) := by
  have hall : (ps.map some).any (·.isNone) = false := by simp
  have hbytes : (ps.map some).map (fun p => Sparse.get 0 s.sp (p.getD 0)) = ps.map fun p => Sparse.get 0 s.sp p := by rw [List.map_map]; rfl
  simp only [execHostBar2Read, Nat.not_le.2 hvf, hserved, Nat.min_eq_left hn, hps, hall, hbytes, Bool.not_true, Bool.false_eq_true, if_false]
/-- An interface that is not served gives all ones (Table 21-10). -/
theorem execHostBar2Read_unserved (hvf : vf < 128) (hserved : s.serves vf = false) {bar : HostBar} (hbar : bar ∈ [HostBar.regs vf, .window vf]) :
    execHostBar2Read bar off n s = .next (s.readOut (List.replicate (min n 64) 0xFF)) := by
  have hno : ¬(128 ≤ vf ∨ s.serves vf = true) := by simp [hvf, hserved]
  rcases List.mem_pair.1 hbar with rfl | rfl
  · simp only [execHostBar2Read, Bool.or_eq_true, decide_eq_true_eq, hno, if_false]
  · simp only [execHostBar2Read, Nat.not_le.2 hvf, hserved, Bool.not_false, if_true, if_false]

/-! ### Registers -/

theorem halfOf_low (x : DWord) : halfOf x false = loWord x := by
  ext i hi
  simp [halfOf, loWord]
theorem halfOf_high (x : DWord) : halfOf x true = hiWord x := by
  ext i hi
  simp [halfOf, hiWord]
/-- The bytes of a word, as the shifts of a register read give them. -/
theorem bytes_of_word (w : Word) : ((List.range 4).map fun k => (w >>> (8 * k)).setWidth 8) = leBytes 4 w.toNat := by
  have hbyte : ∀ k, (w >>> (8 * k)).setWidth 8 = BitVec.ofNat 8 (w.toNat / 2 ^ (8 * k)) := fun k => by
    apply BitVec.eq_of_toNat_eq
    rw [BitVec.toNat_setWidth, BitVec.toNat_ushiftRight, BitVec.toNat_ofNat, Nat.shiftRight_eq_div_pow]
  simp [List.range_succ, hbyte, leBytes, Nat.div_div_eq_div_mul]
/-- A read of a word at a multiple of four gives its register. -/
theorem State.regBytes_word (hoff : off % 4 = 0) :
    s.regBytes vf off 4 = leBytes 4 (if 128 ≤ vf then s.pfRegWord off else (s.vf vf).regWord off).toNat := by
  rw [← bytes_of_word, State.regBytes]
  refine List.map_congr_left fun k hk => ?_
  have hk4 := List.mem_range.1 hk
  have hword : (off + k) / 4 * 4 = off := by omega
  have hbyte : (off + k) % 4 = k := by omega
  simp only [hword, hbyte]
theorem execHostBar2Read_vfReg {w : Word} (hvf : vf < 128) (hserved : s.serves vf = true) (hoff : off % 4 = 0) (hw : (s.vf vf).regWord off = w) :
    execHostBar2Read (.regs vf) off 4 s = .next (s.readOut (leBytes 4 w.toNat)) := by
  simp only [execHostBar2Read, hserved, Bool.or_true, if_true, Nat.reduceLeDiff, Nat.min_eq_left, State.regBytes_word hoff, Nat.not_le.2 hvf, if_false, hw]
theorem execHostBar2Read_pfReg {w : Word} (hvf : 128 ≤ vf) (hoff : off % 4 = 0) (hw : s.pfRegWord off = w) :
    execHostBar2Read (.regs vf) off 4 s = .next (s.readOut (leBytes 4 w.toNat)) := by
  simp only [execHostBar2Read, hvf, decide_true, Bool.true_or, if_true, Nat.reduceLeDiff, Nat.min_eq_left, State.regBytes_word hoff, hw]
/-- The registers of a queue stand in its block of 64 bytes (Table 21-3). -/
theorem Vf.regWord_queue {v : Vf} {q r : Nat} (hq : q < 32) (hr : r < 64) : v.regWord (0x1000 + 64 * q + r) = (v.queue q).regWord r := by
  have hin : 0x1000 ≤ 0x1000 + 64 * q + r ∧ 0x1000 + 64 * q + r < 0x1800 := by omega
  have hblock : (0x1000 + 64 * q + r - 0x1000) / 64 = q := by omega
  have hreg : (0x1000 + 64 * q + r) % 64 = r := by omega
  rw [Vf.regWord, if_pos (by simpa using hin), hblock, hreg]

/-! ### BAR4 -/

theorem State.endEarly_of_none {p : Nat} (hth : (s.vf 0).earlyTh = []) (hcode : (s.vf 0).earlyCode = []) : s.endEarly p n = s := by
  simp only [State.endEarly, hth, hcode, List.isEmpty_nil, Bool.and_self, if_true]
theorem State.hostMain_eq_locWrite {p : Nat} (hth : (s.vf 0).earlyTh = []) (hcode : (s.vf 0).earlyCode = []) :
    s.hostMain p bs = s.locWrite (.main p) bs := State.endEarly_of_none (s := s.locWrite (.main p) bs) hth hcode
/-- The window of the physical function in full service (R330): what a read gives, and where a write goes. -/
theorem execHostBar4Access_pf (hvf : 128 ≤ vf) (hlevel : s.level = 2) (hsize : off + max (min n 64) bs.length ≤ 2 ^ 36)
    (hmem : s.pmwin.toNat + off + max (min n 64) bs.length ≤ Config.installed) :
    execHostBar4Access vf off none n s = .next (s.readOut (readBytes s.mm (s.pmwin.toNat + off) (min n 64)))
      ∧ execHostBar4Access vf off (some bs) n s = .next (s.hostMain (s.pmwin.toNat + off) bs) := by
  have hread : ¬2 ^ 36 < off + min n 64 := by omega
  have hwrite : ¬2 ^ 36 < off + bs.length := by omega
  have hread' : s.pmwin.toNat + off + min n 64 ≤ Config.installed := by omega
  have hwrite' : s.pmwin.toNat + off + bs.length ≤ Config.installed := by omega
  constructor
  · simp only [execHostBar4Access, hvf, hlevel, if_true, Option.map_none, Option.getD_none, hread, hread', bne_self_eq_false, decide_false, Bool.or_self,
      Bool.false_eq_true, if_false]
  · simp only [execHostBar4Access, hvf, hlevel, if_true, Option.map_some, Option.getD_some, hwrite, hwrite', bne_self_eq_false, decide_false, Bool.or_self,
      Bool.false_eq_true, if_false]

end Sys2Proof.Machine
end

section
/-!
Firmware, service levels and power (R352 to R358), registers that the host writes (R5, R6), and the fabric (R350, R351).
-/
namespace Sys2Proof.Machine

variable {s : State} {vf : Nat}

/-! ### Firmware -/

/-- A report to the physical function moves neither the level nor the image that runs. -/
theorem State.reportPf_level_image (s : State) (kind : Nat) : (s.reportPf kind).level = s.level ∧ (s.reportPf kind).image = s.image := by
  unfold State.reportPf
  dsimp only
  split <;> exact ⟨rfl, rfl⟩
/-- Without an aborted launch a reload of firmware ends none, and the image that runs stays (R327). -/
theorem State.recoverCore_image (h : ∀ l ∈ s.launches, l.aborted = false) : s.recoverCore.image = s.image := by
  have hnone : (s.launches.filter fun l => l.aborted && l.phase != .done) = [] := List.filter_eq_nil_iff.2 fun l hl => by simp [h l hl]
  simp only [State.recoverCore, hnone, List.foldl_nil]
/-- From level 0 an image that the ROM accepts starts early service and runs (R352, R354, R355). -/
theorem State.loadFirmware_accepts {len : BitVec 26} (hlevel : s.level = 0) (habort : ∀ l ∈ s.launches, l.aborted = false)
    (hok : imageOk (readBytes s.stagingArea 0 len.toNat) = true) :
    (s.loadFirmware len).level = 1 ∧ (s.loadFirmware len).mhz = 1000 ∧ ((s.loadFirmware len).vf 0).vfclu = 0xFFFF
      ∧ (s.loadFirmware len).image = some {
        len := len
        hash := sha384 (Config.imageBody (readBytes s.stagingArea 0 len.toNat))
        version := Config.imageVersion (readBytes s.stagingArea 0 len.toNat) } := by
  have hfirst : (s.level == 0) = true := beq_iff_eq.2 hlevel
  simp only [State.loadFirmware, hok, hfirst, if_true]
  exact ⟨rfl, rfl, by rw [State.vf_setVf, if_pos rfl], State.recoverCore_image habort⟩
/-- An image that the ROM refuses leaves the level and the running image. -/
theorem State.loadFirmware_refuses {len : BitVec 26} (hbad : imageOk (readBytes s.stagingArea 0 len.toNat) = false) :
    (s.loadFirmware len).level = s.level ∧ (s.loadFirmware len).image = s.image := by
  simp only [State.loadFirmware, hbad, Bool.false_eq_true, if_false]
  exact State.reportPf_level_image _ 6
theorem execSelfTestComplete_eq (failure : BitVec 4) (hlevel : s.level ≠ 2) : execSelfTestComplete failure s = .next (if failure = 0 then { s with
    fwFail := 0
    trained := true
    admitting := s.level != 1 } else { s with fwFail := failure }) := by
  rw [execSelfTestComplete, if_neg (by simpa using hlevel)]
  by_cases h : failure = 0 <;> simp [h]
theorem execFullServiceEntry_enters (hlevel : s.level = 1) (htrained : s.trained = true) (hcore : s.coreHalted = false)
    (hdie : ∀ b ∈ s.blocks, b.core / 64 ≠ 0) :
    execFullServiceEntry s = .next { s.keepEarly with level := 2, mhz := 2600, admitting := true } := by
  have hnone : (s.blocks.any fun b => b.die == 0) = false := List.any_eq_false.2 fun b hb => by simpa [Block.die] using hdie b hb
  rw [execFullServiceEntry, hlevel, htrained, hcore, hnone]
  rfl

/-! ### Power -/

theorem sumOf_eq_sum (xs : List Nat) : sumOf xs = xs.sum := by rw [sumOf, List.sum_eq_foldl]

/-! ### The fabric -/

theorem State.accepts_of_bound {dev u : Nat} (hu : (s.vf vf).bound? dev = some u) : s.accepts vf dev u = true := by
  rw [State.accepts, hu, beq_self_eq_true]
/-- A peer's read of a clean word in the window is answered with its bytes (R351). -/
theorem execFabricRequest_read {dev u : Nat} {a : BitVec 64} (hu : (s.vf vf).bound? dev = some u) (hin : (s.vf vf).inWindow a.toNat 4 = true)
    (hclean : physOf s vf a.toNat / 4 ∉ s.spPois) :
    execFabricRequest vf dev u (.read a false 4) s = .next (s.answer dev u (.ack (readBytes s.sp (physOf s vf a.toNat) 4) [])) := by
  have hword : (List.range (4 / 4)).map (fun k => (a.toNat + 4 * k) % 2 ^ 64) = [a.toNat] :=
    congrArg ([·]) (Nat.mod_eq_of_lt a.isLt)
  have hbad : ((List.range [a.toNat].length).filter fun k => s.spPois.contains (physOf s vf (a.toNat + 4 * k) / 4)) = [] :=
    List.filter_eq_nil_iff.2 fun k hk => by
      obtain rfl : k = 0 := by simpa using hk
      simpa using hclean
  simp only [execFabricRequest, State.accepts_of_bound hu, hword, hin, hbad, Bool.not_true, Bool.false_eq_true, if_false, List.flatMap_cons, List.flatMap_nil,
    List.append_nil]
/-- A peer has performed a row of a push: the row ends, counted (R248). -/
theorem State.answerRow_push {id row : Nat} {j : Job} {b : Block} {c : Chunk} {data : List Byte} {bad : List Nat} (hj : s.job? id = some j)
    (hb : s.block? j.blk = some b) (hc : j.chunks.find? (fun c => c.id == row) = some c) (hsent : c.sent = true) (hpush : j.kind = .push) :
    s.answerRow id row (.ack data bad) = s.endChunk b j c.id c.len true := by
  simp only [State.answerRow, hj, hb, hc, hsent, hpush, Option.some_or, Bool.not_true, Bool.false_and, Bool.false_eq_true, if_false, beq_self_eq_true, if_true]
theorem execFabricResponse_row {id row : Nat} (a : FabAnswer) (hc : s.commits.find? (fun c => c.id == id) = none)
    (hm : s.migrating.find? (fun m => m.id == id) = none) (hx : s.signals.find? (fun x => x.1 == id) = none) :
    execFabricResponse id row a s = .next (s.answerRow id row a) := by
  simp only [execFabricResponse, hc, hm, hx]
theorem execFabricResponse_signal {id row : Nat} (a : FabAnswer) (hc : s.commits.find? (fun c => c.id == id) = none)
    (hm : s.migrating.find? (fun m => m.id == id) = none) (hx : s.signals.find? (fun x => x.1 == id) = some (id, vf)) :
    execFabricResponse id row a s = .next (s.answerSignal id vf a) := by
  simp only [execFabricResponse, hc, hm, hx]
/-- A port fails while another is left: rows under way go on there (R350). -/
theorem execFabricPortFailure_othersLeft {port : Nat} (hleft : s.ports &&& ~~~BitVec.ofNat 18 (2 ^ port) ≠ 0) :
    execFabricPortFailure port s = .next { s with ports := s.ports &&& ~~~BitVec.ofNat 18 (2 ^ port) } := by
  have hne : (s.ports &&& ~~~BitVec.ofNat 18 (2 ^ port) != 0) = true := bne_iff_ne.2 hleft
  have hdown : s.portDown port = { s with ports := s.ports &&& ~~~BitVec.ofNat 18 (2 ^ port) } := if_pos hne
  rw [execFabricPortFailure, hdown]
  exact congrArg Host.Outcome.next (if_pos hne)

/-- Settles O60: each clause is the lemma of its step; the steps that only set what they name have no other effect. -/
theorem hostAndDeviceSteps : Obligations.HostAndDeviceSteps := by
  intro s
  refine ⟨?_, fun vf off bs => execHostBar2Write_stages, fun vf off n ps => execHostBar2Read_window,
    fun vf off n hvf hserved bar hbar => execHostBar2Read_unserved hvf hserved hbar, ⟨?_, ?_⟩, fun vf off n bs => execHostBar4Access_pf,
    fun p bs => State.hostMain_eq_locWrite, rfl, rfl, ?_, fun ns => rfl, ?_, ?_, ?_, fun failure => execSelfTestComplete_eq failure,
    execFullServiceEntry_enters, fun vf m hvf => ⟨execVfcluWrite_gives hvf, execVfcluWrite_refuses hvf⟩, fun vf => execVfctlEnWrite_enables,
    fun vf hvf => ⟨execVfctlEnWrite_halts hvf, execFunctionLevelReset_halts hvf⟩, fun vf => execZeroingComplete_ends, ?_, ?_, ?_, rfl,
    fun vf dev u a => execFabricRequest_read, ?_, ?_, fun port => rfl, fun port => execFabricPortFailure_othersLeft⟩
  -- BAR2 write
  · intro vf off bs ps hvf hserved hps hin hflight
    obtain ⟨t, ht, hsp⟩ := execHostBar2Write_writes hvf hserved hps hin hflight
    exact ⟨t, ht, fun a => by rw [hsp]; rfl⟩
  -- BAR0 of an interface, and of the physical function
  · intro vf hvf hserved v
    have reg : ∀ {off : Nat} {w : Word}, off % 4 = 0 → v.regWord off = w → _ := fun ho hw => execHostBar2Read_vfReg hvf hserved ho hw
    refine ⟨reg rfl rfl, reg rfl rfl, reg rfl rfl, reg rfl rfl, reg rfl rfl, reg rfl rfl, reg rfl (halfOf_low _), reg rfl (halfOf_high _), fun q hq =>
      ⟨reg (by omega) (Vf.regWord_queue hq (by decide)), reg (by omega) (Vf.regWord_queue hq (by decide))⟩⟩
  · intro vf hvf
    have reg : ∀ {off : Nat} {w : Word}, off % 4 = 0 → s.pfRegWord off = w → _ := fun ho hw => execHostBar2Read_pfReg hvf ho hw
    exact ⟨reg rfl rfl, reg rfl rfl, reg rfl rfl, reg rfl rfl, reg rfl rfl, reg rfl rfl⟩
  -- QCRD_WRITE
  · intro vf q val hserved
    refine ⟨s.writeQcrd vf q val, congrArg Host.Outcome.next (if_pos hserved), State.queue_setQueue ..⟩
  -- PPS_PULSE
  · intro n hruns hwritten
    show execPpsPulse s = _
    simp only [execPpsPulse, hruns, hwritten]
  -- FIRMWARE_LOAD
  · intro len hlevel habort
    exact ⟨s.loadFirmware len, rfl, State.loadFirmware_accepts hlevel habort, fun hbad => hlevel ▸ State.loadFirmware_refuses hbad⟩
  -- ATTEST
  · intro img himg
    show execAttest s = _
    simp only [execAttest, State.attestNow, himg]
  -- Registers of an interface, and HX_RAMP
  · intro val vf hserved
    have write : ∀ off, execRegisterWrite (some vf) off val s = .next (s.writeVfReg vf off val.toNat) := fun off => congrArg Host.Outcome.next (if_pos hserved)
    exact ⟨write 0x04, write 0x10, write 0x14, write 0x18⟩
  · intro val w
    exact ⟨fun hoff => congrArg Host.Outcome.next (State.setRamp_off hoff), fun hon hwas => congrArg Host.Outcome.next (State.setRamp_stays hon hwas),
      fun hon hwas => ⟨s.setRamp w, rfl, State.setRamp_on hon hwas⟩⟩
  -- POWER_WINDOW
  · intro watts
    rw [← sumOf_eq_sum]
    rfl
  -- FABRIC_RESPONSE to a row of a push, and to a remote signal
  · intro id row j b c bad hcommit hmig hsig hj hb hc hsent hpush
    exact (execFabricResponse_row _ hcommit hmig hsig).trans (congrArg Host.Outcome.next (State.answerRow_push hj hb hc hsent hpush))
  · intro id row vf hcommit hmig hsig t
    exact ⟨execFabricResponse_signal _ hcommit hmig hsig, execFabricResponse_signal _ hcommit hmig hsig⟩

end Sys2Proof.Machine
end

section
/-!
The bits of LOP3, BFX, BFI, BREV, POPC, CLZ and CTZ (R103, Table 7-2).
-/
namespace Sys2Proof.Machine

/-! ### A word that is built bit by bit -/

/-- The bits below `n` for which `p` holds are set one after the other. -/
theorem getLsbD_foldl_setBit (p : Nat → Bool) (n : Nat) {j : Nat} (hj : j < 32) :
    ((List.range n).foldl (fun (d : Word) i => if p i then d ||| (1 <<< i) else d) 0).getLsbD j = (decide (j < n) && p j) := by
  induction n with
  | zero => simp
  | succ n ih =>
    have hbit : (1 <<< n : Word).getLsbD j = decide (n = j) := by
      rw [BitVec.natCast_eq_ofNat, BitVec.getLsbD_ofNat, Nat.one_shiftLeft, Nat.testBit_two_pow, decide_eq_true hj, Bool.true_and]
    rw [List.range_succ, List.foldl_append, List.foldl_cons, List.foldl_nil, apply_ite (BitVec.getLsbD · j), BitVec.getLsbD_or, hbit, ih]
    obtain h | rfl | h := Nat.lt_trichotomy j n
    · simp [h, h.ne', Nat.lt_succ_of_lt h]
    · simp
    · simp [h.ne, h.not_gt, Nat.not_lt.2 (Nat.succ_le_of_lt h)]

theorem getLsbD_lop3Of (tt : BitVec 8) (a b c : Word) {i : Nat} (hi : i < 32) :
    (lop3Of tt a b c).getLsbD i = tt.getLsbD (4 * (a.getLsbD i).toNat + 2 * (b.getLsbD i).toNat + (c.getLsbD i).toNat) := by
  rw [lop3Of, getLsbD_foldl_setBit _ 32 hi, decide_eq_true hi, Bool.true_and]
  cases a.getLsbD i <;> cases b.getLsbD i <;> cases c.getLsbD i <;> rfl

theorem getLsbD_brevOf (a : Word) {i : Nat} (hi : i < 32) : (brevOf a).getLsbD i = a.getLsbD (31 - i) := by
  rw [brevOf, getLsbD_foldl_setBit _ 32 hi, decide_eq_true hi, Bool.true_and]

/-! ### Bit fields -/

theorem fieldLo_eq (b : Word) : fieldLo b = (b.extractLsb' 0 5).toNat := by
  rw [BitVec.extractLsb'_toNat]; rfl

theorem fieldLen_eq (b : Word) : fieldLen b = (b.extractLsb' 8 5).toNat + 1 - (b.extractLsb' 0 5).toNat := by
  rw [← fieldLo_eq, BitVec.extractLsb'_toNat, Nat.shiftRight_eq_div_pow]; rfl

/-- The low `n` bits of the mask are set. -/
theorem getLsbD_lowMask (n : Nat) {i : Nat} (hi : i < 32) : (BitVec.ofNat 32 (2 ^ n - 1)).getLsbD i = decide (i < n) := by
  rw [BitVec.getLsbD_ofNat, Nat.testBit_two_pow_sub_one, decide_eq_true hi, Bool.true_and]

/-- A word moved up and back down by the same count has its low `n` bits extended with the top one of them. -/
theorem getLsbD_signExtendLow (x : Word) {n i : Nat} (hn : 0 < n) (hn' : n ≤ 32) (hi : i < 32) :
    ((x <<< (32 - n)).sshiftRight (32 - n)).getLsbD i = if i < n then x.getLsbD i else x.getLsbD (n - 1) := by
  rw [BitVec.getLsbD_sshiftRight, BitVec.msb_eq_getLsbD_last, BitVec.getLsbD_shiftLeft, BitVec.getLsbD_shiftLeft]
  by_cases h : i < n
  · rw [if_pos (by omega), if_pos h, Nat.add_sub_cancel_left]
    simp [hi, show 32 - n + i < 32 by omega]
  · rw [if_neg (by omega), if_neg h, show 32 - 1 - (32 - n) = n - 1 by omega]
    simp [hi, show ¬ 31 < 32 - n by omega]

theorem bfxOf_empty (sg : Sign) (a : Word) {b : Word} (h : fieldLen b = 0) : bfxOf sg a b = 0 :=
  if_pos (beq_iff_eq.2 h)
theorem bfxOf_zeroExtend (a : Word) {b : Word} (h : fieldLen b ≠ 0) :
    bfxOf .u a b = (a >>> fieldLo b) &&& BitVec.ofNat 32 (2 ^ fieldLen b - 1) := if_neg (by rwa [beq_iff_eq])
theorem bfxOf_signExtend (a : Word) {b : Word} (h : fieldLen b ≠ 0) :
    bfxOf .s a b = ((a >>> fieldLo b) <<< (32 - fieldLen b)).sshiftRight (32 - fieldLen b) := if_neg (by rwa [beq_iff_eq])

theorem getLsbD_bfxOf (sg : Sign) (a b : Word) {i lo hi : Nat} (hlo : lo = (b.extractLsb' 0 5).toNat) (hhi : hi = (b.extractLsb' 8 5).toNat)
    (h32 : i < 32) : (bfxOf sg a b).getLsbD i =
      if hi < lo then false else if lo + i ≤ hi then a.getLsbD (lo + i) else sg == .s && a.getLsbD hi := by
  have hi32 : hi < 32 := hhi ▸ (b.extractLsb' 8 5).isLt
  have hlen : fieldLen b = hi + 1 - lo := by rw [fieldLen_eq, hhi, hlo]
  have hstart : fieldLo b = lo := by rw [fieldLo_eq, hlo]
  by_cases hempty : hi < lo
  · rw [if_pos hempty, bfxOf_empty sg a (by omega)]
    exact BitVec.getLsbD_zero
  · have hin : i < hi + 1 - lo ↔ lo + i ≤ hi := by omega
    rw [if_neg hempty]
    cases sg with
    | u =>
      rw [bfxOf_zeroExtend a (by omega), hlen, hstart, BitVec.getLsbD_and, BitVec.getLsbD_ushiftRight, getLsbD_lowMask _ h32]
      by_cases h : lo + i ≤ hi <;> simp [hin, h]
    | s =>
      rw [bfxOf_signExtend a (by omega), hlen, hstart, getLsbD_signExtendLow _ (by omega) (by omega) h32, BitVec.getLsbD_ushiftRight,
        BitVec.getLsbD_ushiftRight, if_congr hin rfl rfl, show lo + (hi + 1 - lo - 1) = hi by omega]
      rfl

theorem getLsbD_bfiOf (a b c : Word) {i lo hi : Nat} (hlo : lo = (b.extractLsb' 0 5).toNat) (hhi : hi = (b.extractLsb' 8 5).toNat)
    (h32 : i < 32) : (bfiOf a b c).getLsbD i = if lo ≤ i ∧ i ≤ hi then a.getLsbD (i - lo) else c.getLsbD i := by
  rw [bfiOf, fieldLen_eq, fieldLo_eq, ← hlo, ← hhi]
  have hmask : (BitVec.ofNat 32 (2 ^ (hi + 1 - lo) - 1) <<< lo).getLsbD i = decide (lo ≤ i ∧ i ≤ hi) := by
    rw [BitVec.getLsbD_shiftLeft, getLsbD_lowMask _ (by omega), decide_eq_true h32, Bool.true_and, ← decide_not, ← Bool.decide_and]
    exact decide_eq_decide.2 (by omega)
  rw [BitVec.getLsbD_or, BitVec.getLsbD_and, BitVec.getLsbD_and, BitVec.getLsbD_not, hmask, BitVec.getLsbD_shiftLeft, decide_eq_true h32]
  by_cases hin : lo ≤ i ∧ i ≤ hi
  · simp [hin, Nat.not_lt.2 hin.1]
  · simp [hin]

/-! ### Counts -/

theorem toNat_popcOf (a : Word) : (popcOf a).toNat = ((Finset.range 32).filter fun i => a.getLsbD i = true).card := by
  have hcard : ((Finset.range 32).filter fun i => a.getLsbD i = true).card = ((List.range 32).filter fun i => a.getLsbD i).length := by
    rw [← List.toFinset_range, ← List.toFinset_filter, List.toFinset_card_of_nodup (List.nodup_range.filter _)]
  have hle : ((List.range 32).filter fun i => a.getLsbD i).length ≤ 32 := by
    simpa only [List.length_range] using List.length_filter_le (fun i => a.getLsbD i) (List.range 32)
  rw [hcard, popcOf, BitVec.toNat_ofNat, Nat.mod_eq_of_lt (by omega)]

/-- The place of the first bit for which `p` holds, 32 where there is none, as CLZ and CTZ count it. -/
def firstPlace (p : Nat → Bool) : Word := BitVec.ofNat 32 (((List.range 32).find? p).getD 32)

theorem clzOf_eq (a : Word) : clzOf a = firstPlace fun i => a.getLsbD (31 - i) := rfl
theorem ctzOf_eq (a : Word) : ctzOf a = firstPlace fun i => a.getLsbD i := rfl

theorem firstPlace_of_none {p : Nat → Bool} (hp : ∀ i, p i = false) : firstPlace p = 32 := by
  have hnone : (List.range 32).find? p = none := List.find?_range_eq_none.2 fun i _ => by rw [hp i, Bool.not_false]
  rw [firstPlace, hnone]; rfl

/-- Where `p` holds somewhere, it holds at the place found and nowhere before it. -/
theorem firstPlace_spec {p : Nat → Bool} {k : Nat} (hk : k < 32) (hp : p k = true) :
    (firstPlace p).toNat < 32 ∧ p (firstPlace p).toNat = true ∧ ∀ i, i < (firstPlace p).toNat → p i = false := by
  cases hfind : (List.range 32).find? p with
  | none =>
    have hnot := List.find?_range_eq_none.1 hfind k hk
    rw [hp] at hnot
    exact absurd hnot (by decide)
  | some n =>
    obtain ⟨hn, hmem, hbefore⟩ := List.find?_range_eq_some.1 hfind
    have h32 : n < 32 := List.mem_range.1 hmem
    have hplace : (firstPlace p).toNat = n := by
      rw [firstPlace, hfind, Option.getD_some, BitVec.toNat_ofNat, Nat.mod_eq_of_lt (by omega)]
    rw [hplace]
    exact ⟨h32, hn, fun i hi => by simpa only [Bool.not_eq_true'] using hbefore i hi⟩

theorem exists_getLsbD_of_ne_zero {a : Word} (ha : a ≠ 0) : ∃ k, k < 32 ∧ a.getLsbD k = true := by
  by_contra hall
  refine ha (BitVec.eq_of_getLsbD_eq fun k hk => ?_)
  exact (Bool.eq_false_iff.2 fun hbit => hall ⟨k, hk, hbit⟩).trans BitVec.getLsbD_zero.symm

/-- Settles O15: a word built bit by bit, a mask of the field, and the first place at which a bit is 1. -/
theorem bitFunctionsByBits : Obligations.BitFunctionsByBits := by
  intro tt sg a b c
  refine ⟨fun i hi => ⟨getLsbD_lop3Of tt a b c hi, getLsbD_bfxOf sg a b rfl rfl hi, getLsbD_bfiOf a b c rfl rfl hi, getLsbD_brevOf a hi⟩,
    toNat_popcOf a, ?_, fun ha => ?_, fun ha => ?_⟩
  · rintro rfl
    exact ⟨firstPlace_of_none fun _ => BitVec.getLsbD_zero, firstPlace_of_none fun _ => BitVec.getLsbD_zero⟩
  · obtain ⟨k, hk, hbit⟩ := exists_getLsbD_of_ne_zero ha
    rw [clzOf_eq]
    exact firstPlace_spec (k := 31 - k) (by omega) (by rwa [show 31 - (31 - k) = k by omega])
  · obtain ⟨k, hk, hbit⟩ := exists_getLsbD_of_ne_zero ha
    rw [ctzOf_eq]
    exact firstPlace_spec hk hbit

end Sys2Proof.Machine
end

section
/-!
What the words of Table 7-2 and the compares, selects and LEA write; the memories after reset.
-/
namespace Sys2Proof.Machine

/-- LOP3 names its third source by an 8-bit field, a register below 256. -/
theorem rv_setWidth (w : Warp) (l : Nat) (r : BitVec 8) : w.rv l (r.setWidth 10).toNat = w.rv l r.toNat := by
  rw [BitVec.toNat_setWidth_of_le (by decide)]

/-- Settles O14: each word computes the bit function of its row on the registers of a lane. -/
theorem bitInstructionsWriteTheirFunction : Obligations.BitInstructionsWriteTheirFunction := by
  intro h sg d a b e b' c' tt s c t
  exact ⟨fun hi => exec_perLane (execLop3 h d a b' c' tt s) hi rfl rfl fun l => congrArg (lop3Of tt _ _) (rv_setWidth c.w l c').symm,
    fun hi => exec_perLane (execBfx h sg d a b s) hi rfl rfl fun _ => rfl,
    fun hi => exec_perLane (execBfi h d a b e s) hi rfl rfl fun _ => rfl,
    fun hi => exec_perLane (execBrev h d a s) hi rfl rfl fun _ => rfl,
    fun hi => exec_perLane (execPopc h d a s) hi rfl rfl fun _ => rfl,
    fun hi => exec_perLane (execClz h d a s) hi rfl rfl fun _ => rfl,
    fun hi => exec_perLane (execCtz h d a s) hi rfl rfl fun _ => rfl,
    fun hi => exec_perLane (execPrmt h d a b e s) hi rfl rfl fun _ => rfl⟩

/-- The 32-bit form of LEA writes one register. -/
theorem execLea_narrow (h : Hdr) (sh : BitVec 3) (d a : BitVec 10) (b : BSrc) (s : State) : execLea h false sh d a b s =
    perLane (.lea h false sh d a b) s d fun w l => w.rv l a.toNat + (bval w b l <<< sh.toNat) := if_neg Bool.false_ne_true
/-- The 64-bit form of LEA writes a pair. -/
theorem execLea_wide (h : Hdr) (sh : BitVec 3) (d a : BitVec 10) (b : BSrc) (s : State) : execLea h true sh d a b s =
    perLane64 (.lea h true sh d a b) s d fun w l => w.rv64 l a.toNat + ((bval w b l).setWidth 64 <<< sh.toNat) := if_pos rfl

/-- Settles O17: a compare orders its operands as integers; LEA has one shape for each width. -/
theorem comparesAndSelects : Obligations.ComparesAndSelects := by
  intro h cmp sg cb pd pc sh d a b imm s c t cmpOf comb
  refine ⟨fun hi => exec_perLaneP (execIsetp h cmp sg cb pd a b pc s) hi rfl rfl fun l => ?_,
    fun hi => exec_perLaneP (execIsetpi h cmp sg pd a imm s) hi rfl rfl fun l => intCmp_eq ..,
    fun hi => exec_perLane (execIsel h d a b pc s) hi rfl rfl fun _ => rfl,
    fun hi => exec_perLane (execLea h false sh d a b s) hi rfl (execLea_narrow ..) fun _ => rfl,
    fun hi => exec_perLane64 (execLea h true sh d a b s) hi rfl (execLea_wide ..) fun _ => rfl⟩
  rw [intCmp_eq, combine_eq]
  rfl

/-- Settles O9: each of the four memories is empty after reset. -/
theorem resetMemoriesCanonical : Obligations.ResetMemoriesCanonical := reset_memOk

end Sys2Proof.Machine
end
